-- ==== Sys2Proof/Word.lean ====
section
/-! DEFINITION. The word types of the machine and the plain data shapes that several files share
(spec 00 R2, R3, R9; 06 R222).
-/

namespace Sys2Proof

/-- One byte of memory (00 R3). -/
abbrev Byte := BitVec 8

/-- A 32-bit vector register of one lane, or an instruction word (01 R42, 06 R216). -/
abbrev Word := BitVec 32

/-- A 64-bit scalar register, register pair or latch entry (01 R44, R48). -/
abbrev DWord := BitVec 64

/-- A 48-bit virtual address, the width of every program counter (00 R1). -/
abbrev VAddr := BitVec 48

/-- One bit per lane of a gang (01 R14). -/
abbrev LaneMask := BitVec 32

/-- Sparse data by a number: pairs with strictly rising keys. An absent key stands for the value that
the reader of the map supplies. -/
abbrev Map (α : Type) := List (Nat × α)

/-- The scopes of 00 R9 with the codes of 06 R222, from the narrowest to the widest. -/
inductive Scope where
  | gang | team | clus | die | dev | sys
  deriving DecidableEq, Repr

/-- The code of a scope (06 R222). -/
def Scope.code : Scope → Nat
  | .gang => 0
  | .team => 1
  | .clus => 2
  | .die => 3
  | .dev => 4
  | .sys => 5

/-- A scope at least as wide as another (00 R9). -/
def Scope.covers (a b : Scope) : Bool := b.code ≤ a.code

/-- The address spaces an object or a window access names (06 R235). -/
inductive Space where
  | global | scratch | window
  deriving DecidableEq, Repr

/-- The order of an atomic (06 R234). -/
inductive Order where
  | relaxed | acq | rel
  deriving DecidableEq, Repr

/-- The owners of a scratchpad granule with the codes 0 to 3 of 03 R116. -/
inductive Owner where
  | threads | copyEngine | matrixUnit | sparseUnit
  deriving DecidableEq, Repr

/-- The rounding modes of 00 R5 with the codes of 06 R226. -/
inductive Rounding where
  | rne | rtz | rup | rdn
  deriving DecidableEq, Repr

end Sys2Proof
end

