-- ==== Sys2Proof/Config.lean ====
section
/-! DEFINITION. What one part or one board fixes and the spec leaves open, and the free values: every
constant here has no body, so nothing can be proved of its value. A counter in the state (State.tick)
gives a free value a fresh argument at every step.
-/

namespace Sys2Proof

/-- REV, the silicon revision (13 R436: reset "part"). -/
opaque Config.rev : BitVec 16

/-- MAC, from the board's flash (17 R519). -/
opaque Config.mac : BitVec 48

/-- The fused secret from which the identity key pair is derived (17 R537). -/
opaque Config.fusedSecret : Nat

/-- The secret number of a report's signature (17 R538). -/
opaque Config.signNonce : List Byte → Nat

/-- The digest of the signing key and the least SVN, fused in the part (17 R535). -/
opaque Config.fusedKeyDigest : BitVec 256

/-- See Config.fusedKeyDigest. -/
opaque Config.fusedSvn : BitVec 32

/-- The SVN, the body, the signing key and the signature of an image, whose layout the spec does not give
(17 R535). -/
opaque Config.imageSvn : List Byte → BitVec 32

/-- See Config.imageSvn. -/
opaque Config.imageBody : List Byte → List Byte

/-- See Config.imageSvn. -/
opaque Config.imageKey : List Byte → Nat × Nat

/-- See Config.imageSvn. -/
opaque Config.imageSignature : List Byte → Nat × Nat

/-- The bytes of a signing key that its digest covers (17 R535). -/
opaque Config.keyBytes : Nat × Nat → List Byte

/-- The images A and B of the board's flash (17 R535). -/
opaque Config.flashImage : Bool → List Byte

/-- The firmware version that mailbox OP 0x0002 returns (13 R442): 40 bytes of DATA. -/
opaque Config.firmwareVersion : Nat → Byte

/-- The reply data of die telemetry (13 R442), whose layout the spec does not give: a byte of DATA from
the step counter, the die, its corrected-error count and the byte's place. -/
opaque Config.telemetryByte : Nat → Nat → Nat → Nat → Byte

/-- The set of a frame in a die's remote-data cache: a fixed hash of the frame's address (03 R139). -/
opaque Config.remoteSetHash : Nat → Nat

/-- The L2 slice of its home die that holds a frame, and its set there: fixed hashes (03 R139, R543). -/
opaque Config.sliceHash : Nat → Nat

/-- See Config.sliceHash. -/
opaque Config.l2SetHash : Nat → Nat

/-- Whether a W-suppressed register holds the result (true) or its old value after the instruction, by
step and lane (01 R49). -/
opaque Config.suppressedKept : Nat → Nat → Bool

/-- WINBASE of connection 0 while there is no connection table (17 R521, R526). -/
opaque Config.openWindow : Nat

/-- A residue channel of a NaR element, by step and place (02 R98). -/
opaque Config.freeChannel : Nat → Nat → Nat

/-- Whether the array leaves the all-ones code in a ch1 that is zero (02 R94): of the element's place and
its integer alone, so that the channels are the same from run to run (R100). -/
opaque Config.zeroCode : Nat → Int → Bool

/-- The number of load instructions that an acquire of a promoted gang replays, by step (01 R58). -/
opaque Config.replays : Nat → Nat

/-- Whether an engine has translated the pages of an operation already at its issue, by step (14 R456). -/
opaque Config.translatesEarly : Nat → Bool

/-- Whether an operation that a deferred fault ends had written a byte, by step and place (09 R358). -/
opaque Config.hadWritten : Nat → Nat → Bool

/-- A 64-bit value that the spec leaves unstated, by step and place. -/
opaque Config.freeWord : Nat → Nat → BitVec 64

/-- A byte of an area whose contents the spec does not describe, by step and address (16 R504, R508). -/
opaque Config.freeByte : Nat → Nat → Byte

end Sys2Proof
end

