-- ==== Sys2Proof/Syntax.lean ====
section
/-! DEFINITION. The instructions, one constructor per row of spec/opcode_table.json: 223 instruction
words with their operand fields (06 R216 to R240), then 81 events of the engines, the queue unit, the
service cores, the link and the board, with the arguments that the outside party or the unit supplies.
-/

namespace Sys2Proof

/-- A vector register field as a source (01 R43). -/
inductive Src where
  | reg (n : Nat)    -- v0..v119
  | latch (n : Nat)  -- L0..L3
  | zero             -- field value 124
  | lane             -- field value 125, the lane index
  deriving DecidableEq, Repr

/-- A vector register field as a destination (01 R43). -/
inductive Dst where
  | reg (n : Nat)    -- v0..v119
  | none             -- field value 124: the result is discarded
  deriving DecidableEq, Repr

/-- The second source of a scalar instruction (06 R223). -/
inductive SOperand where
  | reg (n : Nat)
  | imm (n : Nat)
  deriving DecidableEq, Repr

/-- The type codes 0 to 7 of CVT (06 R232, 07 R282). -/
inductive NumType where
  | i32 | u32 | i64 | u64 | f32 | bf16 | f16 | narrow
  deriving DecidableEq, Repr

/-- The narrow integer types of CVT (06 R232). -/
inductive Narrow where
  | i8 | u8 | i16 | u16
  deriving DecidableEq, Repr

/-- The access sizes of plain loads (06 R221). -/
inductive LoadSize where
  | i8 | ui8 | i16 | ui16 | b32 | b64 | b128
  deriving DecidableEq, Repr

/-- The access sizes of plain stores (06 R221). -/
inductive StoreSize where
  | b8 | b16 | b32 | b64 | b128
  deriving DecidableEq, Repr

/-- The order class of a load: plain, or ordered (.acq) of 4 or 8 bytes at a scope (06 R221). -/
inductive LoadMode where
  | plain (size : LoadSize)
  | ordered (wide : Bool) (scope : Scope)
  deriving DecidableEq, Repr

/-- The order class of a store: plain, or ordered (.rel) of 4 or 8 bytes at a scope (06 R221). -/
inductive StoreMode where
  | plain (size : StoreSize)
  | ordered (wide : Bool) (scope : Scope)
  deriving DecidableEq, Repr

/-- The operations of the atomics (06 R234). -/
inductive AtomicFn where
  | add | min | max | and | or | xor | exch | cas
  deriving DecidableEq, Repr

/-- The data types of the atomics (06 R234). -/
inductive AtomicType where
  | i32 | i64 | f32 | bf16x2 | f16x2 | ui32 | ui64
  deriving DecidableEq, Repr

/-- The kinds of FENCE (08 R347). -/
inductive FenceKind where
  | acq | rel | ar
  deriving DecidableEq, Repr

/-- What GIVE hands over, and to whom (08 R348). -/
inductive GiveTarget where
  | granules (owner : Owner)
  | tile
  deriving DecidableEq, Repr

/-- The target types of ACVT (06 R236). -/
inductive AcvtTarget where
  | i32 | f32 | bf16 | rn12
  deriving DecidableEq, Repr

/-- What EMRET does with the emulated instruction (06 R239). -/
inductive EmretMode where
  | advance | write | reexecute
  deriving DecidableEq, Repr

/-- Format A with a vector destination and two sources. -/
structure RRR where
  d : Dst
  a : Src
  b : Src
  w : Bool
  g : Bool
  deriving DecidableEq, Repr

/-- Format A with a vector destination and one source. -/
structure RR where
  d : Dst
  a : Src
  w : Bool
  g : Bool
  deriving DecidableEq, Repr

/-- Format A with a predicate destination and two sources. -/
structure PRR where
  p : Nat
  a : Src
  b : Src
  g : Bool
  deriving DecidableEq, Repr

/-- Format A with a predicate destination and one source. -/
structure PR where
  p : Nat
  a : Src
  g : Bool
  deriving DecidableEq, Repr

/-- PSET: three predicates (07 R299). -/
structure PPP where
  d : Nat
  a : Nat
  b : Nat
  g : Bool
  deriving DecidableEq, Repr

/-- PMOV: a vector destination alone (07 R299). -/
structure RW where
  d : Dst
  w : Bool
  g : Bool
  deriving DecidableEq, Repr

/-- PMOV.tov: a vector destination and a predicate (07 R299). -/
structure RP where
  d : Dst
  p : Nat
  w : Bool
  g : Bool
  deriving DecidableEq, Repr

/-- MOVS: a vector destination and a scalar (07 R297). -/
structure RS where
  d : Dst
  s : Nat
  w : Bool
  g : Bool
  deriving DecidableEq, Repr

/-- MOVS.get: a scalar destination, a vector source and a vector lane selector (07 R297). -/
structure SRR where
  s : Nat
  a : Src
  b : Src
  g : Bool
  deriving DecidableEq, Repr

/-- SEL: two sources, no G bit (07 R298). -/
structure SelOp where
  d : Dst
  a : Src
  b : Src
  w : Bool
  deriving DecidableEq, Repr

/-- Format I: a destination, a source and the signed IMM9 (06 R220). -/
structure RRI where
  d : Dst
  a : Src
  imm : Int
  deriving DecidableEq, Repr

/-- MOVI: a destination and the signed IMM9 (07 R300). -/
structure RI where
  d : Dst
  imm : Int
  deriving DecidableEq, Repr

/-- CVT (06 R232). -/
structure CvtOp where
  target : NumType
  source : NumType
  d : Dst
  a : Src
  narrow : Narrow
  sat : Bool
  w : Bool
  g : Bool
  deriving DecidableEq, Repr

/-- A scalar destination, a scalar source and the second source y (07 R301). -/
structure SSS where
  d : Nat
  a : Nat
  y : SOperand
  deriving DecidableEq, Repr

/-- SMOV: a scalar destination and its one source (07 R301). -/
structure SMovOp where
  d : Nat
  y : SOperand
  deriving DecidableEq, Repr

/-- SLDG and SSTG: the data scalar, the address scalar and the offset in doublewords (06 R223). -/
structure SMemOp where
  d : Nat
  a : Nat
  x : Nat
  deriving DecidableEq, Repr

/-- LDG (06 R221, 08 R313). -/
structure LdgOp where
  mode : LoadMode
  d : Dst
  a : Src
  off : Nat
  nf : Bool
  deriving DecidableEq, Repr

/-- LDL. -/
structure LdlOp where
  size : LoadSize
  d : Dst
  a : Src
  off : Nat
  deriving DecidableEq, Repr

/-- LDS and LDW. -/
structure LdsOp where
  mode : LoadMode
  d : Dst
  a : Src
  off : Nat
  deriving DecidableEq, Repr

/-- STG, STS and STW: the data source v, the address source a. -/
structure StOp where
  mode : StoreMode
  v : Src
  a : Src
  off : Nat
  deriving DecidableEq, Repr

/-- STL. -/
structure StlOp where
  size : StoreSize
  v : Src
  a : Src
  off : Nat
  deriving DecidableEq, Repr

/-- ATOM: F1 is the data and the old value (08 R321). -/
structure AtomOp where
  fn : AtomicFn
  ty : AtomicType
  d : Dst
  a : Src
  scope : Scope
  order : Order
  deriving DecidableEq, Repr

/-- RED (08 R321). -/
structure RedOp where
  fn : AtomicFn
  ty : AtomicType
  v : Src
  a : Src
  scope : Scope
  order : Order
  deriving DecidableEq, Repr

/-- ATOMS (08 R321). -/
structure AtomsOp where
  fn : AtomicFn
  ty : AtomicType
  d : Dst
  a : Src
  scope : Scope
  order : Order
  window : Bool
  deriving DecidableEq, Repr

/-- REDS (08 R321). -/
structure RedsOp where
  fn : AtomicFn
  ty : AtomicType
  v : Src
  a : Src
  scope : Scope
  order : Order
  window : Bool
  deriving DecidableEq, Repr

/-- CFLUSH and CINV: length pair, base pair, scope (08 R329). -/
structure RangeOp where
  len : Src
  base : Src
  scope : Scope
  deriving DecidableEq, Repr

/-- CPREF: length pair, base pair (08 R331). -/
structure CprefOp where
  len : Src
  base : Src
  deriving DecidableEq, Repr

/-- A scalar d and the scalar a: SEAL, UNSEAL, TDEF, TDROP, PSRD, PSWR. -/
structure SS where
  d : Nat
  a : Nat
  deriving DecidableEq, Repr

/-- BSIG (count, object) and BWAIT (target, object) (08 R336). -/
structure BarOp where
  n : Src
  obj : Src
  scope : Scope
  ordered : Bool
  space : Space
  deriving DecidableEq, Repr

/-- BRD: destination pair, object (08 R336). -/
structure BrdOp where
  d : Dst
  obj : Src
  scope : Scope
  ordered : Bool
  space : Space
  deriving DecidableEq, Repr

/-- BIND (08 R343). -/
structure BindOp where
  s : Nat
  index : Nat
  scope : Scope
  space : Space
  deriving DecidableEq, Repr

/-- UNBIND (08 R343). -/
structure UnbindOp where
  index : Nat
  deriving DecidableEq, Repr

/-- FENCE (08 R347). -/
structure FenceOp where
  scope : Scope
  kind : FenceKind
  deriving DecidableEq, Repr

/-- TAKE and OWNQ (08 R348). -/
structure TakeOp where
  d : Dst
  a : Src
  tile : Bool
  deriving DecidableEq, Repr

/-- GIVE (08 R348). -/
structure GiveOp where
  a : Src
  target : GiveTarget
  deriving DecidableEq, Repr

/-- The copies: descriptor scalars and signal scope (06 R236). -/
structure CpyOp where
  s : Nat
  scope : Scope
  deriving DecidableEq, Repr

/-- The MMA forms: tile, A-offset scalar, cream slot (06 R236). -/
structure MmaOp where
  tile : Nat
  a : Nat
  slot : Nat
  deriving DecidableEq, Repr

/-- MLEASE: the count 1 to 64. -/
structure MleaseOp where
  count : Nat
  deriving DecidableEq, Repr

/-- MACQ (06 R236). -/
structure MacqOp where
  d : Nat
  tile : Nat
  item : Nat
  deriving DecidableEq, Repr

/-- ACVT (06 R236). -/
structure AcvtOp where
  tile : Nat
  s : Nat
  target : AcvtTarget
  deriving DecidableEq, Repr

/-- ALD: destination pair, element index, tile. -/
structure AldOp where
  d : Dst
  i : Src
  tile : Nat
  deriving DecidableEq, Repr

/-- AST: source pair, element index, tile. -/
structure AstOp where
  v : Src
  i : Src
  tile : Nat
  deriving DecidableEq, Repr

/-- TQRY: destination scalar, handle scalar, doubleword. -/
structure TqryOp where
  d : Nat
  a : Nat
  k : Nat
  deriving DecidableEq, Repr

/-- TGATH: destination, element index, handle scalar. -/
structure TgathOp where
  d : Dst
  i : Src
  h : Nat
  deriving DecidableEq, Repr

/-- SPLD, SPNEXT, SPLEAF: destination, coordinate or cursor source, handle scalar. -/
structure SpldOp where
  d : Dst
  c : Src
  h : Nat
  deriving DecidableEq, Repr

/-- SPST: value source, coordinate source, handle scalar. -/
structure SpstOp where
  v : Src
  c : Src
  h : Nat
  deriving DecidableEq, Repr

/-- SPDENSE and SPIMPORT: descriptor scalars, handle scalar. -/
structure SpEngineOp where
  s : Nat
  h : Nat
  deriving DecidableEq, Repr

/-- ENQ: status destination, first data register, queue scalar. -/
structure EnqOp where
  d : Dst
  v : Src
  q : Nat
  deriving DecidableEq, Repr

/-- DEQ: first destination register, queue scalar. -/
structure DeqOp where
  d : Dst
  q : Nat
  deriving DecidableEq, Repr

/-- QSTAT: destination scalar, queue scalar. -/
structure QstatOp where
  d : Nat
  q : Nat
  deriving DecidableEq, Repr

/-- PREQ: address pair. -/
structure PreqOp where
  a : Src
  deriving DecidableEq, Repr

/-- BR: displacement in words (06 R224). -/
structure BrOp where
  disp : Int
  deriving DecidableEq, Repr

/-- BRP: predicate and displacement. -/
structure BrpOp where
  p : Nat
  disp : Int
  deriving DecidableEq, Repr

/-- CALL: the link pair v(2k+1):v(2k) and the displacement. -/
structure CallOp where
  k : Nat
  disp : Int
  deriving DecidableEq, Repr

/-- RET and JMPI: the pair that holds the target. -/
structure JumpOp where
  v : Src
  deriving DecidableEq, Repr

/-- REGANG: the token. -/
structure RegangOp where
  token : Nat
  deriving DecidableEq, Repr

/-- TRAP: the code. -/
structure TrapOp where
  code : Nat
  deriving DecidableEq, Repr

/-- EMRET: what it does, and whether it honours W. -/
structure EmretOp where
  mode : EmretMode
  honourW : Bool
  deriving DecidableEq, Repr

/-- SRD: destination and special register number. -/
structure SrdOp where
  d : Dst
  n : Nat
  deriving DecidableEq, Repr

/-- SWR: source and special register number. -/
structure SwrOp where
  v : Src
  n : Nat
  deriving DecidableEq, Repr

/-- INVPG: range scalars and scope. -/
structure InvpgOp where
  a : Nat
  scope : Scope
  deriving DecidableEq, Repr

/-- TRAMP: the identifier. -/
structure TrampOp where
  id : Nat
  deriving DecidableEq, Repr

/-- The parties that write privileged registers (13 R430). -/
inductive Party where
  | host
  | service
  | system (part : Nat)   -- a system context of the partition whose lowest cluster is part
  deriving DecidableEq, Repr

/-- The units whose operations take a deferred fault (09 R358). -/
inductive EngineUnit where
  | copy | matrix | sparse
  deriving DecidableEq, Repr

/-- The parts that a reset names (16 R511). -/
inductive PartKind where
  | core | cluster | die
  deriving DecidableEq, Repr

/-- An endpoint of the transport: its IP address and UDP port (17 R521, R522). -/
structure Endpoint where
  v4 : Bool
  addr : Nat
  port : Nat
  deriving DecidableEq, Repr

/-- A received UDP datagram with its 32-byte transport header and payload (17 R518, R520). -/
structure Datagram where
  src : Endpoint
  toV4 : Bool
  toAddr : Nat
  toPort : Nat
  sumsOk : Bool
  ver : Nat
  status : Nat
  conn : Nat
  psn : Nat
  ackPsn : Nat
  sack : Nat
  len : Nat
  addr : Nat
  payload : List Byte
  deriving DecidableEq, Repr

/-- A received ARP request (17 R518). -/
structure ArpRequest where
  senderMac : Nat
  senderIp : Nat
  targetIp : Nat
  deriving DecidableEq, Repr

/-- A received IPv6 neighbour solicitation (17 R518). -/
structure Solicitation where
  senderMac : Nat
  senderIp : Nat
  targetIp : Nat
  deriving DecidableEq, Repr

/-- A received ICMP or ICMPv6 echo request (17 R518). -/
structure EchoRequest where
  v4 : Bool
  senderIp : Nat
  targetIp : Nat
  ident : Nat
  seq : Nat
  payload : List Byte
  deriving DecidableEq, Repr

/-- The instructions and events of spec/opcode_table.json: one constructor per row. -/
inductive Instr where
  -- instruction words
  | iadd (o : RRR)
  | isub (o : RRR)
  | imul (o : RRR)
  | imulh (o : RRR)
  | imad (o : RRR)
  | imin (o : RRR)
  | imax (o : RRR)
  | iabs (o : RR)
  | iaddSat (o : RRR)
  | isubSat (o : RRR)
  | imulhU (o : RRR)
  | iminU (o : RRR)
  | imaxU (o : RRR)
  | ineg (o : RR)
  | idiv (o : RRR)
  | irem (o : RRR)
  | iadd64 (o : RRR)
  | isub64 (o : RRR)
  | imul64 (o : RRR)
  | imad64 (o : RRR)
  | imin64 (o : RRR)
  | imax64 (o : RRR)
  | idivU (o : RRR)
  | iremU (o : RRR)
  | and (o : RRR)
  | or (o : RRR)
  | xor (o : RRR)
  | shl (o : RRR)
  | shr (o : RRR)
  | sar (o : RRR)
  | rot (o : RRR)
  | ishrr (o : RRR)
  | bfx (o : RRR)
  | bfxU (o : RRR)
  | bfi (o : RRR)
  | clz (o : RR)
  | popc (o : RR)
  | brev (o : RR)
  | lea (o : RRR)
  | iaddImm (o : RRI)
  | imulImm (o : RRI)
  | andImm (o : RRI)
  | orImm (o : RRI)
  | xorImm (o : RRI)
  | shlImm (o : RRI)
  | shrImm (o : RRI)
  | sarImm (o : RRI)
  | isetEq (o : PRR)
  | isetNe (o : PRR)
  | isetLt (o : PRR)
  | isetLe (o : PRR)
  | isetLtU (o : PRR)
  | isetLeU (o : PRR)
  | isetEq64 (o : PRR)
  | isetLt64 (o : PRR)
  | faddF32 (o : RRR)
  | fsubF32 (o : RRR)
  | fmulF32 (o : RRR)
  | ffmaF32 (o : RRR)
  | fdivF32 (o : RRR)
  | fminF32 (o : RRR)
  | fmaxF32 (o : RRR)
  | fclassF32 (o : RR)
  | frcpF32 (o : RR)
  | frsqF32 (o : RR)
  | fsqrtF32 (o : RR)
  | fexp2F32 (o : RR)
  | flog2F32 (o : RR)
  | faddBf16x2 (o : RRR)
  | fsubBf16x2 (o : RRR)
  | fmulBf16x2 (o : RRR)
  | ffmaBf16x2 (o : RRR)
  | fminBf16x2 (o : RRR)
  | fmaxBf16x2 (o : RRR)
  | faddF16x2 (o : RRR)
  | fsubF16x2 (o : RRR)
  | fmulF16x2 (o : RRR)
  | ffmaF16x2 (o : RRR)
  | fminF16x2 (o : RRR)
  | fmaxF16x2 (o : RRR)
  | fsetEq (o : PRR)
  | fsetNe (o : PRR)
  | fsetLt (o : PRR)
  | fsetLe (o : PRR)
  | fsetGt (o : PRR)
  | fsetGe (o : PRR)
  | fsetUn (o : PRR)
  | fsetOrd (o : PRR)
  | cvt (o : CvtOp)
  | quantRn8F32 (o : RRR)
  | quantRn8Bf16 (o : RRR)
  | quantRn12F32 (o : RRR)
  | quantRn12Bf16 (o : RRR)
  | dquantRn8 (o : RRR)
  | dquantRn12 (o : RRR)
  | trchk (o : RRR)
  | shflIdx (o : RRR)
  | shflUp (o : RRR)
  | shflDown (o : RRR)
  | shflXor (o : RRR)
  | matchLanes (o : RR)
  | voteBallot (o : RR)
  | ppfx (o : RRR)
  | isect (o : RRR)
  | voteAny (o : PR)
  | voteAll (o : PR)
  | lpfxAddI32 (o : RR)
  | lpfxAddF32 (o : RR)
  | lredAddI32 (o : RR)
  | lredAddF32 (o : RR)
  | lredMinF32 (o : RR)
  | lredMaxF32 (o : RR)
  | lredMulF32 (o : RR)
  | lredMinI32 (o : RR)
  | lredMaxI32 (o : RR)
  | lredAnd (o : RR)
  | lredOr (o : RR)
  | lredXor (o : RR)
  | mov (o : RR)
  | sel (o : SelOp)
  | movs (o : RS)
  | movsGet (o : SRR)
  | psetAnd (o : PPP)
  | psetOr (o : PPP)
  | psetXor (o : PPP)
  | psetAndn (o : PPP)
  | pmov (o : RW)
  | pmovTov (o : RP)
  | pmovFromv (o : PR)
  | movi (o : RI)
  | sadd (o : SSS)
  | ssub (o : SSS)
  | smul (o : SSS)
  | sand (o : SSS)
  | sor (o : SSS)
  | sxor (o : SSS)
  | sshl (o : SSS)
  | sshr (o : SSS)
  | ssetEq (o : SSS)
  | ssetNe (o : SSS)
  | ssetLt (o : SSS)
  | ssetLe (o : SSS)
  | ssetLtU (o : SSS)
  | ssetLeU (o : SSS)
  | smov (o : SMovOp)
  | sldg (o : SMemOp)
  | sstg (o : SMemOp)
  | ldg (o : LdgOp)
  | ldl (o : LdlOp)
  | lds (o : LdsOp)
  | ldw (o : LdsOp)
  | stg (o : StOp)
  | stl (o : StlOp)
  | sts (o : StOp)
  | stw (o : StOp)
  | atom (o : AtomOp)
  | red (o : RedOp)
  | atoms (o : AtomsOp)
  | reds (o : RedsOp)
  | cflush (o : RangeOp)
  | cinv (o : RangeOp)
  | cpref (o : CprefOp)
  | seal (o : SS)
  | unseal (o : SS)
  | bsig (o : BarOp)
  | bwait (o : BarOp)
  | brd (o : BrdOp)
  | bind (o : BindOp)
  | unbind (o : UnbindOp)
  | fence (o : FenceOp)
  | take (o : TakeOp)
  | give (o : GiveOp)
  | ownq (o : TakeOp)
  | cpy (o : CpyOp)
  | cpys (o : CpyOp)
  | cpym (o : CpyOp)
  | cpyw (o : CpyOp)
  | cpyb (o : CpyOp)
  | mmaA33 (o : MmaOp)
  | mmaA48 (o : MmaOp)
  | mmazA33 (o : MmaOp)
  | mmazA48 (o : MmaOp)
  | mlease (o : MleaseOp)
  | macq (o : MacqOp)
  | acvt (o : AcvtOp)
  | ald (o : AldOp)
  | ast (o : AstOp)
  | tdef (o : SS)
  | tdrop (o : SS)
  | tqry (o : TqryOp)
  | tgathI32 (o : TgathOp)
  | tgathF32 (o : TgathOp)
  | spld (o : SpldOp)
  | spst (o : SpstOp)
  | spnext (o : SpldOp)
  | spleaf (o : SpldOp)
  | spdense (o : SpEngineOp)
  | spimport (o : SpEngineOp)
  | enq (o : EnqOp)
  | deq (o : DeqOp)
  | qstat (o : QstatOp)
  | preq (o : PreqOp)
  | br (o : BrOp)
  | brpAny (o : BrpOp)
  | brpAll (o : BrpOp)
  | brpLane (o : BrpOp)
  | call (o : CallOp)
  | ret (o : JumpOp)
  | jmpi (o : JumpOp)
  | regang (o : RegangOp)
  | trap (o : TrapOp)
  | emret (o : EmretOp)
  | srd (o : SrdOp)
  | swr (o : SwrOp)
  | psrd (o : SS)
  | pswr (o : SS)
  | invpg (o : InvpgOp)
  | tramp (o : TrampOp)
  -- events that the device makes, in the default order of log entry 1
  | deferredFault (core : Nat) (unit : EngineUnit) (index : Nat)
  | copyComplete (core index : Nat)
  | mmaExecute (core : Nat)
  | acvtExecute (core : Nat)
  | spdenseComplete (core index : Nat)
  | spimportComplete (core index : Nat)
  | bwaitWake (core slot : Nat)
  | wdog (core slot : Nat)
  | matrixLeaseGrant (core : Nat)
  | leaseIdleEnd (core : Nat)
  | promotion (core slot : Nat)
  | promotionTimeout (core slot : Nat)
  | launchComplete (part : Nat)
  | dispatchDecision (die : Nat)
  | teamPlacement (core : Nat)
  | wideTeamPlacement (part : Nat)
  | coresidentPlacement (part : Nat)
  | lightFault (core slot : Nat)
  | fetchFill (core : Nat)
  | stopdlExpire (part : Nat)
  | mailboxTake (die : Nat)
  | wltRetransmitTimeout (conn : Nat)
  | submit (part : Nat)
  | nop (part : Nat)
  | unknownRingOp (part : Nat)
  | stretchEnd (cluster : Nat)
  -- events from outside the device, and those that the default order leaves out
  | prefetchRequest (core : Nat)
  | nresRetry (core slot : Nat)
  | partmapWrite (val : DWord)
  | qbanksWrite (part : Nat) (val : DWord)
  | stop (who : Party) (part : Nat)
  | frz (who : Party) (part : Nat)
  | partitionResume (who : Party) (part : Nat)
  | contextCreate (who : Party) (part ctx : Nat)
  | contextFree (who : Party) (part ctx : Nat)
  | shootdown (who : Party) (part : Nat) (val : DWord)
  | shootdownPurge (who : Party) (part : Nat) (val : DWord)
  | resume (who : Party) (part ctx : Nat)
  | resumeEnd (who : Party) (part ctx : Nat)
  | queueCreate (part q : Nat)
  | queueDestroy (part q : Nat)
  | kill (who : Party) (part ctx : Nat)
  | exchange (who : Party) (part : Nat) (val : DWord)
  | spill (who : Party) (part : Nat) (val : DWord)
  | fill (who : Party) (part : Nat) (val : DWord)
  | resetCore (target : Nat)
  | resetCluster (target : Nat)
  | resetDie (target : Nat)
  | uncorrectableStateError (kind : PartKind) (target : Nat)
  | unresponsiveTimeout (kind : PartKind) (target : Nat)
  | retirePage (die : Nat)
  | readFirmwareVersion (die : Nat)
  | readDieTelemetry (die : Nat)
  | mailboxUnknownOp (die : Nat)
  | connectionOpen (conn : Nat)
  | connectionClose (conn : Nat)
  | wltWrite (m : Datagram)
  | wltRead (m : Datagram)
  | wltReadresp (m : Datagram)
  | wltAck (m : Datagram)
  | wltSendKick (m : Datagram)
  | arpRequest (m : ArpRequest)
  | neighbourSolicitation (m : Solicitation)
  | icmpEchoRequest (m : EchoRequest)
  | supplySag (cluster : Nat)
  | privilegedRegisterWrite (who : Party) (addr val : DWord)
  | smbusCommandNotListed (command : Nat)
  -- instructions and events without operands
  | mrel
  | exit
  | yield
  | ppt
  | tret
  | undefinedWord
  | dispatchHoldTimeout
  | energyWindowStart
  | resetComplete
  | ringRecheck
  | attestationGo
  | recoveryGo
  | powerOn
  | mainPowerOff
  | smbusReadPhase
  | smbusReadPower
  | smbusReadTemperature
  | smbusReadEnergy
  | linkUp
  deriving DecidableEq, Repr

end Sys2Proof
end

