-- ==== Sys2Proof/WellFormed.lean ====
section
/-! DEFINITION. Which instruction terms the encoding of spec/06 admits: register fields (01 R43,
06 R218), predicate and scalar fields (07 R254), reserved values (06 R221 to R240, 07 R283, 08 R313,
R321, R348). The decoder refuses every term for which Instr.wf is false.
-/

namespace Sys2Proof

/-- A 32-bit source (01 R43). -/
def Src.ok : Src → Bool
  | .reg n => n < 120
  | .latch n => n < 4
  | .zero => true
  | .lane => true

/-- A pair source: even register, latch or zero (06 R218). -/
def Src.pairOk : Src → Bool
  | .reg n => n < 120 && n % 2 == 0
  | .latch n => n < 4
  | .zero => true
  | .lane => false

/-- A quad source: a register that is a multiple of 4, a latch or zero (06 R218, 08 R309). -/
def Src.quadOk : Src → Bool
  | .reg n => n < 120 && n % 4 == 0
  | .latch n => n < 4
  | .zero => true
  | .lane => false

/-- A 32-bit destination (01 R43). -/
def Dst.ok : Dst → Bool
  | .reg n => n < 120
  | .none => true

/-- A pair destination. -/
def Dst.pairOk : Dst → Bool
  | .reg n => n < 120 && n % 2 == 0
  | .none => true

/-- A quad destination. -/
def Dst.quadOk : Dst → Bool
  | .reg n => n < 120 && n % 4 == 0
  | .none => true

/-- A source of a given width in registers: 1, 2 or 4. -/
def Src.okAt (width : Nat) (x : Src) : Bool :=
  if width = 4 then x.quadOk else if width = 2 then x.pairOk else x.ok

/-- A destination of a given width in registers: 1, 2 or 4. -/
def Dst.okAt (width : Nat) (x : Dst) : Bool :=
  if width = 4 then x.quadOk else if width = 2 then x.pairOk else x.ok

/-- The widths in registers of D, A and B of a format-A instruction (07 R269, R289). -/
def RRR.wf (dw aw bw : Nat) (o : RRR) : Bool := o.d.okAt dw && o.a.okAt aw && o.b.okAt bw

def RR.wf (o : RR) : Bool := o.d.ok && o.a.ok

def PRR.wf (sw : Nat) (o : PRR) : Bool := o.p < 8 && o.a.okAt sw && o.b.okAt sw

def PR.wf (o : PR) : Bool := o.p < 8 && o.a.ok

def PPP.wf (o : PPP) : Bool := o.d < 8 && o.a < 8 && o.b < 8

def RW.wf (o : RW) : Bool := o.d.ok

def RP.wf (o : RP) : Bool := o.d.ok && o.p < 8

def RS.wf (o : RS) : Bool := o.d.ok && o.s < 64

def SRR.wf (o : SRR) : Bool := o.s < 64 && o.a.ok && o.b.ok

def SelOp.wf (o : SelOp) : Bool := o.d.ok && o.a.ok && o.b.ok

/-- IMM9 lies in -256 to 255 (06 R220). -/
def imm9Ok (i : Int) : Bool := -256 ≤ i && i ≤ 255

def RRI.wf (o : RRI) : Bool := o.d.ok && o.a.ok && imm9Ok o.imm

/-- A shift immediate lies in 0 to 31 (07 R274). -/
def RRI.shiftWf (o : RRI) : Bool := o.d.ok && o.a.ok && 0 ≤ o.imm && o.imm ≤ 31

def RI.wf (o : RI) : Bool := o.d.ok && imm9Ok o.imm

/-- The registers a CVT type takes (07 R282). -/
def NumType.width : NumType → Nat
  | .i64 => 2
  | .u64 => 2
  | _ => 1

/-- A type of CVT that is an integer type. -/
def NumType.isInt : NumType → Bool
  | .f32 => false
  | .bf16 => false
  | .f16 => false
  | _ => true

/-- 07 R283. -/
def CvtOp.wf (o : CvtOp) : Bool :=
  o.d.okAt o.target.width && o.a.okAt o.source.width &&
  (o.target != o.source || o.target == .narrow) &&
  (!o.sat || o.target.isInt) &&
  (o.target == .narrow || o.source == .narrow || o.narrow == .i8)

/-- A scalar register or an immediate of 0 to 63 (06 R223). -/
def SOperand.ok : SOperand → Bool
  | .reg n => n < 64
  | .imm n => n < 64

def SSS.wf (o : SSS) : Bool := o.d < 64 && o.a < 64 && o.y.ok

def SMovOp.wf (o : SMovOp) : Bool := o.d < 64 && o.y.ok

def SMemOp.wf (o : SMemOp) : Bool := o.d < 64 && o.a < 64 && o.x < 32

/-- The registers that a load of a size writes. -/
def LoadSize.width : LoadSize → Nat
  | .b64 => 2
  | .b128 => 4
  | _ => 1

/-- The registers that a store of a size reads. -/
def StoreSize.width : StoreSize → Nat
  | .b64 => 2
  | .b128 => 4
  | _ => 1

def LoadMode.width : LoadMode → Nat
  | .plain s => s.width
  | .ordered wide _ => if wide then 2 else 1

def StoreMode.width : StoreMode → Nat
  | .plain s => s.width
  | .ordered wide _ => if wide then 2 else 1

/-- Whether a load is plain. -/
def LoadMode.isPlain : LoadMode → Bool
  | .plain _ => true
  | .ordered _ _ => false

/-- 08 R313: NF only with a plain LDG; a global address is a pair. -/
def LdgOp.wf (o : LdgOp) : Bool :=
  o.d.okAt o.mode.width && o.a.pairOk && o.off < 64 && (!o.nf || o.mode.isPlain)

def LdlOp.wf (o : LdlOp) : Bool := o.d.okAt o.size.width && o.a.ok && o.off < 64

def LdsOp.wf (o : LdsOp) : Bool := o.d.okAt o.mode.width && o.a.ok && o.off < 64

/-- A store; aw is 2 for a global address and 1 for an offset. -/
def StOp.wf (aw : Nat) (o : StOp) : Bool :=
  o.v.okAt o.mode.width && o.a.okAt aw && o.off < 64

def StlOp.wf (o : StlOp) : Bool := o.v.okAt o.size.width && o.a.ok && o.off < 64

/-- Whether a type is of 8 bytes. -/
def AtomicType.wide : AtomicType → Bool
  | .i64 => true
  | .ui64 => true
  | _ => false

/-- The valid pairs of operation and type (06 R234). -/
def atomicPairOk (fn : AtomicFn) (ty : AtomicType) : Bool :=
  match fn with
  | .add => ty == .i32 || ty == .i64 || ty == .f32 || ty == .bf16x2 || ty == .f16x2
  | .min | .max => ty == .i32 || ty == .i64 || ty == .ui32 || ty == .ui64 || ty == .f32
  | .and | .or | .xor => ty == .i32 || ty == .i64
  | .exch | .cas => ty == .i32 || ty == .i64 || ty == .f32

/-- The registers F1 names (08 R321). -/
def atomicWidth (fn : AtomicFn) (ty : AtomicType) : Nat :=
  match fn with
  | .cas => if ty.wide then 4 else 2
  | _ => if ty.wide then 2 else 1

def AtomOp.wf (o : AtomOp) : Bool :=
  atomicPairOk o.fn o.ty && o.d.okAt (atomicWidth o.fn o.ty) && o.a.pairOk

/-- RED takes neither exch nor cas nor .acq (06 R234). -/
def RedOp.wf (o : RedOp) : Bool :=
  atomicPairOk o.fn o.ty && o.v.okAt (atomicWidth o.fn o.ty) && o.a.pairOk &&
  o.fn != .exch && o.fn != .cas && o.order != .acq

/-- The scopes that ATOMS and REDS encode (06 R234). -/
def Scope.bankOk : Scope → Bool
  | .gang | .team | .clus => true
  | _ => false

def AtomsOp.wf (o : AtomsOp) : Bool :=
  atomicPairOk o.fn o.ty && o.d.okAt (atomicWidth o.fn o.ty) && o.a.ok && o.scope.bankOk

def RedsOp.wf (o : RedsOp) : Bool :=
  atomicPairOk o.fn o.ty && o.v.okAt (atomicWidth o.fn o.ty) && o.a.ok && o.scope.bankOk &&
  o.fn != .exch && o.fn != .cas && o.order != .acq

def RangeOp.wf (o : RangeOp) : Bool := o.len.pairOk && o.base.pairOk

def CprefOp.wf (o : CprefOp) : Bool := o.len.pairOk && o.base.pairOk

/-- A scalar d and a run of scalars from a (06 R218). -/
def SS.wf (run : Nat) (o : SS) : Bool := o.d < 64 && o.a + run ≤ 64 && o.a < 64

/-- The object of a barrier instruction: a pair when global (08 R336). -/
def objOk (sp : Space) (x : Src) : Bool :=
  match sp with
  | .global => x.pairOk
  | _ => x.ok

def BarOp.wf (o : BarOp) : Bool := o.n.pairOk && objOk o.space o.obj

def BrdOp.wf (o : BrdOp) : Bool := o.d.pairOk && objOk o.space o.obj

/-- 08 R343. -/
def BindOp.wf (o : BindOp) : Bool := o.s ≤ 61 && o.index < 64

def UnbindOp.wf (o : UnbindOp) : Bool := o.index < 64

def TakeOp.wf (o : TakeOp) : Bool := o.d.ok && o.a.ok

/-- 08 R348: owner 0 is undefined for granules. -/
def GiveOp.wf (o : GiveOp) : Bool := o.a.ok && o.target != .granules .threads

/-- 09 R360: six descriptor scalars. -/
def CpyOp.wf (o : CpyOp) : Bool := o.s ≤ 58

def MmaOp.wf (o : MmaOp) : Bool := o.tile < 4 && o.a < 64 && o.slot < 32

def MleaseOp.wf (o : MleaseOp) : Bool := 1 ≤ o.count && o.count ≤ 64

/-- 09 R375: items 3 to 7 are undefined. -/
def MacqOp.wf (o : MacqOp) : Bool := o.d < 64 && o.tile < 4 && o.item ≤ 2

def AcvtOp.wf (o : AcvtOp) : Bool := o.tile < 4 && o.s < 64

def AldOp.wf (o : AldOp) : Bool := o.d.pairOk && o.i.ok && o.tile < 4

def AstOp.wf (o : AstOp) : Bool := o.v.pairOk && o.i.ok && o.tile < 4

def TqryOp.wf (o : TqryOp) : Bool := o.d < 64 && o.a < 64 && o.k < 8

def TgathOp.wf (o : TgathOp) : Bool := o.d.ok && o.i.ok && o.h < 64

/-- Whether a source is a plain vector register (09 R383). -/
def Src.isReg : Src → Bool
  | .reg _ => true
  | _ => false

/-- SPLD and SPLEAF: the first coordinate is a vector register; the width of F1 is found at execution
(09 R383). -/
def SpldOp.wf (o : SpldOp) : Bool := o.d.ok && o.c.ok && o.c.isReg && o.h < 64

/-- SPNEXT: the cursor is a pair of registers (09 R383). -/
def SpldOp.nextWf (o : SpldOp) : Bool := o.d.ok && o.c.pairOk && o.c.isReg && o.h < 64

def SpstOp.wf (o : SpstOp) : Bool := o.v.ok && o.c.ok && o.c.isReg && o.h < 64

/-- Six descriptor scalars (09 R385). -/
def SpEngineOp.wf (o : SpEngineOp) : Bool := o.s ≤ 58 && o.h < 64

/-- 09 R386: the first of three data registers is 0 to 117. -/
def EnqOp.wf (o : EnqOp) : Bool :=
  o.d.ok && o.q < 64 &&
  match o.v with
  | .reg n => n ≤ 117
  | _ => false

def DeqOp.wf (o : DeqOp) : Bool := o.d.quadOk && o.q < 64

def QstatOp.wf (o : QstatOp) : Bool := o.d < 64 && o.q < 64

def PreqOp.wf (o : PreqOp) : Bool := o.a.pairOk

/-- DISP20 is a signed 20-bit value (06 R224). -/
def dispOk (i : Int) : Bool := -524288 ≤ i && i ≤ 524287

def BrOp.wf (o : BrOp) : Bool := dispOk o.disp

def BrpOp.wf (o : BrpOp) : Bool := o.p < 8 && dispOk o.disp

def CallOp.wf (o : CallOp) : Bool := o.k < 8 && dispOk o.disp

def JumpOp.wf (o : JumpOp) : Bool := o.v.pairOk

def RegangOp.wf (o : RegangOp) : Bool := o.token < 1048576

def TrapOp.wf (o : TrapOp) : Bool := o.code < 8192

def SrdOp.wf (o : SrdOp) : Bool := o.d.ok && o.n < 128

def SwrOp.wf (o : SwrOp) : Bool := o.v.ok && o.n < 128

/-- 09 R395: base and length in two scalars. -/
def InvpgOp.wf (o : InvpgOp) : Bool := o.a ≤ 62

def TrampOp.wf (o : TrampOp) : Bool := o.id < 67108864

/-- The instruction terms that have an encoding. An event has none. -/
def Instr.wf : Instr → Bool
  | .iadd o => o.wf 1 1 1
  | .isub o => o.wf 1 1 1
  | .imul o => o.wf 1 1 1
  | .imulh o => o.wf 1 1 1
  | .imad o => o.wf 1 1 1
  | .imin o => o.wf 1 1 1
  | .imax o => o.wf 1 1 1
  | .iabs o => o.wf
  | .iaddSat o => o.wf 1 1 1
  | .isubSat o => o.wf 1 1 1
  | .imulhU o => o.wf 1 1 1
  | .iminU o => o.wf 1 1 1
  | .imaxU o => o.wf 1 1 1
  | .ineg o => o.wf
  | .idiv o => o.wf 1 1 1
  | .irem o => o.wf 1 1 1
  | .iadd64 o => o.wf 2 2 2
  | .isub64 o => o.wf 2 2 2
  | .imul64 o => o.wf 2 2 1
  | .imad64 o => o.wf 2 2 1
  | .imin64 o => o.wf 2 2 2
  | .imax64 o => o.wf 2 2 2
  | .idivU o => o.wf 1 1 1
  | .iremU o => o.wf 1 1 1
  | .and o => o.wf 1 1 1
  | .or o => o.wf 1 1 1
  | .xor o => o.wf 1 1 1
  | .shl o => o.wf 1 1 1
  | .shr o => o.wf 1 1 1
  | .sar o => o.wf 1 1 1
  | .rot o => o.wf 1 1 1
  | .ishrr o => o.wf 1 1 1
  | .bfx o => o.wf 1 1 1
  | .bfxU o => o.wf 1 1 1
  | .bfi o => o.wf 1 1 1
  | .clz o => o.wf
  | .popc o => o.wf
  | .brev o => o.wf
  | .lea o => o.wf 2 2 1
  | .iaddImm o => o.wf
  | .imulImm o => o.wf
  | .andImm o => o.wf
  | .orImm o => o.wf
  | .xorImm o => o.wf
  | .shlImm o => o.shiftWf
  | .shrImm o => o.shiftWf
  | .sarImm o => o.shiftWf
  | .isetEq o => o.wf 1
  | .isetNe o => o.wf 1
  | .isetLt o => o.wf 1
  | .isetLe o => o.wf 1
  | .isetLtU o => o.wf 1
  | .isetLeU o => o.wf 1
  | .isetEq64 o => o.wf 2
  | .isetLt64 o => o.wf 2
  | .faddF32 o => o.wf 1 1 1
  | .fsubF32 o => o.wf 1 1 1
  | .fmulF32 o => o.wf 1 1 1
  | .ffmaF32 o => o.wf 1 1 1
  | .fdivF32 o => o.wf 1 1 1
  | .fminF32 o => o.wf 1 1 1
  | .fmaxF32 o => o.wf 1 1 1
  | .fclassF32 o => o.wf
  | .frcpF32 o => o.wf
  | .frsqF32 o => o.wf
  | .fsqrtF32 o => o.wf
  | .fexp2F32 o => o.wf
  | .flog2F32 o => o.wf
  | .faddBf16x2 o => o.wf 1 1 1
  | .fsubBf16x2 o => o.wf 1 1 1
  | .fmulBf16x2 o => o.wf 1 1 1
  | .ffmaBf16x2 o => o.wf 1 1 1
  | .fminBf16x2 o => o.wf 1 1 1
  | .fmaxBf16x2 o => o.wf 1 1 1
  | .faddF16x2 o => o.wf 1 1 1
  | .fsubF16x2 o => o.wf 1 1 1
  | .fmulF16x2 o => o.wf 1 1 1
  | .ffmaF16x2 o => o.wf 1 1 1
  | .fminF16x2 o => o.wf 1 1 1
  | .fmaxF16x2 o => o.wf 1 1 1
  | .fsetEq o => o.wf 1
  | .fsetNe o => o.wf 1
  | .fsetLt o => o.wf 1
  | .fsetLe o => o.wf 1
  | .fsetGt o => o.wf 1
  | .fsetGe o => o.wf 1
  | .fsetUn o => o.wf 1
  | .fsetOrd o => o.wf 1
  | .cvt o => o.wf
  | .quantRn8F32 o => o.wf 1 1 1
  | .quantRn8Bf16 o => o.wf 1 1 1
  | .quantRn12F32 o => o.wf 1 1 1
  | .quantRn12Bf16 o => o.wf 1 1 1
  | .dquantRn8 o => o.wf 1 1 1
  | .dquantRn12 o => o.wf 1 1 1
  | .trchk o => o.wf 1 1 1
  | .shflIdx o => o.wf 1 1 1
  | .shflUp o => o.wf 1 1 1
  | .shflDown o => o.wf 1 1 1
  | .shflXor o => o.wf 1 1 1
  | .matchLanes o => o.wf
  | .voteBallot o => o.wf
  | .ppfx o => o.wf 1 2 1
  | .isect o => o.wf 1 2 2
  | .voteAny o => o.wf
  | .voteAll o => o.wf
  | .lpfxAddI32 o => o.wf
  | .lpfxAddF32 o => o.wf
  | .lredAddI32 o => o.wf
  | .lredAddF32 o => o.wf
  | .lredMinF32 o => o.wf
  | .lredMaxF32 o => o.wf
  | .lredMulF32 o => o.wf
  | .lredMinI32 o => o.wf
  | .lredMaxI32 o => o.wf
  | .lredAnd o => o.wf
  | .lredOr o => o.wf
  | .lredXor o => o.wf
  | .mov o => o.wf
  | .sel o => o.wf
  | .movs o => o.wf
  | .movsGet o => o.wf
  | .psetAnd o => o.wf
  | .psetOr o => o.wf
  | .psetXor o => o.wf
  | .psetAndn o => o.wf
  | .pmov o => o.wf
  | .pmovTov o => o.wf
  | .pmovFromv o => o.wf
  | .movi o => o.wf
  | .sadd o => o.wf
  | .ssub o => o.wf
  | .smul o => o.wf
  | .sand o => o.wf
  | .sor o => o.wf
  | .sxor o => o.wf
  | .sshl o => o.wf
  | .sshr o => o.wf
  | .ssetEq o => o.wf
  | .ssetNe o => o.wf
  | .ssetLt o => o.wf
  | .ssetLe o => o.wf
  | .ssetLtU o => o.wf
  | .ssetLeU o => o.wf
  | .smov o => o.wf
  | .sldg o => o.wf
  | .sstg o => o.wf
  | .ldg o => o.wf
  | .ldl o => o.wf
  | .lds o => o.wf
  | .ldw o => o.wf
  | .stg o => o.wf 2
  | .stl o => o.wf
  | .sts o => o.wf 1
  | .stw o => o.wf 1
  | .atom o => o.wf
  | .red o => o.wf
  | .atoms o => o.wf
  | .reds o => o.wf
  | .cflush o => o.wf
  | .cinv o => o.wf
  | .cpref o => o.wf
  | .seal o => o.wf 2
  | .unseal o => o.wf 2
  | .bsig o => o.wf
  | .bwait o => o.wf
  | .brd o => o.wf
  | .bind o => o.wf
  | .unbind o => o.wf
  | .fence _ => true
  | .take o => o.wf
  | .give o => o.wf
  | .ownq o => o.wf
  | .cpy o => o.wf
  | .cpys o => o.wf
  | .cpym o => o.wf
  | .cpyw o => o.wf
  | .cpyb o => o.wf
  | .mmaA33 o => o.wf
  | .mmaA48 o => o.wf
  | .mmazA33 o => o.wf
  | .mmazA48 o => o.wf
  | .mlease o => o.wf
  | .mrel => true
  | .macq o => o.wf
  | .acvt o => o.wf
  | .ald o => o.wf
  | .ast o => o.wf
  | .tdef o => o.wf 8
  | .tdrop o => o.wf 1
  | .tqry o => o.wf
  | .tgathI32 o => o.wf
  | .tgathF32 o => o.wf
  | .spld o => o.wf
  | .spst o => o.wf
  | .spnext o => o.nextWf
  | .spleaf o => o.wf
  | .spdense o => o.wf
  | .spimport o => o.wf
  | .enq o => o.wf
  | .deq o => o.wf
  | .qstat o => o.wf
  | .preq o => o.wf
  | .br o => o.wf
  | .brpAny o => o.wf
  | .brpAll o => o.wf
  | .brpLane o => o.wf
  | .call o => o.wf
  | .ret o => o.wf
  | .jmpi o => o.wf
  | .regang o => o.wf
  | .exit => true
  | .yield => true
  | .ppt => true
  | .trap o => o.wf
  | .tret => true
  | .emret _ => true
  | .srd o => o.wf
  | .swr o => o.wf
  | .psrd o => o.wf 1
  | .pswr o => o.wf 1
  | .invpg o => o.wf
  | .tramp o => o.wf
  | .undefinedWord => false
  | .deferredFault _ _ _ => false
  | .copyComplete _ _ => false
  | .mmaExecute _ => false
  | .acvtExecute _ => false
  | .spdenseComplete _ _ => false
  | .spimportComplete _ _ => false
  | .bwaitWake _ _ => false
  | .wdog _ _ => false
  | .matrixLeaseGrant _ => false
  | .leaseIdleEnd _ => false
  | .promotion _ _ => false
  | .promotionTimeout _ _ => false
  | .launchComplete _ => false
  | .dispatchDecision _ => false
  | .dispatchHoldTimeout => false
  | .prefetchRequest _ => false
  | .teamPlacement _ => false
  | .wideTeamPlacement _ => false
  | .coresidentPlacement _ => false
  | .energyWindowStart => false
  | .lightFault _ _ => false
  | .nresRetry _ _ => false
  | .fetchFill _ => false
  | .partmapWrite _ => false
  | .qbanksWrite _ _ => false
  | .stop _ _ => false
  | .frz _ _ => false
  | .stopdlExpire _ => false
  | .partitionResume _ _ => false
  | .contextCreate _ _ _ => false
  | .contextFree _ _ _ => false
  | .shootdown _ _ _ => false
  | .shootdownPurge _ _ _ => false
  | .resume _ _ _ => false
  | .resumeEnd _ _ _ => false
  | .queueCreate _ _ => false
  | .queueDestroy _ _ => false
  | .kill _ _ _ => false
  | .exchange _ _ _ => false
  | .spill _ _ _ => false
  | .fill _ _ _ => false
  | .resetCore _ => false
  | .resetCluster _ => false
  | .resetDie _ => false
  | .uncorrectableStateError _ _ => false
  | .unresponsiveTimeout _ _ => false
  | .resetComplete => false
  | .mailboxTake _ => false
  | .retirePage _ => false
  | .readFirmwareVersion _ => false
  | .readDieTelemetry _ => false
  | .mailboxUnknownOp _ => false
  | .connectionOpen _ => false
  | .connectionClose _ => false
  | .wltWrite _ => false
  | .wltRead _ => false
  | .wltReadresp _ => false
  | .wltAck _ => false
  | .wltSendKick _ => false
  | .wltRetransmitTimeout _ => false
  | .arpRequest _ => false
  | .neighbourSolicitation _ => false
  | .icmpEchoRequest _ => false
  | .ringRecheck => false
  | .submit _ => false
  | .nop _ => false
  | .unknownRingOp _ => false
  | .attestationGo => false
  | .recoveryGo => false
  | .powerOn => false
  | .mainPowerOff => false
  | .supplySag _ => false
  | .stretchEnd _ => false
  | .smbusReadPhase => false
  | .smbusReadPower => false
  | .smbusReadTemperature => false
  | .smbusReadEnergy => false
  | .privilegedRegisterWrite _ _ _ => false
  | .linkUp => false
  | .smbusCommandNotListed _ => false

end Sys2Proof
end

