-- ==== Sys2Proof/Decode.lean ====
section
/-! DEFINITION. The decoder of one instruction word, total on every number and refusing by name, and
after it the encoder, both written from the formats and maps of spec 06 R217 to R240. Then the hint
words of 06 R225 to R228, and the fields of an undefined word of 06 R242.
-/

namespace Sys2Proof

/-- Why a word is no instruction (06 R241). -/
inductive DecodeError where
  /-- a major opcode that holds no instruction -/
  | reservedMajor
  /-- an unassigned FN, SUB or CND -/
  | unassigned
  /-- a reserved value or a non-zero zero field -/
  | reservedField
  /-- a register field that no instruction of this form takes -/
  | badRegister
  /-- operands that the form does not admit together -/
  | illFormed
  /-- the word 0xFFFFFFFF -/
  | allOnes
  /-- a hint word, which is no instruction -/
  | hintWord
  deriving DecidableEq, Repr

/-- What the decoder answers. -/
abbrev Dec (α : Type) := Except DecodeError α

/-- The n bits of w from bit lo upward (00 R2). -/
def bits (w lo n : Nat) : Nat := w / 2 ^ lo % 2 ^ n

/-- A two's complement number of n bits. -/
def signed (n x : Nat) : Int := if x < 2 ^ (n - 1) then (x : Int) else (x : Int) - (2 ^ n : Nat)

/-- The n-bit two's complement field of an integer. -/
def unsignedField (n : Nat) (i : Int) : Nat := (i % (2 ^ n : Nat)).toNat

/-- A word passes when a condition holds. -/
def req (c : Bool) (e : DecodeError) (x : Dec α) : Dec α := if c then x else .error e

/-- A source field (01 R43). -/
def Src.dec (n : Nat) : Dec Src :=
  if n < 120 then .ok (.reg n)
  else if n < 124 then .ok (.latch (n - 120))
  else if n = 124 then .ok .zero
  else if n = 125 then .ok .lane
  else .error .badRegister

/-- The field of a source. -/
def Src.enc : Src → Nat
  | .reg n => n
  | .latch n => 120 + n
  | .zero => 124
  | .lane => 125

/-- A destination field (01 R43). -/
def Dst.dec (n : Nat) : Dec Dst :=
  if n < 120 then .ok (.reg n)
  else if n = 124 then .ok .none
  else .error .badRegister

/-- The field of a destination. -/
def Dst.enc : Dst → Nat
  | .reg n => n
  | .none => 124

/-- A scope field (06 R222). -/
def Scope.dec (n : Nat) : Dec Scope :=
  match n with
  | 0 => .ok .gang
  | 1 => .ok .team
  | 2 => .ok .clus
  | 3 => .ok .die
  | 4 => .ok .dev
  | 5 => .ok .sys
  | _ => .error .reservedField

/-- A space field (06 R235). -/
def Space.dec (n : Nat) : Dec Space :=
  match n with
  | 0 => .ok .global
  | 1 => .ok .scratch
  | 2 => .ok .window
  | _ => .error .reservedField

def Space.code : Space → Nat
  | .global => 0
  | .scratch => 1
  | .window => 2

/-- An order field (06 R234). -/
def Order.dec (n : Nat) : Dec Order :=
  match n with
  | 0 => .ok .relaxed
  | 1 => .ok .acq
  | 2 => .ok .rel
  | _ => .error .reservedField

def Order.code : Order → Nat
  | .relaxed => 0
  | .acq => 1
  | .rel => 2

def NumType.dec (n : Nat) : NumType :=
  match n with
  | 0 => .i32
  | 1 => .u32
  | 2 => .i64
  | 3 => .u64
  | 4 => .f32
  | 5 => .bf16
  | 6 => .f16
  | _ => .narrow

def NumType.code : NumType → Nat
  | .i32 => 0
  | .u32 => 1
  | .i64 => 2
  | .u64 => 3
  | .f32 => 4
  | .bf16 => 5
  | .f16 => 6
  | .narrow => 7

def Narrow.dec (n : Nat) : Narrow :=
  match n with
  | 0 => .i8
  | 1 => .u8
  | 2 => .i16
  | _ => .u16

def Narrow.code : Narrow → Nat
  | .i8 => 0
  | .u8 => 1
  | .i16 => 2
  | .u16 => 3

/-- The load sizes of FN (06 R221). -/
def LoadSize.dec (n : Nat) : Dec LoadSize :=
  match n with
  | 0 => .ok .i8
  | 1 => .ok .ui8
  | 2 => .ok .i16
  | 3 => .ok .ui16
  | 4 => .ok .b32
  | 5 => .ok .b64
  | 6 => .ok .b128
  | _ => .error .unassigned

def LoadSize.code : LoadSize → Nat
  | .i8 => 0
  | .ui8 => 1
  | .i16 => 2
  | .ui16 => 3
  | .b32 => 4
  | .b64 => 5
  | .b128 => 6

/-- The store sizes of FN (06 R221). -/
def StoreSize.dec (n : Nat) : Dec StoreSize :=
  match n with
  | 0 => .ok .b8
  | 1 => .ok .b16
  | 2 => .ok .b32
  | 3 => .ok .b64
  | 4 => .ok .b128
  | _ => .error .unassigned

def StoreSize.code : StoreSize → Nat
  | .b8 => 0
  | .b16 => 1
  | .b32 => 2
  | .b64 => 3
  | .b128 => 4

/-- FN and SC of a load (06 R221). -/
def LoadMode.dec (fn sc : Nat) : Dec LoadMode :=
  match sc with
  | 0 => (LoadSize.dec fn).map .plain
  | 1 => (Scope.dec fn).map (.ordered false)
  | 2 => (Scope.dec fn).map (.ordered true)
  | _ => .error .reservedField

def LoadMode.fn : LoadMode → Nat
  | .plain s => s.code
  | .ordered _ sc => sc.code

def LoadMode.sc : LoadMode → Nat
  | .plain _ => 0
  | .ordered wide _ => if wide then 2 else 1

/-- FN and SC of a store (06 R221). -/
def StoreMode.dec (fn sc : Nat) : Dec StoreMode :=
  match sc with
  | 0 => (StoreSize.dec fn).map .plain
  | 1 => (Scope.dec fn).map (.ordered false)
  | 2 => (Scope.dec fn).map (.ordered true)
  | _ => .error .reservedField

def StoreMode.fn : StoreMode → Nat
  | .plain s => s.code
  | .ordered _ sc => sc.code

def StoreMode.sc : StoreMode → Nat
  | .plain _ => 0
  | .ordered wide _ => if wide then 2 else 1

def AtomicFn.dec (n : Nat) : AtomicFn :=
  match n with
  | 0 => .add
  | 1 => .min
  | 2 => .max
  | 3 => .and
  | 4 => .or
  | 5 => .xor
  | 6 => .exch
  | _ => .cas

def AtomicFn.code : AtomicFn → Nat
  | .add => 0
  | .min => 1
  | .max => 2
  | .and => 3
  | .or => 4
  | .xor => 5
  | .exch => 6
  | .cas => 7

def AtomicType.dec (n : Nat) : Dec AtomicType :=
  match n with
  | 0 => .ok .i32
  | 1 => .ok .i64
  | 2 => .ok .f32
  | 3 => .ok .bf16x2
  | 4 => .ok .f16x2
  | 5 => .ok .ui32
  | 6 => .ok .ui64
  | _ => .error .reservedField

def AtomicType.code : AtomicType → Nat
  | .i32 => 0
  | .i64 => 1
  | .f32 => 2
  | .bf16x2 => 3
  | .f16x2 => 4
  | .ui32 => 5
  | .ui64 => 6

def FenceKind.dec (n : Nat) : Dec FenceKind :=
  match n with
  | 1 => .ok .acq
  | 2 => .ok .rel
  | 3 => .ok .ar
  | _ => .error .reservedField

def FenceKind.code : FenceKind → Nat
  | .acq => 1
  | .rel => 2
  | .ar => 3

def Owner.code : Owner → Nat
  | .threads => 0
  | .copyEngine => 1
  | .matrixUnit => 2
  | .sparseUnit => 3

/-- The owner of a code (03 R116). -/
def Owner.dec (n : Nat) : Owner :=
  match n with
  | 0 => .threads
  | 1 => .copyEngine
  | 2 => .matrixUnit
  | _ => .sparseUnit

/-- The GIVE target of F3[5:4] and F3[3:2] (08 R348). -/
def GiveTarget.dec (kind owner : Nat) : Dec GiveTarget :=
  match kind with
  | 0 => .ok (.granules (Owner.dec owner))
  | 1 => req (owner == 0) .reservedField (.ok .tile)
  | _ => .error .reservedField

def GiveTarget.kind : GiveTarget → Nat
  | .granules _ => 0
  | .tile => 1

def GiveTarget.owner : GiveTarget → Nat
  | .granules o => o.code
  | .tile => 0

/-- Granules or tile of F3[5:4] (08 R348). -/
def tileDec (n : Nat) : Dec Bool :=
  match n with
  | 0 => .ok false
  | 1 => .ok true
  | _ => .error .reservedField

def AcvtTarget.dec (n : Nat) : Dec AcvtTarget :=
  match n with
  | 0 => .ok .i32
  | 1 => .ok .f32
  | 2 => .ok .bf16
  | 3 => .ok .rn12
  | _ => .error .reservedField

def AcvtTarget.code : AcvtTarget → Nat
  | .i32 => 0
  | .f32 => 1
  | .bf16 => 2
  | .rn12 => 3

def EmretMode.dec (n : Nat) : Dec EmretMode :=
  match n with
  | 0 => .ok .advance
  | 1 => .ok .write
  | 2 => .ok .reexecute
  | _ => .error .reservedField

def EmretMode.code : EmretMode → Nat
  | .advance => 0
  | .write => 1
  | .reexecute => 2

/-- The X and SB fields of a scalar instruction (06 R223). -/
def SOperand.dec (sb x : Nat) : Dec SOperand :=
  if x = 0 then .ok (.reg sb)
  else if x = 16 then .ok (.imm sb)
  else .error .reservedField

def SOperand.sb : SOperand → Nat
  | .reg n => n
  | .imm n => n

def SOperand.x : SOperand → Nat
  | .reg _ => 0
  | .imm _ => 16

/-! The formats of 06 R217: the low 26 bits, or the low 23 below a function code. -/

/-- Format A below FN: D, A, B, W, G. -/
def packA (d a b w g : Nat) : Nat := d * 65536 + a * 512 + b * 4 + w * 2 + g

/-- Format I below FN: D, A, IMM9. -/
def packI (d a imm : Nat) : Nat := d * 65536 + a * 512 + imm

/-- Format M below FN: D, A, OFF6, SC, NF. -/
def packM (d a off sc nf : Nat) : Nat := d * 65536 + a * 512 + off * 8 + sc * 2 + nf

/-- Format S below FN: SD, SA, SB, X. -/
def packS (d a b x : Nat) : Nat := d * 131072 + a * 2048 + b * 32 + x

/-- Format E below MAJ: SUB, F1, F2, F3. -/
def packE (sub f1 f2 f3 : Nat) : Nat := sub * 1048576 + f1 * 8192 + f2 * 64 + f3

/-- Format B below MAJ: CND, P, DISP20. -/
def packB (cnd p disp : Nat) : Nat := cnd * 8388608 + p * 1048576 + disp

/-- The major opcode, bits [31:26]. -/
def majOf (w : Nat) : Nat := bits w 26 6

/-- FN or CND, bits [25:23]. -/
def fnOf (w : Nat) : Nat := bits w 23 3

/-- SUB of format E, bits [25:20]. -/
def subOf (w : Nat) : Nat := bits w 20 6

def fA_d (w : Nat) : Nat := bits w 16 7
def fA_a (w : Nat) : Nat := bits w 9 7
def fA_b (w : Nat) : Nat := bits w 2 7
def fA_w (w : Nat) : Nat := bits w 1 1
def fA_g (w : Nat) : Nat := bits w 0 1
def fE_1 (w : Nat) : Nat := bits w 13 7
def fE_2 (w : Nat) : Nat := bits w 6 7
def fE_3 (w : Nat) : Nat := bits w 0 6

/-- A bit as a truth value. -/
def isOne (n : Nat) : Bool := n == 1

/-! One decoder and one encoder for each operand shape. An encoder gives the bits below the base that
the map of the instruction supplies (MAJ, FN or SUB). -/

def RRR.dec (w : Nat) : Dec RRR := do
  let d ← Dst.dec (fA_d w)
  let a ← Src.dec (fA_a w)
  let b ← Src.dec (fA_b w)
  return ⟨d, a, b, isOne (fA_w w), isOne (fA_g w)⟩

def RRR.enc (o : RRR) : Nat :=
  packA o.d.enc o.a.enc o.b.enc o.w.toNat o.g.toNat

def RR.dec (w : Nat) : Dec RR := do
  let d ← Dst.dec (fA_d w)
  let a ← Src.dec (fA_a w)
  req (fA_b w == 124) .reservedField (return ⟨d, a, isOne (fA_w w), isOne (fA_g w)⟩)

def RR.enc (o : RR) : Nat :=
  packA o.d.enc o.a.enc 124 o.w.toNat o.g.toNat

def PRR.dec (w : Nat) : Dec PRR := do
  let a ← Src.dec (fA_a w)
  let b ← Src.dec (fA_b w)
  req (fA_w w == 0) .reservedField (return ⟨fA_d w, a, b, isOne (fA_g w)⟩)

def PRR.enc (o : PRR) : Nat :=
  packA o.p o.a.enc o.b.enc 0 o.g.toNat

def PR.dec (w : Nat) : Dec PR := do
  let a ← Src.dec (fA_a w)
  req (fA_b w == 124 && fA_w w == 0) .reservedField (return ⟨fA_d w, a, isOne (fA_g w)⟩)

def PR.enc (o : PR) : Nat :=
  packA o.p o.a.enc 124 0 o.g.toNat

def PPP.dec (w : Nat) : Dec PPP :=
  req (fA_w w == 0) .reservedField (.ok ⟨fA_d w, fA_a w, fA_b w, isOne (fA_g w)⟩)

def PPP.enc (o : PPP) : Nat :=
  packA o.d o.a o.b 0 o.g.toNat

def RW.dec (w : Nat) : Dec RW := do
  let d ← Dst.dec (fA_d w)
  req (fA_a w == 124 && fA_b w == 124) .reservedField (return ⟨d, isOne (fA_w w), isOne (fA_g w)⟩)

def RW.enc (o : RW) : Nat :=
  packA o.d.enc 124 124 o.w.toNat o.g.toNat

def RP.dec (w : Nat) : Dec RP := do
  let d ← Dst.dec (fA_d w)
  req (fA_b w == 124) .reservedField (return ⟨d, fA_a w, isOne (fA_w w), isOne (fA_g w)⟩)

def RP.enc (o : RP) : Nat :=
  packA o.d.enc o.p 124 o.w.toNat o.g.toNat

def RS.dec (w : Nat) : Dec RS := do
  let d ← Dst.dec (fA_d w)
  req (fA_b w == 124) .reservedField (return ⟨d, fA_a w, isOne (fA_w w), isOne (fA_g w)⟩)

def RS.enc (o : RS) : Nat :=
  packA o.d.enc o.s 124 o.w.toNat o.g.toNat

def SRR.dec (w : Nat) : Dec SRR := do
  let a ← Src.dec (fA_a w)
  let b ← Src.dec (fA_b w)
  req (fA_w w == 0) .reservedField (return ⟨fA_d w, a, b, isOne (fA_g w)⟩)

def SRR.enc (o : SRR) : Nat :=
  packA o.s o.a.enc o.b.enc 0 o.g.toNat

def SelOp.dec (w : Nat) : Dec SelOp := do
  let d ← Dst.dec (fA_d w)
  let a ← Src.dec (fA_a w)
  let b ← Src.dec (fA_b w)
  req (fA_g w == 0) .reservedField (return ⟨d, a, b, isOne (fA_w w)⟩)

def SelOp.enc (o : SelOp) : Nat :=
  packA o.d.enc o.a.enc o.b.enc o.w.toNat 0

def RRI.dec (w : Nat) : Dec RRI := do
  let d ← Dst.dec (fA_d w)
  let a ← Src.dec (fA_a w)
  return ⟨d, a, signed 9 (bits w 0 9)⟩

def RRI.enc (o : RRI) : Nat :=
  packI o.d.enc o.a.enc (unsignedField 9 o.imm)

def RI.dec (w : Nat) : Dec RI := do
  let d ← Dst.dec (fA_d w)
  req (fA_a w == 124) .reservedField (return ⟨d, signed 9 (bits w 0 9)⟩)

def RI.enc (o : RI) : Nat :=
  packI o.d.enc 124 (unsignedField 9 o.imm)

def CvtOp.dec (w : Nat) : Dec CvtOp := do
  let d ← Dst.dec (fE_1 w)
  let a ← Src.dec (fE_2 w)
  req (bits w 5 1 == 0) .reservedField
    (return ⟨NumType.dec (bits w 23 3), NumType.dec (bits w 20 3), d, a, Narrow.dec (bits w 3 2),
      isOne (bits w 2 1), isOne (bits w 1 1), isOne (bits w 0 1)⟩)

def CvtOp.enc (o : CvtOp) : Nat :=
  packE (o.target.code * 8 + o.source.code) o.d.enc o.a.enc
    (o.narrow.code * 8 + o.sat.toNat * 4 + o.w.toNat * 2 + o.g.toNat)

def SSS.dec (w : Nat) : Dec SSS := do
  let y ← SOperand.dec (bits w 5 6) (bits w 0 5)
  return ⟨bits w 17 6, bits w 11 6, y⟩

def SSS.enc (o : SSS) : Nat :=
  packS o.d o.a o.y.sb o.y.x

def SMovOp.dec (w : Nat) : Dec SMovOp :=
  if bits w 0 5 = 0 then
    req (bits w 5 6 == 0) .reservedField (.ok ⟨bits w 17 6, .reg (bits w 11 6)⟩)
  else if bits w 0 5 = 16 then
    req (bits w 11 6 == 0) .reservedField (.ok ⟨bits w 17 6, .imm (bits w 5 6)⟩)
  else .error .reservedField

def SMovOp.enc (o : SMovOp) : Nat :=
  match o.y with
  | .reg a => packS o.d a 0 0
  | .imm n => packS o.d 0 n 16

def SMemOp.dec (w : Nat) : Dec SMemOp :=
  req (bits w 5 6 == 0) .reservedField (.ok ⟨bits w 17 6, bits w 11 6, bits w 0 5⟩)

def SMemOp.enc (o : SMemOp) : Nat :=
  packS o.d o.a 0 o.x

def LdgOp.dec (w : Nat) : Dec LdgOp := do
  let m ← LoadMode.dec (fnOf w) (bits w 1 2)
  let d ← Dst.dec (fA_d w)
  let a ← Src.dec (fA_a w)
  return ⟨m, d, a, bits w 3 6, isOne (bits w 0 1)⟩

def LdgOp.enc (o : LdgOp) : Nat :=
  o.mode.fn * 8388608 + packM o.d.enc o.a.enc o.off o.mode.sc o.nf.toNat

def LdlOp.dec (w : Nat) : Dec LdlOp := do
  let m ← LoadSize.dec (fnOf w)
  let d ← Dst.dec (fA_d w)
  let a ← Src.dec (fA_a w)
  req (bits w 0 3 == 0) .reservedField (return ⟨m, d, a, bits w 3 6⟩)

def LdlOp.enc (o : LdlOp) : Nat :=
  o.size.code * 8388608 + packM o.d.enc o.a.enc o.off 0 0

def LdsOp.dec (w : Nat) : Dec LdsOp := do
  let m ← LoadMode.dec (fnOf w) (bits w 1 2)
  let d ← Dst.dec (fA_d w)
  let a ← Src.dec (fA_a w)
  req (bits w 0 1 == 0) .reservedField (return ⟨m, d, a, bits w 3 6⟩)

def LdsOp.enc (o : LdsOp) : Nat :=
  o.mode.fn * 8388608 + packM o.d.enc o.a.enc o.off o.mode.sc 0

def StOp.dec (w : Nat) : Dec StOp := do
  let m ← StoreMode.dec (fnOf w) (bits w 1 2)
  let v ← Src.dec (fA_d w)
  let a ← Src.dec (fA_a w)
  req (bits w 0 1 == 0) .reservedField (return ⟨m, v, a, bits w 3 6⟩)

def StOp.enc (o : StOp) : Nat :=
  o.mode.fn * 8388608 + packM o.v.enc o.a.enc o.off o.mode.sc 0

def StlOp.dec (w : Nat) : Dec StlOp := do
  let m ← StoreSize.dec (fnOf w)
  let v ← Src.dec (fA_d w)
  let a ← Src.dec (fA_a w)
  req (bits w 0 3 == 0) .reservedField (return ⟨m, v, a, bits w 3 6⟩)

def StlOp.enc (o : StlOp) : Nat :=
  o.size.code * 8388608 + packM o.v.enc o.a.enc o.off 0 0

def AtomOp.dec (w : Nat) : Dec AtomOp := do
  let ty ← AtomicType.dec (bits w 20 3)
  let d ← Dst.dec (fE_1 w)
  let a ← Src.dec (fE_2 w)
  let sc ← Scope.dec (bits w 3 3)
  let r ← Order.dec (bits w 1 2)
  req (bits w 0 1 == 0) .reservedField (return ⟨AtomicFn.dec (bits w 23 3), ty, d, a, sc, r⟩)

def AtomOp.enc (o : AtomOp) : Nat :=
  packE (o.fn.code * 8 + o.ty.code) o.d.enc o.a.enc (o.scope.code * 8 + o.order.code * 2)

def RedOp.dec (w : Nat) : Dec RedOp := do
  let ty ← AtomicType.dec (bits w 20 3)
  let v ← Src.dec (fE_1 w)
  let a ← Src.dec (fE_2 w)
  let sc ← Scope.dec (bits w 3 3)
  let r ← Order.dec (bits w 1 2)
  req (bits w 0 1 == 0) .reservedField (return ⟨AtomicFn.dec (bits w 23 3), ty, v, a, sc, r⟩)

def RedOp.enc (o : RedOp) : Nat :=
  packE (o.fn.code * 8 + o.ty.code) o.v.enc o.a.enc (o.scope.code * 8 + o.order.code * 2)

def AtomsOp.dec (w : Nat) : Dec AtomsOp := do
  let ty ← AtomicType.dec (bits w 20 3)
  let d ← Dst.dec (fE_1 w)
  let a ← Src.dec (fE_2 w)
  let sc ← Scope.dec (bits w 4 2)
  let r ← Order.dec (bits w 2 2)
  return ⟨AtomicFn.dec (bits w 23 3), ty, d, a, sc, r, isOne (bits w 0 1)⟩

def AtomsOp.enc (o : AtomsOp) : Nat :=
  packE (o.fn.code * 8 + o.ty.code) o.d.enc o.a.enc
    (o.scope.code * 16 + o.order.code * 4 + o.window.toNat)

def RedsOp.dec (w : Nat) : Dec RedsOp := do
  let ty ← AtomicType.dec (bits w 20 3)
  let v ← Src.dec (fE_1 w)
  let a ← Src.dec (fE_2 w)
  let sc ← Scope.dec (bits w 4 2)
  let r ← Order.dec (bits w 2 2)
  return ⟨AtomicFn.dec (bits w 23 3), ty, v, a, sc, r, isOne (bits w 0 1)⟩

def RedsOp.enc (o : RedsOp) : Nat :=
  packE (o.fn.code * 8 + o.ty.code) o.v.enc o.a.enc
    (o.scope.code * 16 + o.order.code * 4 + 2 + o.window.toNat)

def RangeOp.dec (w : Nat) : Dec RangeOp := do
  let l ← Src.dec (fE_1 w)
  let b ← Src.dec (fE_2 w)
  let sc ← Scope.dec (bits w 3 3)
  req (bits w 0 3 == 0) .reservedField (return ⟨l, b, sc⟩)

def RangeOp.enc (o : RangeOp) : Nat :=
  packE 0 o.len.enc o.base.enc (o.scope.code * 8)

def CprefOp.dec (w : Nat) : Dec CprefOp := do
  let l ← Src.dec (fE_1 w)
  let b ← Src.dec (fE_2 w)
  req (fE_3 w == 0) .reservedField (return ⟨l, b⟩)

def CprefOp.enc (o : CprefOp) : Nat :=
  packE 0 o.len.enc o.base.enc 0

def SS.dec (w : Nat) : Dec SS :=
  req (bits w 19 1 == 0 && bits w 12 1 == 0 && fE_3 w == 0) .reservedField
    (.ok ⟨bits w 13 6, bits w 6 6⟩)

def SS.enc (o : SS) : Nat :=
  packE 0 o.d o.a 0

def BarOp.dec (w : Nat) : Dec BarOp := do
  let n ← Src.dec (fE_1 w)
  let x ← Src.dec (fE_2 w)
  let sc ← Scope.dec (bits w 3 3)
  let sp ← Space.dec (bits w 0 2)
  return ⟨n, x, sc, isOne (bits w 2 1), sp⟩

def BarOp.enc (o : BarOp) : Nat :=
  packE 0 o.n.enc o.obj.enc (o.scope.code * 8 + o.ordered.toNat * 4 + o.space.code)

def BrdOp.dec (w : Nat) : Dec BrdOp := do
  let d ← Dst.dec (fE_1 w)
  let x ← Src.dec (fE_2 w)
  let sc ← Scope.dec (bits w 3 3)
  let sp ← Space.dec (bits w 0 2)
  return ⟨d, x, sc, isOne (bits w 2 1), sp⟩

def BrdOp.enc (o : BrdOp) : Nat :=
  packE 0 o.d.enc o.obj.enc (o.scope.code * 8 + o.ordered.toNat * 4 + o.space.code)

def BindOp.dec (w : Nat) : Dec BindOp := do
  let sc ← Scope.dec (bits w 3 3)
  let sp ← Space.dec (bits w 0 2)
  req (bits w 19 1 == 0 && bits w 12 1 == 0 && bits w 2 1 == 0) .reservedField
    (return ⟨bits w 13 6, bits w 6 6, sc, sp⟩)

def BindOp.enc (o : BindOp) : Nat :=
  packE 0 o.s o.index (o.scope.code * 8 + o.space.code)

def UnbindOp.dec (w : Nat) : Dec UnbindOp :=
  req (fE_1 w == 0 && bits w 12 1 == 0 && fE_3 w == 0) .reservedField (.ok ⟨bits w 6 6⟩)

def UnbindOp.enc (o : UnbindOp) : Nat :=
  packE 0 0 o.index 0

def FenceOp.dec (w : Nat) : Dec FenceOp := do
  let sc ← Scope.dec (bits w 3 3)
  let k ← FenceKind.dec (bits w 1 2)
  req (fE_1 w == 0 && fE_2 w == 0 && bits w 0 1 == 0) .reservedField (return ⟨sc, k⟩)

def FenceOp.enc (o : FenceOp) : Nat :=
  packE 0 0 0 (o.scope.code * 8 + o.kind.code * 2)

def TakeOp.dec (w : Nat) : Dec TakeOp := do
  let d ← Dst.dec (fE_1 w)
  let a ← Src.dec (fE_2 w)
  let k ← tileDec (bits w 4 2)
  req (bits w 0 4 == 0) .reservedField (return ⟨d, a, k⟩)

def TakeOp.enc (o : TakeOp) : Nat :=
  packE 0 o.d.enc o.a.enc (o.tile.toNat * 16)

def GiveOp.dec (w : Nat) : Dec GiveOp := do
  let a ← Src.dec (fE_2 w)
  let k ← GiveTarget.dec (bits w 4 2) (bits w 2 2)
  req (fE_1 w == 0 && bits w 0 2 == 0) .reservedField (return ⟨a, k⟩)

def GiveOp.enc (o : GiveOp) : Nat :=
  packE 0 0 o.a.enc (o.target.kind * 16 + o.target.owner * 4)

def CpyOp.dec (w : Nat) : Dec CpyOp := do
  let sc ← Scope.dec (bits w 3 3)
  req (bits w 19 1 == 0 && fE_2 w == 0 && bits w 0 3 == 0) .reservedField (return ⟨bits w 13 6, sc⟩)

def CpyOp.enc (o : CpyOp) : Nat :=
  packE 0 o.s 0 (o.scope.code * 8)

def MmaOp.dec (w : Nat) : Dec MmaOp :=
  req (bits w 15 5 == 0 && bits w 12 1 == 0 && bits w 5 1 == 0) .reservedField
    (.ok ⟨bits w 13 2, bits w 6 6, bits w 0 5⟩)

def MmaOp.enc (o : MmaOp) : Nat :=
  packE 0 o.tile o.a o.slot

def MleaseOp.dec (w : Nat) : Dec MleaseOp :=
  req (fE_1 w == 0 && fE_2 w == 0) .reservedField (.ok ⟨fE_3 w + 1⟩)

def MleaseOp.enc (o : MleaseOp) : Nat :=
  packE 0 0 0 (o.count - 1)

def MacqOp.dec (w : Nat) : Dec MacqOp :=
  req (bits w 19 1 == 0 && bits w 8 5 == 0 && bits w 3 3 == 0) .reservedField
    (.ok ⟨bits w 13 6, bits w 6 2, bits w 0 3⟩)

def MacqOp.enc (o : MacqOp) : Nat :=
  packE 0 o.d o.tile o.item

def AcvtOp.dec (w : Nat) : Dec AcvtOp := do
  let k ← AcvtTarget.dec (bits w 0 3)
  req (bits w 15 5 == 0 && bits w 12 1 == 0 && bits w 3 3 == 0) .reservedField
    (return ⟨bits w 13 2, bits w 6 6, k⟩)

def AcvtOp.enc (o : AcvtOp) : Nat :=
  packE 0 o.tile o.s o.target.code

def AldOp.dec (w : Nat) : Dec AldOp := do
  let d ← Dst.dec (fE_1 w)
  let i ← Src.dec (fE_2 w)
  req (bits w 2 4 == 0) .reservedField (return ⟨d, i, bits w 0 2⟩)

def AldOp.enc (o : AldOp) : Nat :=
  packE 0 o.d.enc o.i.enc o.tile

def AstOp.dec (w : Nat) : Dec AstOp := do
  let v ← Src.dec (fE_1 w)
  let i ← Src.dec (fE_2 w)
  req (bits w 2 4 == 0) .reservedField (return ⟨v, i, bits w 0 2⟩)

def AstOp.enc (o : AstOp) : Nat :=
  packE 0 o.v.enc o.i.enc o.tile

def TqryOp.dec (w : Nat) : Dec TqryOp :=
  req (bits w 19 1 == 0 && bits w 12 1 == 0 && bits w 3 3 == 0) .reservedField
    (.ok ⟨bits w 13 6, bits w 6 6, bits w 0 3⟩)

def TqryOp.enc (o : TqryOp) : Nat :=
  packE 0 o.d o.a o.k

def TgathOp.dec (w : Nat) : Dec TgathOp := do
  let d ← Dst.dec (fE_1 w)
  let i ← Src.dec (fE_2 w)
  return ⟨d, i, fE_3 w⟩

def TgathOp.enc (o : TgathOp) : Nat :=
  packE 0 o.d.enc o.i.enc o.h

def SpldOp.dec (w : Nat) : Dec SpldOp := do
  let d ← Dst.dec (fE_1 w)
  let c ← Src.dec (fE_2 w)
  return ⟨d, c, fE_3 w⟩

def SpldOp.enc (o : SpldOp) : Nat :=
  packE 0 o.d.enc o.c.enc o.h

def SpstOp.dec (w : Nat) : Dec SpstOp := do
  let v ← Src.dec (fE_1 w)
  let c ← Src.dec (fE_2 w)
  return ⟨v, c, fE_3 w⟩

def SpstOp.enc (o : SpstOp) : Nat :=
  packE 0 o.v.enc o.c.enc o.h

def SpEngineOp.dec (w : Nat) : Dec SpEngineOp :=
  req (bits w 19 1 == 0 && fE_2 w == 0) .reservedField (.ok ⟨bits w 13 6, fE_3 w⟩)

def SpEngineOp.enc (o : SpEngineOp) : Nat :=
  packE 0 o.s 0 o.h

def EnqOp.dec (w : Nat) : Dec EnqOp := do
  let d ← Dst.dec (fE_1 w)
  let v ← Src.dec (fE_2 w)
  return ⟨d, v, fE_3 w⟩

def EnqOp.enc (o : EnqOp) : Nat :=
  packE 0 o.d.enc o.v.enc o.q

def DeqOp.dec (w : Nat) : Dec DeqOp := do
  let d ← Dst.dec (fE_1 w)
  req (fE_2 w == 0) .reservedField (return ⟨d, fE_3 w⟩)

def DeqOp.enc (o : DeqOp) : Nat :=
  packE 0 o.d.enc 0 o.q

def QstatOp.dec (w : Nat) : Dec QstatOp :=
  req (bits w 19 1 == 0 && fE_2 w == 0) .reservedField (.ok ⟨bits w 13 6, fE_3 w⟩)

def QstatOp.enc (o : QstatOp) : Nat :=
  packE 0 o.d 0 o.q

def PreqOp.dec (w : Nat) : Dec PreqOp := do
  let a ← Src.dec (fE_2 w)
  req (fE_1 w == 0 && fE_3 w == 0) .reservedField (return ⟨a⟩)

def PreqOp.enc (o : PreqOp) : Nat :=
  packE 0 0 o.a.enc 0

def BrOp.dec (w : Nat) : Dec BrOp :=
  req (bits w 20 3 == 0) .reservedField (.ok ⟨signed 20 (bits w 0 20)⟩)

def BrOp.enc (o : BrOp) : Nat :=
  packB 0 0 (unsignedField 20 o.disp)

def BrpOp.dec (w : Nat) : Dec BrpOp :=
  .ok ⟨bits w 20 3, signed 20 (bits w 0 20)⟩

def BrpOp.enc (o : BrpOp) : Nat :=
  packB 0 o.p (unsignedField 20 o.disp)

def CallOp.dec (w : Nat) : Dec CallOp :=
  .ok ⟨bits w 20 3, signed 20 (bits w 0 20)⟩

def CallOp.enc (o : CallOp) : Nat :=
  packB 0 o.k (unsignedField 20 o.disp)

def JumpOp.dec (w : Nat) : Dec JumpOp := do
  let v ← Src.dec (bits w 13 7)
  req (bits w 20 3 == 0 && bits w 0 13 == 0) .reservedField (return ⟨v⟩)

def JumpOp.enc (o : JumpOp) : Nat :=
  packB 0 0 (o.v.enc * 8192)

def RegangOp.dec (w : Nat) : Dec RegangOp :=
  .ok ⟨bits w 0 20⟩

def RegangOp.enc (o : RegangOp) : Nat :=
  o.token

def TrapOp.dec (w : Nat) : Dec TrapOp :=
  req (bits w 13 7 == 0) .reservedField (.ok ⟨bits w 0 13⟩)

def TrapOp.enc (o : TrapOp) : Nat :=
  o.code

def EmretOp.dec (w : Nat) : Dec EmretOp := do
  let m ← EmretMode.dec (bits w 0 2)
  req (fE_1 w == 0 && fE_2 w == 0 && bits w 3 3 == 0) .reservedField (return ⟨m, isOne (bits w 2 1)⟩)

def EmretOp.enc (o : EmretOp) : Nat :=
  packE 0 0 0 (o.honourW.toNat * 4 + o.mode.code)

def SrdOp.dec (w : Nat) : Dec SrdOp := do
  let d ← Dst.dec (fE_1 w)
  req (fE_3 w == 0) .reservedField (return ⟨d, fE_2 w⟩)

def SrdOp.enc (o : SrdOp) : Nat :=
  packE 0 o.d.enc o.n 0

def SwrOp.dec (w : Nat) : Dec SwrOp := do
  let v ← Src.dec (fE_1 w)
  req (fE_3 w == 0) .reservedField (return ⟨v, fE_2 w⟩)

def SwrOp.enc (o : SwrOp) : Nat :=
  packE 0 o.v.enc o.n 0

def InvpgOp.dec (w : Nat) : Dec InvpgOp := do
  let sc ← Scope.dec (bits w 3 3)
  req (fE_1 w == 0 && bits w 12 1 == 0 && bits w 0 3 == 0) .reservedField (return ⟨bits w 6 6, sc⟩)

def InvpgOp.enc (o : InvpgOp) : Nat :=
  packE 0 0 o.a (o.scope.code * 8)

def TrampOp.dec (w : Nat) : Dec TrampOp :=
  .ok ⟨bits w 0 26⟩

def TrampOp.enc (o : TrampOp) : Nat :=
  o.id

/-! The opcode map (06 R231 to R240). -/

/-- Major 0x1 by its FN. -/
def decodeMajor01 (w : Nat) : Dec Instr :=
  match fnOf w with
  | 0 => (RRR.dec w).map .iadd
  | 1 => (RRR.dec w).map .isub
  | 2 => (RRR.dec w).map .imul
  | 3 => (RRR.dec w).map .imulh
  | 4 => (RRR.dec w).map .imad
  | 5 => (RRR.dec w).map .imin
  | 6 => (RRR.dec w).map .imax
  | 7 => (RR.dec w).map .iabs
  | _ => .error .unassigned

/-- Major 0x2 by its FN. -/
def decodeMajor02 (w : Nat) : Dec Instr :=
  match fnOf w with
  | 0 => (RRR.dec w).map .iaddSat
  | 1 => (RRR.dec w).map .isubSat
  | 2 => (RRR.dec w).map .imulhU
  | 3 => (RRR.dec w).map .iminU
  | 4 => (RRR.dec w).map .imaxU
  | 5 => (RR.dec w).map .ineg
  | 6 => (RRR.dec w).map .idiv
  | 7 => (RRR.dec w).map .irem
  | _ => .error .unassigned

/-- Major 0x3 by its FN. -/
def decodeMajor03 (w : Nat) : Dec Instr :=
  match fnOf w with
  | 0 => (RRR.dec w).map .iadd64
  | 1 => (RRR.dec w).map .isub64
  | 2 => (RRR.dec w).map .imul64
  | 3 => (RRR.dec w).map .imad64
  | 4 => (RRR.dec w).map .imin64
  | 5 => (RRR.dec w).map .imax64
  | 6 => (RRR.dec w).map .idivU
  | 7 => (RRR.dec w).map .iremU
  | _ => .error .unassigned

/-- Major 0x4 by its FN. -/
def decodeMajor04 (w : Nat) : Dec Instr :=
  match fnOf w with
  | 0 => (RRR.dec w).map .and
  | 1 => (RRR.dec w).map .or
  | 2 => (RRR.dec w).map .xor
  | 3 => (RRR.dec w).map .shl
  | 4 => (RRR.dec w).map .shr
  | 5 => (RRR.dec w).map .sar
  | 6 => (RRR.dec w).map .rot
  | 7 => (RRR.dec w).map .ishrr
  | _ => .error .unassigned

/-- Major 0x5 by its FN. -/
def decodeMajor05 (w : Nat) : Dec Instr :=
  match fnOf w with
  | 0 => (RRR.dec w).map .bfx
  | 1 => (RRR.dec w).map .bfxU
  | 2 => (RRR.dec w).map .bfi
  | 3 => (RR.dec w).map .clz
  | 4 => (RR.dec w).map .popc
  | 5 => (RR.dec w).map .brev
  | 6 => (RRR.dec w).map .lea
  | _ => .error .unassigned

/-- Major 0x6 by its FN. -/
def decodeMajor06 (w : Nat) : Dec Instr :=
  match fnOf w with
  | 0 => (RRI.dec w).map .iaddImm
  | 1 => (RRI.dec w).map .imulImm
  | 2 => (RRI.dec w).map .andImm
  | 3 => (RRI.dec w).map .orImm
  | 4 => (RRI.dec w).map .xorImm
  | 5 => (RRI.dec w).map .shlImm
  | 6 => (RRI.dec w).map .shrImm
  | 7 => (RRI.dec w).map .sarImm
  | _ => .error .unassigned

/-- Major 0x7 by its FN. -/
def decodeMajor07 (w : Nat) : Dec Instr :=
  match fnOf w with
  | 0 => (PRR.dec w).map .isetEq
  | 1 => (PRR.dec w).map .isetNe
  | 2 => (PRR.dec w).map .isetLt
  | 3 => (PRR.dec w).map .isetLe
  | 4 => (PRR.dec w).map .isetLtU
  | 5 => (PRR.dec w).map .isetLeU
  | 6 => (PRR.dec w).map .isetEq64
  | 7 => (PRR.dec w).map .isetLt64
  | _ => .error .unassigned

/-- Major 0x8 by its FN. -/
def decodeMajor08 (w : Nat) : Dec Instr :=
  match fnOf w with
  | 0 => (RRR.dec w).map .faddF32
  | 1 => (RRR.dec w).map .fsubF32
  | 2 => (RRR.dec w).map .fmulF32
  | 3 => (RRR.dec w).map .ffmaF32
  | 4 => (RRR.dec w).map .fdivF32
  | 5 => (RRR.dec w).map .fminF32
  | 6 => (RRR.dec w).map .fmaxF32
  | 7 => (RR.dec w).map .fclassF32
  | _ => .error .unassigned

/-- Major 0x9 by its FN. -/
def decodeMajor09 (w : Nat) : Dec Instr :=
  match fnOf w with
  | 0 => (RR.dec w).map .frcpF32
  | 1 => (RR.dec w).map .frsqF32
  | 2 => (RR.dec w).map .fsqrtF32
  | 3 => (RR.dec w).map .fexp2F32
  | 4 => (RR.dec w).map .flog2F32
  | _ => .error .unassigned

/-- Major 0xa by its FN. -/
def decodeMajor0A (w : Nat) : Dec Instr :=
  match fnOf w with
  | 0 => (RRR.dec w).map .faddBf16x2
  | 1 => (RRR.dec w).map .fsubBf16x2
  | 2 => (RRR.dec w).map .fmulBf16x2
  | 3 => (RRR.dec w).map .ffmaBf16x2
  | 4 => (RRR.dec w).map .fminBf16x2
  | 5 => (RRR.dec w).map .fmaxBf16x2
  | _ => .error .unassigned

/-- Major 0xb by its FN. -/
def decodeMajor0B (w : Nat) : Dec Instr :=
  match fnOf w with
  | 0 => (RRR.dec w).map .faddF16x2
  | 1 => (RRR.dec w).map .fsubF16x2
  | 2 => (RRR.dec w).map .fmulF16x2
  | 3 => (RRR.dec w).map .ffmaF16x2
  | 4 => (RRR.dec w).map .fminF16x2
  | 5 => (RRR.dec w).map .fmaxF16x2
  | _ => .error .unassigned

/-- Major 0xc by its FN. -/
def decodeMajor0C (w : Nat) : Dec Instr :=
  match fnOf w with
  | 0 => (PRR.dec w).map .fsetEq
  | 1 => (PRR.dec w).map .fsetNe
  | 2 => (PRR.dec w).map .fsetLt
  | 3 => (PRR.dec w).map .fsetLe
  | 4 => (PRR.dec w).map .fsetGt
  | 5 => (PRR.dec w).map .fsetGe
  | 6 => (PRR.dec w).map .fsetUn
  | 7 => (PRR.dec w).map .fsetOrd
  | _ => .error .unassigned

/-- Major 0x11 by its FN. -/
def decodeMajor11 (w : Nat) : Dec Instr :=
  match fnOf w with
  | 0 => (RRR.dec w).map .quantRn8F32
  | 1 => (RRR.dec w).map .quantRn8Bf16
  | 2 => (RRR.dec w).map .quantRn12F32
  | 3 => (RRR.dec w).map .quantRn12Bf16
  | 4 => (RRR.dec w).map .dquantRn8
  | 5 => (RRR.dec w).map .dquantRn12
  | 6 => (RRR.dec w).map .trchk
  | _ => .error .unassigned

/-- Major 0x14 by its FN. -/
def decodeMajor14 (w : Nat) : Dec Instr :=
  match fnOf w with
  | 0 => (RRR.dec w).map .shflIdx
  | 1 => (RRR.dec w).map .shflUp
  | 2 => (RRR.dec w).map .shflDown
  | 3 => (RRR.dec w).map .shflXor
  | 4 => (RR.dec w).map .matchLanes
  | 5 => (RR.dec w).map .voteBallot
  | 6 => (RRR.dec w).map .ppfx
  | 7 => (RRR.dec w).map .isect
  | _ => .error .unassigned

/-- Major 0x15 by its FN. -/
def decodeMajor15 (w : Nat) : Dec Instr :=
  match fnOf w with
  | 0 => (PR.dec w).map .voteAny
  | 1 => (PR.dec w).map .voteAll
  | 2 => (RR.dec w).map .lpfxAddI32
  | 3 => (RR.dec w).map .lpfxAddF32
  | 4 => (RR.dec w).map .lredAddI32
  | 5 => (RR.dec w).map .lredAddF32
  | 6 => (RR.dec w).map .lredMinF32
  | 7 => (RR.dec w).map .lredMaxF32
  | _ => .error .unassigned

/-- Major 0x16 by its FN. -/
def decodeMajor16 (w : Nat) : Dec Instr :=
  match fnOf w with
  | 0 => (RR.dec w).map .lredMulF32
  | 1 => (RR.dec w).map .lredMinI32
  | 2 => (RR.dec w).map .lredMaxI32
  | 3 => (RR.dec w).map .lredAnd
  | 4 => (RR.dec w).map .lredOr
  | 5 => (RR.dec w).map .lredXor
  | _ => .error .unassigned

/-- Major 0x18 by its FN. -/
def decodeMajor18 (w : Nat) : Dec Instr :=
  match fnOf w with
  | 0 => (RR.dec w).map .mov
  | 1 => (SelOp.dec w).map .sel
  | 2 => (RS.dec w).map .movs
  | 3 => (SRR.dec w).map .movsGet
  | _ => .error .unassigned

/-- Major 0x19 by its FN. -/
def decodeMajor19 (w : Nat) : Dec Instr :=
  match fnOf w with
  | 0 => (PPP.dec w).map .psetAnd
  | 1 => (PPP.dec w).map .psetOr
  | 2 => (PPP.dec w).map .psetXor
  | 3 => (PPP.dec w).map .psetAndn
  | 4 => (RW.dec w).map .pmov
  | 5 => (RP.dec w).map .pmovTov
  | 6 => (PR.dec w).map .pmovFromv
  | _ => .error .unassigned

/-- Major 0x1a by its FN. -/
def decodeMajor1A (w : Nat) : Dec Instr :=
  match fnOf w with
  | 0 => (RI.dec w).map .movi
  | _ => .error .unassigned

/-- Major 0x1c by its FN. -/
def decodeMajor1C (w : Nat) : Dec Instr :=
  match fnOf w with
  | 0 => (SSS.dec w).map .sadd
  | 1 => (SSS.dec w).map .ssub
  | 2 => (SSS.dec w).map .smul
  | 3 => (SSS.dec w).map .sand
  | 4 => (SSS.dec w).map .sor
  | 5 => (SSS.dec w).map .sxor
  | 6 => (SSS.dec w).map .sshl
  | 7 => (SSS.dec w).map .sshr
  | _ => .error .unassigned

/-- Major 0x1d by its FN. -/
def decodeMajor1D (w : Nat) : Dec Instr :=
  match fnOf w with
  | 0 => (SSS.dec w).map .ssetEq
  | 1 => (SSS.dec w).map .ssetNe
  | 2 => (SSS.dec w).map .ssetLt
  | 3 => (SSS.dec w).map .ssetLe
  | 4 => (SSS.dec w).map .ssetLtU
  | 5 => (SSS.dec w).map .ssetLeU
  | _ => .error .unassigned

/-- Major 0x1e by its FN. -/
def decodeMajor1E (w : Nat) : Dec Instr :=
  match fnOf w with
  | 0 => (SMovOp.dec w).map .smov
  | 1 => (SMemOp.dec w).map .sldg
  | 2 => (SMemOp.dec w).map .sstg
  | _ => .error .unassigned

/-- Major 0x2b by its SUB. -/
def decodeMajor2B (w : Nat) : Dec Instr :=
  match subOf w with
  | 0 => (RangeOp.dec w).map .cflush
  | 1 => (RangeOp.dec w).map .cinv
  | 2 => (CprefOp.dec w).map .cpref
  | 3 => (SS.dec w).map .seal
  | 4 => (SS.dec w).map .unseal
  | _ => .error .unassigned

/-- Major 0x2c by its SUB. -/
def decodeMajor2C (w : Nat) : Dec Instr :=
  match subOf w with
  | 0 => (BarOp.dec w).map .bsig
  | 1 => (BarOp.dec w).map .bwait
  | 2 => (BrdOp.dec w).map .brd
  | 3 => (BindOp.dec w).map .bind
  | 4 => (UnbindOp.dec w).map .unbind
  | _ => .error .unassigned

/-- Major 0x2d by its SUB. -/
def decodeMajor2D (w : Nat) : Dec Instr :=
  match subOf w with
  | 0 => (FenceOp.dec w).map .fence
  | 1 => (TakeOp.dec w).map .take
  | 2 => (GiveOp.dec w).map .give
  | 3 => (TakeOp.dec w).map .ownq
  | _ => .error .unassigned

/-- Major 0x2e by its SUB. -/
def decodeMajor2E (w : Nat) : Dec Instr :=
  match subOf w with
  | 0 => (CpyOp.dec w).map .cpy
  | 1 => (CpyOp.dec w).map .cpys
  | 2 => (CpyOp.dec w).map .cpym
  | 3 => (CpyOp.dec w).map .cpyw
  | 4 => (CpyOp.dec w).map .cpyb
  | _ => .error .unassigned

/-- Major 0x2f by its SUB. -/
def decodeMajor2F (w : Nat) : Dec Instr :=
  match subOf w with
  | 0 => (MmaOp.dec w).map .mmaA33
  | 1 => (MmaOp.dec w).map .mmaA48
  | 2 => (MmaOp.dec w).map .mmazA33
  | 3 => (MmaOp.dec w).map .mmazA48
  | 4 => (MleaseOp.dec w).map .mlease
  | 5 => req (w == 0xbc500000) .reservedField (.ok .mrel)
  | 6 => (MacqOp.dec w).map .macq
  | 7 => (AcvtOp.dec w).map .acvt
  | 8 => (AldOp.dec w).map .ald
  | 9 => (AstOp.dec w).map .ast
  | _ => .error .unassigned

/-- Major 0x30 by its SUB. -/
def decodeMajor30 (w : Nat) : Dec Instr :=
  match subOf w with
  | 0 => (SS.dec w).map .tdef
  | 1 => (SS.dec w).map .tdrop
  | 2 => (TqryOp.dec w).map .tqry
  | 3 => (TgathOp.dec w).map .tgathI32
  | 4 => (TgathOp.dec w).map .tgathF32
  | _ => .error .unassigned

/-- Major 0x31 by its SUB. -/
def decodeMajor31 (w : Nat) : Dec Instr :=
  match subOf w with
  | 0 => (SpldOp.dec w).map .spld
  | 1 => (SpstOp.dec w).map .spst
  | 2 => (SpldOp.dec w).map .spnext
  | 3 => (SpldOp.dec w).map .spleaf
  | 4 => (SpEngineOp.dec w).map .spdense
  | 5 => (SpEngineOp.dec w).map .spimport
  | _ => .error .unassigned

/-- Major 0x32 by its SUB. -/
def decodeMajor32 (w : Nat) : Dec Instr :=
  match subOf w with
  | 0 => (EnqOp.dec w).map .enq
  | 1 => (DeqOp.dec w).map .deq
  | 2 => (QstatOp.dec w).map .qstat
  | _ => .error .unassigned

/-- Major 0x33 by its SUB. -/
def decodeMajor33 (w : Nat) : Dec Instr :=
  match subOf w with
  | 0 => (PreqOp.dec w).map .preq
  | _ => .error .unassigned

/-- Major 0x34 by its CND. -/
def decodeMajor34 (w : Nat) : Dec Instr :=
  match fnOf w with
  | 0 => (BrOp.dec w).map .br
  | 1 => (BrpOp.dec w).map .brpAny
  | 2 => (BrpOp.dec w).map .brpAll
  | 3 => (BrpOp.dec w).map .brpLane
  | 4 => (CallOp.dec w).map .call
  | 5 => (JumpOp.dec w).map .ret
  | 6 => (JumpOp.dec w).map .jmpi
  | _ => .error .unassigned

/-- Major 0x35 by its SUB. -/
def decodeMajor35 (w : Nat) : Dec Instr :=
  match subOf w with
  | 0 => (RegangOp.dec w).map .regang
  | 1 => req (w == 0xd4100000) .reservedField (.ok .exit)
  | 2 => req (w == 0xd4200000) .reservedField (.ok .yield)
  | 3 => req (w == 0xd4300000) .reservedField (.ok .ppt)
  | _ => .error .unassigned

/-- Major 0x3c by its SUB. -/
def decodeMajor3C (w : Nat) : Dec Instr :=
  match subOf w with
  | 0 => (TrapOp.dec w).map .trap
  | 1 => req (w == 0xf0100000) .reservedField (.ok .tret)
  | 2 => (EmretOp.dec w).map .emret
  | 3 => (SrdOp.dec w).map .srd
  | 4 => (SwrOp.dec w).map .swr
  | 5 => (SS.dec w).map .psrd
  | 6 => (SS.dec w).map .pswr
  | 7 => (InvpgOp.dec w).map .invpg
  | _ => .error .unassigned

/-- The instruction that a word encodes, before the checks of Instr.wf. -/
def decodeRaw (w : Nat) : Dec Instr :=
  match majOf w with
  | 0x1 => decodeMajor01 w
  | 0x2 => decodeMajor02 w
  | 0x3 => decodeMajor03 w
  | 0x4 => decodeMajor04 w
  | 0x5 => decodeMajor05 w
  | 0x6 => decodeMajor06 w
  | 0x7 => decodeMajor07 w
  | 0x8 => decodeMajor08 w
  | 0x9 => decodeMajor09 w
  | 0xa => decodeMajor0A w
  | 0xb => decodeMajor0B w
  | 0xc => decodeMajor0C w
  | 0x10 => (CvtOp.dec w).map .cvt
  | 0x11 => decodeMajor11 w
  | 0x14 => decodeMajor14 w
  | 0x15 => decodeMajor15 w
  | 0x16 => decodeMajor16 w
  | 0x18 => decodeMajor18 w
  | 0x19 => decodeMajor19 w
  | 0x1a => decodeMajor1A w
  | 0x1c => decodeMajor1C w
  | 0x1d => decodeMajor1D w
  | 0x1e => decodeMajor1E w
  | 0x20 => (LdgOp.dec w).map .ldg
  | 0x21 => (LdlOp.dec w).map .ldl
  | 0x22 => (LdsOp.dec w).map .lds
  | 0x23 => (LdsOp.dec w).map .ldw
  | 0x24 => (StOp.dec w).map .stg
  | 0x25 => (StlOp.dec w).map .stl
  | 0x26 => (StOp.dec w).map .sts
  | 0x27 => (StOp.dec w).map .stw
  | 0x28 => (AtomOp.dec w).map .atom
  | 0x29 => (RedOp.dec w).map .red
  | 0x2a => if bits w 1 1 = 0 then (AtomsOp.dec w).map .atoms else (RedsOp.dec w).map .reds
  | 0x2b => decodeMajor2B w
  | 0x2c => decodeMajor2C w
  | 0x2d => decodeMajor2D w
  | 0x2e => decodeMajor2E w
  | 0x2f => decodeMajor2F w
  | 0x30 => decodeMajor30 w
  | 0x31 => decodeMajor31 w
  | 0x32 => decodeMajor32 w
  | 0x33 => decodeMajor33 w
  | 0x34 => decodeMajor34 w
  | 0x35 => decodeMajor35 w
  | 0x3c => decodeMajor3C w
  | 0x3d => (TrampOp.dec w).map .tramp
  | 0x3f => .error .hintWord
  | _ => .error .reservedMajor

/-- Decodes one instruction word (06 R216 to R241). -/
def decodeWord (w : Nat) : Dec Instr :=
  if w = 0xFFFFFFFF then .error .allOnes
  else
    match decodeRaw w with
    | .ok i => req i.wf .illFormed (.ok i)
    | .error e => .error e

/-- The word of an instruction; an event has none. -/
def encodeWord : Instr → Option Nat
  | .iadd o => some (0x4000000 + o.enc)
  | .isub o => some (0x4800000 + o.enc)
  | .imul o => some (0x5000000 + o.enc)
  | .imulh o => some (0x5800000 + o.enc)
  | .imad o => some (0x6000000 + o.enc)
  | .imin o => some (0x6800000 + o.enc)
  | .imax o => some (0x7000000 + o.enc)
  | .iabs o => some (0x7800000 + o.enc)
  | .iaddSat o => some (0x8000000 + o.enc)
  | .isubSat o => some (0x8800000 + o.enc)
  | .imulhU o => some (0x9000000 + o.enc)
  | .iminU o => some (0x9800000 + o.enc)
  | .imaxU o => some (0xa000000 + o.enc)
  | .ineg o => some (0xa800000 + o.enc)
  | .idiv o => some (0xb000000 + o.enc)
  | .irem o => some (0xb800000 + o.enc)
  | .iadd64 o => some (0xc000000 + o.enc)
  | .isub64 o => some (0xc800000 + o.enc)
  | .imul64 o => some (0xd000000 + o.enc)
  | .imad64 o => some (0xd800000 + o.enc)
  | .imin64 o => some (0xe000000 + o.enc)
  | .imax64 o => some (0xe800000 + o.enc)
  | .idivU o => some (0xf000000 + o.enc)
  | .iremU o => some (0xf800000 + o.enc)
  | .and o => some (0x10000000 + o.enc)
  | .or o => some (0x10800000 + o.enc)
  | .xor o => some (0x11000000 + o.enc)
  | .shl o => some (0x11800000 + o.enc)
  | .shr o => some (0x12000000 + o.enc)
  | .sar o => some (0x12800000 + o.enc)
  | .rot o => some (0x13000000 + o.enc)
  | .ishrr o => some (0x13800000 + o.enc)
  | .bfx o => some (0x14000000 + o.enc)
  | .bfxU o => some (0x14800000 + o.enc)
  | .bfi o => some (0x15000000 + o.enc)
  | .clz o => some (0x15800000 + o.enc)
  | .popc o => some (0x16000000 + o.enc)
  | .brev o => some (0x16800000 + o.enc)
  | .lea o => some (0x17000000 + o.enc)
  | .iaddImm o => some (0x18000000 + o.enc)
  | .imulImm o => some (0x18800000 + o.enc)
  | .andImm o => some (0x19000000 + o.enc)
  | .orImm o => some (0x19800000 + o.enc)
  | .xorImm o => some (0x1a000000 + o.enc)
  | .shlImm o => some (0x1a800000 + o.enc)
  | .shrImm o => some (0x1b000000 + o.enc)
  | .sarImm o => some (0x1b800000 + o.enc)
  | .isetEq o => some (0x1c000000 + o.enc)
  | .isetNe o => some (0x1c800000 + o.enc)
  | .isetLt o => some (0x1d000000 + o.enc)
  | .isetLe o => some (0x1d800000 + o.enc)
  | .isetLtU o => some (0x1e000000 + o.enc)
  | .isetLeU o => some (0x1e800000 + o.enc)
  | .isetEq64 o => some (0x1f000000 + o.enc)
  | .isetLt64 o => some (0x1f800000 + o.enc)
  | .faddF32 o => some (0x20000000 + o.enc)
  | .fsubF32 o => some (0x20800000 + o.enc)
  | .fmulF32 o => some (0x21000000 + o.enc)
  | .ffmaF32 o => some (0x21800000 + o.enc)
  | .fdivF32 o => some (0x22000000 + o.enc)
  | .fminF32 o => some (0x22800000 + o.enc)
  | .fmaxF32 o => some (0x23000000 + o.enc)
  | .fclassF32 o => some (0x23800000 + o.enc)
  | .frcpF32 o => some (0x24000000 + o.enc)
  | .frsqF32 o => some (0x24800000 + o.enc)
  | .fsqrtF32 o => some (0x25000000 + o.enc)
  | .fexp2F32 o => some (0x25800000 + o.enc)
  | .flog2F32 o => some (0x26000000 + o.enc)
  | .faddBf16x2 o => some (0x28000000 + o.enc)
  | .fsubBf16x2 o => some (0x28800000 + o.enc)
  | .fmulBf16x2 o => some (0x29000000 + o.enc)
  | .ffmaBf16x2 o => some (0x29800000 + o.enc)
  | .fminBf16x2 o => some (0x2a000000 + o.enc)
  | .fmaxBf16x2 o => some (0x2a800000 + o.enc)
  | .faddF16x2 o => some (0x2c000000 + o.enc)
  | .fsubF16x2 o => some (0x2c800000 + o.enc)
  | .fmulF16x2 o => some (0x2d000000 + o.enc)
  | .ffmaF16x2 o => some (0x2d800000 + o.enc)
  | .fminF16x2 o => some (0x2e000000 + o.enc)
  | .fmaxF16x2 o => some (0x2e800000 + o.enc)
  | .fsetEq o => some (0x30000000 + o.enc)
  | .fsetNe o => some (0x30800000 + o.enc)
  | .fsetLt o => some (0x31000000 + o.enc)
  | .fsetLe o => some (0x31800000 + o.enc)
  | .fsetGt o => some (0x32000000 + o.enc)
  | .fsetGe o => some (0x32800000 + o.enc)
  | .fsetUn o => some (0x33000000 + o.enc)
  | .fsetOrd o => some (0x33800000 + o.enc)
  | .cvt o => some (0x40000000 + o.enc)
  | .quantRn8F32 o => some (0x44000000 + o.enc)
  | .quantRn8Bf16 o => some (0x44800000 + o.enc)
  | .quantRn12F32 o => some (0x45000000 + o.enc)
  | .quantRn12Bf16 o => some (0x45800000 + o.enc)
  | .dquantRn8 o => some (0x46000000 + o.enc)
  | .dquantRn12 o => some (0x46800000 + o.enc)
  | .trchk o => some (0x47000000 + o.enc)
  | .shflIdx o => some (0x50000000 + o.enc)
  | .shflUp o => some (0x50800000 + o.enc)
  | .shflDown o => some (0x51000000 + o.enc)
  | .shflXor o => some (0x51800000 + o.enc)
  | .matchLanes o => some (0x52000000 + o.enc)
  | .voteBallot o => some (0x52800000 + o.enc)
  | .ppfx o => some (0x53000000 + o.enc)
  | .isect o => some (0x53800000 + o.enc)
  | .voteAny o => some (0x54000000 + o.enc)
  | .voteAll o => some (0x54800000 + o.enc)
  | .lpfxAddI32 o => some (0x55000000 + o.enc)
  | .lpfxAddF32 o => some (0x55800000 + o.enc)
  | .lredAddI32 o => some (0x56000000 + o.enc)
  | .lredAddF32 o => some (0x56800000 + o.enc)
  | .lredMinF32 o => some (0x57000000 + o.enc)
  | .lredMaxF32 o => some (0x57800000 + o.enc)
  | .lredMulF32 o => some (0x58000000 + o.enc)
  | .lredMinI32 o => some (0x58800000 + o.enc)
  | .lredMaxI32 o => some (0x59000000 + o.enc)
  | .lredAnd o => some (0x59800000 + o.enc)
  | .lredOr o => some (0x5a000000 + o.enc)
  | .lredXor o => some (0x5a800000 + o.enc)
  | .mov o => some (0x60000000 + o.enc)
  | .sel o => some (0x60800000 + o.enc)
  | .movs o => some (0x61000000 + o.enc)
  | .movsGet o => some (0x61800000 + o.enc)
  | .psetAnd o => some (0x64000000 + o.enc)
  | .psetOr o => some (0x64800000 + o.enc)
  | .psetXor o => some (0x65000000 + o.enc)
  | .psetAndn o => some (0x65800000 + o.enc)
  | .pmov o => some (0x66000000 + o.enc)
  | .pmovTov o => some (0x66800000 + o.enc)
  | .pmovFromv o => some (0x67000000 + o.enc)
  | .movi o => some (0x68000000 + o.enc)
  | .sadd o => some (0x70000000 + o.enc)
  | .ssub o => some (0x70800000 + o.enc)
  | .smul o => some (0x71000000 + o.enc)
  | .sand o => some (0x71800000 + o.enc)
  | .sor o => some (0x72000000 + o.enc)
  | .sxor o => some (0x72800000 + o.enc)
  | .sshl o => some (0x73000000 + o.enc)
  | .sshr o => some (0x73800000 + o.enc)
  | .ssetEq o => some (0x74000000 + o.enc)
  | .ssetNe o => some (0x74800000 + o.enc)
  | .ssetLt o => some (0x75000000 + o.enc)
  | .ssetLe o => some (0x75800000 + o.enc)
  | .ssetLtU o => some (0x76000000 + o.enc)
  | .ssetLeU o => some (0x76800000 + o.enc)
  | .smov o => some (0x78000000 + o.enc)
  | .sldg o => some (0x78800000 + o.enc)
  | .sstg o => some (0x79000000 + o.enc)
  | .ldg o => some (0x80000000 + o.enc)
  | .ldl o => some (0x84000000 + o.enc)
  | .lds o => some (0x88000000 + o.enc)
  | .ldw o => some (0x8c000000 + o.enc)
  | .stg o => some (0x90000000 + o.enc)
  | .stl o => some (0x94000000 + o.enc)
  | .sts o => some (0x98000000 + o.enc)
  | .stw o => some (0x9c000000 + o.enc)
  | .atom o => some (0xa0000000 + o.enc)
  | .red o => some (0xa4000000 + o.enc)
  | .atoms o => some (0xa8000000 + o.enc)
  | .reds o => some (0xa8000000 + o.enc)
  | .cflush o => some (0xac000000 + o.enc)
  | .cinv o => some (0xac100000 + o.enc)
  | .cpref o => some (0xac200000 + o.enc)
  | .seal o => some (0xac300000 + o.enc)
  | .unseal o => some (0xac400000 + o.enc)
  | .bsig o => some (0xb0000000 + o.enc)
  | .bwait o => some (0xb0100000 + o.enc)
  | .brd o => some (0xb0200000 + o.enc)
  | .bind o => some (0xb0300000 + o.enc)
  | .unbind o => some (0xb0400000 + o.enc)
  | .fence o => some (0xb4000000 + o.enc)
  | .take o => some (0xb4100000 + o.enc)
  | .give o => some (0xb4200000 + o.enc)
  | .ownq o => some (0xb4300000 + o.enc)
  | .cpy o => some (0xb8000000 + o.enc)
  | .cpys o => some (0xb8100000 + o.enc)
  | .cpym o => some (0xb8200000 + o.enc)
  | .cpyw o => some (0xb8300000 + o.enc)
  | .cpyb o => some (0xb8400000 + o.enc)
  | .mmaA33 o => some (0xbc000000 + o.enc)
  | .mmaA48 o => some (0xbc100000 + o.enc)
  | .mmazA33 o => some (0xbc200000 + o.enc)
  | .mmazA48 o => some (0xbc300000 + o.enc)
  | .mlease o => some (0xbc400000 + o.enc)
  | .mrel => some 0xbc500000
  | .macq o => some (0xbc600000 + o.enc)
  | .acvt o => some (0xbc700000 + o.enc)
  | .ald o => some (0xbc800000 + o.enc)
  | .ast o => some (0xbc900000 + o.enc)
  | .tdef o => some (0xc0000000 + o.enc)
  | .tdrop o => some (0xc0100000 + o.enc)
  | .tqry o => some (0xc0200000 + o.enc)
  | .tgathI32 o => some (0xc0300000 + o.enc)
  | .tgathF32 o => some (0xc0400000 + o.enc)
  | .spld o => some (0xc4000000 + o.enc)
  | .spst o => some (0xc4100000 + o.enc)
  | .spnext o => some (0xc4200000 + o.enc)
  | .spleaf o => some (0xc4300000 + o.enc)
  | .spdense o => some (0xc4400000 + o.enc)
  | .spimport o => some (0xc4500000 + o.enc)
  | .enq o => some (0xc8000000 + o.enc)
  | .deq o => some (0xc8100000 + o.enc)
  | .qstat o => some (0xc8200000 + o.enc)
  | .preq o => some (0xcc000000 + o.enc)
  | .br o => some (0xd0000000 + o.enc)
  | .brpAny o => some (0xd0800000 + o.enc)
  | .brpAll o => some (0xd1000000 + o.enc)
  | .brpLane o => some (0xd1800000 + o.enc)
  | .call o => some (0xd2000000 + o.enc)
  | .ret o => some (0xd2800000 + o.enc)
  | .jmpi o => some (0xd3000000 + o.enc)
  | .regang o => some (0xd4000000 + o.enc)
  | .exit => some 0xd4100000
  | .yield => some 0xd4200000
  | .ppt => some 0xd4300000
  | .trap o => some (0xf0000000 + o.enc)
  | .tret => some 0xf0100000
  | .emret o => some (0xf0200000 + o.enc)
  | .srd o => some (0xf0300000 + o.enc)
  | .swr o => some (0xf0400000 + o.enc)
  | .psrd o => some (0xf0500000 + o.enc)
  | .pswr o => some (0xf0600000 + o.enc)
  | .invpg o => some (0xf0700000 + o.enc)
  | .tramp o => some (0xf4000000 + o.enc)
  | .undefinedWord => none
  | .deferredFault _ _ _ => none
  | .copyComplete _ _ => none
  | .mmaExecute _ => none
  | .acvtExecute _ => none
  | .spdenseComplete _ _ => none
  | .spimportComplete _ _ => none
  | .bwaitWake _ _ => none
  | .wdog _ _ => none
  | .matrixLeaseGrant _ => none
  | .leaseIdleEnd _ => none
  | .promotion _ _ => none
  | .promotionTimeout _ _ => none
  | .launchComplete _ => none
  | .dispatchDecision _ => none
  | .dispatchHoldTimeout => none
  | .prefetchRequest _ => none
  | .teamPlacement _ => none
  | .wideTeamPlacement _ => none
  | .coresidentPlacement _ => none
  | .energyWindowStart => none
  | .lightFault _ _ => none
  | .nresRetry _ _ => none
  | .fetchFill _ => none
  | .partmapWrite _ => none
  | .qbanksWrite _ _ => none
  | .stop _ _ => none
  | .frz _ _ => none
  | .stopdlExpire _ => none
  | .partitionResume _ _ => none
  | .contextCreate _ _ _ => none
  | .contextFree _ _ _ => none
  | .shootdown _ _ _ => none
  | .shootdownPurge _ _ _ => none
  | .resume _ _ _ => none
  | .resumeEnd _ _ _ => none
  | .queueCreate _ _ => none
  | .queueDestroy _ _ => none
  | .kill _ _ _ => none
  | .exchange _ _ _ => none
  | .spill _ _ _ => none
  | .fill _ _ _ => none
  | .resetCore _ => none
  | .resetCluster _ => none
  | .resetDie _ => none
  | .uncorrectableStateError _ _ => none
  | .unresponsiveTimeout _ _ => none
  | .resetComplete => none
  | .mailboxTake _ => none
  | .retirePage _ => none
  | .readFirmwareVersion _ => none
  | .readDieTelemetry _ => none
  | .mailboxUnknownOp _ => none
  | .connectionOpen _ => none
  | .connectionClose _ => none
  | .wltWrite _ => none
  | .wltRead _ => none
  | .wltReadresp _ => none
  | .wltAck _ => none
  | .wltSendKick _ => none
  | .wltRetransmitTimeout _ => none
  | .arpRequest _ => none
  | .neighbourSolicitation _ => none
  | .icmpEchoRequest _ => none
  | .ringRecheck => none
  | .submit _ => none
  | .nop _ => none
  | .unknownRingOp _ => none
  | .attestationGo => none
  | .recoveryGo => none
  | .powerOn => none
  | .mainPowerOff => none
  | .supplySag _ => none
  | .stretchEnd _ => none
  | .smbusReadPhase => none
  | .smbusReadPower => none
  | .smbusReadTemperature => none
  | .smbusReadEnergy => none
  | .privilegedRegisterWrite _ _ _ => none
  | .linkUp => none
  | .smbusCommandNotListed _ => none

/-- The bytes of a word as memory holds it, lowest address first (06 R216). -/
def wordBytes (w : Nat) : List Byte :=
  [BitVec.ofNat 8 w, BitVec.ofNat 8 (w / 256), BitVec.ofNat 8 (w / 65536), BitVec.ofNat 8 (w / 16777216)]

/-- The word that four bytes hold, lowest address first (06 R216). -/
def wordOfBytes (bs : List Byte) : Nat :=
  match bs with
  | b0 :: b1 :: b2 :: b3 :: _ => b0.toNat + 256 * b1.toNat + 65536 * b2.toNat + 16777216 * b3.toNat
  | _ => 0

/-- Decodes an instruction from its bytes, giving the rest. -/
def decodeBytes (bs : List Byte) : Dec (Instr × List Byte) :=
  match bs with
  | _ :: _ :: _ :: _ :: rest => (decodeWord (wordOfBytes bs)).map (·, rest)
  | _ => .error .unassigned

/-- The bytes of a well-formed instruction word. -/
def encode (i : Instr) : Option (List Byte) := (encodeWord i).map wordBytes

/-- What the decoder reads from an instruction of nbits bits numbered as spec/opcode_table.json numbers
them. Every instruction is one word of 32 bits. -/
def decodeTableWord (_nbits w : Nat) : Option Instr :=
  match decodeBytes (wordBytes (w % 4294967296)) with
  | .ok (i, _) => some i
  | .error _ => none

/-! Hint words (06 R225 to R228). -/

/-- A hint word with the data words that follow a liveness hint. -/
structure Hint where
  word : Nat
  data : List Nat
  deriving DecidableEq, Repr

/-- A word of MAJ 0x3F other than 0xFFFFFFFF is a hint (06 R225). -/
def isHint (w : Nat) : Bool := majOf w == 0x3F && w != 0xFFFFFFFF

/-- KIND, bits [25:22]. -/
def hintKind (w : Nat) : Nat := bits w 22 4

/-- PAYLOAD, bits [21:0]. -/
def hintPayload (w : Nat) : Nat := bits w 0 22

/-- The data words that follow a hint word: four for each map a liveness hint announces (06 R228). -/
def hintDataWords (w : Nat) : Nat :=
  if hintKind w = 7 then 4 * bits w 8 1 + 4 * bits w 9 1 else 0

/-- The first hint of a kind. -/
def Hint.find (k : Nat) : List Hint → Option Hint
  | [] => none
  | h :: hs => if hintKind h.word = k then some h else Hint.find k hs

/-- The number of hints of a kind. -/
def Hint.count (k : Nat) : List Hint → Nat
  | [] => 0
  | h :: hs => (if hintKind h.word = k then 1 else 0) + Hint.count k hs

/-- The word directly after the first wide-immediate hint, when it is one too (06 R226). -/
def Hint.wideSecond : List Hint → Option Nat
  | [] => none
  | h :: hs =>
    if hintKind h.word = 0 then
      match hs with
      | [] => none
      | h' :: _ => if hintKind h'.word = 0 then some h'.word else none
    else Hint.wideSecond hs

/-- The value of the wide-immediate hint or pair (06 R226). -/
def wideImm (hs : List Hint) : Option Int :=
  match Hint.find 0 hs with
  | none => none
  | some h =>
    match Hint.wideSecond hs with
    | none => some (signed 22 (hintPayload h.word))
    | some w2 => some (signed 32 (hintPayload h.word + 4194304 * bits w2 0 10))

/-- The upper 22 bits of the displacement that a far-displacement hint gives. -/
def farDisp (hs : List Hint) : Option Nat := (Hint.find 1 hs).map (fun h => hintPayload h.word)

/-- The third source that a hint names. -/
def thirdSource (hs : List Hint) : Option Src :=
  match Hint.find 2 hs with
  | none => none
  | some h =>
    match Src.dec (bits h.word 0 7) with
    | .ok s => some s
    | .error _ => none

/-- The guard predicate that a hint names, and whether it is negated. -/
def guardHint (hs : List Hint) : Option (Nat × Bool) :=
  (Hint.find 3 hs).map (fun h => (bits h.word 0 3, isOne (bits h.word 3 1)))

/-- The rounding mode of a hint, RNE without one (06 R226). -/
def roundingOf (hs : List Hint) : Rounding :=
  match Hint.find 4 hs with
  | none => .rne
  | some h =>
    match bits h.word 0 2 with
    | 0 => .rne
    | 1 => .rtz
    | 2 => .rup
    | _ => .rdn

/-- The block length of a hint. -/
def blockLength (hs : List Hint) : Option Nat := (Hint.find 5 hs).map (fun h => bits h.word 0 7)

/-- Whether a lock hint binds. -/
def lockHint (hs : List Hint) : Bool := (Hint.find 6 hs).isSome

/-- The liveness of 06 R228: a mask of registers, of granules and of tiles; an absent map means all. -/
structure Liveness where
  regs : Nat
  granules : Nat
  tiles : Nat
  deriving DecidableEq, Repr

/-- Everything live. -/
def Liveness.all : Liveness := ⟨2 ^ 120 - 1, 2 ^ 128 - 1, 15⟩

/-- Four data words, lowest first. -/
def join4 : List Nat → Nat
  | a :: b :: c :: d :: _ => a + b * 2 ^ 32 + c * 2 ^ 64 + d * 2 ^ 96
  | _ => 0

/-- The liveness that a PPT names. -/
def livenessOf (hs : List Hint) : Liveness :=
  match Hint.find 7 hs with
  | none => .all
  | some h =>
    let reg := bits h.word 8 1 = 1
    let scr := bits h.word 9 1 = 1
    let afterReg := if reg then h.data.drop 4 else h.data
    { regs := if reg then join4 h.data else Liveness.all.regs
      granules := if scr then join4 afterReg else Liveness.all.granules
      tiles := bits h.word 0 4 }

/-- The zero bits and reserved values of a payload (06 R226, R228). -/
def Hint.payloadOk (h : Hint) : Bool :=
  match hintKind h.word with
  | 2 => bits h.word 7 15 == 0
  | 3 => bits h.word 4 18 == 0
  | 4 => bits h.word 2 20 == 0
  | 5 => bits h.word 7 15 == 0 && 1 ≤ bits h.word 0 7 && bits h.word 0 7 ≤ 64
  | 6 => hintPayload h.word == 0
  | 7 => bits h.word 10 12 == 0 && bits h.word 4 4 == 0 &&
      (bits h.word 8 1 == 0 || join4 h.data < 2 ^ 120)
  | _ => true

/-- At most one hint of each kind, but for the two words of a wide immediate, whose second has bits
[21:10] zero (06 R226, R227). -/
def hintKindsOk (hs : List Hint) : Bool :=
  (List.range 16).all (fun k =>
    if k = 0 then
      Hint.count 0 hs ≤ 1 ||
        (Hint.count 0 hs == 2 &&
          match Hint.wideSecond hs with
          | some w2 => bits w2 10 12 == 0
          | none => false)
    else Hint.count k hs ≤ 1)

/-- Whether an instruction of an immediate form may take a wide immediate: its own field is zero
(06 R220, R221, R223), and a shift immediate lies in 0 to 31 (07 R274). -/
def wideOk (i : Instr) (v : Int) : Bool :=
  match i with
  | .iaddImm o => o.imm == 0
  | .imulImm o => o.imm == 0
  | .andImm o => o.imm == 0
  | .orImm o => o.imm == 0
  | .xorImm o => o.imm == 0
  | .shlImm o => o.imm == 0 && 0 ≤ v && v ≤ 31
  | .shrImm o => o.imm == 0 && 0 ≤ v && v ≤ 31
  | .sarImm o => o.imm == 0 && 0 ≤ v && v ≤ 31
  | .movi o => o.imm == 0
  | .ldg o => o.off == 0
  | .ldl o => o.off == 0
  | .lds o => o.off == 0
  | .ldw o => o.off == 0
  | .stg o => o.off == 0
  | .stl o => o.off == 0
  | .sts o => o.off == 0
  | .stw o => o.off == 0
  | .sadd o => o.y == .imm 0
  | .ssub o => o.y == .imm 0
  | .smul o => o.y == .imm 0
  | .sand o => o.y == .imm 0
  | .sor o => o.y == .imm 0
  | .sxor o => o.y == .imm 0
  | .sshl o => o.y == .imm 0
  | .sshr o => o.y == .imm 0
  | .ssetEq o => o.y == .imm 0
  | .ssetNe o => o.y == .imm 0
  | .ssetLt o => o.y == .imm 0
  | .ssetLe o => o.y == .imm 0
  | .ssetLtU o => o.y == .imm 0
  | .ssetLeU o => o.y == .imm 0
  | .smov o => o.y == .imm 0
  | .tramp _ => true
  | _ => false

/-- The instructions that take a far displacement (06 R226). -/
def farOk : Instr → Bool
  | .br _ | .brpAny _ | .brpAll _ | .brpLane _ | .call _ | .tramp _ => true
  | _ => false

/-- The instructions that take a third source, and the width of it in registers (06 R226). -/
def thirdWidth : Instr → Option Nat
  | .ffmaF32 _ | .ffmaBf16x2 _ | .ffmaF16x2 _ | .imad _ | .bfi _ | .sel _ => some 1
  | .imad64 _ => some 2
  | _ => none

/-- Whether an instruction takes a third-source hint of this field; TRAMP takes every field that R218 does not
reject. -/
def thirdOk (i : Instr) (field : Nat) : Bool :=
  match i with
  | .tramp _ =>
    match Src.dec field with
    | .ok _ => true
    | .error _ => false
  | _ =>
    match thirdWidth i with
    | none => false
    | some n =>
      match Src.dec field with
      | .ok s => s.okAt n
      | .error _ => false

/-- The G bit of a word, where its format has one (06 R219): format A and CVT. -/
def hasGBit (maj : Nat) : Bool :=
  maj ≤ 0x05 || (0x07 ≤ maj && maj ≤ 0x19) || maj == 0x1B || (0x36 ≤ maj && maj ≤ 0x3B)

/-- Whether an instruction takes a guard hint (06 R226): not format S, majors 0x2F SUB 0x00 to 0x06,
REGANG or PPT; in format A and CVT with G = 1 alone; SEL with no third source. -/
def guardOk (i : Instr) (w : Nat) (hasThird : Bool) : Bool :=
  match i with
  | .tramp _ => true
  | .sel _ => !hasThird
  | .regang _ => false
  | .ppt => false
  | _ =>
    let maj := majOf w
    if 0x1C ≤ maj && maj ≤ 0x1F then false
    else if maj == 0x2F then decide (subOf w > 6)
    else if hasGBit maj then bits w 0 1 == 1
    else true

/-- The majors 0x08 to 0x0C and CVT take a rounding mode (06 R226). -/
def roundOk (i : Instr) (w : Nat) : Bool :=
  match i with
  | .tramp _ => true
  | _ => (0x08 ≤ majOf w && majOf w ≤ 0x0C) || majOf w == 0x10

/-- LDG under SC = 0b00 and CPREF take a block length (06 R226, 08 R320). -/
def blockOk : Instr → Bool
  | .ldg o => o.mode.isPlain
  | .cpref _ => true
  | .tramp _ => true
  | _ => false

/-- ATOM.cas and ATOM.exch take the lock hint (08 R327). -/
def lockOk : Instr → Bool
  | .atom o => o.fn == .cas || o.fn == .exch
  | .tramp _ => true
  | _ => false

/-- Whether the instruction accepts a hint (06 R226). -/
def accepts (i : Instr) (w : Nat) (hs : List Hint) (h : Hint) : Bool :=
  match hintKind h.word with
  | 0 =>
    match wideImm hs with
    | some v => wideOk i v
    | none => false
  | 1 => farOk i
  | 2 => thirdOk i (bits h.word 0 7)
  | 3 => guardOk i w ((Hint.find 2 hs).isSome)
  | 4 => roundOk i w
  | 5 => blockOk i
  | 6 => lockOk i
  | 7 =>
    match i with
    | .ppt => true
    | .tramp _ => true
    | _ => false
  | _ =>
    match i with
    | .tramp _ => true
    | _ => false

/-- Whether the hints leave their instruction defined (06 R227). -/
def hintsOk (i : Instr) (w : Nat) (hs : List Hint) : Bool :=
  decide (hs.length ≤ 4) && hintKindsOk hs && hs.all (fun h => h.payloadOk && accepts i w hs h)

/-- The instruction of a word with its hints, or none when the unit is undefined (06 R227, R241). -/
def decodeUnit (w : Nat) (hs : List Hint) : Option Instr :=
  match decodeWord w with
  | .ok i => if hintsOk i w hs then some i else none
  | .error _ => none

/-! What an emulation handler reads of a word (06 R242). -/

/-- The format class of a word. -/
def formatClass (w : Nat) : Nat :=
  let maj := majOf w
  if maj ≤ 0x05 || (0x07 ≤ maj && maj ≤ 0x0F) || (0x11 ≤ maj && maj ≤ 0x19) || maj == 0x1B ||
      (0x36 ≤ maj && maj ≤ 0x3B) then 0
  else if maj == 0x06 || maj == 0x1A then 1
  else if 0x20 ≤ maj && maj ≤ 0x27 then 2
  else if 0x1C ≤ maj && maj ≤ 0x1F then 3
  else if maj == 0x34 then 4
  else if maj == 0x3D then 7
  else if maj == 0x3F then 6
  else 5

/-- The three decoded fields ew.dst, ew.a and ew.b, as 32-bit values (06 R242). -/
def formatFields (w : Nat) : Nat × Nat × Nat :=
  match formatClass w with
  | 0 => (fA_d w, fA_a w, fA_b w)
  | 1 => (fA_d w, fA_a w, unsignedField 32 (signed 9 (bits w 0 9)))
  | 2 => (fA_d w, fA_a w, bits w 3 6)
  | 3 => (bits w 17 6, bits w 11 6, bits w 5 6)
  | 4 => (bits w 20 3, 0, unsignedField 32 (signed 20 (bits w 0 20)))
  | 5 => (fE_1 w, fE_2 w, fE_3 w)
  | 7 => (0, 0, bits w 0 26)
  | _ => (0, 0, 0)

end Sys2Proof
end

