-- ==== Sys2Proof/Machine/State.lean ====
section
/-! DEFINITION. The state of the machine as plain data: everything that INVENTORY.md lists under State,
with the value after power-on (spec 13 R435 to R440, 17 R519, and the log entries 3 and 4 where the spec
gives none). An absent key of a map stands for the reset value of what it holds.
-/

namespace Sys2Proof.Machine

/-- Why the model stops with a fault. -/
inductive Fault where
  /-- Raised by every read or write of a physical address that names no memory (03 R543: 0 to 768 GiB - 1)
  and is no link aperture address (17 R526), which only a table or a register that software filled with
  such an address leads to. Safe: the spec states no effect, and the model stops. -/
  | noPhysicalMemory (addr : Nat)
  deriving DecidableEq, Repr

/-- Why the model gives no meaning. -/
inductive Refusal where
  /-- Raised by an arm of exec for an instruction without a meaning yet. Safe: nothing is claimed. -/
  | notModelled (mnemonic : String)
  deriving DecidableEq, Repr

/-! Lanes, streams and gangs (spec 01). -/

/-- One entry of a lane's latch history (01 R47, R48) with the W-suppressed registers it still has to
write at a switch (01 R50). -/
structure LatchEntry where
  val : DWord
  pending : List (Nat × Word)
  deriving DecidableEq, Repr

/-- The causes of 10 R398, in the order of their ranks. -/
inductive Cause where
  | emu | conv | staleTid | own | align | perm | seal | nres | pool | dvz | trailer | arange | wdog | utrap
  deriving DecidableEq, Repr

/-- The location of a barrier object (08 R345): a global virtual address, or a core and the offset in the
core's whole scratchpad. -/
inductive ObjLoc where
  | global (va : Nat)
  | bank (core off : Nat)
  deriving DecidableEq, Repr

/-- A binding entry (05 R185). -/
structure Bind where
  base : Nat
  len : Nat
  obj : ObjLoc
  scope : Scope
  deriving DecidableEq, Repr

/-- What a lane blocked in BWAIT waits for (05 R206, R209, 08 R339). -/
structure BWait where
  obj : ObjLoc
  addr : Nat          -- as the instruction named it, for tw.addr
  target : DWord
  acq : Bool
  scope : Scope
  after : VAddr       -- the word after the BWAIT
  binds : List Bind   -- the entries bound to the object when the BWAIT issued (05 R185)
  again : Bool        -- after a resume: the object is to be read as though the BWAIT had just issued (08 R342)
  count : Nat         -- watchdog cycles counted so far
  limit : Nat         -- the limit of sr.wdog when the wait began (01 R60)
  deriving DecidableEq, Repr

/-- The registers an emulation entry gives to every lane of the entry (10 R407). -/
structure EmuWindow where
  word : Nat
  pc : VAddr
  hpc : VAddr
  hints : List Nat
  fmt : Nat
  dst : Nat
  a : Nat
  b : Nat
  mask : LaneMask
  deriving DecidableEq, Repr

/-- One level of a lane's handler nesting (10 R400 to R409): what its entry recorded and what its return
restores. -/
structure HandlerFrame where
  entry : Nat               -- the entry's number: lanes that entered together share it (10 R405)
  kind : Nat                -- ENTRY: 0 trap, 1 emulation, 2 trampoline
  cause : Cause
  delivered : Cause
  deferred : Bool
  pc : VAddr                -- tw.pc
  addr : DWord              -- tw.addr
  resume : VAddr            -- the address of the first hint or of the instruction
  after : VAddr             -- the word after the instruction
  done : Bool               -- the lane was marked done at the entry (08 R308)
  result : DWord            -- the lane's result then
  emu : Option EmuWindow
  w0 : DWord
  w1 : DWord
  w2 : DWord
  w3 : DWord
  hist : List LatchEntry    -- the saved history (01 R51)
  deriving DecidableEq, Repr

/-- A deferred fault that its lane has still to take (09 R358). -/
structure Deferred where
  cause : Cause
  addr : DWord
  deriving DecidableEq, Repr

/-- A leaf translation (14 R446): the page base in virtual and physical memory, its size, permissions,
and where its run head stands. -/
structure Leaf where
  ctx : Nat              -- partition * 256 + context
  va : Nat
  pa : Nat
  size : Nat
  r : Bool
  w : Bool
  x : Bool
  sysp : Bool
  res : Bool
  a : Bool
  d : Bool
  head : Nat             -- physical address of the run head
  deriving DecidableEq, Repr

/-- The reply to a lane's read of a system page (05 R184, 17 R528). -/
inductive LinkReply where
  | none
  | awaited (got : List Byte)   -- with the bytes that earlier replies brought
  | held (bytes : List Byte)
  | shared (lane : Nat)         -- another lane's reply is this lane's too (08 R311)
  deriving DecidableEq, Repr

/-- A packed pair whose low half is applied and whose high half is not (05 R200): the old low half, the object that the
pair names, and where the high half is, in a core's scratchpad or else in memory. -/
structure Half where
  old : Nat
  obj : ObjLoc
  core : Option Nat
  addr : Nat
  deriving DecidableEq, Repr

/-- A lane (01 R13, R16, R17). -/
structure Lane where
  live : Bool
  pc : VAddr
  hist : List LatchEntry
  wait : Option BWait
  handlers : List HandlerFrame   -- innermost first, at most two
  deferred : List Deferred
  lastPage : Option Leaf
  link : LinkReply
  result : DWord                 -- what a load to 124 read, until its latch entry (08 R309)
  half : Option Half             -- an atomic between the two halves of its pair (05 R200)
  deriving DecidableEq, Repr

/-- A lane that is not live. -/
def Lane.reset : Lane := ⟨false, 0, [], none, [], [], none, .none, 0, none⟩

/-- A light fault to serve: the run head's physical address and whether D is needed (14 R450). -/
structure LightFault where
  head : Nat
  write : Bool
  deriving DecidableEq, Repr

/-- What a stream waits for. -/
inductive StreamWait where
  | run
  | regang (token : Nat) (pc : VAddr) (count : Nat) (limit : Nat)   -- at a REGANG (01 R23, R24)
  | light (faults : List LightFault)                   -- a light fault (14 R450)
  | nres                                               -- NRES or growth (14 R462)
  | retry                                              -- none: its instruction is retried after NRES (14 R462)
  | link                                               -- a reply over the link (17 R528)
  | fetch                                              -- an instruction-cache fill (15 R492)
  | stopped                                            -- at a PPT (07 R268)
  deriving DecidableEq, Repr

/-- A stream: a set of slices of one gang that issue as one (01 R20). -/
structure Stream where
  slices : Nat          -- bit k: slice k
  wait : StreamWait
  deriving DecidableEq, Repr

/-- A promotion trigger (01 R37). -/
inductive Trigger where
  | lock (va : Nat)      -- the aligned 8-byte word
  | laggard (obj : ObjLoc)
  | tail
  deriving DecidableEq, Repr

/-- A gang's promotion (01 R36 to R40): in the churn engine since a core cycle, by a trigger, which last arose at a
core cycle and whose condition has stood since then. -/
structure Promotion where
  since : Nat
  trigger : Trigger
  arose : Nat
  stands : Bool
  deriving DecidableEq, Repr

/-- A gang (01 R13, R42 to R46). -/
structure Gang where
  part : Nat             -- the partition's lowest cluster
  ctx : Nat              -- context number
  launch : Nat           -- the launch's number in the model
  seq : Word             -- sr.launch
  team : Nat             -- sr.team
  index : Nat            -- sr.gang
  bank : Nat             -- context bank (01 R56)
  slot : Nat
  rows : Nat             -- first register row (01 R66)
  vregs : Nat
  code : Nat             -- CODE
  emuEntry : Nat
  trapEntry : Nat
  lanes : Map Lane
  v : Map Word           -- register * 32 + lane
  s : Map DWord
  preds : Map LaneMask
  fpflags : BitVec 5
  bankstall : Nat
  replay : Nat
  streams : List Stream  -- in age order
  done : LaneMask
  tree : LaneMask        -- the lanes whose sparse instruction waits for an absent page (04 R166)
  arrival : Nat          -- order of arrival at the core (01 R34)
  promotion : Option Promotion
  held : List Trigger    -- triggers that wait (01 R37, R39)
  spent : List Trigger   -- triggers dropped after 4,096 cycles that have not ended since (01 R40)
  lastChurn : Nat        -- last issue in the churn engine (15 R490)
  lastSlices : Nat       -- slices of the stream it issued last (01 R34)
  yielded : Bool         -- YIELD made it the last choice of the next cycle (07 R266)
  liveness : Option Liveness   -- the union of the hints of its stopped streams (07 R268)
  frozen : Bool          -- frozen, or stopped elsewhere than at a PPT (16 R501)
  deriving DecidableEq, Repr

/-- The part of a team on one core, with its positions (01 R66). -/
structure TeamPart where
  launch : Nat
  part : Nat
  ctx : Nat
  team : Nat
  number : Nat           -- which part of a wide team
  cores : List Nat       -- the cores of the team, by part
  slots : List Nat
  bank : Nat
  granule0 : Nat
  scratch : Nat          -- bytes declared
  tile0 : Nat
  tiles : Nat
  cream0 : Nat
  creams : Nat
  bind0 : Nat
  binds : Nat
  ended : Bool
  deriving DecidableEq, Repr

/-! A core's memories and engines (spec 03, 09). -/

/-- A scratchpad granule (03 R116), with the owner that the last landed copy names while others are in
flight (09 R366) and the owner at issue to return to (09 R358). -/
structure Granule where
  owner : Owner
  poison : Bool
  inflight : Nat
  landed : Option Owner
  deriving DecidableEq, Repr

/-- A granule at placement. -/
def Granule.reset : Granule := ⟨.threads, false, 0, none⟩

/-- An accumulator element: its NaR mark and its three channels (02 R93). -/
structure Elem where
  nar : Bool
  c1 : Nat
  c2 : Nat
  c3 : Nat
  deriving DecidableEq, Repr

/-- An accumulator tile with its metadata (02 R95) and token (03 R121). -/
structure Tile where
  elems : Map Elem        -- by element index; absent: zero
  a48 : Bool
  x : Int
  budget : Nat
  uncertain : Bool
  token : Option Nat      -- the gang slot that holds it; none: the matrix unit
  deriving DecidableEq, Repr

/-- A tile at placement (03 R115). -/
def Tile.reset : Tile := ⟨[], false, 0, 0, false, none⟩

/-- The states of a cream slot (03 R124). -/
inductive CreamState where
  | empty | filling | valid | poisoned
  deriving DecidableEq, Repr

/-- A cream slot: its column layout bytes, the landed trailer, the largest offset and SB (03 R123,
09 R364). -/
structure Cream where
  state : CreamState
  rn8 : Bool
  bytes : Map Byte
  trailer : List Byte
  maxOff : Nat
  sb : Nat
  deriving DecidableEq, Repr

/-- An empty slot. -/
def Cream.reset : Cream := ⟨.empty, false, [], [], 0, 127⟩

/-- The forms of a copy (09 R364). -/
inductive CopyForm where
  | load | store | multicast | window | cream
  deriving DecidableEq, Repr

/-- The completion object of an engine operation and its signal's scope, and the translation of a global one that a
copy has made when it lands and keeps until it signals (14 R456). -/
structure EngineObj where
  loc : ObjLoc
  scope : Scope
  leaf : Option Leaf
  deriving DecidableEq, Repr

/-- The gang and lane that issued an engine operation. -/
structure Issuer where
  core : Nat
  slot : Nat
  lane : Nat
  ctx : Nat              -- partition * 256 + context
  launch : Nat
  team : Nat
  arrival : Nat          -- which gang of the slot
  deriving DecidableEq, Repr

/-- A copy-engine operation in flight (09 R361 to R366). -/
structure CopyOp where
  form : CopyForm
  who : Issuer
  dw : List DWord        -- the six descriptor words
  entry : List DWord     -- the snapshot of the table entry (03 R134)
  handle : Nat
  obj : EngineObj
  src : Nat              -- CPYS, CPYW: the core offset read on the issuer's core
  dsts : List (Nat × Nat)          -- the cores and core offsets written
  slot : Nat             -- CPYB: the place of its slot in the core's cream store
  names : List (Nat × Nat × Owner) -- core, granule and the owner it is handed to, not yet handed
  landed : Bool
  length : Nat
  span : Nat             -- the bytes of its local range
  held : List Leaf                 -- translations it has made (14 R456)
  links : Map LinkReply            -- replies to its reads of system pages, by piece
  deriving DecidableEq, Repr

/-- An operation of the matrix unit's queue (09 R373, R377). -/
inductive MxOp where
  | mma (a48 reset fa : Bool) (tile aOff sba slot : Nat) (who : Issuer)
  | acvt (target : AcvtTarget) (tile dOff shift sbn : Nat) (who : Issuer)
  deriving DecidableEq, Repr

/-- The matrix lease of a core (09 R369, R370). -/
structure Lease where
  holder : Option Nat
  remaining : Nat
  requests : Map Nat     -- by gang slot
  last : Nat             -- last holder's slot
  lastMma : Nat          -- core cycle of the last MMA
  deriving DecidableEq, Repr

/-- An engine operation of the tensor and sparse unit (09 R385). -/
structure SparseOp where
  isImport : Bool
  who : Issuer
  dw : List DWord
  entry : List DWord     -- the sparse region's entry
  handle : Nat
  dst : List DWord       -- SPDENSE: the destination's entry
  dstHandle : Nat
  obj : EngineObj
  row : Nat              -- SPIMPORT: the row reached
  entry_ : Option (Nat × Nat)   -- SPIMPORT: the next and the end entry of a row that has passed its check
  status : Option Nat    -- SPIMPORT: the status word, once the rows have ended
  finished : Bool        -- everything is written; the signal is to come
  deriving DecidableEq, Repr

/-- A valid byte of a cache block (03 R140). -/
structure CacheByte where
  val : Byte
  dirty : Bool
  deriving DecidableEq, Repr

/-- A variable-length block (03 R138 to R142). -/
structure Block where
  frame : Nat            -- physical address / 256
  first : Nat            -- first word, even
  last : Nat             -- last word, odd
  granule : Nat          -- first granule of its run in the set
  bytes : Map CacheByte  -- by byte of the frame
  read : Nat             -- bit w: word w was read
  pred : Option Nat      -- the predictor index that filled it
  used : Nat             -- step of its last use
  deriving DecidableEq, Repr

/-- A frame of the L1 instruction cache (15 R492). -/
structure CodeFrame where
  ctx : Nat              -- partition * 256 + context
  va : Nat               -- frame address
  bytes : List Byte
  deriving DecidableEq, Repr

/-- An interior entry of the walk cache (14 R452). -/
structure WalkEntry where
  ctx : Nat
  level : Nat            -- the level of the entry
  va : Nat               -- the entry's first address
  table : Nat            -- the table it names
  deriving DecidableEq, Repr

/-- A context bank of a core (13 R441, 16 R503). -/
structure Bank where
  ctx : Option Nat       -- context number
  saved : Bool
  held : Bool            -- its operations met a freeze and wait for a resume (16 R500)
  deriving DecidableEq, Repr

/-- A bank that no context holds. -/
def Bank.free : Bank := ⟨none, false, false⟩

/-- A prefetched team (15 R482). -/
structure Prefetched where
  launch : Nat
  team : Nat
  deriving DecidableEq, Repr

/-- A core (01 R13). -/
structure Core where
  slots : Map Gang
  parts : List TeamPart
  scratch : Map Byte
  granules : Map Granule
  tiles : Map Tile
  cream : Map Cream            -- bank * 32 + slot
  copies : Map CopyOp
  mx : List MxOp
  lease : Lease
  sparse : Map SparseOp
  l1 : Map (List Block)
  predictor : Map Nat
  icache : List CodeFrame
  tlb : List Leaf
  walks : List WalkEntry
  tensorCache : List Nat       -- context * 4096 + slot of the entries held (03 R135)
  banks : Map Bank
  binds : Map Bind             -- bank * 64 + entry
  prefetch : List Prefetched
  arrivals : Nat
  herdLast : Option Nat        -- arrival number of the gang the herd engine issued last
  herdCycle : Option Nat       -- core cycle of its last issue
  lastCycle : Option Nat       -- core cycle of the last issue of either engine
  lastStream : Option (Nat × Nat)   -- gang slot and slices of the last issue
  stretch : Nat                -- sr.energy.STRETCH
  lastLaunch : Option Nat      -- launch of the last part placed (15 R478)
  deriving DecidableEq, Repr

/-- A core with nothing placed. -/
def Core.reset : Core :=
  { slots := [], parts := [], scratch := [], granules := [], tiles := [], cream := [], copies := [],
    mx := [], lease := ⟨none, 0, [], 31, 0⟩, sparse := [], l1 := [], predictor := [], icache := [],
    tlb := [], walks := [], tensorCache := [], banks := [], binds := [], prefetch := [], arrivals := 0,
    herdLast := none, herdCycle := none, lastCycle := none, lastStream := none, stretch := 0,
    lastLaunch := none }

/-- The clock domain of a cluster (17 R540). -/
structure Cluster where
  clock : Nat            -- sr.clock of its cores
  phase : Nat            -- fabric cycles since the last core cycle
  stretched : Bool
  calm : Nat             -- stretched cycles at or above 427 mV
  low : Bool             -- the supply is below 427 mV
  deriving DecidableEq, Repr

/-- A cluster at power-on. -/
def Cluster.reset : Cluster := ⟨0, 0, false, 0, false⟩

/-- A die: its remote-data cache, fetch agent and mailbox (03 R139, 14 R452, 13 R442). -/
structure Die where
  rdc : Map (List Block)
  agent : List Leaf
  mbxBase : DWord
  mbxHead : DWord
  mbxTail : DWord
  energy : DWord
  corrected : Nat        -- corrected errors, for the telemetry
  turns : Map (Nat × Nat)   -- by PRIO: the partition whose turn it is and the decisions it has had in it (15 R480)
  decided : Option Nat   -- the fabric cycle of the last dispatch decision
  deriving DecidableEq, Repr

/-- A die at power-on. -/
def Die.reset : Die := ⟨[], [], 0, 0, 0, 0, 0, [], none⟩

/-! Partitions, contexts, launches and queues (spec 13, 15). -/

/-- A seal entry (03 R149, 08 R334): the range and the physical frames it binds, as base and length. -/
structure Seal where
  ctx : Nat
  base : Nat
  len : Nat
  frames : List (Nat × Nat)
  deriving DecidableEq, Repr

/-- An entry of the fault queue (14 R461). -/
structure FaultEntry where
  va : Nat
  ctx : Nat
  core : Nat
  kind : Nat
  acc : Nat
  pa : Nat
  page : Nat             -- the leaf page, for R460's "each distinct pair"
  deriving DecidableEq, Repr

/-- An accepted command of a ring (17 R532). -/
structure Job where
  ring : Nat
  item : Nat
  op : Nat
  arg : Nat
  deriving DecidableEq, Repr

/-- A shootdown that waits for engine operations (14 R458). -/
structure PendingPurge where
  base : Nat
  len : Nat
  ctx : Option Nat       -- none: every context of the partition
  deriving DecidableEq, Repr

/-- A partition block (13 R437, 14 R457, 15 R487, 16 R497, R505, 17 R529) and what the device keeps for
the partition. -/
structure Partition where
  size : Nat             -- clusters
  en : Bool
  frz : Bool
  stop : Bool
  prio : Nat
  weight : Nat
  ebudget : Nat
  used : Nat
  qbanks : Nat
  stopdl : Nat
  sdBase : DWord
  sdLen : DWord
  sdBusy : Bool
  sdAllCtx : Bool
  sdCtx : Nat
  sdPurge : Bool
  sdRefused : Bool
  sdCode : Nat
  sdPending : Option PendingPurge
  fqBase : DWord
  fqHead : DWord
  fqTail : DWord
  fqOut : List FaultEntry      -- outstanding entries (14 R460)
  fqHeld : List FaultEntry     -- held while the ring is full (14 R461)
  adm : Nat
  qtBase : DWord
  qBusy : Bool
  qOp : Nat                    -- the queue command in progress
  qAgain : Bool                -- the register was written while BUSY
  qCode : Nat
  qNum : Nat
  xOp : Nat                    -- the exchange, spill or fill in progress
  xBusy : Bool
  xRefused : Bool
  xCode : Nat
  inCtx : Nat
  outCtx : Nat
  haveIn : Bool
  haveOut : Bool
  xOut : Option Nat            -- what the operation in progress saves or spills, as OP's write named it
  xIn : Option Nat             -- what it restores or fills
  swAddr : DWord
  hsBase : DWord
  crtBase : DWord
  nen : Bool
  nconn : Nat
  seals : List Seal
  window : Nat                 -- the energy window that used, adm and offered count in (15 R485)
  offered : Bool               -- a team or launch was offered in this window (15 R485)
  stopAt : Option Nat          -- fabric time of the write that set STOP (16 R499)
  frozen : Bool                -- engines and gangs that a freeze met wait for the resume (16 R500, R502)
  jobs : List Job
  launches : List Nat          -- entered launches, oldest first
  done : Map Nat               -- completion entries written, by ring (17 R534)
  mirror : Bool                -- dispatched by the mirror die (16 R513)
  deriving DecidableEq, Repr

/-- A partition block after a partition reset (13 R435, R437). -/
def Partition.reset (size : Nat) : Partition :=
  { size := size, en := false, frz := false, stop := false, prio := 0, weight := 1, ebudget := 0,
    used := 0, qbanks := 0, stopdl := 20000, sdBase := 0, sdLen := 0, sdBusy := false,
    sdAllCtx := false, sdCtx := 0, sdPurge := false, sdRefused := false, sdCode := 0,
    sdPending := none, fqBase := 0, fqHead := 0, fqTail := 0, fqOut := [], fqHeld := [], adm := 0,
    qtBase := 0, qBusy := false, qOp := 0, qAgain := false, qCode := 0, qNum := 0,
    xOp := 0, xBusy := false, xRefused := false, xCode := 0, inCtx := 0,
    outCtx := 0, haveIn := false, haveOut := false, xOut := none, xIn := none, swAddr := 0, hsBase := 0, crtBase := 0,
    nen := false, nconn := 0, seals := [], window := 0, offered := false, stopAt := none, frozen := false, jobs := [],
    launches := [], done := [], mirror := false }

/-- The states of a context (13 R439). -/
inductive CtxState where
  | free | live | faulted
  deriving DecidableEq, Repr

/-- A context descriptor (13 R439). -/
structure Ctx where
  state : CtxState
  err : Nat
  sys : Bool
  rtrap : Bool
  ptBase : DWord
  ttBase : DWord
  pb : DWord
  psLog : Nat
  hwm : Nat
  wdog : DWord
  frec : DWord
  deriving DecidableEq, Repr

/-- A context descriptor after a partition reset. -/
def Ctx.reset : Ctx := ⟨.free, 0, false, false, 0, 0, 0, 12, 0, 0x0000000100000000, 0⟩

/-- A launch that the queue unit holds (15 R474, R476, R481, 16 R514, R515). -/
structure Launch where
  part : Nat
  ctx : Nat
  tcb : Nat
  dw : List DWord        -- the copy of DW0 to DW9
  succ : List Nat        -- the copy of the successor list, its overflow part included
  next : Nat             -- next team index to dispatch
  again : List Nat       -- lost teams to dispatch again
  running : List Nat     -- teams placed and not ended
  ended : List Nat
  lost : List Nat
  placed : Nat           -- least index at and above which no team was ever placed
  since : Option Nat     -- fabric time since which it is the oldest (15 R481)
  hold : Bool            -- it holds younger launches back (15 R481)
  interrupted : Bool
  deriving DecidableEq, Repr

/-- A device queue (15 R488, R489). -/
structure Queue where
  part : Nat
  ctx : Nat
  cap : Nat
  die : Nat
  bank : Nat
  iobj : Nat
  sobj : Nat
  items : List (List Word)
  deriving DecidableEq, Repr

/-- What a spill took of a context from one core (16 R509): the core and its bank, and a core that holds the
taken items at their positions. -/
structure Spilled where
  ctx : Nat              -- partition * 256 + context
  core : Nat
  bank : Nat
  held : Bool            -- as its bank's
  items : Core
  deriving DecidableEq, Repr

/-! The device block and the link (spec 13 R436, 17). -/

/-- The register RESET (16 R511), and the kind and target of the reset in progress. -/
structure ResetReg where
  busy : Bool
  refused : Bool
  cause : Nat
  kind : Nat
  target : Nat
  nowKind : Nat
  nowTarget : Nat
  waiting : List (Nat × Nat × Nat)   -- resets that the device makes after this one: cause, kind, target
  deriving DecidableEq, Repr

/-- The device block. -/
structure Device where
  partmap : DWord
  err : Bool
  resetReg : ResetReg
  wport : BitVec 16
  ip4 : BitVec 32
  ip6h : DWord
  ip6l : DWord
  connBase : BitVec 48
  cnum : Nat
  up : Bool
  svn : BitVec 32
  copyB : Bool
  phase : Nat
  nonce : BitVec 256
  attAddr : BitVec 48
  attBusy : Bool
  digest : BitVec 256
  retired : List Nat           -- retired 4 KiB frames (14 R470)
  badTransfers : List Nat      -- 32-byte transfers whose data has an uncorrectable error (14 R468, R469)
  errors : List (Nat × Nat)    -- corrected errors: frame and fabric time (14 R468)
  power : Nat                  -- sensor: W (17 R542)
  temperature : Nat            -- sensor: units of 0.5 °C
  moduleFault : Bool           -- 16 R516
  silent : List (Nat × Nat × Nat)   -- parts that give no response: kind, target, fabric time since (16 R511)
  deriving DecidableEq, Repr

/-- The EUI-64 interface identifier of the MAC (17 R519): its first three bytes with bit 1 of the first
inverted, 0xFFFE, its last three bytes. -/
def eui64 (mac : BitVec 48) : DWord :=
  let hi := mac.toNat / 2 ^ 24
  let lo := mac.toNat % 2 ^ 24
  BitVec.ofNat 64 (hi * 2 ^ 40 + 0xFFFE * 2 ^ 24 + lo) ^^^ 0x0200000000000000

/-- The device block at power-on (13 R436, 17 R519, R537; 16 R511). -/
def Device.reset : Device :=
  { partmap := 0, err := false, resetReg := ⟨false, false, 0, 0, 0, 0, 0, []⟩, wport := 0x1A4C, ip4 := 0,
    ip6h := 0xFE80000000000000, ip6l := eui64 Config.mac, connBase := 0, cnum := 0, up := false,
    svn := 0, copyB := false, phase := 0x01, nonce := 0, attAddr := 0, attBusy := false, digest := 0,
    retired := [], badTransfers := [], errors := [], power := 0, temperature := 0, moduleFault := false, silent := [] }

/-- Who made an access to a system page (17 R528): a lane of a gang, or with slot 32 + index a piece of a copy;
the context and the arrival number tell it from a later user of the slot, and the slot and SEQ of the gang that issued
it are those of a status record (16 R495). -/
structure Requester where
  core : Nat
  slot : Nat
  lane : Nat
  ctx : Nat              -- partition * 256 + context
  arrival : Nat
  gang : Nat
  seq : Nat
  deriving DecidableEq, Repr

/-- An operation sent on a connection and not yet acknowledged (17 R522). -/
structure SentOp where
  psn : Nat
  op : Nat
  addr : Nat
  len : Nat
  data : List Byte
  aperture : Nat                   -- the aperture address of a system-page access (17 R526)
  lanes : LaneMask                 -- the lanes whose access it is (05 R184; 07 R303)
  who : Option Requester           -- who made it
  deriving DecidableEq, Repr

/-- What the device keeps of a connection: the STATE, what it read from the table entry at the opening (17
R521), the PSNs, and the operations in flight (17 R523). -/
structure Conn where
  state : Nat                          -- STATE: 0 closed, 1 open, 2 failed
  host : Bool                          -- ROLE
  peer : Option Endpoint               -- the remote endpoint; of connection 0 without a table the last sender
  winBase : Nat
  inBase : Nat
  inLen : Nat
  rxPsn : Nat
  txPsn : Nat
  held : List (Nat × Nat × Datagram)   -- PSN, OP and datagram received ahead
  unacked : List SentOp
  reads : List SentOp                  -- READs whose READRESP has not come, oldest first
  expiries : Nat                       -- retransmission timeouts in a row without progress
  timer : Nat                          -- fabric time at which the timeout in progress began
  deriving DecidableEq, Repr

/-- A connection with nothing sent or received. -/
def Conn.reset : Conn := ⟨0, true, none, 0, 0, 0, 0, 0, [], [], [], 0, 0⟩

/-- What the module has sent (17 R518, R520, R534, R542). -/
inductive Frame where
  | wlt (dest : Endpoint) (op status conn psn ackPsn sack len addr : Nat) (payload : List Byte)
  | arpReply (toMac toIp : Nat) (mac : BitVec 48) (ip : BitVec 32)
  | advertisement (toMac toIp : Nat) (mac : BitVec 48) (iph ipl : DWord)
  | echoReply (v4 : Bool) (toIp ident seq : Nat) (payload : List Byte)
  | smbusWord (value : Nat)
  | smbusBlock (value : DWord)
  | smbusNack
  deriving DecidableEq, Repr

/-- The issue in progress: the unit that a stream of a gang issues (01 R18, 06 R225, R229). -/
structure Issue where
  core : Nat
  slot : Nat
  stream : Nat           -- its place in the gang's list of streams
  hpc : VAddr            -- first hint, or the instruction when it has none
  pc : VAddr             -- the instruction
  next : VAddr           -- the word after it
  word : Nat
  hints : List Hint
  active : LaneMask
  deriving DecidableEq, Repr

/-- No issue. -/
def Issue.none : Issue := ⟨0, 0, 0, 0, 0, 0, 0, [], 0⟩

/-- What happens next: a core's issue slot, an event, time, or a measurement of the outside world
(log entry 1). -/
inductive Move where
  | core (core : Nat)
  | split (core applications : Nat)   -- an issue slot whose atomic performs only so many of its applications
  | event (i : Instr)
  | elapse (fabricCycles : Nat)
  | energy (cluster : Nat) (uJ : Nat)
  | dieEnergy (die : Nat) (uJ : Nat)
  | sensors (power temperature : Nat)
  | supply (cluster : Nat) (low : Bool)
  | memoryError (addr : Nat) (corrected : Bool)
  | silence (kind target : Nat)
  | response (kind target : Nat)
  | retry (core slot : Nat)
  | command (part : Nat)
  | unanswered (kind target : Nat)
  deriving DecidableEq, Repr

/-- The machine. -/
structure State where
  time : Nat                   -- fabric cycles since module power-on
  tick : Nat                   -- steps taken: the argument of the free values (the model's own)
  powered : Bool
  agenda : List Move           -- the model's own (log entry 1)
  cur : Issue
  bad : Option Fault           -- an access to no memory, made in this step (the model's own)
  split : Option Nat           -- the applications that the atomic in issue performs now; none: all (the model's own)
  waits : Bool                 -- an access to memory homed on a die under reset, made in this step (the model's own)
  mem : List Host.Cell
  clusters : Map Cluster
  cores : Map Core
  dies : Map Die
  parts : Map Partition        -- by lowest cluster
  ctxs : Map Ctx               -- partition * 256 + context
  launches : Map Launch
  nextLaunch : Nat
  queues : Map Queue           -- partition * 4096 + queue
  spilled : List Spilled
  dev : Device
  conns : Map Conn
  sent : List Frame            -- oldest first
  deriving DecidableEq, Repr

/-- The machine right after module power-on. -/
def State.reset : State :=
  { time := 0, tick := 0, powered := true, agenda := [], cur := Issue.none, bad := none, split := none, waits := false, mem := [],
    clusters := [], cores := [], dies := [], parts := [], ctxs := [], launches := [], nextLaunch := 0,
    queues := [], spilled := [], dev := Device.reset, conns := [], sent := [] }

end Sys2Proof.Machine
end

