-- ==== Sys2Proof/Machine/Maps.lean ====
section
/-! DEFINITION. Reading and writing sparse maps: lists of pairs with strictly rising keys.
-/

namespace Sys2Proof.Machine

/-- The value at a key. -/
def mfind? : Map α → Nat → Option α
  | [], _ => none
  | (k, x) :: m, n => if n = k then some x else mfind? m n

/-- The value at a key, or a default. -/
def mget (d : α) (m : Map α) (n : Nat) : α := (mfind? m n).getD d

/-- Writes a value at a key. -/
def mput : Map α → Nat → α → Map α
  | [], n, y => [(n, y)]
  | (k, x) :: m, n, y =>
    if n = k then (n, y) :: m
    else if n < k then (n, y) :: (k, x) :: m
    else (k, x) :: mput m n y

/-- Removes a key. -/
def mdel (m : Map α) (n : Nat) : Map α := m.filter (fun p => p.1 != n)

/-- Changes the value at a key that is present. -/
def mmod (m : Map α) (n : Nat) (f : α → α) : Map α :=
  match mfind? m n with
  | some x => mput m n (f x)
  | none => m

/-- Changes every value. -/
def mmapVals (f : Nat → α → α) (m : Map α) : Map α := m.map (fun p => (p.1, f p.1 p.2))

/-- Keeps the pairs that satisfy a condition. -/
def mfilter (f : Nat → α → Bool) (m : Map α) : Map α := m.filter (fun p => f p.1 p.2)

/-- Keys strictly rising. -/
def mapSorted : Map α → Bool
  | [] => true
  | [_] => true
  | (k, _) :: (k', x') :: m => decide (k < k') && mapSorted ((k', x') :: m)

/-- The least key at or above a bound that is not present, looking at n keys. -/
def mfree (m : Map α) (from_ : Nat) : Nat → Option Nat
  | 0 => none
  | n + 1 => if (mfind? m from_).isNone then some from_ else mfree m (from_ + 1) n

/-- Bit i of a number. -/
def bitAt (n i : Nat) : Bool := n / 2 ^ i % 2 == 1

/-- The numbers below n, counting up, that satisfy a condition. -/
def below (n : Nat) (p : Nat → Bool) : List Nat := (List.range n).filter p

/-- The lanes of a mask in ascending order. -/
def lanesOf (m : LaneMask) : List Nat := below 32 (fun l => m.getLsbD l)

/-- The mask of a list of lanes. -/
def maskOf (ls : List Nat) : LaneMask := ls.foldl (fun m l => m ||| ((1 : LaneMask) <<< l)) 0

/-- The mask of the lanes that satisfy a condition. -/
def maskWhere (p : Nat → Bool) : LaneMask := maskOf (below 32 p)

/-- A mask with one lane set or cleared. -/
def maskSet (m : LaneMask) (l : Nat) (b : Bool) : LaneMask :=
  if b then m ||| ((1 : LaneMask) <<< l) else m &&& ~~~((1 : LaneMask) <<< l)

/-- The bits [hi:lo] of a doubleword, as a number. -/
def field (w : DWord) (hi lo : Nat) : Nat := bits w.toNat lo (hi - lo + 1)

/-- The bytes of a number, lowest first (00 R3). -/
def bytesOf (n : Nat) (x : Nat) : List Byte :=
  (List.range n).map (fun i => BitVec.ofNat 8 (x / 2 ^ (8 * i)))

/-- The number that bytes hold, lowest first (00 R3). -/
def ofBytes : List Byte → Nat
  | [] => 0
  | b :: bs => b.toNat + 256 * ofBytes bs

/-- The low 32 bits of a doubleword. -/
def loWord (d : DWord) : Word := d.setWidth 32

/-- The high 32 bits of a doubleword. -/
def hiWord (d : DWord) : Word := (d >>> 32).setWidth 32

/-- Two words as a doubleword. -/
def joinWords (lo hi : Word) : DWord := hi ++ lo

/-- Splits a list into runs of n elements. -/
def chunksAux (n : Nat) : Nat → List α → List (List α)
  | 0, _ => []
  | _, [] => []
  | k + 1, xs => xs.take n :: chunksAux n k (xs.drop n)

/-- Replaces the element at a place. -/
def setAt : List α → Nat → α → List α
  | [], _, _ => []
  | _ :: xs, 0, y => y :: xs
  | x :: xs, n + 1, y => x :: setAt xs n y

/-- The first element that satisfies a condition, with its place. -/
def findAt (p : α → Bool) : List α → Nat → Option (Nat × α)
  | [], _ => none
  | x :: xs, n => if p x then some (n, x) else findAt p xs (n + 1)

/-- The least of a list of numbers. -/
def leastOf : List Nat → Option Nat
  | [] => none
  | x :: xs =>
    match leastOf xs with
    | none => some x
    | some y => some (min x y)

/-- A list without later copies of an element. -/
def nubNat : List Nat → List Nat
  | [] => []
  | x :: xs => x :: (nubNat xs).filter (fun y => y != x)

/-- Insertion into a rising list. -/
def insertNat (x : Nat) : List Nat → List Nat
  | [] => [x]
  | y :: ys => if x < y then x :: y :: ys else if x = y then y :: ys else y :: insertNat x ys

end Sys2Proof.Machine
end

