-- ==== Sys2Proof/Machine/Memory.lean ====
section
/-! DEFINITION. Physical memory in its canonical form (addresses strictly rising, no zero byte listed:
an unlisted byte reads zero, spec 17 R535), and the accessors of the parts of the state.
-/

namespace Sys2Proof.Machine

/-- The byte at an address: zero when unlisted (17 R535; log entry 4). -/
def memRead : List Host.Cell → Nat → Byte
  | [], _ => 0
  | (k, x) :: m, a => if a = k then x else if a < k then 0 else memRead m a

/-- Writes a byte, keeping the canonical form. -/
def memWrite : List Host.Cell → Nat → Byte → List Host.Cell
  | [], a, y => if y = 0 then [] else [(a, y)]
  | (k, x) :: m, a, y =>
    if a = k then (if y = 0 then m else (a, y) :: m)
    else if a < k then (if y = 0 then (k, x) :: m else (a, y) :: (k, x) :: m)
    else (k, x) :: memWrite m a y

/-- The canonical form: strictly rising addresses above a bound, and no byte zero. -/
def memWfFrom : Nat → List Host.Cell → Bool
  | _, [] => true
  | lo, (k, x) :: m => decide (lo ≤ k) && x != 0 && memWfFrom (k + 1) m

/-- The canonical form of memory. -/
def Memory.wf (m : List Host.Cell) : Bool := memWfFrom 0 m

/-- The bytes from an address upward. -/
def memBytes (m : List Host.Cell) (a n : Nat) : List Byte := (List.range n).map (fun i => memRead m (a + i))

/-- Writes bytes from an address upward. -/
def memStore : List Host.Cell → Nat → List Byte → List Host.Cell
  | m, _, [] => m
  | m, a, b :: bs => memStore (memWrite m a b) (a + 1) bs

/-- Writes bytes each at its own address, the first first. -/
def memStoreAt : List Host.Cell → List (Nat × Byte) → List Host.Cell
  | m, [] => m
  | m, (a, b) :: bs => memStoreAt (memWrite m a b) bs

/-- The end of the module's memory: 768 GiB (03 R543). -/
def memoryEnd : Nat := 768 * 2 ^ 30

/-- The die that is home for an address (03 R543). -/
def homeDie (pa : Nat) : Nat := pa / (192 * 2 ^ 30)

/-- Whether an address lies in the link aperture (17 R526). -/
def isAperture (pa : Nat) : Bool := bits pa 44 4 == 0xF

/-! Accessors. -/

/-- Whether a die is under reset (16 R511). -/
def State.dieAway (s : State) (d : Nat) : Bool :=
  s.dev.resetReg.busy && s.dev.resetReg.nowKind == 3 && s.dev.resetReg.nowTarget / 256 == d

/-- Whether an address names memory whose home die is under reset: accesses to it wait (16 R512). -/
def State.awayAt (s : State) (a : Nat) : Bool := decide (a < memoryEnd) && s.dieAway (homeDie a)

/-- The machine with an access noted that cannot be made: to memory homed on a die under reset, and the step
waits (16 R512), or to no memory (03 R543). -/
def State.noteBad (s : State) (a : Nat) : State :=
  if s.waits then s
  else if s.awayAt a then { s with waits := true }
  else
    match s.bad with
    | some _ => s
    | none => { s with bad := some (.noPhysicalMemory a) }

/-- Whether n bytes at an address can be accessed now. -/
def State.reaches (s : State) (a n : Nat) : Bool := decide (a + n ≤ memoryEnd) && !s.awayAt a

/-- Reads bytes of physical memory at their home, noting an address that names none. -/
def State.readHome (s : State) (a n : Nat) : List Byte := memBytes s.mem a n

/-- The machine after a read of n bytes at a, which must name memory. -/
def State.touch (s : State) (a n : Nat) : State := if s.reaches a n then s else s.noteBad a

/-- The 32 bytes of a transfer, with contents that the spec leaves open. -/
def openTransfer (tick t : Nat) : List (Nat × Byte) :=
  (List.range 32).map (fun i => (32 * t + i, Config.freeByte tick (32 * t + i)))

/-- A write to transfers with an uncorrectable error stores fresh ECC (14 R469): they read again, and the
bytes that the write leaves out hold open contents. -/
def State.heal (s : State) (hit : Nat → Bool) : State :=
  let ts := s.dev.badTransfers.filter hit
  if ts.isEmpty then s
  else { s with
    mem := memStoreAt s.mem (ts.flatMap (openTransfer s.tick))
    dev := { s.dev with badTransfers := s.dev.badTransfers.filter (fun t => !hit t) } }

/-- Whether a range touches a transfer. -/
def touchesTransfer (a n t : Nat) : Bool := decide (32 * t < a + n) && decide (a < 32 * t + 32)

/-- Sets memory. -/
def State.setMem (s : State) (m : List Host.Cell) : State := { s with mem := m }

/-- Writes bytes of physical memory at their home. -/
def State.writeHome (s : State) (a : Nat) (bs : List Byte) : State :=
  if s.reaches a bs.length then
    let t := s.heal (touchesTransfer a bs.length)
    t.setMem (memStore t.mem a bs)
  else s.noteBad a

/-- A doubleword of physical memory at its home. -/
def State.dword (s : State) (a : Nat) : DWord := BitVec.ofNat 64 (ofBytes (s.readHome a 8))

/-- Writes a doubleword of physical memory at its home. -/
def State.setDword (s : State) (a : Nat) (d : DWord) : State := s.writeHome a (bytesOf 8 d.toNat)

/-- A core. -/
def State.core (s : State) (c : Nat) : Core := mget Core.reset s.cores c

/-- Writes a core. -/
def State.setCore (s : State) (c : Nat) (k : Core) : State := { s with cores := mput s.cores c k }

/-- Changes a core. -/
def State.modCore (s : State) (c : Nat) (f : Core → Core) : State := s.setCore c (f (s.core c))

/-- The gang in a slot of a core. -/
def State.gang? (s : State) (c slot : Nat) : Option Gang := mfind? (s.core c).slots slot

/-- Writes a gang into its slot. -/
def State.setGang (s : State) (c slot : Nat) (g : Gang) : State :=
  s.modCore c (fun k => { k with slots := mput k.slots slot g })

/-- Changes the gang in a slot, when there is one. -/
def State.modGang (s : State) (c slot : Nat) (f : Gang → Gang) : State :=
  match s.gang? c slot with
  | some g => s.setGang c slot (f g)
  | none => s

/-- A die. -/
def State.die (s : State) (d : Nat) : Die := mget Die.reset s.dies d

/-- Changes a die. -/
def State.modDie (s : State) (d : Nat) (f : Die → Die) : State :=
  { s with dies := mput s.dies d (f (s.die d)) }

/-- A cluster's clock domain. -/
def State.cluster (s : State) (k : Nat) : Cluster := mget Cluster.reset s.clusters k

/-- A partition, by its lowest cluster. -/
def State.part? (s : State) (p : Nat) : Option Partition := mfind? s.parts p

/-- Changes a partition that exists. -/
def State.modPart (s : State) (p : Nat) (f : Partition → Partition) : State :=
  { s with parts := mmod s.parts p f }

/-- A context descriptor; c is partition * 256 + context. -/
def State.ctx (s : State) (c : Nat) : Ctx := mget Ctx.reset s.ctxs c

/-- Changes a context descriptor. -/
def State.modCtx (s : State) (c : Nat) (f : Ctx → Ctx) : State :=
  { s with ctxs := mput s.ctxs c (f (s.ctx c)) }

/-- Changes a launch that exists. -/
def State.modLaunch (s : State) (n : Nat) (f : Launch → Launch) : State :=
  { s with launches := mmod s.launches n f }

/-- The die of a core (13 R432). -/
def dieOfCore (c : Nat) : Nat := c / 256

/-- The cluster number of a core: die * 4 + cluster (13 R432). -/
def clusterOfCore (c : Nat) : Nat := c / 64

/-- sr.clock of a core. -/
def State.clockOf (s : State) (c : Nat) : Nat := (s.cluster (clusterOfCore c)).clock

/-- The cores of a partition of n clusters from cluster p. -/
def coresOfPart (p n : Nat) : List Nat := (List.range (64 * n)).map (fun i => 64 * p + i)

/-- The partition that holds a cluster. -/
def State.partOfCluster (s : State) (k : Nat) : Option (Nat × Partition) :=
  s.parts.find? (fun x => decide (x.1 ≤ k) && decide (k < x.1 + x.2.size))

/-- Whether a partition is stopping or frozen (16 R498). -/
def State.stopping (s : State) (p : Nat) : Bool :=
  match s.part? p with
  | some x => x.stop || x.frz
  | none => false

/-- Whether the engines of a core act for a context: the core's partition exists, is not frozen and has been
resumed since a freeze, and the context is not saved there and has been resumed since a freeze that it met (16 R500,
R502, R503). -/
def State.engineRuns (s : State) (c ctx : Nat) : Bool :=
  (match s.partOfCluster (clusterOfCore c) with
   | some (_, p) => !p.frz && !p.frozen
   | none => false) &&
  !((s.core c).banks.any (fun b => (b.2.saved || b.2.held) && b.2.ctx == some (ctx % 256)))

/-- The gangs of a partition: core, slot and gang. -/
def State.gangsWhere (s : State) (p : Gang → Bool) : List (Nat × Nat × Gang) :=
  s.cores.flatMap (fun k => (k.2.slots.filter (fun g => p g.2)).map (fun g => (k.1, g.1, g.2)))

/-- The key of a context. -/
def ctxKey (part ctx : Nat) : Nat := part * 256 + ctx

/-- The key of a gang's context. -/
def Gang.ctxKey (g : Gang) : Nat := Machine.ctxKey g.part g.ctx

end Sys2Proof.Machine
end

