-- ==== Sys2Proof/Machine/Clock.lean ====
section
/-! DEFINITION. Time: fabric cycles, the clusters' core cycles and their stretch, the counts of waiting
lanes, and energy windows (spec 00 R12; 01 R55, R59; 05 R209; 15 R485; 16 R510; 17 R539 to R541).
-/

namespace Sys2Proof.Machine

/-- Fabric cycles in 1 ms, 100 µs and 10 µs: the fabric clock runs at 1.2 GHz (17 R539). -/
def cyclesPerMs : Nat := 1200000
/-- See cyclesPerMs. -/
def cyclesPer100us : Nat := 120000
/-- See cyclesPerMs. -/
def cyclesPer10us : Nat := 12000

/-- The number of the current 1 ms window (01 R59). -/
def State.windowNow (s : State) : Nat := s.time / cyclesPerMs

/-- A partition's account in the current window: USED, ADM and the offer are cleared when a window starts
(15 R485). -/
def Partition.inWindow (p : Partition) (w : Nat) : Partition :=
  if p.window = w then p else { p with window := w, used := 0, adm := 0, offered := false }

/-- USED (01 R59, 13 R437). -/
def State.usedOf (s : State) (p : Partition) : Nat := (p.inWindow s.windowNow).used

/-- ADM (15 R487). -/
def State.admOf (s : State) (p : Partition) : Nat := (p.inWindow s.windowNow).adm

/-- Fabric cycles in a core cycle of a cluster (17 R540). -/
def Cluster.period (k : Cluster) : Nat := if k.stretched then 3 else 2

/-- Whether the partition of a gang runs its watchdog counts (16 R510). -/
def State.counts (s : State) (k : Core) (g : Gang) : Bool :=
  !(mget .free k.banks g.bank).saved &&
  (match s.part? g.part with
   | some p => !p.frz && !p.stop
   | none => false)

/-- One more cycle of each wait of a gang (05 R209; 10 R404): of a lane blocked in BWAIT that no handler of its slice
holds up and that has read its object since a resume (16 R510), and of a stream at REGANG. -/
def Gang.countWaits (g : Gang) : Gang :=
  let inSlice (l : Nat) (n : Nat) : Bool :=
    (List.range 4).all (fun i => match mfind? g.lanes (l / 4 * 4 + i) with
      | some x => !x.live || decide (x.handlers.length ≤ n)
      | none => true)
  let count (l : Nat) (x : Lane) : Lane :=
    match x.wait with
    | some w =>
      if inSlice l x.handlers.length && !w.again then { x with wait := some { w with count := w.count + 1 } } else x
    | none => x
  let wait (st : Stream) : Stream :=
    match st.wait with
    | .regang t pc n lim => { st with wait := .regang t pc (n + 1) lim }
    | _ => st
  { g with lanes := mmapVals count g.lanes, streams := g.streams.map wait }

/-- One core cycle of the gangs of a core. -/
def State.countCore (s : State) (k : Core) : Core :=
  { k with slots := mmapVals (fun _ g => if s.counts k g then g.countWaits else g) k.slots }

/-- A cluster after one fabric cycle, and whether a core cycle of it ended. -/
def Cluster.fabricCycle (k : Cluster) : Cluster × Bool :=
  if k.phase + 1 < k.period then ({ k with phase := k.phase + 1 }, false)
  else
    ({ k with
       clock := k.clock + 1
       phase := 0
       calm := if k.stretched && !k.low then k.calm + 1 else 0 }, true)

/-- One fabric cycle of a cluster: its clock, and the waits on its cores. -/
def State.clusterCycle (s : State) (n : Nat) : State :=
  let x := (s.cluster n).fabricCycle
  let s' := { s with clusters := mput s.clusters n x.1 }
  if x.2 then
    { s' with cores := mmapVals (fun c k => if c / 64 = n then s.countCore k else k) s.cores }
  else s'

/-- One fabric cycle. -/
def State.fabricCycle (s : State) : State :=
  (List.range 16).foldl State.clusterCycle { s with time := s.time + 1 }

/-- Some fabric cycles; without main power nothing runs (17 R542). -/
def State.elapse : Nat → State → State
  | 0, s => s
  | n + 1, s => State.elapse n (if s.powered then s.fabricCycle else s)

/-- The counter of a die (17 R541). -/
def State.addDieEnergy (s : State) (d uJ : Nat) : State :=
  s.modDie d (fun x => { x with energy := x.energy + BitVec.ofNat 64 uJ })

/-- The sensors of a cluster report energy: to its partition, and to the counter of its die, which is the energy of
the whole die (17 R541; log entry 72). -/
def State.addEnergy (s : State) (cluster uJ : Nat) : State :=
  let s := s.addDieEnergy (cluster / 4) uJ
  match s.partOfCluster cluster with
  | some (p, _) => s.modPart p (fun x =>
      let y := x.inWindow s.windowNow
      { y with used := y.used + uJ })
  | none => s

/-- The level of a cluster's supply, as its detector sees it (17 R540). -/
def State.setSupply (s : State) (n : Nat) (low : Bool) : State :=
  let k := s.cluster n
  { s with clusters := mput s.clusters n { k with low := low, calm := if low then 0 else k.calm } }

end Sys2Proof.Machine
end

