-- ==== Sys2Proof/Machine/Translate.lean ====
section
/-! DEFINITION. Translation: the table walk, the translation caches, sweeps and the physical frames of a
virtual range (spec 14 R443 to R459, 17 R526, R527).
-/

namespace Sys2Proof.Machine

/-- What an access needs of a page (14 R448): read, write, execute; no system page (08 R307); and whether it is a
plain load, which a copy in a cache serves (03 R141). -/
structure AccKind where
  r : Bool
  w : Bool
  x : Bool
  noSys : Bool
  plain : Bool
  deriving DecidableEq, Repr

/-- A plain load, an engine read, a walk of a sparse tree. -/
def AccKind.load : AccKind := ⟨true, false, false, false, true⟩
/-- An ordered load, which reads at the home. -/
def AccKind.loadHome : AccKind := ⟨true, false, false, false, false⟩
/-- A store or an engine write. -/
def AccKind.store : AccKind := ⟨false, true, false, false, false⟩
/-- An atomic or RED. -/
def AccKind.atomic : AccKind := ⟨true, true, false, true, false⟩
/-- BSIG on its object. -/
def AccKind.signal : AccKind := ⟨false, true, false, true, false⟩
/-- BWAIT and BRD on their object. -/
def AccKind.observe : AccKind := ⟨true, false, false, true, false⟩
/-- An instruction fetch. -/
def AccKind.fetch : AccKind := ⟨false, false, true, false, false⟩

/-- The size of a page by its SZ code (14 R445). -/
def pageSize (sz : Nat) : Nat :=
  match sz with
  | 0 => 2 ^ 12
  | 1 => 2 ^ 14
  | 2 => 2 ^ 16
  | 3 => 2 ^ 18
  | 4 => 2 ^ 20
  | 5 => 2 ^ 21
  | 6 => 2 ^ 22
  | 7 => 2 ^ 24
  | 8 => 2 ^ 26
  | 9 => 2 ^ 28
  | 10 => 2 ^ 30
  | _ => 2 ^ 32

/-- The level at which an SZ code stands; 0 for a reserved code (14 R445). -/
def pageLevel (sz : Nat) : Nat :=
  if sz ≤ 4 then 1 else if sz ≤ 9 then 2 else if sz ≤ 11 then 3 else 0

/-- The bytes that one entry of a level maps (14 R443). -/
def levelSpan (lvl : Nat) : Nat := 4096 * 512 ^ (lvl - 1)

/-- How a walk ends. -/
inductive WalkResult where
  | leaf (l : Leaf) (interior : List WalkEntry)
  | perm
  | memoryError (pa : Nat)
  | noMemory (pa : Nat)
  deriving DecidableEq, Repr

/-- The address of the transfer at which an access of n bytes meets a memory error: it reads data with an
uncorrectable error (14 R469), or its frame is retired (14 R470). -/
def State.badAt (s : State) (reads : Bool) (pa n : Nat) : Option Nat :=
  match (if reads then s.dev.badTransfers.find? (touchesTransfer pa n) else none) with
  | some t => some (32 * t)
  | none => if s.dev.retired.contains (pa / 4096) then some (pa / 32 * 32) else none

/-- Whether a connection is open (17 R521): its STATE is 1; while CONNBASE is 0, it is connection 0. -/
def State.connOpen (s : State) (c : Nat) : Bool :=
  if s.dev.connBase = 0 then c == 0 else (mget Conn.reset s.conns c).state == 1

/-- The condition of 17 R527 on a leaf. -/
def State.leafPlaceOk (s : State) (sysp : Bool) (pa : Nat) : Bool :=
  if sysp then isAperture pa && s.connOpen (bits pa 32 12) else decide (pa < memoryEnd)

/-- A walk from a level and its table (14 R446). -/
def State.walkFrom (s : State) (ctx va : Nat) : Nat → Nat → List WalkEntry → WalkResult
  | 0, _, _ => .perm
  | n + 1, t, acc =>
    let lvl := n + 1
    let i := bits va (12 + 9 * n) 9
    let ea := t + 8 * i
    if !s.reaches ea 8 then .noMemory ea
    else match s.badAt true ea 8 with
    | some x => .memoryError x
    | none =>
      let e := (s.dword ea).toNat
      if bits e 0 1 = 0 || bits e 60 4 != 0 || bits e 48 4 != 0 || bits e 9 3 != 0 then .perm
      else if bits e 1 1 = 0 then
        if n = 0 then .perm
        else if bits e 56 4 != 0 || bits e 2 7 != 0 then .perm
        else
          let next := bits e 12 36 * 4096
          s.walkFrom ctx va n next
            (acc ++ [⟨ctx, lvl, va / levelSpan lvl * levelSpan lvl, next⟩])
      else
        let sz := bits e 56 4
        if pageLevel sz ≠ lvl then .perm
        else
          let size := pageSize sz
          let run := size / levelSpan lvl
          let ha := t + 8 * (i / run * run)
          let h := (s.dword ha).toNat
          match s.badAt true ha 8 with
          | some x => .memoryError x
          | none =>
          let same (lo n : Nat) : Bool := bits h lo n == bits e lo n
          let base := bits e 12 36 * 4096
          if !(same 0 5 && same 7 2 && same 12 36 && same 56 4) then .perm
          else if base % size ≠ 0 then .perm
          else if !s.leafPlaceOk (bits e 7 1 == 1) base then .perm
          else
            .leaf
              { ctx := ctx, va := va / size * size, pa := base, size := size,
                r := bits e 2 1 == 1, w := bits e 3 1 == 1, x := bits e 4 1 == 1,
                sysp := bits e 7 1 == 1, res := bits e 8 1 == 1,
                a := bits h 5 1 == 1, d := bits h 6 1 == 1, head := ha }
              acc

/-- A walk from the top table of a context. -/
def State.walk (s : State) (ctx va : Nat) : WalkResult :=
  s.walkFrom ctx va 4 (field (s.ctx ctx).ptBase 47 12 * 4096) []

/-- Whether a leaf of a context maps an address. -/
def Leaf.maps (l : Leaf) (ctx va : Nat) : Bool :=
  l.ctx == ctx && decide (l.va ≤ va) && decide (va < l.va + l.size)

/-- Whether a translation may be cached (14 R452). -/
def Leaf.cacheable (l : Leaf) : Bool := l.sysp || (l.res && l.a)

/-- The deepest walk-cache entry that serves an address: the level below it and its table. -/
def walkStart (es : List WalkEntry) (ctx va : Nat) : Option (Nat × Nat) :=
  let hit (lvl : Nat) : Option (Nat × Nat) :=
    (es.find? (fun e => e.ctx == ctx && e.level == lvl && e.va == va / levelSpan lvl * levelSpan lvl)).map
      (fun e => (lvl - 1, e.table))
  match hit 2 with
  | some x => some x
  | none =>
    match hit 3 with
    | some x => some x
    | none => hit 4

/-- A walk that starts from the core's walk cache. -/
def State.walkCached (s : State) (c ctx va : Nat) : WalkResult :=
  match walkStart (s.core c).walks ctx va with
  | some (lvl, t) => s.walkFrom ctx va lvl t []
  | none => s.walk ctx va

/-- Puts a leaf into a core's TLB and interior entries into its walk cache, oldest out first. -/
def Core.cacheWalk (k : Core) (l : Leaf) (es : List WalkEntry) : Core :=
  { k with
    tlb := (l :: k.tlb.filter (fun x => !(x.ctx == l.ctx && x.va == l.va))).take 512
    walks := (es ++ k.walks.filter (fun x => !es.contains x)).take 128 }

/-- The cached translation that serves an access: the lane's last-page register, then the core TLB; a
write through one whose D is 0 walks again (14 R453, R454). -/
def cachedLeaf (k : Core) (last : Option Leaf) (ctx va : Nat) (write : Bool) : Option Leaf :=
  let fit (l : Leaf) : Bool := l.maps ctx va
  let usable (l : Leaf) : Bool := !write || l.sysp || l.d
  let pick (o : Option Leaf) : Option Leaf := o.bind (fun l => if usable l then some l else none)
  match last with
  | some l => if fit l then pick (some l) else pick (k.tlb.find? fit)
  | none => pick (k.tlb.find? fit)

/-- How a translated access ends: at a physical address of a leaf; with a cause; with something that the
service cores or the driver serve; or at an address that cannot be accessed, of no memory or of memory homed on a
die under reset (see State.noteBad). -/
inductive AccResult where
  | ok (pa : Nat) (l : Leaf)
  | cause (c : Cause)
  | light (f : LightFault)
  | nres (l : Leaf)
  | memoryError (pa : Nat)
  | noMemory (pa : Nat)
  deriving DecidableEq, Repr

/-- Whether two ranges given as base and length meet. -/
def rangesMeet (b1 n1 b2 n2 : Nat) : Bool := decide (b1 < b2 + n2) && decide (b2 < b1 + n1)

/-- Whether n bytes at a virtual address meet a range that their context has sealed (03 R150): every write to the
range faults, on whatever page, one that became resident after the SEAL and a system page among them. -/
def State.sealedRange (s : State) (ctx va n : Nat) : Bool :=
  match s.part? (ctx / 256) with
  | none => false
  | some p => p.seals.any (fun x => x.ctx == ctx % 256 && rangesMeet va n x.base x.len)

/-- Whether n bytes at a physical address meet a page that a seal of a partition binds (08 R334). -/
def State.sealedWrite (s : State) (part pa n : Nat) : Bool :=
  match s.part? part with
  | none => false
  | some p => p.seals.any (fun x => x.frames.any (fun r => decide (pa < r.1 + r.2) && decide (r.1 < pa + n)))

/-- Whether a write through a leaf meets a sealed range of its own context, or a page that a seal of any context of
the partition binds (03 R150; 08 R334). -/
def State.sealStops (s : State) (l : Leaf) (va n : Nat) : Bool :=
  s.sealedRange l.ctx va n || (l.res && !l.sysp && s.sealedWrite (l.ctx / 256) (l.pa + (va - l.va)) n)

/-- Checks 5 to 7 of 08 R307 on a leaf, then the light faults of 14 R450. -/
def State.checkLeaf (s : State) (l : Leaf) (kind : AccKind) (va n : Nat) : AccResult :=
  let pa := l.pa + (va - l.va)
  if (kind.r && !l.r) || (kind.w && !l.w) || (kind.x && !l.x) || (kind.noSys && l.sysp) then .cause .perm
  else if kind.w && s.sealStops l va n then .cause .seal
  else if l.sysp then .ok pa l
  else if !l.res then .nres l
  else if !l.a || (kind.w && !l.d) then .light ⟨l.head, kind.w⟩
  else match s.badAt (kind.r || kind.x) pa n with
  | some x => .memoryError x
  | none => if s.awayAt pa then .noMemory pa else .ok pa l

/-- The outcome of an access through a leaf, given which physical addresses a cache serves: an error in memory is not
met by a load of what a cache holds (14 R469). -/
def State.accessLeaf (s : State) (served : Nat → Bool) (l : Leaf) (kind : AccKind) (va n : Nat) : AccResult :=
  let pa := l.pa + (va - l.va)
  match s.checkLeaf l kind va n with
  | .memoryError x => if served pa then .ok pa l else .memoryError x
  | r => r

/-- An access of a core to a virtual address through its translation caches, with the lane's last-page
register: the machine with what the walk cached, the last-page register, and the outcome. -/
def State.access (s : State) (c : Nat) (served : Nat → Bool) (last : Option Leaf) (ctx va n : Nat) (kind : AccKind) :
    State × Option Leaf × AccResult :=
  match cachedLeaf (s.core c) last ctx va kind.w with
  | some l => (s, some l, s.accessLeaf served l kind va n)
  | none =>
    match s.walkCached c ctx va with
    | .leaf l es =>
      let res := s.accessLeaf served l kind va n
      if l.cacheable then
        match res with
        | .cause .perm => (s, last, res)
        | _ => (s.modCore c (fun k => k.cacheWalk l es), some l, res)
      else (s, last, res)
    | .perm => (s, last, .cause .perm)
    | .memoryError pa => (s, last, .memoryError pa)
    | .noMemory pa => (s, last, .noMemory pa)

/-- An access of an engine or a service core: a walk without the core's caches. -/
def State.engineAccess (s : State) (ctx va n : Nat) (kind : AccKind) : AccResult :=
  match s.walk ctx va with
  | .leaf l _ => s.checkLeaf l kind va n
  | .perm => .cause .perm
  | .memoryError pa => .memoryError pa
  | .noMemory pa => .noMemory pa

/-- A leaf as it stands once a service core has served its light fault (14 R450). -/
def Leaf.lit (l : Leaf) : Leaf := { l with a := true, d := true }

/-- An access of an engine or of the device to an object, whose light fault is served on the way (14 R450). -/
def State.litAccess (s : State) (ctx va n : Nat) (kind : AccKind) : AccResult :=
  match s.walk ctx va with
  | .leaf l _ => s.checkLeaf l.lit kind va n
  | .perm => .cause .perm
  | .memoryError pa => .memoryError pa
  | .noMemory pa => .noMemory pa

/-- Sets A, and for a write D, in a run head (14 R450, R451). -/
def State.serveLight (s : State) (f : LightFault) : State :=
  let h := s.dword f.head
  s.setDword f.head (h ||| 0x20 ||| (if f.write then 0x40 else 0))

/-- The pieces of a virtual range below one table: virtual base and length of each entry that is a leaf. -/
def State.piecesFrom (s : State) (base len : Nat) : Nat → Nat → Nat → List (Nat × Nat)
  | 0, _, _ => []
  | n + 1, t, vbase =>
    let span := levelSpan (n + 1)
    let lo := if base ≤ vbase then 0 else (base - vbase) / span
    let hi := min 512 ((base + len - vbase + span - 1) / span)
    ((List.range (hi - lo)).map (· + lo)).flatMap (fun i =>
      let e := (s.dword (t + 8 * i)).toNat
      if bits e 0 1 = 0 then []
      else if bits e 1 1 = 0 then s.piecesFrom base len n (bits e 12 36 * 4096) (vbase + i * span)
      else
        let a := max base (vbase + i * span)
        let z := min (base + len) (vbase + (i + 1) * span)
        [(a, z - a)])

/-- The physical ranges, as base and length, of the resident pages of a virtual range that are no system
pages (08 R329, R334). The page of a leaf that is not resident stands in no frame, so a SEAL binds none for it
(DEDUCED, log entry 24); writes to it meet the virtual range (State.sealedRange). -/
def State.physRanges (s : State) (ctx base len : Nat) : List (Nat × Nat) :=
  if len = 0 then []
  else
    (s.piecesFrom base len 4 (field (s.ctx ctx).ptBase 47 12 * 4096) 0).filterMap (fun x =>
      match s.walk ctx x.1 with
      | .leaf l _ => if l.res && !l.sysp then some (l.pa + (x.1 - l.va), x.2) else none
      | _ => none)

/-- The frames that hold the blocks of a sealed range: those that the seal bound (08 R334), and those of pages of
the range that became resident since (03 R151, R152). -/
def State.sealRanges (s : State) (part : Nat) (y : Seal) : List (Nat × Nat) :=
  y.frames ++ s.physRanges (Machine.ctxKey part y.ctx) y.base y.len

/-- The frames of every sealed range of a partition. -/
def State.sealedRanges (s : State) (part : Nat) : List (Nat × Nat) :=
  match s.part? part with
  | none => []
  | some p => p.seals.flatMap (s.sealRanges part)

/-- The address at which a walk of some page of a virtual range meets a memory error (14 R469). -/
def State.walkError (s : State) (ctx base len : Nat) : Option Nat :=
  if len = 0 || (s.dev.badTransfers.isEmpty && s.dev.retired.isEmpty) then none
  else
    (s.piecesFrom base len 4 (field (s.ctx ctx).ptBase 47 12 * 4096) 0).findSome? (fun x =>
      match s.walk ctx x.1 with
      | .memoryError pa => some pa
      | _ => none)

/-! Sweeps (14 R456). -/

/-- Whether a sweep of a range, for the contexts of a condition, removes a leaf. -/
def sweepsLeaf (base len : Nat) (names : Nat → Bool) (l : Leaf) : Bool :=
  names l.ctx && rangesMeet base len l.va l.size

/-- A gang after a sweep of its lanes' last-page registers. -/
def Gang.sweep (g : Gang) (base len : Nat) (names : Nat → Bool) : Gang :=
  { g with lanes := mmapVals (fun _ x =>
      match x.lastPage with
      | some l => if sweepsLeaf base len names l then { x with lastPage := none } else x
      | none => x) g.lanes }

/-- A core after a sweep: TLB, last-page registers, instruction cache by context, and the walk cache for
every context of the partition. -/
def Core.sweep (k : Core) (part base len : Nat) (names : Nat → Bool) : Core :=
  { k with
    slots := mmapVals (fun _ g => g.sweep base len names) k.slots
    tlb := k.tlb.filter (fun l => !sweepsLeaf base len names l)
    walks := k.walks.filter (fun w => !(w.ctx / 256 == part && rangesMeet base len w.va (levelSpan w.level)))
    icache := k.icache.filter (fun f => !(names f.ctx && rangesMeet base len f.va 256)) }

/-- A sweep on some cores and on the fetch agents of some dies. -/
def State.sweepOn (s : State) (part base len : Nat) (names : Nat → Bool) (onCore onDie : Nat → Bool) :
    State :=
  if len = 0 then s
  else
    { s with
      cores := mmapVals (fun c k => if onCore c then k.sweep part base len names else k) s.cores
      dies := mmapVals (fun d x =>
        if onDie d then { x with agent := x.agent.filter (fun l => !sweepsLeaf base len names l) } else x)
        s.dies }

end Sys2Proof.Machine
end

