-- ==== Sys2Proof/Machine/Cache.lean ====
section
/-! DEFINITION. The variable-length blocks of the L1 data caches and remote-data caches (spec 03 R138 to
R148), and the words that move between the levels (05 R183).
-/

namespace Sys2Proof.Machine

/-! Blocks of one set. -/

/-- The granules of words first to last (03 R139). -/
def granuleCount (first last : Nat) : Nat := last / 4 - first / 4 + 1

/-- Whether a block uses a granule of its set. -/
def Block.uses (b : Block) (g : Nat) : Bool :=
  decide (b.granule ≤ g) && decide (g < b.granule + granuleCount b.first b.last)

/-- Whether a block holds a word of a frame. -/
def Block.holds (b : Block) (frame w : Nat) : Bool :=
  b.frame == frame && decide (b.first ≤ w) && decide (w ≤ b.last)

/-- The lowest run of n free granules (log entry 12). -/
def freeRun (bs : List Block) (n : Nat) : Option Nat :=
  (below 64 (fun g => decide (g + n ≤ 64) &&
    (List.range n).all (fun i => !bs.any (fun b => b.uses (g + i))))).head?

/-- The block of least recent use among those that may be evicted. -/
def leastRecent (spared : Block → Bool) : List Block → Option Block
  | [] => none
  | b :: bs =>
    match leastRecent spared bs with
    | none => if spared b then none else some b
    | some c => if !spared b && b.used ≤ c.used then some b else some c

/-- Evicts whole blocks in order of least recent use, never a spared one, until a tag and a run of n
granules exist (03 R145): the blocks left, the blocks evicted, and the run. -/
def makeRoom (spared : Block → Bool) (n : Nat) :
    Nat → List Block → List Block → List Block × List Block × Option Nat
  | 0, bs, out => (bs, out, none)
  | fuel + 1, bs, out =>
    match (if bs.length < 16 then freeRun bs n else none) with
    | some g => (bs, out, some g)
    | none =>
      match leastRecent spared bs with
      | none => (bs, out, none)
      | some b => makeRoom spared n fuel (bs.filter (fun c => c != b)) (out ++ [b])

/-- A new block without bytes, put into a set. When the blocks to merge with leave no room, the set is left
as it is. -/
def allocate (spared : Block → Bool) (frame first last used : Nat) (pred : Option Nat) (bs : List Block) :
    List Block × List Block :=
  match makeRoom spared (granuleCount first last) 17 bs [] with
  | (bs', out, some g) =>
    (bs' ++ [{ frame := frame, first := first, last := last, granule := g, bytes := [], read := 0,
               pred := pred, used := used }], out)
  | (bs', out, none) => (bs', out)

/-- The valid byte of a frame that a set holds. -/
def setByte? (bs : List Block) (frame off : Nat) : Option CacheByte :=
  match bs.find? (fun b => b.holds frame (off / 4)) with
  | some b => mfind? b.bytes off
  | none => none

/-- Writes a byte into the block that holds its word, if any. -/
def setByte (bs : List Block) (frame off : Nat) (c : CacheByte) : List Block :=
  bs.map (fun b => if b.holds frame (off / 4) then { b with bytes := mput b.bytes off c } else b)

/-- Notes a use, and the words read, of the blocks that hold them. -/
def noteUse (bs : List Block) (frame : Nat) (ws : List Nat) (used : Nat) : List Block :=
  bs.map (fun b =>
    if ws.any (b.holds frame) then
      { b with
        used := used
        read := (ws.filter (b.holds frame)).foldl (fun r w => if bitAt r w then r else r + 2 ^ w) b.read }
    else b)

/-- The runs of units in [lo, hi] for which a condition holds, as first and last unit. -/
def runsAux (p : Nat → Bool) : Nat → Nat → Option Nat → List (Nat × Nat)
  | 0, at_, open_ =>
    match open_ with
    | some a => [(a, at_ - 1)]
    | none => []
  | n + 1, at_, open_ =>
    if p at_ then runsAux p n (at_ + 1) (some (open_.getD at_))
    else
      match open_ with
      | some a => (a, at_ - 1) :: runsAux p n (at_ + 1) none
      | none => runsAux p n (at_ + 1) none

/-- See runsAux. -/
def runs (p : Nat → Bool) (lo hi : Nat) : List (Nat × Nat) := runsAux p (hi + 1 - lo) lo none

/-- Stored bytes put into the blocks of a set that hold their words: they become valid and dirty. -/
def storeHeld (frame used : Nat) (ws : List (Nat × Byte)) (bs : List Block) : List Block :=
  (ws.foldl (fun bs x => setByte bs frame x.1 ⟨x.2, true⟩) bs).map (fun b =>
    if b.frame = frame && ws.any (fun x => b.holds frame (x.1 / 4)) then { b with used := used } else b)

/-- A store into a set (03 R145): its bytes become valid and dirty, first those of words that a block
holds; each run of other words gets a block rounded out to whole 8-byte words, and its bytes with it, so
that what a later run evicts leaves with them. -/
def storeSet (frame used : Nat) (ws : List (Nat × Byte)) (bs : List Block) : List Block × List Block :=
  let missing (u : Nat) : Bool :=
    ws.any (fun x => x.1 / 8 == u) && !bs.any (fun b => b.holds frame (2 * u))
  (runs missing 0 31).foldl
    (fun (x : List Block × List Block) r =>
      let (b', o') := allocate (fun _ => false) frame (2 * r.1) (2 * r.2 + 1) used none x.1
      (storeHeld frame used (ws.filter (fun w => decide (r.1 ≤ w.1 / 8) && decide (w.1 / 8 ≤ r.2))) b', x.2 ++ o'))
    (storeHeld frame used ws bs, [])

/-- A fill of words s to e of a frame (03 R143): merged with the blocks it overlaps when the union has a
run of granules, otherwise trimmed to the gaps, which never evict those blocks (R145). The bytes that are not
valid come from below. A merged block keeps the index of this fill alone: DESIGN CHOICE, unsafe (log entry 10). -/
def fillSet (frame s e used : Nat) (pred : Option Nat) (read : Nat → Byte) (bs : List Block) :
    List Block × List Block :=
  let overlaps (b : Block) : Bool := b.frame == frame && decide (b.first ≤ e) && decide (s ≤ b.last)
  let touching := bs.filter overlaps
  let lo := touching.foldl (fun x b => min x b.first) s
  let hi := touching.foldl (fun x b => max x b.last) e
  let others := bs.filter (fun b => !overlaps b)
  let fillFrom (bs : List Block) : List Block :=
    bs.map (fun b =>
      if b.frame = frame then
        { b with
          bytes := ((List.range 256).filter (fun o =>
              b.holds frame (o / 4) && decide (s ≤ o / 4) && decide (o / 4 ≤ e) &&
              (mfind? b.bytes o).isNone)).foldl
            (fun m o => mput m o ⟨read o, false⟩) b.bytes }
      else b)
  match touching, freeRun others (granuleCount lo hi) with
  | _ :: _, some g =>
    let merged : Block :=
      { frame := frame, first := lo, last := hi, granule := g,
        bytes := touching.foldl (fun m b => b.bytes.foldl (fun m x => mput m x.1 x.2) m) [],
        read := touching.foldl (fun r b => r ||| b.read) 0, pred := pred, used := used }
    (fillFrom (others ++ [merged]), [])
  | _, _ =>
    let gap (w : Nat) : Bool := !bs.any (fun b => b.holds frame w)
    let (bs', out) := (runs gap s e).foldl
      (fun (x : List Block × List Block) r =>
        let (b', o') := allocate overlaps frame r.1 r.2 used pred x.1
        (b', x.2 ++ o'))
      (bs, [])
    (fillFrom bs', out)

/-- The dirty bytes of a block that satisfy a condition, with their physical addresses. -/
def Block.dirty (p : Nat → Bool) (b : Block) : List (Nat × Byte) :=
  (b.bytes.filter (fun x => x.2.dirty && p (b.frame * 256 + x.1))).map
    (fun x => (b.frame * 256 + x.1, x.2.val))

/-- A block with the bytes that satisfy a condition clean. -/
def Block.clean (p : Nat → Bool) (b : Block) : Block :=
  { b with bytes := b.bytes.map (fun x =>
      if p (b.frame * 256 + x.1) then (x.1, { x.2 with dirty := false }) else x) }

/-- A block restricted to words first to last, at the granules those words had. -/
def Block.restrict (b : Block) (first last : Nat) : Block :=
  { b with
    first := first, last := last, granule := b.granule + first / 4 - b.first / 4,
    bytes := b.bytes.filter (fun x => decide (first ≤ x.1 / 4) && decide (x.1 / 4 ≤ last)),
    read := (below 64 (fun w => bitAt b.read w && decide (first ≤ w) && decide (w ≤ last))).foldl (fun r w => r + 2 ^ w) 0 }

/-- A set without the 8-byte words that satisfy a condition (03 R146, R147): blocks are trimmed or split,
and a block for whose pieces no tag is free goes whole. The blocks left, and those gone whole. -/
def removeSet (p : Nat → Bool) (bs : List Block) : List Block × List Block :=
  bs.foldl
    (fun (x : List Block × List Block) (b : Block) =>
      let keep (u : Nat) : Bool := !p (b.frame * 256 + 8 * u)
      let rs := runs keep (b.first / 2) (b.last / 2)
      let pieces := rs.map (fun r => b.restrict (2 * r.1) (2 * r.2 + 1))
      if pieces = [b] then (x.1 ++ [b], x.2)
      else if pieces.length ≤ 1 || bs.length + pieces.length ≤ 17 then (x.1 ++ pieces, x.2)
      else (x.1, x.2 ++ [b]))
    ([], [])

/-! Whole caches. -/

/-- The dirty bytes of a cache that satisfy a condition. -/
def cacheDirty (p : Nat → Bool) (m : Map (List Block)) : List (Nat × Byte) :=
  m.flatMap (fun x => x.2.flatMap (Block.dirty p))

/-- A cache with the bytes that satisfy a condition clean. -/
def cacheClean (p : Nat → Bool) (m : Map (List Block)) : Map (List Block) :=
  mmapVals (fun _ bs => bs.map (Block.clean p)) m

/-- A cache without the words that satisfy a condition, and the blocks gone whole beside them. -/
def cacheRemove (p : Nat → Bool) (m : Map (List Block)) : Map (List Block) × List Block :=
  m.foldr
    (fun x (acc : Map (List Block) × List Block) =>
      let (bs, out) := removeSet p x.2
      ((x.1, bs) :: acc.1, out ++ acc.2))
    ([], [])

/-- The set of a frame in a core's L1 (03 R139). -/
def l1Set (frame : Nat) : Nat := frame % 128

/-- The L2 slice of its home die that holds a frame, 0 to 63, and the frame's set there (03 R139, R543): fixed
hashes, on which no value depends (log entry 10). -/
def homeSlice (frame : Nat) : Nat := Config.sliceHash frame % 64

/-- See homeSlice. -/
def l2Set (frame : Nat) : Nat := Config.l2SetHash frame % 1536

/-- The set of a frame in a die's remote-data cache (03 R139). -/
def rdcSet (frame : Nat) : Nat := Config.remoteSetHash frame % 32768

/-- Every byte. -/
def allBytes : Nat → Bool := fun _ => true

/-- Whether an address lies in one of some physical ranges, given as base and length. -/
def inRanges (rs : List (Nat × Nat)) (a : Nat) : Bool :=
  rs.any (fun r => decide (r.1 ≤ a) && decide (a < r.1 + r.2))

/-- Whether the 8-byte word of an address meets one of some physical ranges (03 R147). -/
def meetsRanges (rs : List (Nat × Nat)) (a : Nat) : Bool :=
  let u := a / 8 * 8
  rs.any (fun r => decide (u < r.1 + r.2) && decide (r.1 < u + 8))

/-- Writes bytes at their home, the first first. -/
def State.homeStoreAt (s : State) (ws : List (Nat × Byte)) : State :=
  match ws.find? (fun w => s.awayAt w.1) with
  | some w => s.noteBad w.1
  | none =>
    let t := s.heal (fun t => ws.any (fun w => w.1 / 32 == t))
    t.setMem (memStoreAt t.mem ws)

/-- Stores bytes of one frame into a die's remote-data cache; what it evicts goes to its home. -/
def State.rdcStoreFrame (s : State) (d frame : Nat) (ws : List (Nat × Byte)) : State :=
  let m := (s.die d).rdc
  let (bs, out) := storeSet frame s.tick ws (mget [] m (rdcSet frame))
  (s.modDie d (fun x => { x with rdc := mput m (rdcSet frame) bs })).homeStoreAt
    (out.flatMap (Block.dirty allBytes))

/-- Splits bytes by their frames. -/
def byFrames (ws : List (Nat × Byte)) : List (Nat × List (Nat × Byte)) :=
  (nubNat (ws.map (fun x => x.1 / 256))).map
    (fun f => (f, (ws.filter (fun x => x.1 / 256 == f)).map (fun x => (x.1 % 256, x.2))))

/-- Writes dirty bytes that leave an L1 of die d: to their home when it is d, else to d's remote-data
cache (05 R183). -/
def State.writeBack (s : State) (d : Nat) (ws : List (Nat × Byte)) : State :=
  let near := ws.filter (fun x => homeDie x.1 == d)
  let far := ws.filter (fun x => homeDie x.1 != d)
  (byFrames far).foldl (fun s x => s.rdcStoreFrame d x.1 x.2) (s.homeStoreAt near)

/-- The predictor entry that an evicted block sets (03 R142): the span of the words read, rounded up to
4 words. A block of which no word was read has no span and leaves the entry: DESIGN CHOICE, unsafe (log
entry 10). -/
def predictFrom (b : Block) : Option (Nat × Nat) :=
  match b.pred with
  | none => none
  | some i =>
    let ws := below 64 (bitAt b.read)
    match ws.head?, ws.getLast? with
    | some a, some z => some (i, (z - a + 1 + 3) / 4 * 4)
    | _, _ => none

/-- Takes evicted blocks out of a core's L1: their dirty bytes go below, and the predictor learns. -/
def State.l1Evicted (s : State) (c : Nat) (out : List Block) : State :=
  let s := s.modCore c (fun k =>
    { k with predictor := (out.filterMap predictFrom).foldl (fun m x => mput m x.1 x.2) k.predictor })
  s.writeBack (dieOfCore c) (out.flatMap (Block.dirty allBytes))

/-- A store of bytes of one frame at a core's L1 (08 R316). -/
def State.l1StoreFrame (s : State) (c frame : Nat) (ws : List (Nat × Byte)) : State :=
  let m := (s.core c).l1
  let (bs, out) := storeSet frame s.tick ws (mget [] m (l1Set frame))
  (s.modCore c (fun k => { k with l1 := mput m (l1Set frame) bs })).l1Evicted c out

/-- A store of bytes at a core's L1. -/
def State.l1Store (s : State) (c : Nat) (ws : List (Nat × Byte)) : State :=
  (byFrames ws).foldl (fun s x => s.l1StoreFrame c x.1 x.2) s

/-- Fills words of a frame into a die's remote-data cache from the home. -/
def State.rdcFill (s : State) (d frame first last : Nat) : State :=
  let m := (s.die d).rdc
  let (bs, out) := fillSet frame first last s.tick none (fun o => memRead s.mem (frame * 256 + o))
    (mget [] m (rdcSet frame))
  (s.modDie d (fun x => { x with rdc := mput m (rdcSet frame) bs })).homeStoreAt
    (out.flatMap (Block.dirty allBytes))

/-- The byte below an L1 of die d: at the home, or in d's remote-data cache when it holds it. -/
def State.belowL1 (s : State) (d a : Nat) : Byte :=
  if homeDie a = d then memRead s.mem a
  else
    match setByte? (mget [] (s.die d).rdc (rdcSet (a / 256))) (a / 256) (a % 256) with
    | some x => x.val
    | none => memRead s.mem a

/-- Fills words of a frame into a core's L1, through the die's remote-data cache for words homed
elsewhere. -/
def State.l1Fill (s : State) (c frame first last : Nat) (pred : Option Nat) : State :=
  let d := dieOfCore c
  let s := if homeDie (frame * 256) = d then s else s.rdcFill d frame first last
  let m := (s.core c).l1
  let (bs, out) := fillSet frame first last s.tick pred (fun o => s.belowL1 d (frame * 256 + o))
    (mget [] m (l1Set frame))
  (s.modCore c (fun k => { k with l1 := mput m (l1Set frame) bs })).l1Evicted c out

/-- The length in words that the predictor holds for a load at an address (03 R142). -/
def Core.predicted (k : Core) (pc : Nat) : Nat := mget 16 k.predictor (((pc / 4) ^^^ (pc / 1024)) % 256)

/-- A byte as a core's L1 serves it, with what lies below for a byte that the L1 does not hold. -/
def State.l1Byte (s : State) (c a : Nat) : Byte :=
  match setByte? (mget [] (s.core c).l1 (l1Set (a / 256))) (a / 256) (a % 256) with
  | some x => x.val
  | none => s.belowL1 (dieOfCore c) a

/-- Whether a core's L1, or its die's remote-data cache, holds every byte of a range of no retired frame: a load of
it reads no memory. -/
def State.cachedAt (s : State) (c a n : Nat) : Bool :=
  !s.dev.retired.contains (a / 4096) &&
  (List.range n).all (fun i =>
    (setByte? (mget [] (s.core c).l1 (l1Set ((a + i) / 256))) ((a + i) / 256) ((a + i) % 256)).isSome ||
    (setByte? (mget [] (s.die (dieOfCore c)).rdc (rdcSet ((a + i) / 256))) ((a + i) / 256) ((a + i) % 256)).isSome)

/-- A request for bytes of a frame, by their offsets in it, at a core's L1 (03 R141, R144): when one is
missing, the range that begins at the first requested word is filled. -/
def State.l1Want (s : State) (c frame : Nat) (offs : List Nat) (pc : Nat) (hint : Option Nat) : State :=
  let bs := mget [] (s.core c).l1 (l1Set frame)
  let ws := nubNat (offs.map (· / 4))
  if offs.all (fun o => (setByte? bs frame o).isSome) then s
  else
    let first := (leastOf ws).getD 0 / 4 * 4
    let len := hint.getD ((s.core c).predicted pc)
    let last := min 63 (max (ws.foldl max 0) (first + len - 1))
    s.l1Fill c frame first (if last % 2 = 1 then last else last + 1) (some (((pc / 4) ^^^ (pc / 1024)) % 256))

/-- A load of bytes of a frame at a core's L1: what is missing is filled, and the words count as read. -/
def State.l1Load (s : State) (c frame : Nat) (offs : List Nat) (pc : Nat) (hint : Option Nat) : State :=
  (s.l1Want c frame offs pc hint).modCore c (fun k =>
    let bs := noteUse (mget [] k.l1 (l1Set frame)) frame (nubNat (offs.map (· / 4))) s.tick
    { k with l1 := mput k.l1 (l1Set frame) bs })

/-- Bytes as a core reads them through its L1, frame by frame; each request names a place in the answer.
The requests of one frame are combined (03 R141). -/
def State.l1Read (s : State) (c : Nat) (reqs : List (Nat × Nat)) (pc : Nat) (hint : Option Nat) :
    State × List (Nat × Byte) :=
  (nubNat (reqs.map (fun r => r.2 / 256))).foldl
    (fun (x : State × List (Nat × Byte)) frame =>
      let mine := reqs.filter (fun r => r.2 / 256 == frame)
      let s := x.1.l1Load c frame (mine.map (fun r => r.2 % 256)) pc hint
      (s, x.2 ++ mine.map (fun r => (r.1, s.l1Byte c r.2))))
    (s, [])

/-- Writes back the dirty words of a core's L1 that satisfy a condition; they stay as clean words
(08 R329). -/
def State.l1WriteBack (s : State) (c : Nat) (p : Nat → Bool) : State :=
  let ws := cacheDirty p (s.core c).l1
  (s.modCore c (fun k => { k with l1 := cacheClean p k.l1 })).writeBack (dieOfCore c) ws

/-- Removes the words of a core's L1 that satisfy a condition, after writing back its dirty ones. -/
def State.l1Remove (s : State) (c : Nat) (p : Nat → Bool) : State :=
  let s := s.l1WriteBack c p
  let (m, out) := cacheRemove p (s.core c).l1
  (s.modCore c (fun k => { k with l1 := m })).l1Evicted c out

/-- Writes back the dirty words of a die's remote-data cache that satisfy a condition, to their homes. -/
def State.rdcWriteBack (s : State) (d : Nat) (p : Nat → Bool) : State :=
  let ws := cacheDirty p (s.die d).rdc
  (s.modDie d (fun x => { x with rdc := cacheClean p x.rdc })).homeStoreAt ws

/-- Removes the words of a die's remote-data cache that satisfy a condition, after writing back its dirty
ones. -/
def State.rdcRemove (s : State) (d : Nat) (p : Nat → Bool) : State :=
  let s := s.rdcWriteBack d p
  let (m, out) := cacheRemove p (s.die d).rdc
  (s.modDie d (fun x => { x with rdc := m })).homeStoreAt (out.flatMap (Block.dirty allBytes))

/-- Removes words from the remote-data caches of every die, writing back their dirty copies (03 R148,
05 R188). -/
def State.rdcsRemove (s : State) (p : Nat → Bool) : State :=
  s.dies.foldl (fun s d => s.rdcRemove d.1 p) s

/-- Removes words from every remote-data cache without a write-back: a write that lands at the home
replaces them (05 R204, 17 R524). Bytes of the same words that are dirty and not written are written back
first. -/
def State.rdcsDrop (s : State) (p : Nat → Bool) : State := s.rdcsRemove p

/-- Whether the 8-byte word of a physical address lies in a sealed range of a partition (05 R193). -/
def State.sealedWord (s : State) (part a : Nat) : Bool := meetsRanges (s.sealedRanges part) a

/-- Whether the 8-byte word of an address is sealed for the partition of a core. -/
def State.sealedFor (s : State) (c a : Nat) : Bool :=
  match s.partOfCluster (clusterOfCore c) with
  | some (p, _) => s.sealedWord p a
  | none => false

/-- Before an access at the home of the aligned 8-byte word at a: the issuing core's L1 copy of it
and the remote-data copies of its sector are written back and removed (05 R187, R188, R197; 03 R146,
R148), but for sealed words, which stay (03 R151). -/
def State.toHome (s : State) (c a : Nat) : State :=
  (s.l1Remove c (fun x => x / 8 == a / 8 && !s.sealedFor c x)).rdcsRemove
    (fun x => x / 64 == a / 64 && !s.sealedFor c x)

/-- Writes back, as the dirty words at the L1 and then at the die's remote-data cache, for a scope
(05 R183): nothing, the L1, or both. -/
def State.releaseWords (s : State) (c level : Nat) (p : Nat → Bool) : State :=
  if level = 0 then s
  else
    let s := s.l1WriteBack c p
    if level = 1 then s else s.rdcWriteBack (dieOfCore c) p

/-- Removes words for an acquire (05 R183). -/
def State.acquireWords (s : State) (c level : Nat) (p : Nat → Bool) : State :=
  if level = 0 then s
  else
    let s := s.l1Remove c p
    if level = 1 then s else s.rdcRemove (dieOfCore c) p

end Sys2Proof.Machine
end

