-- ==== Sys2Proof/Machine/Wire.lean ====
section
/-! DEFINITION. The sending side of the Wilent transport and the notifications (spec 17 R520 to R523,
R534).
-/

namespace Sys2Proof.Machine

/-- What the device keeps of a connection; without a table it has ROLE host, whatever an earlier opening read
(17 R521). -/
def State.conn (s : State) (c : Nat) : Conn :=
  let k := mget Conn.reset s.conns c
  if s.dev.connBase = 0 then { k with host := true } else k

/-- Where a connection's table entry lies, when there is a table (17 R521). -/
def State.connEntry? (s : State) (c : Nat) : Option Nat :=
  if s.dev.connBase = 0 then none else some (s.dev.connBase.toNat + 64 * c)

/-- Writes what the device keeps of a connection, and its PSNs in the table (17 R521, R523). -/
def State.setConn (s : State) (c : Nat) (k : Conn) : State :=
  let s := { s with conns := mput s.conns c k }
  match s.connEntry? c with
  | some e => s.setDword (e + 48) (BitVec.ofNat 64 (k.txPsn % 2 ^ 32 * 2 ^ 32 + k.rxPsn % 2 ^ 32))
  | none => s

/-- SACK: bit i set when PSN ACKPSN + 1 + i has been received (17 R520). -/
def Conn.sack (k : Conn) : Nat :=
  (List.range 32).foldl
    (fun m i => if k.held.any (fun x => x.1 == (k.rxPsn + 1 + i) % 2 ^ 32) then m + 2 ^ i else m) 0

/-- Appends to what the module has sent. -/
def State.emit (s : State) (f : Frame) : State := { s with sent := s.sent ++ [f] }

/-- Sends a datagram to a connection's remote endpoint when the link is up and the endpoint is known. -/
def State.sendTo (s : State) (k : Conn) (f : Endpoint → Frame) : State :=
  match k.peer with
  | some e => if s.dev.up then s.emit (f e) else s
  | none => s

/-- The datagram of an operation on a connection. -/
def Conn.frameOf (k : Conn) (c : Nat) (x : SentOp) (e : Endpoint) : Frame :=
  .wlt e x.op 0 c x.psn k.rxPsn k.sack x.len x.addr x.data

/-- Sends an operation on a connection: it takes the next PSN, waits to be acknowledged, and goes out
when the link is up (17 R522, R523). -/
def State.sendOp (s : State) (c op addr len : Nat) (data : List Byte) (pa : Nat) (lanes : LaneMask)
    (who : Option Requester) : State :=
  let k := s.conn c
  let x : SentOp := ⟨k.txPsn, op, addr, len, data, pa, lanes, who⟩
  let k' := { k with
    txPsn := (k.txPsn + 1) % 2 ^ 32
    unacked := k.unacked ++ [x]
    timer := if k.unacked.isEmpty then s.time else k.timer
    reads := if op = 2 then k.reads ++ [x] else k.reads }
  (s.setConn c k').sendTo k' (k'.frameOf c x)

/-- Sends an ACK or a READRESP, which take no PSN (17 R520). -/
def State.sendReply (s : State) (c op status len addr : Nat) (data : List Byte) : State :=
  let k := s.conn c
  s.sendTo k (fun e => .wlt e op status c 0 k.rxPsn k.sack len addr data)

/-- A notification of a partition (17 R534). -/
def State.notifyPart (s : State) (p kind index : Nat) (value : DWord) : State :=
  match s.part? p with
  | some x =>
    if x.nen && s.connOpen x.nconn then
      s.sendOp x.nconn 4 0 16
        (bytesOf 1 kind ++ bytesOf 1 index ++ bytesOf 6 0 ++ bytesOf 8 value.toNat) 0 0 none
    else s
  | none => s

/-- A notification that names no partition goes to every partition that asks for them (17 R534; log
entry 30). -/
def State.notifyAll (s : State) (kind index : Nat) (value : DWord) : State :=
  s.parts.foldl (fun s x => s.notifyPart x.1 kind index value) s

/-- The remote physical address that an aperture address names: WINBASE of its connection plus its
offset (17 R526). -/
def State.remoteAddr (s : State) (pa : Nat) : Nat :=
  let c := bits pa 32 12
  let base := if s.dev.connBase = 0 then Config.openWindow else (s.conn c).winBase
  base + bits pa 0 32

/-- The connection that an aperture address names. -/
def apertureConn (pa : Nat) : Nat := bits pa 32 12

/-- SEQ of the launch of an issuer. -/
def State.issuerSeq (s : State) (who : Issuer) : Nat :=
  match mfind? s.launches who.launch with
  | some l => field (l.dw.getD 2 0) 63 32
  | none => 0

/-- The requester at a core, slot and lane: the gang there, or the copy of an index. -/
def State.requester (s : State) (c slot l : Nat) : Option Requester :=
  if slot < 32 then (s.gang? c slot).map (fun g => ⟨c, slot, l, g.ctxKey, g.arrival, slot, g.seq.toNat⟩)
  else (mfind? (s.core c).copies (slot - 32)).map (fun x =>
    ⟨c, slot, l, x.who.ctx, x.who.arrival, x.who.slot, s.issuerSeq x.who⟩)

/-- A write to a system page, an access of the lanes of a mask: a WRITE on its connection (17 R528; 07 R303). -/
def State.sysWrite (s : State) (pa : Nat) (bs : List Byte) (lanes : LaneMask) (who : Nat × Nat × Nat) : State :=
  s.sendOp (apertureConn pa) 1 (s.remoteAddr pa) bs.length bs pa lanes (s.requester who.1 who.2.1 who.2.2)

/-- A read of a system page: a READ on its connection (17 R528). -/
def State.sysRead (s : State) (pa n : Nat) (who : Nat × Nat × Nat) : State :=
  s.sendOp (apertureConn pa) 2 (s.remoteAddr pa) n [] pa (1 <<< who.2.2) (s.requester who.1 who.2.1 who.2.2)

/-- Whether a lane's WRITE to a system page waits for its acknowledgement (05 R184). -/
def State.hasUnacked (s : State) (c slot : Nat) (ls : List Nat) : Bool :=
  s.conns.any (fun k => k.2.unacked.any (fun x =>
    x.op == 1 &&
    match x.who with
    | some w => ls.any (fun l => x.lanes.getLsbD l) && s.requester c slot w.lane == some w
    | none => false))

/-- Whether a requester is the copy of an index on a core: its index within the bank of its context. -/
def Requester.isCopy (w : Requester) (c i : Nat) (x : CopyOp) : Bool :=
  w.core == c && decide (32 ≤ w.slot) && w.slot % 16 == i % 16 && w.ctx == x.who.ctx && w.arrival == x.who.arrival

/-- Whether a WRITE of a copy waits for its acknowledgement. -/
def State.copyUnacked (s : State) (c i : Nat) (x : CopyOp) : Bool :=
  s.conns.any (fun k => k.2.unacked.any (fun y => y.op == 1 && (y.who.map (fun w => w.isCopy c i x)).getD false))

/-- The replies to a copy's reads are awaited no more. -/
def State.forgetCopy (s : State) (c i : Nat) : State :=
  let mine (w : Requester) : Bool := ((mfind? (s.core c).copies i).map (w.isCopy c i)).getD false
  let cut (x : SentOp) : SentOp :=
    match x.who with
    | some w => if mine w then { x with who := none } else x
    | none => x
  { s with conns := mmapVals (fun _ k =>
      { k with unacked := k.unacked.map cut, reads := k.reads.map cut }) s.conns }

end Sys2Proof.Machine
end

