-- ==== Sys2Proof/Machine/Launches.lean ====
section
/-! DEFINITION. Task control blocks, submission, predecessor release and completion records (spec 15 R471
to R477, 16 R494, R515).
-/

namespace Sys2Proof.Machine

/-- The doublewords DW0 to DW9 of a task control block (15 R471). -/
def State.tcbWords (s : State) (tcb : Nat) : List DWord := (List.range 10).map (fun i => s.dword (tcb + 8 * i))

/-- SUCC0 to SUCC7 (15 R471). -/
def State.tcbSucc (s : State) (tcb : Nat) : List Nat :=
  (List.range 8).map (fun i => ofBytes (s.readHome (tcb + 80 + 6 * i) 6))

/-- Doubleword k of a block. -/
def tw (dw : List DWord) (k : Nat) : DWord := dw.getD k 0

def tcbRst (dw : List DWord) : Bool := field (tw dw 0) 56 56 == 1
def tcbCores (dw : List DWord) : Bool := field (tw dw 0) 57 57 == 1
def tcbCtx (dw : List DWord) : Nat := field (tw dw 0) 55 48
def tcbCode (dw : List DWord) : Nat := field (tw dw 0) 47 0
def tcbEmu (dw : List DWord) : Nat := field (tw dw 1) 63 32
def tcbEntry (dw : List DWord) : Nat := field (tw dw 1) 31 0
def tcbSeq (dw : List DWord) : Nat := field (tw dw 2) 63 32
def tcbTrap (dw : List DWord) : Nat := field (tw dw 2) 31 0
def tcbAcc (dw : List DWord) : Nat := field (tw dw 3) 58 56
def tcbVregs (dw : List DWord) : Nat := field (tw dw 3) 55 48
def tcbArgs (dw : List DWord) : Nat := field (tw dw 3) 47 0
def tcbGz (dw : List DWord) : Nat := field (tw dw 4) 63 48
def tcbGy (dw : List DWord) : Nat := field (tw dw 4) 47 32
def tcbGx (dw : List DWord) : Nat := field (tw dw 4) 31 0
def tcbScratch (dw : List DWord) : Nat := field (tw dw 5) 59 40
def tcbBind (dw : List DWord) : Nat := field (tw dw 5) 38 32
def tcbCream (dw : List DWord) : Nat := field (tw dw 5) 29 24
def tcbParts (dw : List DWord) : Nat := field (tw dw 5) 22 16
def tcbLanes (dw : List DWord) : Nat := field (tw dw 5) 10 0
def tcbNsucc (dw : List DWord) : Nat := field (tw dw 7) 51 48
def tcbCrec (dw : List DWord) : Nat := field (tw dw 7) 47 0
def tcbNovf (dw : List DWord) : Nat := field (tw dw 8) 63 48
def tcbOvf (dw : List DWord) : Nat := field (tw dw 8) 47 0
def tcbEest (dw : List DWord) : Nat := field (tw dw 9) 31 0

/-- The teams of a launch (15 R472). -/
def tcbTeams (dw : List DWord) : Nat := tcbGx dw * tcbGy dw * tcbGz dw

/-- The gangs of a team part: ceil(LANES / 32) (15 R472). -/
def tcbGangs (dw : List DWord) : Nat := (tcbLanes dw + 31) / 32

/-- The zero fields of 15 R471. -/
def tcbZerosOk (dw : List DWord) : Bool :=
  field (tw dw 0) 63 58 == 0 && field (tw dw 3) 63 59 == 0 && field (tw dw 5) 63 60 == 0 &&
  field (tw dw 5) 39 39 == 0 && field (tw dw 5) 31 30 == 0 && field (tw dw 5) 23 23 == 0 &&
  field (tw dw 5) 15 11 == 0 && field (tw dw 6) 63 40 == 0 && field (tw dw 7) 63 52 == 0 &&
  field (tw dw 9) 63 32 == 0

/-- The ranges of 15 R471 and the further conditions of R473. -/
def tcbRangesOk (dw : List DWord) (succ : List Nat) : Bool :=
  tcbCode dw % 256 == 0 && tcbEntry dw % 4 == 0 && decide (tcbAcc dw ≤ 4) &&
  decide (8 ≤ tcbVregs dw) && decide (tcbVregs dw ≤ 120) && tcbVregs dw % 8 == 0 &&
  decide (1 ≤ tcbGz dw) && decide (1 ≤ tcbGy dw) && decide (1 ≤ tcbGx dw) &&
  decide (tcbScratch dw ≤ 524288) && decide (tcbBind dw ≤ 64) && decide (tcbCream dw ≤ 32) &&
  decide (1 ≤ tcbParts dw) && decide (tcbParts dw ≤ 64) && decide (1 ≤ tcbLanes dw) &&
  decide (tcbLanes dw ≤ 1024) && decide (tcbNsucc dw ≤ 8) && tcbCrec dw % 32 == 0 &&
  succ.all (fun x => x % 128 == 0) &&
  decide (tcbTeams dw ≤ 2 ^ 32) && (tcbParts dw == 1 || tcbLanes dw % 32 == 0) &&
  decide (tcbGangs dw ≤ 32) && decide (tcbGangs dw * tcbVregs dw ≤ 2048)

/-- The doublewords of the overflow list (15 R471). -/
def State.tcbOverflow (s : State) (dw : List DWord) : List DWord :=
  (List.range (tcbNovf dw)).map (fun i => s.dword (tcbOvf dw + 8 * i))

/-- The machine after a read of the overflow list. -/
def State.touchOverflow (s : State) (dw : List DWord) : State :=
  if tcbNovf dw = 0 then s else s.touch (tcbOvf dw) (8 * tcbNovf dw)

/-- Whether a submission is valid for a partition (15 R473); the zero fields are those of the overflow list
too (R471). -/
def State.tcbValid (s : State) (p : Nat) (dw : List DWord) (succ : List Nat) : Bool :=
  (s.ctx (ctxKey p (tcbCtx dw))).state == .live && tcbZerosOk dw && tcbRangesOk dw succ &&
  (s.tcbOverflow dw).all (fun x => field x 63 48 == 0)

/-- ST and PRED of DW6. -/
def State.tcbSt (s : State) (tcb : Nat) : Nat := field (s.dword (tcb + 48)) 39 32
def State.tcbPred (s : State) (tcb : Nat) : Nat := field (s.dword (tcb + 48)) 31 0

/-- Writes ST and PRED of DW6, its high bits kept. -/
def State.setDw6 (s : State) (tcb st pred : Nat) : State :=
  let hi := field (s.dword (tcb + 48)) 63 40
  s.setDword (tcb + 48) (BitVec.ofNat 64 (hi * 2 ^ 40 + st * 2 ^ 32 + pred))

/-- Whether a launch has an undispatched team that it may still send (15 R481, 16 R515). -/
def Launch.toSend (l : Launch) : Bool := !l.interrupted && (!l.again.isEmpty || decide (l.next < tcbTeams l.dw))

/-- The launches of a partition with an undispatched team, oldest first. -/
def State.sendable (s : State) (p : Nat) : List Nat :=
  match s.part? p with
  | some x => x.launches.filter (fun n => match mfind? s.launches n with
    | some l => l.toSend
    | none => false)
  | none => []

/-- Notes since when a launch is the oldest with an undispatched team (15 R481). -/
def State.noteOldest (s : State) (p : Nat) : State :=
  let old := (s.sendable p).head?
  let note (n : Nat) (l : Launch) : Launch :=
    if l.part ≠ p then l
    else if old = some n then { l with since := some (l.since.getD s.time) }
    else { l with since := none }
  { s with launches := mmapVals note s.launches }

/-- Marks that a launch left the queue unit. -/
def State.dropLaunch (s : State) (n : Nat) : State :=
  match mfind? s.launches n with
  | some l =>
    { s.modPart l.part (fun p => { p with launches := p.launches.filter (fun x => x != n) }) with
      launches := mdel s.launches n }.noteOldest l.part
  | none => s

/-- Writes DW1 to DW3 of a completion record (15 R477). -/
def State.writeRecord (s : State) (crec teams d2 d3 : Nat) : State :=
  ((s.setDword (crec + 8) (BitVec.ofNat 64 teams)).setDword (crec + 16) (BitVec.ofNat 64 d2)).setDword
    (crec + 24) (BitVec.ofNat 64 d3)

/-- Writes DW0 of a completion record, last (15 R476, R477). -/
def State.writeStatus (s : State) (dw : List DWord) (status : Nat) (bad overrel : Bool) : State :=
  s.setDword (tcbCrec dw) (BitVec.ofNat 64
    (tcbSeq dw * 2 ^ 32 + (if bad then 512 else 0) + (if overrel then 256 else 0) + status))

/-- A launch that completes without having run: its record, then ST 4; no successor is released. -/
def State.completeUnrun (s : State) (tcb : Nat) (dw : List DWord) (status : Nat) : State :=
  let s := (s.writeRecord (tcbCrec dw) 0 0 0).writeStatus dw status false false
  s.setDw6 tcb 4 (s.tcbPred tcb)

/-- A block enters the queue unit of a partition with ST 2 (15 R474): a faulted context completes it
with 0x05, a copy that R473 refuses with 0x03; any other is queued. -/
def State.enterQueue (s : State) (p tcb : Nat) : State :=
  let s := s.touch tcb 128
  let dw := s.tcbWords tcb
  let succ := s.tcbSucc tcb
  let s := (s.touchOverflow dw).setDw6 tcb 2 (s.tcbPred tcb)
  if (s.ctx (ctxKey p (tcbCtx dw))).state = .faulted then s.completeUnrun tcb dw 5
  else if !s.tcbValid p dw succ then s.completeUnrun tcb dw 3
  else
    let n := s.nextLaunch
    let l : Launch :=
      { part := p, ctx := tcbCtx dw, tcb := tcb, dw := dw
        succ := succ.take (tcbNsucc dw) ++ (s.tcbOverflow dw).map (fun x => field x 47 0), next := 0, again := [],
        running := [], ended := [], lost := [], placed := 0, since := none, hold := false,
        interrupted := false }
    { s.modPart p (fun x => { x with launches := x.launches ++ [n] }) with
      launches := mput s.launches n l, nextLaunch := n + 1 }.noteOldest p

/-- A submission (15 R473, R475): the machine after it, and whether it was taken. -/
def State.submit (s : State) (p tcb : Nat) : State × Bool :=
  let s := (s.touch tcb 128).touchOverflow (s.tcbWords tcb)
  let st := s.tcbSt tcb
  if tcb % 128 ≠ 0 || !(st == 0 || st == 4) || !s.tcbValid p (s.tcbWords tcb) (s.tcbSucc tcb) then (s, false)
  else
    let pred := s.tcbPred tcb
    let s := s.setDw6 tcb 1 pred
    if pred = 0 then (s.enterQueue p tcb, true) else (s, true)

/-- The release of one successor (15 R475, R476): the machine, whether it was skipped, and whether its
PRED was already zero. -/
def State.releaseOne (s : State) (p tcb : Nat) : State × Bool × Bool :=
  let s := s.touch tcb 128
  let c := field (s.dword tcb) 55 48
  if (s.ctx (ctxKey p c)).state = .free then (s, true, false)
  else
    let pred := s.tcbPred tcb
    if pred = 0 then (s, false, true)
    else
      let st := s.tcbSt tcb
      let s := s.setDw6 tcb st (pred - 1)
      if pred = 1 && st == 1 then (s.enterQueue p tcb, false, false) else (s, false, false)

/-- The release of successors in order. -/
def State.releaseAll (s : State) (p : Nat) (tcbs : List Nat) : State × Bool × Bool :=
  tcbs.foldl
    (fun (x : State × Bool × Bool) t =>
      let (s', b, o) := x.1.releaseOne p t
      (s', x.2.1 || b, x.2.2 || o))
    (s, false, false)

/-- The entries of an interrupted launch's list (16 R515): teams below NEXT that did not end. -/
def interruptedList (l : Launch) : List Nat :=
  (below l.placed (fun t => !l.ended.contains t)).map (fun t =>
    if l.lost.contains t then t + 2 ^ 32 else t)

/-- Completes a launch with a status (15 R476): the record, the successors when the status is 0x01, DW0,
then ST 4. -/
def State.completeLaunch (s : State) (n status : Nat) : State :=
  match mfind? s.launches n with
  | none => s
  | some l =>
    let crec := tcbCrec l.dw
    let entries := if status = 4 then interruptedList l else []
    let s := s.writeRecord crec l.ended.length (if status = 4 then l.placed else 0) entries.length
    let s := s.writeHome (crec + 32) (entries.flatMap (bytesOf 8))
    let (s, bad, overrel) :=
      if status = 1 then s.releaseAll l.part l.succ
      else (s, false, false)
    let s := s.writeStatus l.dw status bad overrel
    let s := s.setDw6 l.tcb 4 (s.tcbPred l.tcb)
    s.dropLaunch n

end Sys2Proof.Machine
end

