-- ==== Sys2Proof/Machine/Streams.lean ====
section
/-! DEFINITION. Lanes, slices and streams of one gang: issue points, parting and merging, latch histories
and W-suppressed results (spec 01 R13 to R25, R47 to R52; 10 R403, R404).
-/

namespace Sys2Proof.Machine

/-- A lane of a gang. -/
def Gang.lane (g : Gang) (l : Nat) : Lane := mget Lane.reset g.lanes l

/-- Writes a lane. -/
def Gang.setLane (g : Gang) (l : Nat) (x : Lane) : Gang := { g with lanes := mput g.lanes l x }

/-- Changes a lane. -/
def Gang.modLane (g : Gang) (l : Nat) (f : Lane → Lane) : Gang := g.setLane l (f (g.lane l))

/-- Changes each lane of a list. -/
def Gang.modLanes (g : Gang) (ls : List Nat) (f : Nat → Lane → Lane) : Gang :=
  ls.foldl (fun g l => g.modLane l (f l)) g

/-- The lanes of a slice (01 R14). -/
def sliceLanes (k : Nat) : List Nat := [4 * k, 4 * k + 1, 4 * k + 2, 4 * k + 3]

/-- The slices of a mask. -/
def slicesOf (m : Nat) : List Nat := below 8 (bitAt m)

/-- The lanes of a mask of slices. -/
def slicesLanes (m : Nat) : List Nat := (slicesOf m).flatMap sliceLanes

/-- The mask of a list of slices. -/
def sliceMask (ks : List Nat) : Nat := ks.foldl (fun m k => if bitAt m k then m else m + 2 ^ k) 0

/-- Whether a slice holds a live lane (01 R16). -/
def Gang.sliceLive (g : Gang) (k : Nat) : Bool := (sliceLanes k).any (fun l => (g.lane l).live)

/-- The live slices. -/
def Gang.liveSlices (g : Gang) : List Nat := below 8 g.sliceLive

/-- The live lanes. -/
def Gang.liveLanes (g : Gang) : List Nat := below 32 (fun l => (g.lane l).live)

/-- The nesting level of a lane: the handlers it is in. -/
def Lane.level (x : Lane) : Nat := x.handlers.length

/-- The deepest handler level among a slice's live lanes (10 R404, R406; log entry 7). -/
def Gang.sliceLevel (g : Gang) (k : Nat) : Nat :=
  (sliceLanes k).foldl (fun m l => if (g.lane l).live then max m (g.lane l).level else m) 0

/-- The lanes among which a slice's issue point is chosen (01 R17): live, not blocked in BWAIT, and while
a lane of the slice is in a handler, in the deepest one alone. -/
def Gang.candidates (g : Gang) (k : Nat) : List Nat :=
  (sliceLanes k).filter (fun l =>
    (g.lane l).live && (g.lane l).wait.isNone && (g.lane l).level == g.sliceLevel k)

/-- The issue point of a slice: the lowest PC of its candidates (01 R17). -/
def Gang.issuePoint (g : Gang) (k : Nat) : Option Nat :=
  leastOf ((g.candidates k).map (fun l => (g.lane l).pc.toNat))

/-- The lanes of a slice that execute at its issue point. -/
def Gang.sliceActive (g : Gang) (k : Nat) : List Nat :=
  match g.issuePoint k with
  | none => []
  | some p => (g.candidates k).filter (fun l => (g.lane l).pc.toNat == p)

/-- The PC of a stream: the issue point of its lowest slice that has one. -/
def Gang.streamPc (g : Gang) (st : Stream) : Option Nat :=
  ((slicesOf st.slices).filterMap g.issuePoint).head?

/-- The active lanes of a stream's issue at a PC (01 R18). -/
def Gang.streamActive (g : Gang) (st : Stream) (pc : Nat) : LaneMask :=
  maskOf ((slicesOf st.slices).flatMap (fun k => if g.issuePoint k = some pc then g.sliceActive k else []))

/-- Whether a stream may issue now. -/
def Gang.ready (g : Gang) (st : Stream) : Bool :=
  match st.wait with
  | .run => (g.streamPc st).isSome
  | .retry => (g.streamPc st).isSome
  | _ => false

/-- Whether the gang is fully ganged: one stream holds every live slice (01 R25), and none of its lanes is
in a handler (10 R405). -/
def Gang.fullyGanged (g : Gang) : Bool :=
  (g.streams.any (fun st => g.liveSlices.all (fun k => bitAt st.slices k))) &&
  g.liveLanes.all (fun l => (g.lane l).handlers.isEmpty)

/-! Latch histories. -/

/-- Adds an entry to a lane's history of four (01 R47). -/
def Lane.pushLatch (x : Lane) (e : LatchEntry) : Lane := { x with hist := (e :: x.hist).take 4 }

/-- Latch Ln of a lane: an empty position reads zero (01 R47, R48). -/
def Lane.latch (x : Lane) (n : Nat) : DWord :=
  match x.hist[n]? with
  | some e => e.val
  | none => 0

/-- A lane's history after an instruction of the lane wrote a register: no older suppressed result writes
it any more (01 R50). -/
def Lane.wrote (x : Lane) (r : Nat) : Lane :=
  { x with hist := x.hist.map (fun e => { e with pending := e.pending.filter (fun p => p.1 != r) }) }

/-- The key of a lane's register. -/
def vkey (r l : Nat) : Nat := r * 32 + l

/-- A vector register of a lane. -/
def Gang.reg (g : Gang) (r l : Nat) : Word := mget 0 g.v (vkey r l)

/-- Writes a vector register of a lane, as an instruction of the lane does. -/
def Gang.setReg (g : Gang) (r l : Nat) (x : Word) : Gang :=
  { g with v := mput g.v (vkey r l) x, lanes := mmod g.lanes l (fun y => y.wrote r) }

/-- Writes each W-suppressed result still in a lane's history to its register (01 R50): the oldest entry
first. -/
def Gang.flushLane (g : Gang) (l : Nat) : Gang :=
  let ps := (g.lane l).hist.reverse.flatMap (fun e => e.pending)
  { g with
    v := ps.foldl (fun v p => mput v (vkey p.1 l) p.2) g.v
    lanes := mmod g.lanes l (fun x => { x with hist := x.hist.map (fun e => { e with pending := [] }) }) }

/-- A switch for some lanes (01 R50). -/
def Gang.switch (g : Gang) (ls : List Nat) : Gang := ls.foldl Gang.flushLane g

/-! Streams. -/

/-- Groups slices by their issue points, in ascending order of the points; slices without one follow, each
alone (01 R21). Dead slices leave. -/
def Gang.groups (g : Gang) (ks : List Nat) : List (List Nat) :=
  let live := ks.filter g.sliceLive
  let pts := (live.filterMap g.issuePoint).foldl (fun xs p => insertNat p xs) []
  pts.map (fun p => live.filter (fun k => g.issuePoint k == some p)) ++
    (live.filter (fun k => (g.issuePoint k).isNone)).map (fun k => [k])

/-- Replaces the stream at a place by new ones: the first stays at its place, the others are younger
(01 R30; log entry 6). -/
def replaceStream (sts : List Stream) (i : Nat) (new : List Stream) : List Stream :=
  match new with
  | [] => sts.take i ++ sts.drop (i + 1)
  | st :: more => sts.take i ++ [st] ++ sts.drop (i + 1) ++ more

/-- A promoted gang is demoted, a switch for its lanes (01 R50), and its trigger held (01 R40). -/
def Gang.demoteHolding (g : Gang) : Gang :=
  match g.promotion with
  | some p => { g.switch g.liveLanes with promotion := none, held := p.trigger :: g.held }
  | none => g

/-- Forms the streams of some slices again at the place of a stream (01 R21). Parting is a switch for the
lanes of the stream (01 R50). -/
def Gang.reform (g : Gang) (i : Nat) (ks : List Nat) : Gang :=
  let gs := g.groups ks
  let g := if gs.length ≤ 1 then g else g.switch (ks.flatMap sliceLanes)
  { g with streams := replaceStream g.streams i (gs.map (fun ks => Stream.mk (sliceMask ks) .run)) }

/-- Forms the streams of some slices again; a promoted gang whose slices part is demoted (01 R40). -/
def Gang.regroup (g : Gang) (i : Nat) (ks : List Nat) : Gang :=
  if (g.groups ks).length ≤ 1 then g.reform i ks else (g.reform i ks).demoteHolding

/-- The stream at a place. -/
def Gang.streamAt (g : Gang) (i : Nat) : Stream := g.streams.getD i ⟨0, .run⟩

/-- Sets what the stream at a place waits for. -/
def Gang.setWait (g : Gang) (i : Nat) (w : StreamWait) : Gang :=
  { g with streams := setAt g.streams i { g.streamAt i with wait := w } }

/-- Sets the PC of some lanes. -/
def Gang.setPcs (g : Gang) (ls : List Nat) (pc : VAddr) : Gang :=
  g.modLanes ls (fun _ x => { x with pc := pc })

/-- An instruction completes in its active lanes: they leave the done mask (08 R308), and the stream's
slices choose their issue points again (01 R21). The PCs are set before. -/
def Gang.complete (g : Gang) (is : Issue) : Gang :=
  let g := { g with done := g.done &&& ~~~is.active }
  g.regroup is.stream (slicesOf (g.streamAt is.stream).slices)

/-- The completion of a BWAIT, which does not itself demote a promoted gang (08 R340). -/
def Gang.completeWait (g : Gang) (is : Issue) : Gang :=
  let g := { g with done := g.done &&& ~~~is.active }
  g.reform is.stream (slicesOf (g.streamAt is.stream).slices)

/-- The common completion: every active lane goes to the word after the instruction. -/
def Gang.advance (g : Gang) (is : Issue) : Gang :=
  (g.setPcs (lanesOf is.active) is.next).complete is

/-- The slices of a stream that waits at a REGANG that still stand at it: the instruction at their issue point is
that REGANG (01 R23). -/
def Gang.stands (g : Gang) (st : Stream) (pc : VAddr) : List Nat :=
  (slicesOf st.slices).filter (fun k => g.issuePoint k == some pc.toNat)

/-- After a lane left a wait, the slices of a stream choose their issue points again (01 R17, R21). A slice that
waited at a REGANG and whose issue point is now below it has not reached the REGANG (01 R23): it leaves the
waiting stream, a parting, and runs. The slices of a stream that waits for a page, a reply or code issue again at
their issue points: what still waits, waits again. -/
def Gang.rewake (g : Gang) (i : Nat) : Gang :=
  let st := g.streamAt i
  match st.wait with
  | .regang _ pc _ _ =>
    let stay := g.stands st pc
    let gone := (slicesOf st.slices).filter (fun k => !stay.contains k)
    if gone.isEmpty then g
    else
      let kept := if stay.isEmpty then [] else [Stream.mk (sliceMask stay) st.wait]
      let new := (g.groups gone).map (fun ks => Stream.mk (sliceMask ks) .run)
      { g.switch (slicesLanes st.slices) with streams := replaceStream g.streams i (kept ++ new) }
  | .stopped => g
  | _ => g.reform i (slicesOf st.slices)

/-- See Gang.rewake: the streams that hold a slice of some lanes. -/
def Gang.rewakeLanes (g : Gang) (ls : List Nat) : Gang :=
  (List.range g.streams.length).foldl
    (fun g i => if ls.any (fun l => bitAt (g.streamAt i).slices (l / 4)) then g.rewake i else g) g

/-! The start of a gang (01 R46). -/

/-- A lane at its gang's start. -/
def Lane.start (live : Bool) (pc : VAddr) : Lane := { Lane.reset with live := live, pc := pc }

/-- What a gang is started with: its partition, context, launch, sequence number, team, index, bank, slot,
first register row, .vregs, CODE, EMUENTRY, TRAPENTRY, kernel entry, argument address, number of live lanes
and order of arrival. -/
structure GangStart where
  part : Nat
  ctx : Nat
  launch : Nat
  seq : Nat
  team : Nat
  index : Nat
  bank : Nat
  slot : Nat
  rows : Nat
  vregs : Nat
  code : Nat
  emuEntry : Nat
  trapEntry : Nat
  entry : Nat
  args : Nat
  lanes : Nat
  arrival : Nat
  deriving DecidableEq, Repr

/-- A gang at its start (01 R15, R46): lanes below the count live at the kernel entry, s0 the argument
address, p0 set in live lanes, p7 in every lane, one stream of the present slices. -/
def Gang.start (a : GangStart) : Gang :=
  let live := below 32 (fun l => decide (l < a.lanes))
  let g : Gang :=
    { part := a.part, ctx := a.ctx, launch := a.launch, seq := BitVec.ofNat 32 a.seq, team := a.team,
      index := a.index, bank := a.bank, slot := a.slot, rows := a.rows, vregs := a.vregs, code := a.code,
      emuEntry := a.emuEntry, trapEntry := a.trapEntry,
      lanes := live.map (fun l => (l, Lane.start true (BitVec.ofNat 48 (a.code + a.entry)))),
      v := [], s := mput [] 0 (BitVec.ofNat 64 a.args),
      preds := [(0, maskOf live), (7, BitVec.allOnes 32)], fpflags := 0, bankstall := 0, replay := 0,
      streams := [], done := 0, tree := 0, arrival := a.arrival, promotion := none, held := [], spent := [],
      lastChurn := 0, lastSlices := 0, yielded := false, liveness := none, frozen := false }
  { g with streams := [⟨sliceMask g.liveSlices, .run⟩] }

/-! REGANG (01 R23, R24; 10 R405). -/

/-- The handler entry of a slice: that of its deepest lanes, none outside a handler. -/
def Gang.sliceEntry (g : Gang) (k : Nat) : Option Nat :=
  match (sliceLanes k).find? (fun l => (g.lane l).live && (g.lane l).level == g.sliceLevel k) with
  | some l => ((g.lane l).handlers.head?).map (fun h => h.entry)
  | none => none

/-- Whether a stream waits at REGANG with a token, within the watchdog limit: a wait beyond it ends with WDOG
(01 R60, 16 R510). -/
def Stream.waitsAt (st : Stream) (token : Nat) : Bool :=
  match st.wait with
  | .regang t _ n limit => t == token && decide (n ≤ limit)
  | _ => false

/-- Whether a slice holds a lane of a handler entry, in the entry's handler or in one nested in it. -/
def Gang.sliceIn (g : Gang) (k e : Nat) : Bool :=
  (sliceLanes k).any (fun l => (g.lane l).live && (g.lane l).handlers.any (fun h => h.entry == e))

/-- The slices that a REGANG of a slice waits for: the live slices of the gang, or inside a handler those
of the same entry that have not left it (10 R405). -/
def Gang.regangPeers (g : Gang) (k : Nat) : List Nat :=
  match g.sliceEntry k with
  | none => g.liveSlices
  | some e => g.liveSlices.filter (fun j => g.sliceIn j e)

/-- Merges the streams that wait at REGANG with a token for one entry, when every peer has arrived: each slice
goes past its own REGANG (01 R23). -/
def Gang.tryRegang (g : Gang) (token : Nat) (k : Nat) : Gang :=
  let peers := g.regangPeers k
  let arrived (j : Nat) : Bool := g.sliceEntry j == g.sliceEntry k &&
    g.streams.any (fun st => st.waitsAt token && bitAt st.slices j)
  if peers.all arrived && !peers.isEmpty then
    let ls := peers.flatMap g.sliceActive
    let mine (st : Stream) : Bool := (slicesOf st.slices).any (fun j => peers.contains j)
    let rest := g.streams.filter (fun st => !mine st)
    let place := (g.streams.takeWhile (fun st => !mine st)).length
    let g := if g.streams.length = rest.length + 1 then g else g.switch (peers.flatMap sliceLanes)
    let g := { g with streams := rest.take place ++ [Stream.mk (sliceMask peers) .run] ++ rest.drop place }
    let g := g.modLanes ls (fun _ x => { x with pc := x.pc + 4 })
    g.regroup place peers
  else g

/-- Looks at every waiting REGANG again, after a slice ended or left a handler (07 R265). -/
def Gang.recheckRegang (g : Gang) : Gang :=
  g.streams.foldl
    (fun g st =>
      match st.wait with
      | .regang t _ _ _ =>
        match slicesOf st.slices with
        | k :: _ => g.tryRegang t k
        | [] => g
      | _ => g)
    g

end Sys2Proof.Machine
end

