-- ==== Sys2Proof/Machine/Operands.lean ====
section
/-! DEFINITION. Operands of instructions in one gang: sources, destinations with their latch entries,
predicates, scalars, participating lanes (spec 01 R42 to R52; 06 R218 to R227; 07 R251 to R254).
-/

namespace Sys2Proof.Machine

/-! Which registers a field names (01 R42). -/

/-- The vector registers that a source field of a width names. -/
def useSrc (width : Nat) : Src → List Nat
  | .reg n => (List.range width).map (n + ·)
  | _ => []

/-- The vector registers that a destination field of a width names. -/
def useDst (width : Nat) : Dst → List Nat
  | .reg n => (List.range width).map (n + ·)
  | .none => []

/-- A destination field read as a source: the third source of IMAD, BFI, FFMA and IMAD.64, and the data
of an atomic; field value 124 reads zero (01 R43). -/
def asSrc : Dst → Src
  | .reg n => .reg n
  | .none => .zero

/-- The third source: the one that a hint names, else the destination's register (06 R226). -/
def third (d : Dst) (hs : List Hint) : Src := (thirdSource hs).getD (asSrc d)

/-- Whether every register named lies below .vregs (01 R42). -/
def Gang.regsOk (g : Gang) (rs : List Nat) : Bool := rs.all (fun r => decide (r < g.vregs))

/-! Sources (01 R43, R48). -/

/-- A 32-bit source of a lane. -/
def Gang.src (g : Gang) (l : Nat) : Src → Word
  | .reg n => g.reg n l
  | .latch n => loWord ((g.lane l).latch n)
  | .zero => 0
  | .lane => BitVec.ofNat 32 l

/-- A 64-bit source of a lane: an even pair, a latch's whole entry, or zero (06 R218). The lane index is
no pair source; it extends with zeros here. -/
def Gang.src64 (g : Gang) (l : Nat) : Src → DWord
  | .reg n => joinWords (g.reg n l) (g.reg (n + 1) l)
  | .latch n => (g.lane l).latch n
  | .zero => 0
  | .lane => BitVec.ofNat 64 l

/-- A 128-bit source of a lane: a quad, or a latch with its high pair zero (08 R309). -/
def Gang.src128 (g : Gang) (l : Nat) (x : Src) : DWord × DWord :=
  match x with
  | .reg n => (g.src64 l (.reg n), g.src64 l (.reg (n + 2)))
  | _ => (g.src64 l x, 0)

/-! Predicates and scalars (01 R44, R45). -/

/-- A predicate of the gang. -/
def Gang.pred (g : Gang) (n : Nat) : LaneMask := mget 0 g.preds n

/-- A predicate of a lane. -/
def Gang.predAt (g : Gang) (n l : Nat) : Bool := (g.pred n).getLsbD l

/-- Writes a predicate of a lane. -/
def Gang.setPredAt (g : Gang) (n l : Nat) (b : Bool) : Gang :=
  { g with preds := mput g.preds n (maskSet (g.pred n) l b) }

/-- A scalar register. -/
def Gang.sreg (g : Gang) (n : Nat) : DWord := mget 0 g.s n

/-- Writes a scalar register. -/
def Gang.setSreg (g : Gang) (n : Nat) (x : DWord) : Gang := { g with s := mput g.s n x }

/-! Participating lanes (07 R251). -/

/-- The lanes whose guard holds: a guard hint's predicate, else p0 when G is set, else every lane. -/
def Gang.guard (g : Gang) (hs : List Hint) (gbit : Bool) : LaneMask :=
  match guardHint hs with
  | some (n, neg) => if neg then ~~~(g.pred n) else g.pred n
  | none => if gbit then g.pred 0 else BitVec.allOnes 32

/-- The participating lanes of an issue. -/
def Gang.parts (g : Gang) (is : Issue) (gbit : Bool) : LaneMask := is.active &&& g.guard is.hints gbit

/-- The participating lanes that are not marked done (08 R308). -/
def Gang.todo (g : Gang) (is : Issue) : LaneMask := g.parts is false &&& ~~~g.done

/-! Results (01 R47 to R50; 07 R253). -/

/-- The register writes of a result. -/
def destWords (d : Dst) (wide : Bool) (x : DWord) : List (Nat × Word) :=
  match d with
  | .none => []
  | .reg r => if wide then [(r, loWord x), (r + 1, hiWord x)] else [(r, loWord x)]

/-- What a latch entry holds of a result (01 R48). -/
def entryVal (wide : Bool) (x : DWord) : DWord := if wide then x else (loWord x).setWidth 64

/-- The value of a destination in a lane, for the entry of a lane whose guard fails (01 R47). -/
def Gang.destVal (g : Gang) (d : Dst) (wide : Bool) (l : Nat) : DWord :=
  if wide then g.src64 l (asSrc d) else (g.src l (asSrc d)).setWidth 64

/-- Writes registers of a lane. -/
def Gang.setRegs (g : Gang) (l : Nat) (ws : List (Nat × Word)) : Gang :=
  ws.foldl (fun g w => g.setReg w.1 l w.2) g

/-- Writes registers of a lane without ending older suppressed writes (01 R49). -/
def Gang.pokeRegs (g : Gang) (l : Nat) (ws : List (Nat × Word)) : Gang :=
  { g with v := ws.foldl (fun v w => mput v (vkey w.1 l) w.2) g.v }

/-- The result of an instruction in a lane: its registers and its latch entry. A suppressed write leaves
the old value or the result (a free value) and stays pending until a switch (01 R49, R50). -/
def Gang.writeLane (g : Gang) (tick : Nat) (d : Dst) (wide w : Bool) (l : Nat) (x : DWord) : Gang :=
  let ws := destWords d wide x
  let g := if w then (if Config.suppressedKept tick l then g.pokeRegs l ws else g) else g.setRegs l ws
  g.modLane l (fun y => y.pushLatch ⟨entryVal wide x, if w then ws else []⟩)

/-- The latch entry of a lane that the instruction does not write (01 R47). -/
def Gang.keepLane (g : Gang) (d : Dst) (wide : Bool) (l : Nat) : Gang :=
  g.modLane l (fun y => y.pushLatch ⟨g.destVal d wide l, []⟩)

/-- The results of an instruction over its active lanes: participating lanes get theirs, the others keep
the destination's value in their entry. Every value is read from the gang before (07 R252). -/
def Gang.writeVec (g : Gang) (tick : Nat) (is : Issue) (p : LaneMask) (d : Dst) (wide w : Bool)
    (f : Nat → DWord) : Gang :=
  (lanesOf is.active).foldl
    (fun h l => if p.getLsbD l then h.writeLane tick d wide w l (f l) else h.keepLane d wide l) g

/-- Writes one predicate in some lanes. -/
def Gang.writePred (g : Gang) (p : LaneMask) (n : Nat) (f : Nat → Bool) : Gang :=
  (lanesOf p).foldl (fun h l => h.setPredAt n l (f l)) g

/-- The registers of a 1 to 16 byte result, given as its low and high doubleword. -/
def quadWords (d : Dst) (lo hi : DWord) : List (Nat × Word) :=
  match d with
  | .none => []
  | .reg r => [(r, loWord lo), (r + 1, hiWord lo), (r + 2, loWord hi), (r + 3, hiWord hi)]

/-- Marks lanes done (08 R308). -/
def Gang.markDone (g : Gang) (m : LaneMask) : Gang := { g with done := g.done ||| m }

/-- The result of a load-like instruction in a lane, n registers wide: its registers, or with destination
124 the value that its latch entry takes (01 R43; 08 R309). -/
def Gang.putResult (g : Gang) (d : Dst) (n l : Nat) (lo hi : DWord) : Gang :=
  match d with
  | .none => g.modLane l (fun x => { x with result := entryVal (n != 1) lo })
  | .reg _ => g.setRegs l ((quadWords d lo hi).take n)

/-- The latch entries of a load-like instruction, made when it completes in every participating lane
(08 R309): each active lane's destination value then; with destination 124, what a participating lane
read. -/
def Gang.entries (g : Gang) (is : Issue) (p : LaneMask) (d : Dst) (wide : Bool) : Gang :=
  (lanesOf is.active).foldl
    (fun h l =>
      if d == .none && p.getLsbD l then h.modLane l (fun x => x.pushLatch ⟨x.result, []⟩)
      else h.keepLane d wide l) g

/-- The lowest participating lane (08 R304). -/
def lowest (p : LaneMask) : Nat := (lanesOf p).headD 0

end Sys2Proof.Machine
end

