-- ==== Sys2Proof/Machine/Objects.lean ====
section
/-! DEFINITION. Barrier objects, bindings, and the releases and acquires on them; the scratchpad of a
team part (spec 03 R110 to R117; 05 R183 to R193, R206).
-/

namespace Sys2Proof.Machine

/-! Team parts on a core. -/

/-- The part of a team that a core holds (01 R66). -/
def Core.teamPart (k : Core) (launch team : Nat) : Option TeamPart :=
  k.parts.find? (fun t => t.launch == launch && t.team == team)

/-- The part of a gang. -/
def Core.partOf (k : Core) (g : Gang) : Option TeamPart := k.teamPart g.launch g.team

/-- Whether a part belongs to a wide team. -/
def TeamPart.wide (t : TeamPart) : Bool := decide (1 < t.cores.length)

/-- The granules of a part. -/
def TeamPart.granules (t : TeamPart) : Nat := (t.scratch + 4095) / 4096

/-- Whether a part holds a granule of its core. -/
def TeamPart.hasGranule (t : TeamPart) (g : Nat) : Bool :=
  decide (t.granule0 ≤ g) && decide (g < t.granule0 + t.granules)

/-- The place in the core's scratchpad of an offset of a part (01 R69). -/
def TeamPart.at_ (t : TeamPart) (off : Nat) : Nat := 4096 * t.granule0 + off

/-- A granule of a core. -/
def Core.granule (k : Core) (g : Nat) : Granule := mget Granule.reset k.granules g

/-- Changes a granule of a core. -/
def Core.modGranule (k : Core) (g : Nat) (f : Granule → Granule) : Core :=
  { k with granules := mput k.granules g (f (k.granule g)) }

/-- The granules that a run of bytes of a core's scratchpad touches. -/
def granulesOf (off n : Nat) : List Nat :=
  if n = 0 then [] else (List.range ((off + n - 1) / 4096 - off / 4096 + 1)).map (off / 4096 + ·)

/-- A byte of a core's scratchpad. -/
def Core.sbyte (k : Core) (a : Nat) : Byte := mget 0 k.scratch a

/-- Bytes of a core's scratchpad. -/
def Core.sbytes (k : Core) (a n : Nat) : List Byte := (List.range n).map (fun i => k.sbyte (a + i))

/-- Writes bytes of a core's scratchpad; a zero byte is not listed. -/
def putBytes : Map Byte → Nat → List Byte → Map Byte
  | m, _, [] => m
  | m, a, b :: bs => putBytes (if b = 0 then mdel m a else mput m a b) (a + 1) bs

/-- Writes bytes of a core's scratchpad. -/
def Core.setBytes (k : Core) (a : Nat) (bs : List Byte) : Core := { k with scratch := putBytes k.scratch a bs }

/-- The target of a cluster window address for a team (03 R111): its core and the part there, when the
core holds a part of the team and the offset lies below .scratch. -/
def State.windowTarget (s : State) (c launch team addr : Nat) : Option (Nat × TeamPart × Nat) :=
  let target := c / 64 * 64 + bits addr 19 6
  let off := bits addr 0 19
  match (s.core target).teamPart launch team with
  | some t => if t.ended then none else if off < t.scratch then some (target, t, off) else none
  | none => none

/-! Scopes (05 R183). -/

/-- What a release or acquire acts on: 0 nothing, 1 the L1, 2 the L1 and the remote-data cache. -/
def scopeLevel (wide : Bool) : Scope → Nat
  | .gang => 0
  | .team => if wide then 1 else 0
  | .clus => 1
  | .die => 1
  | .dev => 2
  | .sys => 2

/-- The wider of two scopes (05 R186). -/
def widerScope (a b : Scope) : Scope := if a.code ≤ b.code then b else a

/-- The binding entries of a part on a core (05 R185). -/
def Core.partBinds (k : Core) (t : TeamPart) : List Bind :=
  (List.range t.binds).filterMap (fun i => mfind? k.binds (64 * t.bank + t.bind0 + i))

/-- The bindings of an object. -/
def Core.boundTo (k : Core) (t : TeamPart) (o : ObjLoc) : List Bind :=
  (k.partBinds t).filter (fun b => b.obj == o)

/-- The ranges that a release or acquire at a scope acts on by some binding entries of a part: those at whose effective
scope it writes back or removes words (05 R183, R186). -/
def bindRanges (t : TeamPart) (sc : Scope) (bs : List Bind) : List (Nat × Nat) :=
  (bs.filter (fun b => scopeLevel t.wide (widerScope sc b.scope) != 0)).map (fun b => (b.base, b.len))

/-- The address at which the walk of such a range meets a memory error (14 R469). -/
def State.bindsError (s : State) (t : TeamPart) (sc : Scope) (bs : List Bind) : Option Nat :=
  (bindRanges t sc bs).findSome? (fun r => s.walkError (ctxKey t.part t.ctx) r.1 r.2)

/-- The write-backs of a release on an object (05 R187, step 2). -/
def State.releaseObj (s : State) (c : Nat) (t : TeamPart) (o : ObjLoc) (sc : Scope) : State :=
  ((s.core c).boundTo t o).foldl
    (fun s b =>
      let rs := s.physRanges (ctxKey t.part t.ctx) b.base b.len
      s.releaseWords c (scopeLevel t.wide (widerScope sc b.scope)) (meetsRanges rs))
    s

/-- The removals of an acquire for some binding entries (05 R188), sealed words apart (05 R193). -/
def State.acquireBinds (s : State) (c : Nat) (t : TeamPart) (bs : List Bind) (sc : Scope) : State :=
  bs.foldl
    (fun s b =>
      let rs := s.physRanges (ctxKey t.part t.ctx) b.base b.len
      s.acquireWords c (scopeLevel t.wide (widerScope sc b.scope))
        (fun a => meetsRanges rs a && !s.sealedWord t.part a))
    s

/-- The removals of an acquire of an object, by the entries bound to it now. -/
def State.acquireObj (s : State) (c : Nat) (t : TeamPart) (o : ObjLoc) (sc : Scope) : State :=
  s.acquireBinds c t ((s.core c).boundTo t o) sc

/-- FENCE.rel at a level: every dirty word (05 R192). -/
def State.releaseAllWords (s : State) (c level : Nat) : State := s.releaseWords c level allBytes

/-- FENCE.acq at a level: every word but those of sealed ranges (05 R192, R193). -/
def State.acquireAllWords (s : State) (c level part : Nat) : State :=
  s.acquireWords c level (fun a => !s.sealedWord part a)

/-! Objects. -/

/-- The physical address of a global object whose page a context may use as one, resident. -/
def State.objPa (s : State) (ctx va : Nat) (kind : AccKind) : Option Nat :=
  match s.litAccess ctx va 8 kind with
  | .ok pa _ => some pa
  | _ => none

/-- The value of an object: at its home, after core c's copies of its word left (05 R188), so that a lane reads no
older value of it before or after (05 R190, R195), or at its bank. None while its page is not there. -/
def State.objRead (s : State) (c ctx : Nat) (o : ObjLoc) : State × Option Nat :=
  match o with
  | .global va =>
    match s.objPa ctx va .observe with
    | some pa =>
      let s := s.toHome c pa
      (s, some (ofBytes (s.readHome pa 8)))
    | none => (s, none)
  | .bank k off => (s, some (ofBytes ((s.core k).sbytes off 8)))

/-- Adds to the doubleword at its home. -/
def State.homeAdd (s : State) (pa n : Nat) : State :=
  (s.touch pa 8).writeHome pa (bytesOf 8 (ofBytes (s.readHome pa 8) + n))

/-- Adds to an object at its home or bank. -/
def State.objAdd (s : State) (c ctx : Nat) (o : ObjLoc) (n : Nat) : State :=
  match o with
  | .global va =>
    match s.objPa ctx va .signal with
    | some pa => (s.toHome c pa).homeAdd pa n
    | none => s
  | .bank k off => s.modCore k (fun x => x.setBytes off (bytesOf 8 (ofBytes (x.sbytes off 8) + n)))

/-- The effects on A and D of an engine's access, as a service core makes them (14 R450). -/
def State.engineTouch (s : State) (ctx va : Nat) (write : Bool) : State :=
  match s.walk ctx va with
  | .leaf l _ =>
    if l.sysp || !l.res then s
    else if !l.a || (write && !l.d) then s.serveLight ⟨l.head, write⟩ else s
  | _ => s

/-- The address at which the release of an engine operation's completion signal meets a memory error in the walk of a
bound range (14 R469). -/
def State.signalError (s : State) (c : Nat) (who : Issuer) (o : EngineObj) : Option Nat :=
  match (s.core c).teamPart who.launch who.team with
  | some t => s.bindsError t o.scope ((s.core c).boundTo t o.loc)
  | none => none

/-- An object as the translation of an engine that holds one finds it. -/
def EngineObj.pa? (o : EngineObj) : Option Nat :=
  match o.loc, o.leaf with
  | .global va, some l => some (l.pa + (va - l.va))
  | _, _ => none

/-- The completion signal of an engine operation: a release on its object, by the entries that are bound to it at the
signal (DEDUCED, log entry 27), then the addition (05 R205). -/
def State.engineSignal (s : State) (c : Nat) (who : Issuer) (o : EngineObj) (n : Nat) : State :=
  let s := match (s.core c).teamPart who.launch who.team with
    | some t => s.releaseObj c t o.loc o.scope
    | none => s
  match o.pa? with
  | some pa => (s.toHome c pa).homeAdd pa n
  | none =>
    let s := match o.loc with
      | .global va => s.engineTouch who.ctx va true
      | .bank _ _ => s
    s.objAdd c who.ctx o.loc n

end Sys2Proof.Machine
end

