-- ==== Sys2Proof/Machine/Table.lean ====
section
/-! DEFINITION. The tensor identifier table: entries, handles, snapshots and draining slots (spec 03 R127
to R136).
-/

namespace Sys2Proof.Machine

/-- The physical address of an entry (03 R127). -/
def State.ttAddr (s : State) (ctx slot : Nat) : Nat := field (s.ctx ctx).ttBase 47 0 + 64 * slot

/-- The eight doublewords of an entry (03 R129). -/
def State.ttEntry (s : State) (ctx slot : Nat) : List DWord :=
  (List.range 8).map (fun k => s.dword (s.ttAddr ctx slot + 8 * k))

/-- Doubleword k of an entry or of a descriptor. -/
def dwAt (e : List DWord) (k : Nat) : DWord := e.getD k 0

def teState (e : List DWord) : Nat := field (dwAt e 0) 1 0
def teClass (e : List DWord) : Nat := field (dwAt e 0) 3 2
def teFmt (e : List DWord) : Nat := field (dwAt e 0) 15 8
def teRank (e : List DWord) : Nat := field (dwAt e 0) 18 16
def teSb (e : List DWord) : Nat := field (dwAt e 0) 31 24
def teGen (e : List DWord) : Nat := field (dwAt e 0) 51 32
def teBase (e : List DWord) : Nat := field (dwAt e 1) 47 0
def teScale (e : List DWord) : Nat := field (dwAt e 2) 47 0
def teShards (e : List DWord) : Nat := field (dwAt e 7) 54 48
def tePool (e : List DWord) : Nat := field (dwAt e 7) 47 0

/-- Five 24-bit numbers packed into two doublewords, as the extents of R129 and the coordinates of 09 R361
are. -/
def packed5 (lo hi : DWord) (i : Nat) : Nat :=
  match i with
  | 0 => field lo 23 0
  | 1 => field lo 47 24
  | 2 => field lo 63 48 + 65536 * field hi 7 0
  | 3 => field hi 31 8
  | _ => field hi 55 32

/-- Two doublewords that pack five 24-bit numbers. -/
def pack5 (x : Nat → Nat) : DWord × DWord :=
  (BitVec.ofNat 64 (x 0 % 2 ^ 24 + x 1 % 2 ^ 24 * 2 ^ 24 + x 2 % 2 ^ 16 * 2 ^ 48),
   BitVec.ofNat 64 (x 2 / 2 ^ 16 % 2 ^ 8 + x 3 % 2 ^ 24 * 2 ^ 8 + x 4 % 2 ^ 24 * 2 ^ 32))

/-- Extent i. -/
def teExt (e : List DWord) (i : Nat) : Nat := packed5 (dwAt e 3) (dwAt e 4) i

/-- Stride i, 1 to 4, in 16-byte units. -/
def teStride (e : List DWord) (i : Nat) : Nat :=
  match i with
  | 1 => field (dwAt e 5) 31 0
  | 2 => field (dwAt e 5) 63 32
  | 3 => field (dwAt e 6) 31 0
  | 4 => field (dwAt e 6) 63 32
  | _ => 0

/-- The slot and the generation of a handle (03 R128). -/
def handleSlot (h : Nat) : Nat := bits h 20 12
def handleGen (h : Nat) : Nat := bits h 0 20

/-- Whether a handle is current (03 R128). -/
def State.handleOk (s : State) (ctx h : Nat) : Bool :=
  let e := s.ttEntry ctx (handleSlot h)
  teState e == 1 && teGen e == handleGen h

/-- Formats: RN8 and RN12 are residue formats (03 R130). -/
def isResidue (fmt : Nat) : Bool := fmt == 1 || fmt == 2

/-- The element size in bytes of a whole-byte format; 0 for a reserved code (03 R130). RN8 has 1. -/
def fmtSize (fmt : Nat) : Nat :=
  match fmt with
  | 0x01 => 1
  | 0x10 => 4
  | 0x11 => 4
  | 0x12 => 2
  | 0x13 => 2
  | 0x14 => 1
  | 0x15 => 1
  | 0x16 => 2
  | 0x17 => 2
  | 0x18 => 4
  | 0x19 => 8
  | 0x1A => 8
  | _ => 0

/-- Whether a format is listed for a class (03 R130). -/
def fmtListed (cls fmt : Nat) : Bool :=
  if cls = 0 then fmt == 2 || fmtSize fmt != 0 else fmtSize fmt != 0 && fmt != 1

/-- The address of an element of a dense tensor (03 R132). -/
def elemAddr (e : List DWord) (c : Nat → Nat) : Nat :=
  let off0 := if teFmt e = 2 then 3 * (c 0 / 2) else c 0 * fmtSize (teFmt e)
  teBase e + off0 + 16 * (c 1 * teStride e 1 + c 2 * teStride e 2 + c 3 * teStride e 3 + c 4 * teStride e 4)

/-- The product of the extents below RANK. -/
def teSpace (e : List DWord) : Nat := ((List.range (teRank e)).map (teExt e)).foldl (· * ·) 1

/-- Notes an entry in a core's tensor fetch cache (03 R135), whose 64 KiB (00 R1) hold 1,024 entries: the one used
least recently leaves (DESIGN CHOICE, log entry 10). It never changes what a check reads. -/
def State.ttTouch (s : State) (c ctx slot : Nat) : State :=
  let x := ctx * 4096 + slot
  s.modCore c (fun k => { k with tensorCache := (x :: k.tensorCache.filter (fun y => y != x)).take 1024 })

/-- Removes an entry from every core's tensor fetch cache (03 R135). -/
def State.ttInvalidate (s : State) (ctx slot : Nat) : State :=
  { s with cores := mmapVals (fun _ k =>
      { k with tensorCache := k.tensorCache.filter (fun x => x != ctx * 4096 + slot) }) s.cores }

/-- Whether an engine operation in flight took a snapshot of a slot (03 R134). -/
def Core.snapshots (k : Core) (ctx slot : Nat) : Bool :=
  k.copies.any (fun x => x.2.who.ctx == ctx && x.2.form != .window && handleSlot x.2.handle == slot) ||
  k.sparse.any (fun x => x.2.who.ctx == ctx &&
    (handleSlot x.2.handle == slot || (!x.2.isImport && handleSlot x.2.dstHandle == slot)))

/-- Whether an engine operation in flight took a snapshot of a slot: on a core, or frozen with a context that a
spill took (16 R509). -/
def State.slotInFlight (s : State) (ctx slot : Nat) : Bool :=
  s.cores.any (fun k => k.2.snapshots ctx slot) || s.spilled.any (fun x => x.items.snapshots ctx slot)

/-- Writes STATE of an entry. -/
def State.setTeState (s : State) (ctx slot st : Nat) : State :=
  let a := s.ttAddr ctx slot
  s.setDword a (BitVec.ofNat 64 ((s.dword a).toNat / 4 * 4 + st))

/-- A draining slot whose last operation has finished becomes free (03 R133). -/
def State.settleSlot (s : State) (ctx slot : Nat) : State :=
  if teState (s.ttEntry ctx slot) = 2 && !s.slotInFlight ctx slot then s.setTeState ctx slot 0 else s

/-- Draining slots, each with its context, whose operations have finished or ended with no further effect
(03 R133; 16 R494, R512). -/
def State.settleSlots (s : State) (xs : List (Nat × Nat)) : State := xs.foldl (fun s x => s.settleSlot x.1 x.2) s

end Sys2Proof.Machine
end

