-- ==== Sys2Proof/Machine/Engines.lean ====
section
/-! DEFINITION. How gangs, team parts and engine operations end: leases and tokens, in-flight counts and
hand-on, signals, draining slots, the write-back at the end of a part (spec 01 R16; 03 R118 to R121; 09
R358, R366, R369; 15 R476; 13 R441).
-/

namespace Sys2Proof.Machine

/-! Gangs. -/

/-- MREL of a slot: its lease ends, or its request is dropped (09 R369). -/
def Core.mrel (k : Core) (slot : Nat) : Core :=
  let le := k.lease
  let le := if le.holder = some slot then { le with holder := none, remaining := 0, last := slot } else le
  { k with lease := { le with requests := mdel le.requests slot } }

/-- The tokens that a slot's gang holds pass to the matrix unit (07 R265). -/
def Core.dropTokens (k : Core) (slot : Nat) : Core :=
  { k with tiles := mmapVals (fun _ t => if t.token = some slot then { t with token := none } else t) k.tiles }

/-- A gang leaves its slot. -/
def Core.dropGang (k : Core) (slot : Nat) : Core :=
  { ((k.mrel slot).dropTokens slot) with slots := mdel k.slots slot }

/-! Laggards (01 R37, R38). -/

/-- Whether a gang is blocked on an object: each of its live lanes waits for it (01 R37). -/
def Gang.blockedOn (g : Gang) (o : ObjLoc) : Bool :=
  !g.liveLanes.isEmpty && g.liveLanes.all (fun l => match (g.lane l).wait with
    | some w => w.obj == o
    | none => false)

/-- The scratchpad objects on which three quarters or more of a team's live gangs on a core are blocked. -/
def Core.laggedOn (k : Core) (g : Gang) : List ObjLoc :=
  let mates := k.slots.filter (fun x => x.2.launch == g.launch && x.2.team == g.team)
  let objs := mates.flatMap (fun x => x.2.liveLanes.filterMap (fun l => (x.2.lane l).wait.map (fun w => w.obj)))
  let bank (o : ObjLoc) : Bool := match o with
    | .bank _ _ => true
    | .global _ => false
  objs.filter (fun o =>
    bank o && decide (3 * mates.length ≤ 4 * (mates.filter (fun x => x.2.blockedOn o)).length))

/-- A laggard trigger on an object arises for a gang that is not blocked on it: it promoted the gang, and counts anew
when its condition had lapsed, or it is held until it ends; one that was dropped while its condition stands does not
arise (01 R37, R40). -/
def Gang.noteLaggard (now : Nat) (g : Gang) (o : ObjLoc) : Gang :=
  let t := Trigger.laggard o
  let hold : Gang := { g with held := g.held ++ [t] }
  if g.blockedOn o || g.held.contains t || g.spent.contains t then g
  else
    match g.promotion with
    | some p =>
      if p.trigger ≠ t then hold
      else if p.stands then g
      else { g with promotion := some { p with arose := now, stands := true } }
    | none => hold

/-- The laggard triggers of a gang's team that arise at a core cycle: on each object on which three quarters of the
team's gangs here are blocked, for each mate that is not (01 R37, R38). -/
def Core.noteLaggards (k : Core) (now : Nat) (g : Gang) : Core :=
  let os := k.laggedOn g
  { k with slots := mmapVals (fun _ x =>
      if x.launch = g.launch && x.team = g.team then os.foldl (Gang.noteLaggard now) x else x) k.slots }

/-- A laggard trigger on an object ends (01 R37, R40). -/
def Gang.dropLaggard (g : Gang) (o : ObjLoc) : Gang :=
  let other (t : Trigger) : Bool := t != Trigger.laggard o
  let g := { g with held := g.held.filter other, spent := g.spent.filter other }
  match g.promotion with
  | some p => if p.trigger = Trigger.laggard o then { g.switch g.liveLanes with promotion := none } else g
  | none => g

/-- A gang that blocks on an object: a laggard trigger on it ends (01 R37). -/
def Gang.endLaggard (g : Gang) (o : ObjLoc) : Gang := if g.blockedOn o then g.dropLaggard o else g

/-- A gang's laggard triggers on the objects that it is blocked on end: on the one that its lanes wait for. -/
def Gang.endLaggards (g : Gang) : Gang :=
  (g.liveLanes.filterMap (fun l => (g.lane l).wait.map (fun w => w.obj))).foldl Gang.endLaggard g

/-- A gang that has the laggard triggers of some objects alone: what was dropped on another object can arise anew, and
a promotion by one has no standing condition any more (01 R40). -/
def Gang.lapse (g : Gang) (os : List ObjLoc) : Gang :=
  let stands (t : Trigger) : Bool := match t with
    | .laggard o => os.contains o
    | _ => true
  { g with
    spent := g.spent.filter stands
    promotion := g.promotion.map (fun p => { p with stands := p.stands && stands p.trigger }) }

/-- What the triggers of a core's gangs become when lanes have left their waits: those on objects for which no gang of
the core waits any more end (01 R37); of the others, the conditions that fell below three quarters lapse (R40). -/
def Core.endWaits (k : Core) : Core :=
  let open_ (t : Trigger) : Bool := match t with
    | .laggard o => k.slots.any (fun g => g.2.liveLanes.any (fun l => match (g.2.lane l).wait with
        | some w => w.obj == o
        | none => false))
    | _ => true
  let close (g : Gang) : Gang :=
    let ts := g.held ++ g.spent ++ (g.promotion.map (fun p => p.trigger)).toList
    ((ts.filter (fun t => !open_ t)).foldl
      (fun g t => match t with
        | .laggard o => g.dropLaggard o
        | _ => g) g).lapse (k.laggedOn g)
  { k with slots := mmapVals (fun _ g => close g) k.slots }

/-! Granules and copies. -/

/-- Whether a context's state on a core is saved and not yet restored (16 R506). -/
def Core.hasSaved (k : Core) (ctx : Nat) : Bool := k.banks.any (fun b => b.2.saved && b.2.ctx == some (ctx % 256))

/-- The context of an operation of the matrix unit. -/
def MxOp.ctx : MxOp → Nat
  | .mma _ _ _ _ _ _ _ who => who.ctx
  | .acvt _ _ _ _ _ who => who.ctx

/-- The matrix unit's queue: those of a saved context have left it with the context (16 R506). -/
def Core.mxHere (k : Core) : List MxOp := k.mx.filter (fun x => !k.hasSaved (MxOp.ctx x))

/-- A granule was handed: no landed copy waits for it any more (09 R366). -/
def Core.handed (k : Core) (c g : Nat) : Core :=
  let off (x : CopyOp) : CopyOp :=
    if x.landed then { x with names := x.names.filter (fun n => !(n.1 == c && n.2.1 == g)) } else x
  { k with copies := mmapVals (fun _ x => off x) k.copies }

/-- Hands a granule on to an owner, for every core's landed copies. -/
def State.handGranule (s : State) (c g : Nat) (o : Owner) : State :=
  let s := s.modCore c (fun k => k.modGranule g (fun x => { x with owner := o, landed := none }))
  { s with cores := mmapVals (fun _ k => k.handed c g) s.cores }

/-- A landed copy lowers the count of a granule it names; at zero the granule goes to the owner that this
copy names (09 R366, R367). -/
def State.landGranule (s : State) (n : Nat × Nat × Owner) : State :=
  let s := s.modCore n.1 (fun k =>
    k.modGranule n.2.1 (fun x => { x with inflight := x.inflight - 1, landed := some n.2.2 }))
  if ((s.core n.1).granule n.2.1).inflight = 0 then s.handGranule n.1 n.2.1 n.2.2 else s

/-- A failed operation lowers the count of a granule it names; at zero the granule goes to the owner named
by the last other copy that landed in it, or stays with its owner (09 R358). -/
def State.failGranule (s : State) (c g : Nat) : State :=
  let s := s.modCore c (fun k => k.modGranule g (fun x => { x with inflight := x.inflight - 1 }))
  let x := (s.core c).granule g
  if x.inflight = 0 then s.handGranule c g (x.landed.getD x.owner) else s

/-- Raises the count of each granule of a list. -/
def State.raiseGranules (s : State) (names : List (Nat × Nat)) : State :=
  names.foldl (fun s n => s.modCore n.1 (fun k =>
    k.modGranule n.2 (fun x => { x with inflight := x.inflight + 1 }))) s

/-- Lowers the count of each granule of a list that keeps its owner. -/
def State.lowerGranules (s : State) (names : List (Nat × Nat)) : State :=
  names.foldl (fun s n => s.modCore n.1 (fun k =>
    k.modGranule n.2 (fun x => { x with inflight := x.inflight - 1 }))) s

/-- The context and slot of the entry that a copy took a snapshot of. -/
def CopyOp.slots (x : CopyOp) : List (Nat × Nat) :=
  if x.form = .window then [] else [(x.who.ctx, handleSlot x.handle)]

/-- The context and slots of the entries that a sparse-unit operation took a snapshot of. -/
def SparseOp.slots (x : SparseOp) : List (Nat × Nat) :=
  (x.who.ctx, handleSlot x.handle) :: (if x.isImport then [] else [(x.who.ctx, handleSlot x.dstHandle)])

/-- The context and slot of every snapshot of a core's engine operations. -/
def Core.snapshotSlots (k : Core) : List (Nat × Nat) :=
  k.copies.flatMap (fun x => x.2.slots) ++ k.sparse.flatMap (fun x => x.2.slots)

/-- Whether an object is a word of the scratchpad of a part on a core. -/
def ObjLoc.inPart (o : ObjLoc) (c : Nat) (t : TeamPart) : Bool :=
  match o with
  | .bank d off => d == c && t.hasGranule (off / 4096)
  | .global _ => false

/-- Whether a copy writes a granule of a part on a core, its object's included (01 R16): it names that granule until it
has completed, signal included. -/
def CopyOp.writesPart (x : CopyOp) (c : Nat) (t : TeamPart) : Bool :=
  x.dsts.any (fun d => d.1 == c && (granulesOf d.2 x.span).any t.hasGranule) || x.obj.loc.inPart c t

/-! Parts and teams. -/

/-- Whether an engine operation of a team is in flight on a core, or one anywhere writes a granule of the part there and
has not yet signalled (01 R16, 15 R476). -/
def State.partBusy (s : State) (c : Nat) (t : TeamPart) : Bool :=
  let k := s.core c
  k.copies.any (fun x => x.2.who.launch == t.launch && x.2.who.team == t.team) ||
  k.mx.any (fun x =>
    match x with
    | .mma _ _ _ _ _ _ _ who => who.launch == t.launch && who.team == t.team
    | .acvt _ _ _ _ _ who => who.launch == t.launch && who.team == t.team) ||
  k.sparse.any (fun x => x.2.who.launch == t.launch && x.2.who.team == t.team) ||
  s.cores.any (fun y => y.2.copies.any (fun x => x.2.writesPart c t) ||
    y.2.sparse.any (fun x => x.2.obj.loc.inPart c t))

/-- Whether a gang of a part is on its core. -/
def Core.partLive (k : Core) (t : TeamPart) : Bool :=
  k.slots.any (fun g => g.2.launch == t.launch && g.2.team == t.team)

/-- The banks of a core without those that no part uses any more (13 R441). -/
def Core.freeBanks (k : Core) : Core :=
  { k with banks := mmapVals (fun b x =>
      if k.parts.any (fun t => t.bank == b && !t.ended) then x else .free) k.banks }

/-- The granules of an ended part lose their poison (03 R120). -/
def Core.cleanPart (k : Core) (t : TeamPart) : Core :=
  { k with granules := mmapVals (fun g x => if t.hasGranule g then { x with poison := false } else x) k.granules }

/-- A core without the parts and bindings of a team. -/
def Core.dropTeam (k : Core) (t : TeamPart) : Core :=
  let mine (x : TeamPart) : Bool := x.launch == t.launch && x.team == t.team
  let lo (x : TeamPart) : Nat := 64 * x.bank + x.bind0
  { k with
    parts := k.parts.filter (fun x => !mine x)
    binds := (k.parts.filter mine).foldl
      (fun m x => mfilter (fun i _ => !(decide (lo x ≤ i) && decide (i < lo x + x.binds))) m) k.binds }

/-- A team has ended on every core: its bindings are free (01 R16). -/
def State.endTeam (s : State) (t : TeamPart) : State :=
  let s := { s with cores := mmapVals (fun c k => if t.cores.contains c then k.dropTeam t else k) s.cores }
  s.modLaunch t.launch (fun l =>
    { l with running := l.running.filter (fun x => x != t.team), ended := insertNat t.team l.ended })

/-- A core with a part marked ended. -/
def Core.markEnded (k : Core) (t : TeamPart) : Core :=
  let mark (x : TeamPart) : TeamPart :=
    if x.launch == t.launch && x.team == t.team then { x with ended := true } else x
  { k with parts := k.parts.map mark }

/-- The end of a part (15 R476): the write-back of its core's dirty words, then its memory is free; its
team ends with the last part. -/
def State.endPart (s : State) (c : Nat) (t : TeamPart) : State :=
  let s := s.releaseAllWords c 2
  let s := s.modCore c (fun k => ((k.markEnded t).cleanPart t).freeBanks)
  if t.cores.all (fun d =>
      match (s.core d).teamPart t.launch t.team with
      | some x => x.ended
      | none => true)
  then s.endTeam t else s

/-- Ends every part of a core whose gangs and engine operations have ended. -/
def State.checkPartsOf (s : State) (c : Nat) : State :=
  (s.core c).parts.foldl
    (fun s t =>
      if t.ended || (s.core c).partLive t || s.partBusy c t then s else s.endPart c t) s

/-- Ends every part whose gangs and engine operations have ended. -/
def State.checkParts (s : State) : State := s.cores.foldl (fun s k => s.checkPartsOf k.1) s

/-- A gang ends (01 R16): its slot, tokens and lease are free, its mates may lag now (R37), and its part may
end. -/
def State.endGang (s : State) (c slot : Nat) : State :=
  let gone := s.gang? c slot
  let s := s.modCore c (fun k => k.dropGang slot)
  let s := match gone with
    | some g => s.modCore c (fun k => k.noteLaggards (s.clockOf c) g)
    | none => s
  s.checkPartsOf c

/-! Purges that wait (14 R458). -/

/-- Whether an engine operation of the contexts that a purge names holds a translation of its range: one on a
core, or one that a spill took with its context (16 R509). -/
def State.purgeWaits (s : State) (p : Nat) (q : PendingPurge) : Bool :=
  let names (ctx : Nat) : Bool := ctx / 256 == p && (match q.ctx with
    | some x => ctx % 256 == x
    | none => true)
  let holds (k : Core) : Bool := k.copies.any (fun x =>
    names x.2.who.ctx && (x.2.held ++ x.2.obj.leaf.toList).any (fun l => rangesMeet q.base q.len l.va l.size))
  s.cores.any (fun k => holds k.2) || s.spilled.any (fun x => holds x.items)

/-- A purge whose last holder has ended completes: BUSY clears with CODE 0x00. -/
def State.settlePurges (s : State) : State :=
  { s with parts := mmapVals (fun p x =>
      match x.sdPending with
      | some q => if s.purgeWaits p q then x else { x with sdPending := none, sdBusy := false, sdCode := 0 }
      | none => x) s.parts }

/-! Completions. -/

/-- Whether an operation's signal can be made now: at a bank, or on a page that is there and permits it, and no walk of
its release meets a memory error. -/
def State.objReady (s : State) (c : Nat) (who : Issuer) (o : EngineObj) : Bool :=
  (s.signalError c who o).isNone &&
  match o.loc, o.leaf with
  | .global va, some l =>
    match s.checkLeaf l .signal va 8 with
    | .ok _ _ => true
    | _ => false
  | .global va, none => (s.objPa who.ctx va .signal).isSome
  | .bank _ _, _ => true

/-- Signals and removes the landed copies of a core whose granules have all been handed (09 R366). A signal
waits for its object's page (09 R359), and one of a core that is frozen for the resume (16 R500). -/
def State.settleCopiesOf (s : State) (c : Nat) : State :=
  (s.core c).copies.foldl
    (fun s x =>
      if x.2.landed && x.2.names.isEmpty && s.engineRuns c x.2.who.ctx && s.objReady c x.2.who x.2.obj then
        let s := s.engineSignal c x.2.who x.2.obj x.2.length
        let s := s.modCore c (fun k => { k with copies := mdel k.copies x.1 })
        s.settleSlots x.2.slots
      else s)
    s

/-- See settleCopiesOf; then the parts that ended. -/
def State.settleCopies (s : State) : State :=
  (s.cores.foldl (fun s k => s.settleCopiesOf k.1) s).checkParts.settlePurges

/-- A copy ended by a deferred fault (09 R358). -/
def State.failCopy (s : State) (c i : Nat) : State :=
  match mfind? (s.core c).copies i with
  | none => s
  | some x =>
    let s := (s.forgetCopy c i).modCore c (fun k =>
      { k with
        copies := mdel k.copies i
        cream := if x.form = .cream then
            mmod k.cream x.slot (fun y => { y with state := .poisoned })
          else k.cream })
    let s := x.names.foldl (fun s n => s.failGranule n.1 n.2.1) s
    (s.settleSlots x.slots).settleCopies

/-- A sparse-unit operation leaves. -/
def State.dropSparse (s : State) (c i : Nat) : State :=
  match mfind? (s.core c).sparse i with
  | none => s
  | some x =>
    let s := s.modCore c (fun k => { k with sparse := mdel k.sparse i })
    (s.settleSlots x.slots).checkParts

end Sys2Proof.Machine
end

