-- ==== Sys2Proof/Machine/Faults.lean ====
section
/-! DEFINITION. Causes with their codes, the trap window word, and context faults with their status record
(spec 10 R398, R400; 16 R493 to R497).
-/

namespace Sys2Proof.Machine

/-- The code of a cause; a lower code has the higher rank (10 R398). -/
def causeCode : Cause → Nat
  | .emu => 1
  | .conv => 2
  | .staleTid => 3
  | .own => 4
  | .align => 5
  | .perm => 6
  | .seal => 7
  | .nres => 8
  | .pool => 9
  | .dvz => 10
  | .trailer => 11
  | .arange => 12
  | .wdog => 13
  | .utrap => 14

/-- tw.cause (10 R400). -/
def twCause (entry level : Nat) (deferred : Bool) (deliv cause : Nat) : Nat :=
  entry * 2 ^ 24 + level * 2 ^ 22 + (if deferred then 2 ^ 21 else 0) + deliv * 2 ^ 8 + cause

/-- A lane's window in a status record (16 R495). -/
structure LaneWindow where
  lane : Nat
  cause : Nat
  pc : Nat
  addr : DWord
  deriving DecidableEq, Repr

/-- What a context fault reports: its status, the delivered cause code or 0, the gang it comes from with
its core, slot and launch sequence, the failing address, and the lane windows. -/
structure FaultReport where
  status : Nat
  cause : Nat
  gang : Option (Nat × Nat × Nat)
  pa : Nat
  windows : List LaneWindow
  deriving DecidableEq, Repr

/-- DW1 of a status record (16 R495): a fault that no gang made has SEQ zero, and core and slot that the
spec leaves open. -/
def State.recordDw1 (s : State) (r : FaultReport) : DWord :=
  match r.gang with
  | some (c, slot, seq) => BitVec.ofNat 64 (seq % 2 ^ 32 * 2 ^ 32 + c % 1024 * 2 ^ 10 + slot % 32)
  | none => Config.freeWord s.tick 1 &&& 0x00000000000FFC1F

/-- DW3, TIME: sr.clock of the faulting core; open when no gang made the fault. -/
def State.recordTime (s : State) (r : FaultReport) : DWord :=
  match r.gang with
  | some (c, _, _) => BitVec.ofNat 64 (s.clockOf c)
  | none => Config.freeWord s.tick 3

/-- The bytes of a status record from DW1 on (16 R495). -/
def State.recordTail (s : State) (r : FaultReport) : List Byte :=
  let mask := maskOf (r.windows.map (fun w => w.lane))
  let lane (l : Nat) : List Byte :=
    match r.windows.find? (fun w => w.lane == l) with
    | some w => bytesOf 8 w.cause ++ bytesOf 8 w.pc ++ bytesOf 8 w.addr.toNat
    | none => bytesOf 24 0
  bytesOf 8 (s.recordDw1 r).toNat ++ bytesOf 8 mask.toNat ++ bytesOf 8 (s.recordTime r).toNat ++
    bytesOf 8 r.pa ++ bytesOf 24 0 ++ (List.range 32).flatMap lane ++ bytesOf 192 0

/-- Writes the status record, DW0 last; a later fault while DW0 is not zero raises COUNT alone
(16 R496). -/
def State.writeFrec (s : State) (frec : Nat) (r : FaultReport) : State :=
  let s := s.touch frec 1024
  let d := s.dword frec
  if d = 0 then
    (s.writeHome (frec + 8) (s.recordTail r)).setDword frec
      (BitVec.ofNat 64 (2 ^ 32 + r.cause * 2 ^ 16 + r.status))
  else
    s.setDword frec (BitVec.ofNat 64
      (min (field d 63 32 + 1) 0xFFFFFFFF * 2 ^ 32 + field d 31 0))

/-- A core without the gangs, engine operations, parts and banks of a context (16 R494, steps 1, 2 and
6). A part that had ended holds no granule, binding or bank any more. -/
def Core.dropContext (k : Core) (ctx : Nat) : Core :=
  let gs := k.slots.filter (fun g => g.2.ctxKey == ctx)
  let k := gs.foldl (fun k g => k.dropGang g.1) k
  let mine (t : TeamPart) : Bool := Machine.ctxKey t.part t.ctx == ctx
  let mxMine (x : MxOp) : Bool :=
    match x with
    | .mma _ _ _ _ _ _ _ who => who.ctx == ctx
    | .acvt _ _ _ _ _ who => who.ctx == ctx
  let ts := k.parts.filter (fun t => mine t && !t.ended)
  { k with
    copies := mfilter (fun _ x => x.who.ctx != ctx) k.copies
    mx := k.mx.filter (fun x => !mxMine x)
    sparse := mfilter (fun _ x => x.who.ctx != ctx) k.sparse
    granules := mfilter (fun g _ => !ts.any (fun t => t.hasGranule g)) k.granules
    binds := mfilter (fun i _ => !ts.any (fun t =>
      decide (64 * t.bank + t.bind0 ≤ i) && decide (i < 64 * t.bank + t.bind0 + t.binds))) k.binds
    parts := k.parts.filter (fun t => !mine t)
    banks := mmapVals (fun b x =>
      if x.ctx == some (ctx % 256) && ts.any (fun t => t.bank == b) then .free else x) k.banks }

/-- The partition of a context holds a core. -/
def State.coreInPart (s : State) (p c : Nat) : Bool :=
  match s.part? p with
  | some x => decide (64 * p ≤ c) && decide (c < 64 * (p + x.size))
  | none => false

/-- A context fault (16 R494): it acts only on a live context (13 R440). -/
def State.contextFault (s : State) (ctx : Nat) (r : FaultReport) : State :=
  if (s.ctx ctx).state ≠ .live then s
  else
    let p := ctx / 256
    let slots := (s.cores.flatMap (fun k => k.2.snapshotSlots) ++
      s.spilled.flatMap (fun x => x.items.snapshotSlots)).filter (fun x => x.1 == ctx)
    let s := { s with
      cores := mmapVals (fun _ k => k.dropContext ctx) s.cores
      spilled := s.spilled.filter (fun x => x.ctx != ctx) }
    let s := (s.settleSlots slots).settlePurges
    let s := s.cores.foldl (fun s k => if s.coreInPart p k.1 then s.releaseAllWords k.1 2 else s) s
    let frec := field (s.ctx ctx).frec 47 0
    let s := s.writeFrec frec r
    let s := s.modCtx ctx (fun x => { x with state := .faulted })
    let s := (s.launches.filter (fun l => ctxKey l.2.part l.2.ctx == ctx)).foldl
      (fun s l => s.completeLaunch l.1 5) s
    let s := { s with cores := mmapVals (fun _ k =>
      { k with prefetch := k.prefetch.filter (fun x => (mfind? s.launches x.launch).isSome) }) s.cores }
    let s := s.modPart p (fun x => { x with fqOut := x.fqOut.filter (fun e => e.ctx != ctx % 256) })
    s.notifyPart p 0x13 (ctx % 256) (BitVec.ofNat 64 (field (s.dword frec) 63 32))

/-- Ends the context of an access to a system page that was refused or whose connection failed (17 R528), as a fault of
the gang that made it or issued its copy (16 R495). -/
def State.refuseOp (s : State) (x : SentOp) : State :=
  match x.who with
  | some w => s.contextFault w.ctx
      { status := 5, cause := 0, gang := some (w.core, w.gang, w.seq), pa := x.aperture, windows := [] }
  | none => s

end Sys2Proof.Machine
end

