-- ==== Sys2Proof/Machine/Fp.lean ====
section
/-! DEFINITION. Binary floating point as spec 02 R71 to R78 and 07 R277 to R280 state it: exact numbers,
one rounding, flags.
-/

namespace Sys2Proof.Machine

/-- The five flags of sr.fpflags (01 R57): NV, DZ, OF, UF, NX in bits 4 to 0. -/
abbrev Flags := BitVec 5

/-- Invalid operation. -/
def fNV : Flags := 16
/-- Divide by zero. -/
def fDZ : Flags := 8
/-- Overflow. -/
def fOF : Flags := 4
/-- Underflow. -/
def fUF : Flags := 2
/-- Inexact. -/
def fNX : Flags := 1

/-- A binary format: the widths of its exponent and fraction (02 R71). -/
structure FpFmt where
  ebits : Nat
  mbits : Nat
  deriving DecidableEq, Repr

/-- FP32. -/
def fp32 : FpFmt := ⟨8, 23⟩
/-- BF16. -/
def bf16 : FpFmt := ⟨8, 7⟩
/-- FP16. -/
def fp16 : FpFmt := ⟨5, 10⟩

/-- The exponent bias (02 R71). -/
def FpFmt.bias (f : FpFmt) : Nat := 2 ^ (f.ebits - 1) - 1

/-- The exponent of the last place of a subnormal. -/
def FpFmt.qmin (f : FpFmt) : Int := 1 - (f.bias : Int) - f.mbits

/-- The exponent of the last place of the largest finite numbers. -/
def FpFmt.qmax (f : FpFmt) : Int := (2 ^ f.ebits - 2 : Nat) - (f.bias : Int) - f.mbits

/-- The all-ones exponent field in place. -/
def FpFmt.expOnes (f : FpFmt) : Nat := (2 ^ f.ebits - 1) * 2 ^ f.mbits

/-- The canonical quiet NaN (02 R71). -/
def FpFmt.qnan (f : FpFmt) : Nat := f.expOnes + 2 ^ (f.mbits - 1)

/-- The sign bit in place. -/
def FpFmt.signBit (f : FpFmt) (s : Bool) : Nat := if s then 2 ^ (f.ebits + f.mbits) else 0

/-- An infinity. -/
def FpFmt.inf (f : FpFmt) (s : Bool) : Nat := f.signBit s + f.expOnes

/-- The largest finite number. -/
def FpFmt.huge (f : FpFmt) (s : Bool) : Nat := f.signBit s + f.expOnes - 1

/-- What a code stands for: a NaN, an infinity, or sign, significand and exponent of m * 2^e. -/
inductive FpVal where
  | nan (signalling : Bool)
  | inf (s : Bool)
  | fin (s : Bool) (m : Nat) (e : Int)
  deriving DecidableEq, Repr

/-- Reads a code. -/
def FpFmt.read (f : FpFmt) (x : Nat) : FpVal :=
  let s := bits x (f.ebits + f.mbits) 1 == 1
  let ex := bits x f.mbits f.ebits
  let fr := bits x 0 f.mbits
  if ex = 2 ^ f.ebits - 1 then
    if fr = 0 then .inf s else .nan (bits x (f.mbits - 1) 1 == 0)
  else if ex = 0 then .fin s fr f.qmin
  else .fin s (2 ^ f.mbits + fr) (f.qmin + ex - 1)

/-- The bit length of a number. -/
def bitLen (n : Nat) : Nat := if n = 0 then 0 else Nat.log2 n + 1

/-- Whether a magnitude with quotient q, and a remainder compared with half a unit (0 none, 1 below, 2
tie, 3 above), rounds away from zero under a mode. -/
def roundsUp (r : Rounding) (s : Bool) (q rem : Nat) : Bool :=
  match r with
  | .rne => rem == 3 || (rem == 2 && q % 2 == 1)
  | .rtz => false
  | .rup => rem != 0 && !s
  | .rdn => rem != 0 && s

/-- A remainder against half of 2^k: 0 none, 1 below, 2 tie, 3 above. -/
def remClass (m k : Nat) : Nat :=
  let r := m % 2 ^ k
  if r = 0 then 0
  else if 2 * r < 2 ^ k then 1
  else if 2 * r = 2 ^ k then 2
  else 3

/-- m * 2^e rounded to a multiple of 2^q: the multiple, and whether it is inexact. -/
def roundAt (r : Rounding) (s : Bool) (m : Nat) (e q : Int) : Nat × Bool :=
  if q ≤ e then (m * 2 ^ (e - q).toNat, false)
  else
    let k := (q - e).toNat
    let c := remClass m k
    (m / 2 ^ k + (if roundsUp r s (m / 2 ^ k) c then 1 else 0), c != 0)

/-- The result of an overflow under a mode (02 R78). -/
def FpFmt.overflow (f : FpFmt) (r : Rounding) (s : Bool) : Nat :=
  match r with
  | .rne => f.inf s
  | .rtz => f.huge s
  | .rup => if s then f.huge s else f.inf s
  | .rdn => if s then f.inf s else f.huge s

/-- The magnitude m * 2^e (m not zero) rounded once to the format, with its flags (02 R72, R76). With
sticky, the exact magnitude lies strictly between m and m + 1 units, and m has more than mbits + 3
bits. -/
def FpFmt.round (f : FpFmt) (r : Rounding) (s : Bool) (m0 : Nat) (e0 : Int) (sticky : Bool) :
    Nat × Flags :=
  let m := if sticky then m0 * 4 + 1 else m0
  let e := if sticky then e0 - 2 else e0
  let p := f.mbits + 1
  let qn : Int := e + bitLen m - p
  let q := max qn f.qmin
  let (n, inexact) := roundAt r s m e q
  let (n, q) := if n = 2 ^ p then (2 ^ (p - 1), q + 1) else (n, q)
  if q > f.qmax then (f.overflow r s, fOF ||| fNX)
  else
    -- tininess after rounding, with the exponent unbounded
    let (u, _) := roundAt r s m e qn
    let tiny := qn < f.qmin && !(u == 2 ^ p && qn + 1 == f.qmin)
    let code := if n < 2 ^ (p - 1) then n else (q - f.qmin).toNat * 2 ^ f.mbits + n
    (f.signBit s + code, (if inexact then fNX else 0) ||| (if tiny && inexact then fUF else 0))

/-- An exact magnitude, zero included. -/
def FpFmt.pack (f : FpFmt) (r : Rounding) (s : Bool) (m : Nat) (e : Int) : Nat × Flags :=
  if m = 0 then (f.signBit s, 0) else f.round r s m e false

/-- Whether a value is a signalling NaN. -/
def FpVal.isSnan : FpVal → Bool
  | .nan sig => sig
  | _ => false

/-- Whether a value is a NaN. -/
def FpVal.isNan : FpVal → Bool
  | .nan _ => true
  | _ => false

/-- The flag of signalling inputs. -/
def snanFlags (xs : List FpVal) : Flags := if xs.any FpVal.isSnan then fNV else 0

/-- The signed integer of a significand. -/
def signedMag (s : Bool) (m : Nat) : Int := if s then -(m : Int) else m

/-- The exact sum of two finite numbers, rounded once, with the sign of a zero sum by 02 R72. -/
def FpFmt.addFin (f : FpFmt) (r : Rounding) (s1 : Bool) (m1 : Nat) (e1 : Int) (s2 : Bool) (m2 : Nat)
    (e2 : Int) : Nat × Flags :=
  let e := min e1 e2
  let t := signedMag s1 (m1 * 2 ^ (e1 - e).toNat) + signedMag s2 (m2 * 2 ^ (e2 - e).toNat)
  if t = 0 then
    (f.signBit (if s1 == s2 then s1 else r == .rdn), 0)
  else f.pack r (t < 0) t.natAbs e

/-- The sum of two values. -/
def FpFmt.addVal (f : FpFmt) (r : Rounding) (x y : FpVal) : Nat × Flags :=
  match x, y with
  | .nan _, _ => (f.qnan, snanFlags [x, y])
  | _, .nan _ => (f.qnan, snanFlags [x, y])
  | .inf s, .inf t => if s == t then (f.inf s, 0) else (f.qnan, fNV)
  | .inf s, .fin _ _ _ => (f.inf s, 0)
  | .fin _ _ _, .inf s => (f.inf s, 0)
  | .fin s1 m1 e1, .fin s2 m2 e2 => f.addFin r s1 m1 e1 s2 m2 e2

/-- The value with its sign inverted. -/
def FpVal.neg : FpVal → FpVal
  | .nan b => .nan b
  | .inf s => .inf (!s)
  | .fin s m e => .fin (!s) m e

/-- FADD (07 R277). -/
def FpFmt.add (f : FpFmt) (r : Rounding) (a b : Nat) : Nat × Flags := f.addVal r (f.read a) (f.read b)

/-- FSUB. -/
def FpFmt.sub (f : FpFmt) (r : Rounding) (a b : Nat) : Nat × Flags :=
  f.addVal r (f.read a) (f.read b).neg

/-- FMUL. -/
def FpFmt.mul (f : FpFmt) (r : Rounding) (a b : Nat) : Nat × Flags :=
  let x := f.read a
  let y := f.read b
  match x, y with
  | .nan _, _ => (f.qnan, snanFlags [x, y])
  | _, .nan _ => (f.qnan, snanFlags [x, y])
  | .inf s, .inf t => (f.inf (s != t), 0)
  | .inf s, .fin t m _ => if m = 0 then (f.qnan, fNV) else (f.inf (s != t), 0)
  | .fin t m _, .inf s => if m = 0 then (f.qnan, fNV) else (f.inf (s != t), 0)
  | .fin s m e, .fin t n e' => f.pack r (s != t) (m * n) (e + e')

/-- FFMA: a * b + c with one rounding; 0 * infinity is invalid whatever c holds (07 R277). -/
def FpFmt.fma (f : FpFmt) (r : Rounding) (a b c : Nat) : Nat × Flags :=
  let x := f.read a
  let y := f.read b
  let z := f.read c
  let invalidProduct :=
    match x, y with
    | .inf _, .fin _ m _ => m == 0
    | .fin _ m _, .inf _ => m == 0
    | _, _ => false
  if invalidProduct then (f.qnan, fNV)
  else
    match x, y with
    | .nan _, _ => (f.qnan, snanFlags [x, y, z])
    | _, .nan _ => (f.qnan, snanFlags [x, y, z])
    | .inf s, .inf t => f.addVal r (.inf (s != t)) z
    | .inf s, .fin t _ _ => f.addVal r (.inf (s != t)) z
    | .fin t _ _, .inf s => f.addVal r (.inf (s != t)) z
    | .fin s m e, .fin t n e' => f.addVal r (.fin (s != t) (m * n) (e + e')) z

/-- The quotient of two finite non-zero magnitudes, rounded once. -/
def FpFmt.divFin (f : FpFmt) (r : Rounding) (s : Bool) (m : Nat) (e : Int) (n : Nat) (e' : Int) :
    Nat × Flags :=
  let k := f.mbits + 6 + bitLen n
  let q := m * 2 ^ k / n
  if q * n = m * 2 ^ k then f.pack r s q (e - e' - k)
  else f.round r s q (e - e' - k) true

/-- FDIV. -/
def FpFmt.div (f : FpFmt) (r : Rounding) (a b : Nat) : Nat × Flags :=
  let x := f.read a
  let y := f.read b
  match x, y with
  | .nan _, _ => (f.qnan, snanFlags [x, y])
  | _, .nan _ => (f.qnan, snanFlags [x, y])
  | .inf _, .inf _ => (f.qnan, fNV)
  | .inf s, .fin t _ _ => (f.inf (s != t), 0)
  | .fin s _ _, .inf t => (f.signBit (s != t), 0)
  | .fin s m e, .fin t n e' =>
    if n = 0 then
      if m = 0 then (f.qnan, fNV) else (f.inf (s != t), fDZ)
    else if m = 0 then (f.signBit (s != t), 0)
    else f.divFin r (s != t) m e n e'

/-- Whether x lies below y, both finite. -/
def finLt (s1 : Bool) (m1 : Nat) (e1 : Int) (s2 : Bool) (m2 : Nat) (e2 : Int) : Bool :=
  let e := min e1 e2
  decide (signedMag s1 (m1 * 2 ^ (e1 - e).toNat) < signedMag s2 (m2 * 2 ^ (e2 - e).toNat))

/-- Whether x lies below y; false when either is a NaN. -/
def FpVal.lt (x y : FpVal) : Bool :=
  match x, y with
  | .nan _, _ => false
  | _, .nan _ => false
  | .inf s, .inf t => s && !t
  | .inf s, .fin _ _ _ => s
  | .fin _ _ _, .inf t => !t
  | .fin s m e, .fin t n e' => finLt s m e t n e'

/-- Whether two values are equal and ordered. -/
def FpVal.eq (x y : FpVal) : Bool := !x.isNan && !y.isNan && !x.lt y && !y.lt x

/-- Whether a value is negative by its sign. -/
def FpVal.sign : FpVal → Bool
  | .nan _ => false
  | .inf s => s
  | .fin s _ _ => s

/-- FMIN and FMAX: minimumNumber and maximumNumber, -0 below +0 (02 R74). -/
def FpFmt.pick (f : FpFmt) (wantMax : Bool) (a b : Nat) : Nat × Flags :=
  let x := f.read a
  let y := f.read b
  let fl := snanFlags [x, y]
  if x.isNan && y.isNan then (f.qnan, fl)
  else if x.isNan then (b, fl)
  else if y.isNan then (a, fl)
  else
    let aBelow := x.lt y || (x.eq y && x.sign && !y.sign)
    (if aBelow != wantMax then a else b, fl)

/-- FCLASS: the one-hot mask of 07 R279. -/
def FpFmt.classMask (f : FpFmt) (a : Nat) : Nat :=
  match f.read a with
  | .inf s => if s then 1 else 128
  | .nan sig => if sig then 256 else 512
  | .fin s m _ =>
    if m = 0 then (if s then 8 else 16)
    else if m < 2 ^ f.mbits then (if s then 4 else 32)
    else (if s then 2 else 64)

/-- The relations of FSET (07 R280). -/
inductive FpRel where
  | eq | ne | lt | le | gt | ge | un | ord
  deriving DecidableEq, Repr

/-- FSET: the truth of a relation and its flags. -/
def FpFmt.compare (f : FpFmt) (rel : FpRel) (a b : Nat) : Bool × Flags :=
  let x := f.read a
  let y := f.read b
  let un := x.isNan || y.isNan
  let quiet := snanFlags [x, y]
  let signal : Flags := if un then fNV else 0
  match rel with
  | .eq => (x.eq y, quiet)
  | .ne => (!x.eq y, quiet)
  | .lt => (x.lt y, signal)
  | .le => (x.lt y || x.eq y, signal)
  | .gt => (y.lt x, signal)
  | .ge => (y.lt x || x.eq y, signal)
  | .un => (un, quiet)
  | .ord => (!un, quiet)

/-- A conversion between formats (02 R78). -/
def FpFmt.convert (src dst : FpFmt) (r : Rounding) (a : Nat) : Nat × Flags :=
  match src.read a with
  | .nan sig => (dst.qnan, if sig then fNV else 0)
  | .inf s => (dst.inf s, 0)
  | .fin s m e => dst.pack r s m e

/-- An integer in the format. -/
def FpFmt.ofInt (f : FpFmt) (r : Rounding) (i : Int) : Nat × Flags := f.pack r (i < 0) i.natAbs 0

/-- A number rounded to an integer within [lo, hi]: NaN gives 0, and values outside saturate, with NV
(02 R78). -/
def FpFmt.toInt (f : FpFmt) (r : Rounding) (lo hi : Int) (a : Nat) : Int × Flags :=
  match f.read a with
  | .nan _ => (0, fNV)
  | .inf s => (if s then lo else hi, fNV)
  | .fin s m e =>
    let (n, inexact) := roundAt r s m e 0
    let v := signedMag s n
    if v < lo then (lo, fNV)
    else if hi < v then (hi, fNV)
    else (v, if inexact then fNX else 0)

/-- The floor of a square root, from bit k downward. -/
def isqrtAux (n : Nat) : Nat → Nat → Nat
  | 0, r => r
  | k + 1, r =>
    let t := r + 2 ^ k
    isqrtAux n k (if t * t ≤ n then t else r)

/-- The floor of a square root. -/
def isqrt (n : Nat) : Nat := isqrtAux n (bitLen n / 2 + 1) 0

/-- FSQRT (07 R278). -/
def FpFmt.sqrt (f : FpFmt) (r : Rounding) (a : Nat) : Nat × Flags :=
  match f.read a with
  | .nan sig => (f.qnan, if sig then fNV else 0)
  | .inf s => if s then (f.qnan, fNV) else (f.inf false, 0)
  | .fin s m e =>
    if m = 0 then (f.signBit s, 0)
    else if s then (f.qnan, fNV)
    else
      let (m, e) := if e % 2 = 0 then (m, e) else (m * 2, e - 1)
      let k := f.mbits + 6
      let n := m * 2 ^ (2 * k)
      let q := isqrt n
      f.round r false q (e / 2 - k) (q * q != n)

/-- FRSQ (07 R278). -/
def FpFmt.rsqrt (f : FpFmt) (r : Rounding) (a : Nat) : Nat × Flags :=
  match f.read a with
  | .nan sig => (f.qnan, if sig then fNV else 0)
  | .inf s => if s then (f.qnan, fNV) else (0, 0)
  | .fin s m e =>
    if m = 0 then (f.inf s, fDZ)
    else if s then (f.qnan, fNV)
    else
      let (m, e) := if e % 2 = 0 then (m, e) else (m * 2, e - 1)
      let k := f.mbits + 8 + bitLen m
      let q := isqrt (2 ^ (2 * k) / m)
      f.round r false q (-(e / 2) - k) (q * q * m != 2 ^ (2 * k))

/-- FRCP (07 R278). -/
def FpFmt.recip (f : FpFmt) (r : Rounding) (a : Nat) : Nat × Flags :=
  match f.read a with
  | .nan sig => (f.qnan, if sig then fNV else 0)
  | .inf s => (f.signBit s, 0)
  | .fin s m e => if m = 0 then (f.inf s, fDZ) else f.divFin r s 1 0 m e

/-- A magnitude known to lie strictly between lo and hi units of 2^e: its rounding, once both ends
round alike. -/
def FpFmt.roundBetween (f : FpFmt) (r : Rounding) (s : Bool) (lo hi : Nat) (e : Int) :
    Option (Nat × Flags) :=
  let x := f.round r s lo e true
  let y := f.round r s (hi - 1) e true
  if x = y then some x else none

/-- The bits of a fraction f / 2^n, lowest first. -/
def fracBits (f : Nat) : Nat → List Bool
  | 0 => []
  | n + 1 => (f % 2 == 1) :: fracBits (f / 2) n

/-- An enclosure of 2^(0.b1 b2 ...) in units of 2^-p, from the last bit to the first: each step takes
the square root of the tail, doubled when its bit is 1. -/
def pow2Frac (p : Nat) : List Bool → Nat × Nat
  | [] => (2 ^ p, 2 ^ p)
  | bs => bs.foldl
      (fun (x : Nat × Nat) b =>
        let k := if b then 2 else 1
        (isqrt (x.1 * k * 2 ^ p), isqrt (x.2 * k * 2 ^ p) + 1))
      (2 ^ p, 2 ^ p)

/-- 2^(n + frac / 2^fb), the fraction not zero, by enclosures of growing precision (log entry 9). -/
def FpFmt.exp2Aux (f : FpFmt) (r : Rounding) (n : Int) (frac fb : Nat) : Nat → Nat → Nat × Flags
  | 0, p => f.round r false (pow2Frac p (fracBits frac fb)).1 (n - p) true
  | k + 1, p =>
    let (lo, hi) := pow2Frac p (fracBits frac fb)
    match f.roundBetween r false lo hi (n - p) with
    | some x => x
    | none => f.exp2Aux r n frac fb k (2 * p)

/-- FEXP2 (07 R278). -/
def FpFmt.exp2 (f : FpFmt) (r : Rounding) (a : Nat) : Nat × Flags :=
  match f.read a with
  | .nan sig => (f.qnan, if sig then fNV else 0)
  | .inf s => if s then (0, 0) else (f.inf false, 0)
  | .fin s m e =>
    if m = 0 then f.pack r false 1 0
    else if e ≥ 0 then
      -- an integer; magnitudes beyond 2^20 stand for every larger one
      let v : Nat := if e > 20 then 2 ^ 20 else min (m * 2 ^ e.toNat) (2 ^ 20)
      f.pack r false 1 (signedMag s v)
    else
      let k := (-e).toNat
      let i : Int := (signedMag s m) / (2 ^ k : Nat)
      let fr := ((signedMag s m) % (2 ^ k : Nat)).toNat
      if fr = 0 then f.pack r false 1 i else f.exp2Aux r i fr k 3 256

/-- The first n fraction bits of log2 of g / 2^p in [1, 2), as a number, squaring downward or upward. -/
def log2Bits (p : Nat) (up : Bool) : Nat → Nat → Nat → Nat
  | 0, _, acc => acc
  | n + 1, g, acc =>
    let q := g * g / 2 ^ p + (if up then 1 else 0)
    if q ≥ 2 ^ (p + 1) then log2Bits p up n (q / 2 + (if up then 1 else 0)) (2 * acc + 1)
    else log2Bits p up n q (2 * acc)

/-- log2 of g * 2^-k with exponent x, g not a power of two: an enclosure with n fraction bits at
precision p, rounded (log entry 9). -/
def FpFmt.log2Aux (f : FpFmt) (r : Rounding) (x : Int) (g k : Nat) : Nat → Nat → Nat × Flags
  | 0, n =>
    let t : Int := x * (2 ^ n : Nat) + log2Bits (2 * n + 64) false n (g * 2 ^ (2 * n + 64 - k)) 0
    if t < 0 then f.round r true (t.natAbs - 1) (-n) true else f.round r false t.natAbs (-n) true
  | fuel + 1, n =>
    let p := 2 * n + 64
    let lo : Int := x * (2 ^ n : Nat) + log2Bits p false n (g * 2 ^ (p - k)) 0
    let hi : Int := x * (2 ^ n : Nat) + log2Bits p true n (g * 2 ^ (p - k)) 0 + 1
    let res :=
      if lo ≥ 0 then f.roundBetween r false lo.natAbs hi.natAbs (-n)
      else f.roundBetween r true hi.natAbs lo.natAbs (-n)
    match res with
    | some y => y
    | none => f.log2Aux r x g k fuel (2 * n)

/-- FLOG2 (07 R278). -/
def FpFmt.log2 (f : FpFmt) (r : Rounding) (a : Nat) : Nat × Flags :=
  match f.read a with
  | .nan sig => (f.qnan, if sig then fNV else 0)
  | .inf s => if s then (f.qnan, fNV) else (f.inf false, 0)
  | .fin s m e =>
    if m = 0 then (f.inf true, fDZ)
    else if s then (f.qnan, fNV)
    else
      let k := bitLen m - 1
      let x := e + k
      if m = 2 ^ k then f.ofInt r x else f.log2Aux r x m k 3 96

end Sys2Proof.Machine
end

