-- ==== Sys2Proof/Machine/Flags.lean ====
section
/-! DEFINITION. The sticky floating-point flags of a gang (spec 01 R57; 02 R76; 07 R256): NV, DZ, OF, UF
and NX. The flags of each operation are computed beside its result in Fp.lean and Residue.lean.
-/

namespace Sys2Proof.Machine

/-- ORs flags into sr.fpflags. -/
def Gang.orFlags (g : Gang) (f : Flags) : Gang := { g with fpflags := g.fpflags ||| f }

/-- The OR of the flags of some lanes. -/
def flagsOf (p : LaneMask) (f : Nat → Flags) : Flags := (lanesOf p).foldl (fun a l => a ||| f l) 0

/-- sr.fpflags as SRD reads it. -/
def Gang.fpflagsWord (g : Gang) : DWord := g.fpflags.setWidth 64

/-- SWR of sr.fpflags replaces the five flags. -/
def Gang.setFpflags (g : Gang) (x : DWord) : Gang := { g with fpflags := x.setWidth 5 }

/-- The saturating 32-bit counts of sr.bankstall and sr.replay (01 R58). -/
def satCount (n : Nat) : Nat := min n 0xFFFFFFFF

end Sys2Proof.Machine
end

