-- ==== Sys2Proof/Machine/Ops.lean ====
section
/-! DEFINITION. Taking a trap or emulation entry, the return from a handler, the fault queue, and the
shared shapes of instructions that act on one gang (spec 10 R396 to R409; 09 R390, R391; 14 R460, R461; 07
R251 to R255).
-/

namespace Sys2Proof.Machine

/-! The fault queue (14 R460, R461). -/

/-- Writes an entry at the head of the fault queue, advances FQHEAD and notifies the host. -/
def State.fqWrite (s : State) (p : Nat) (e : FaultEntry) : State :=
  match s.part? p with
  | none => s
  | some x =>
    let j := x.fqHead.toNat
    let a := field x.fqBase 47 0 + j % 256 * 32
    let s := s.writeHome a
      (bytesOf 8 e.va ++ bytesOf 2 e.ctx ++ bytesOf 2 e.core ++ bytesOf 1 e.kind ++ bytesOf 1 e.acc ++
        bytesOf 2 0 ++ bytesOf 8 j ++ bytesOf 8 e.pa)
    let s := s.modPart p (fun x => { x with fqHead := x.fqHead + 1 })
    s.notifyPart p 0x12 0 (x.fqHead + 1)

/-- Whether an entry is already outstanding for the same context and page; growth faults count apart. -/
def sameRequest (e f : FaultEntry) : Bool :=
  e.ctx == f.ctx && e.page == f.page && (e.kind == 2) == (f.kind == 2) && e.kind != 5 && f.kind != 5

/-- Posts an entry, or holds it while the ring is full. -/
def State.fqPost (s : State) (p : Nat) (e : FaultEntry) : State :=
  match s.part? p with
  | none => s
  | some x =>
    if x.fqOut.any (sameRequest e) then s
    else
      let s := if e.kind = 5 then s else s.modPart p (fun x => { x with fqOut := x.fqOut ++ [e] })
      if 256 ≤ (x.fqHead - x.fqTail).toNat then s.modPart p (fun x => { x with fqHeld := x.fqHeld ++ [e] })
      else s.fqWrite p e

/-- Writes held entries while the ring has space (14 R461). -/
def State.fqDrain (s : State) (p : Nat) : Nat → State
  | 0 => s
  | n + 1 =>
    match s.part? p with
    | none => s
    | some x =>
      match x.fqHeld with
      | [] => s
      | e :: es =>
        if 256 ≤ (x.fqHead - x.fqTail).toNat then s
        else ((s.modPart p (fun x => { x with fqHeld := es })).fqWrite p e).fqDrain p n

/-- Whether the request of an entry has been met: the page is resident, or lies below HWM. -/
def State.fqMet (s : State) (p : Nat) (e : FaultEntry) : Bool :=
  let key := ctxKey p e.ctx
  if e.kind = 2 then decide (e.page % 2 ^ (s.ctx key).psLog < (s.ctx key).hwm)
  else
    match s.walk key e.va with
    | .leaf l _ => l.res || l.sysp
    | _ => false

/-- A retry drops the outstanding entries whose request has been met (14 R460). -/
def State.fqSettle (s : State) (p ctx : Nat) : State :=
  s.modPart p (fun x => { x with fqOut := x.fqOut.filter (fun e => !(e.ctx == ctx && s.fqMet p e)) })

/-! Recorded causes (10 R397). -/

/-- A cause that a lane records, its tw.addr, and for NRES the entry to post. -/
structure TrapRec where
  lane : Nat
  cause : Cause
  addr : DWord
  post : Option FaultEntry
  deriving DecidableEq, Repr

/-- A cause without a request. -/
def TrapRec.plain (l : Nat) (c : Cause) (a : DWord) : TrapRec := ⟨l, c, a, none⟩

/-- The delivered cause: the one of highest rank (10 R397, R398). -/
def delivered : List TrapRec → Cause
  | [] => .utrap
  | r :: rs =>
    let d := delivered rs
    if rs.isEmpty || causeCode r.cause < causeCode d then r.cause else d

/-! The emulation window (10 R407 to R409). -/

/-- The pre-read of a 7-bit register field (10 R408). -/
def Gang.preRead (g : Gang) (l f : Nat) : DWord :=
  if f < 120 then
    if g.vregs ≤ f then 0
    else if f % 2 = 0 && f + 1 < g.vregs then joinWords (g.reg f l) (g.reg (f + 1) l)
    else (g.reg f l).setWidth 64
  else if f < 124 then (g.lane l).latch (f - 120)
  else if f = 125 then BitVec.ofNat 64 l
  else 0

/-- The target that R259 computes for a word of format B. -/
def branchTarget (is : Issue) : VAddr :=
  let low := bits is.word 0 20
  let disp : Int := match farDisp is.hints with
    | some h => signed 42 (h * 2 ^ 20 + low)
    | none => signed 20 low
  BitVec.ofInt 48 ((is.hpc.toNat : Int) + 4 * disp)

/-- The value of a 7-bit third source or of D (10 R409). -/
def thirdField (is : Issue) (d : Nat) : Nat :=
  match Hint.find 2 is.hints with
  | some h => bits h.word 0 7
  | none => d

/-- The source windows w1 to w3 of a lane (10 R409). -/
def Gang.sourceWindows (g : Gang) (is : Issue) (l : Nat) : DWord × DWord × DWord :=
  let f := formatFields is.word
  match formatClass is.word with
  | 0 => (g.preRead l f.2.1, g.preRead l f.2.2, g.preRead l (thirdField is f.1))
  | 1 =>
    (g.preRead l f.2.1, BitVec.ofInt 64 ((wideImm is.hints).getD (signed 9 (bits is.word 0 9))),
      g.preRead l f.1)
  | 2 => (g.preRead l f.2.1, g.preRead l f.1, 0)
  | 3 => (g.sreg f.2.1, g.sreg f.2.2, g.sreg f.1)
  | 4 => ((if g.predAt f.1 l then 1 else 0), (branchTarget is).setWidth 64, 0)
  | 5 => (g.preRead l f.1, g.preRead l f.2.1, g.sreg f.2.2)
  | _ => (0, 0, 0)

/-- The emulation window of an entry (10 R407). -/
def emuWindow (is : Issue) (mask : LaneMask) : EmuWindow :=
  let f := formatFields is.word
  { word := is.word, pc := is.pc, hpc := is.hpc, hints := (is.hints.take 4).map (fun h => h.word),
    fmt := formatClass is.word, dst := f.1, a := f.2.1, b := f.2.2, mask := mask }

/-! Entering a handler (10 R402 to R406). -/

/-- What an entry is: its kind (10 R400 ENTRY), the delivered cause, whether it is deferred, the word after
the instruction, and the emulation window with the source windows of each lane. -/
structure EntryInfo where
  kind : Nat
  delivered : Cause
  deferred : Bool
  after : VAddr
  emu : Option EmuWindow
  deriving DecidableEq, Repr

/-- The frame that a lane gets at an entry, and the lane then: at the handler, its history saved and empty,
no longer waiting (10 R403, R406; 01 R51). -/
def Gang.enterLane (g : Gang) (tick : Nat) (is : Issue) (e : EntryInfo) (target : VAddr) (r : TrapRec) : Gang :=
  let x := g.lane r.lane
  let w : DWord × DWord × DWord := match e.emu with
    | some _ => g.sourceWindows is r.lane
    | none => (0, 0, 0)
  let f : HandlerFrame :=
    { entry := tick, kind := e.kind, cause := r.cause, delivered := e.delivered, deferred := e.deferred,
      pc := x.pc, addr := r.addr, resume := x.pc, after := e.after,
      done := g.done.getLsbD r.lane, result := x.result, emu := e.emu, w0 := 0, w1 := w.1, w2 := w.2.1, w3 := w.2.2,
      hist := x.hist }
  { g.setLane r.lane
      { x with pc := target, hist := [], wait := none, link := .none, handlers := f :: x.handlers } with
    done := maskSet g.done r.lane false
    tree := maskSet g.tree r.lane false }

/-- The streams without some slices; those slices form new streams, younger than every other (10 R403; log
entry 6). -/
def Gang.splitStreams (g : Gang) (ks : List Nat) : Gang :=
  let keep (st : Stream) : Stream :=
    { st with slices := sliceMask ((slicesOf st.slices).filter (fun k => !ks.contains k)) }
  let old := (g.streams.map keep).filter (fun st => st.slices != 0)
  { g with streams := old ++ (g.groups ks).map (fun ks => Stream.mk (sliceMask ks) .run) }

/-- A promoted gang that traps is demoted, a switch for its lanes (01 R50), and its trigger dropped (01 R40). -/
def Gang.demoteDropping (g : Gang) : Gang :=
  if g.promotion.isSome then { g.switch g.liveLanes with promotion := none } else g

/-- The slices of some lanes. -/
def slicesOfLanes (ls : List Nat) : List Nat := nubNat (ls.map (· / 4))

/-- A gang whose lanes of a list of records enter a handler. -/
def Gang.enter (g : Gang) (tick : Nat) (is : Issue) (e : EntryInfo) (target : VAddr) (recs : List TrapRec) :
    Gang :=
  let ks := slicesOfLanes (recs.map (fun r => r.lane))
  let touched := (g.streams.filter (fun st => (slicesOf st.slices).any (fun k => ks.contains k))).flatMap
    (fun st => slicesLanes st.slices)
  let g := (g.switch touched).demoteDropping
  (recs.foldl (fun g r => g.enterLane tick is e target r) g).splitStreams ks

/-- The windows that a context fault reports (16 R495). -/
def Gang.windows (g : Gang) (e : EntryInfo) (recs : List TrapRec) : List LaneWindow :=
  recs.map (fun r =>
    { lane := r.lane
      cause := twCause e.kind (min ((g.lane r.lane).level + 1) 2) e.deferred (causeCode e.delivered)
        (causeCode r.cause)
      pc := (g.lane r.lane).pc.toNat, addr := r.addr })

/-- A context fault that a gang makes (16 R494). -/
def State.gangFault (s : State) (c slot status cause pa : Nat) (g : Gang) (ws : List LaneWindow) : State :=
  s.contextFault g.ctxKey
    { status := status, cause := cause, gang := some (c, slot, g.seq.toNat), pa := pa, windows := ws }

/-- A trap or emulation entry of lanes of a gang (10 R402, R406): the handler, or the context fault that
takes its place. -/
def State.enterHandler (s : State) (c slot : Nat) (g : Gang) (is : Issue) (e : EntryInfo)
    (recs : List TrapRec) : State :=
  let off := if e.kind = 0 then g.trapEntry else g.emuEntry
  let target : VAddr := BitVec.ofNat 48 (g.code + off + (if e.kind = 2 then 4 else 0))
  if recs.any (fun r => decide (2 ≤ (g.lane r.lane).level)) then
    s.gangFault c slot 2 (causeCode e.delivered) 0 g (g.windows e recs)
  else if off = 0xFFFFFFFF then
    s.gangFault c slot 1 (causeCode e.delivered) 0 g (g.windows e recs)
  else s.setGang c slot (g.enter s.tick is e target recs)

/-- The issuing gang. -/
def State.issuer (s : State) : Option Gang := s.gang? s.cur.core s.cur.slot

/-- Writes the issuing gang. -/
def State.putGang (s : State) (g : Gang) : State := s.setGang s.cur.core s.cur.slot g

/-- Serving NRES and growth faults (10 R399, 14 R460): the requests are posted and the stream waits. -/
def State.waitNres (s : State) (g : Gang) (recs : List TrapRec) : State :=
  let s := (recs.filterMap (fun r => r.post)).foldl (fun s e => s.fqPost g.part e) s
  s.putGang (g.setWait s.cur.stream .nres)

/-- A trap of the issuing instruction (10 R397, R399, R402): nothing when no lane records a cause, a wait
when NRES is delivered, else a handler. An EMU entry takes every active lane (10 R403, R407). -/
def State.trap (s : State) (g : Gang) (recs : List TrapRec) : State :=
  if recs.isEmpty then s
  else
    let d := delivered recs
    if d = .nres then s.waitNres g (recs.filter (fun r => r.cause == .nres))
    else
      let emu := d == .emu
      let e : EntryInfo :=
        { kind := if emu then 1 else 0, delivered := d, deferred := false, after := s.cur.next,
          emu := if emu then some (emuWindow s.cur s.cur.active) else none }
      s.enterHandler s.cur.core s.cur.slot g s.cur e recs

/-- The undefined word, an undefined unit, or a register at or above .vregs: EMU in every active lane
(06 R241, 01 R42). -/
def State.trapEmu (s : State) (g : Gang) : State :=
  s.trap g ((lanesOf s.cur.active).map (fun l => .plain l .emu 0))

/-- One cause in every lane of a mask. -/
def State.trapAll (s : State) (g : Gang) (m : LaneMask) (c : Cause) (a : DWord) : State :=
  s.trap g ((lanesOf m).map (fun l => .plain l c a))

/-- A trap of lanes that stand at an instruction without issuing it: a deferred fault or the watchdog
(10 R397, R401). -/
def State.trapStanding (s : State) (c slot : Nat) (g : Gang) (deferred : Bool) (recs : List TrapRec) : State :=
  if recs.isEmpty then s
  else
    s.enterHandler c slot g Issue.none
      { kind := 0, delivered := delivered recs, deferred := deferred, after := 0, emu := none } recs

/-! Returning from a handler (10 R404; 09 R390, R391; 01 R51). -/

/-- The head frame of a lane satisfies a condition. -/
def Lane.inHandler (x : Lane) (p : HandlerFrame → Bool) : Bool :=
  match x.handlers with
  | f :: _ => p f
  | [] => false

/-- A lane leaves its innermost handler for an address, its saved history restored. -/
def Gang.leaveLane (g : Gang) (l : Nat) (dest : HandlerFrame → VAddr) : Gang :=
  match (g.lane l).handlers with
  | [] => g
  | f :: fs => g.setLane l { g.lane l with pc := dest f, hist := f.hist, handlers := fs, result := f.result }

/-- The lanes of a mask whose frame marked them done. -/
def Gang.doneBefore (g : Gang) (m : LaneMask) : LaneMask :=
  maskOf ((lanesOf m).filter (fun l => (g.lane l).inHandler (fun f => f.done)))

/-- The return of some lanes of an issue: a switch for the stream, the lanes leave and write what the
return writes, the others go on; the slices form their streams again. A stream at REGANG goes on only when
no stop is pending (16 R498). -/
def Gang.leave (g : Gang) (stopping : Bool) (is : Issue) (m : LaneMask) (dest : HandlerFrame → VAddr)
    (write : Gang → Nat → HandlerFrame → Gang) : Gang :=
  let before := g.doneBefore m
  let frames := (lanesOf m).filterMap (fun l => ((g.lane l).handlers.head?).map (fun f => (l, f)))
  let g := g.switch (slicesLanes (g.streamAt is.stream).slices)
  let g := (lanesOf m).foldl (fun g l => g.leaveLane l dest) g
  let g := frames.foldl (fun g x => write g x.1 x.2) g
  let g := g.setPcs (lanesOf (is.active &&& ~~~m)) is.next
  let g := g.complete is
  let g := { g with done := g.done ||| before }
  if stopping then g else g.recheckRegang

/-! The shared shapes of instructions. -/

/-- An instruction of the issuing gang: with no gang nothing happens; a register at or above .vregs gives
EMU before anything else (01 R42). -/
def State.issue (s : State) (regs : List Nat) (k : Gang → State) : State :=
  match s.issuer with
  | none => s
  | some g => if g.regsOk regs then k g else s.trapEmu g

/-- An instruction with a vector result and no fault: the result and its flags in each participating lane,
from the gang before. -/
def State.vector (s : State) (regs : List Nat) (d : Dst) (wide w gbit : Bool)
    (f : Gang → LaneMask → Nat → DWord × Flags) : State :=
  s.issue regs (fun g =>
    let p := g.parts s.cur gbit
    let h := g.writeVec s.tick s.cur p d wide w (fun l => (f g p l).1)
    s.putGang ((h.orFlags (flagsOf p (fun l => (f g p l).2))).advance s.cur))

/-- An instruction with a predicate result and no fault. -/
def State.toPred (s : State) (regs : List Nat) (p : Nat) (gbit : Bool)
    (f : Gang → LaneMask → Nat → Bool × Flags) : State :=
  s.issue regs (fun g =>
    let m := g.parts s.cur gbit
    let h := g.writePred m p (fun l => (f g m l).1)
    s.putGang ((h.orFlags (flagsOf m (fun l => (f g m l).2))).advance s.cur))

/-- A vector instruction of 32-bit sources a and b and a 32-bit result without flags. -/
def State.alu2 (s : State) (o : RRR) (f : Word → Word → Word) : State :=
  s.vector (useDst 1 o.d ++ useSrc 1 o.a ++ useSrc 1 o.b) o.d false o.w o.g
    (fun g _ l => ((f (g.src l o.a) (g.src l o.b)).setWidth 64, 0))

/-- A vector instruction of one 32-bit source and a 32-bit result without flags. -/
def State.alu1 (s : State) (o : RR) (f : Word → Word) : State :=
  s.vector (useDst 1 o.d ++ useSrc 1 o.a) o.d false o.w o.g
    (fun g _ l => ((f (g.src l o.a)).setWidth 64, 0))

end Sys2Proof.Machine
end

