-- ==== Sys2Proof/Machine/Issue.lean ====
section
/-! DEFINITION. The issue slot of a core: which stream issues, the fetch of an instruction with its hints,
and the issue that an instruction's meaning reads (spec 01 R33, R34; 15 R490, R492; 06 R216, R225 to R230).
-/

namespace Sys2Proof.Machine

/-! Which stream issues (01 R33, R34; 15 R490). -/

/-- Whether a gang may issue: its context is live and its state on the core, its partition is neither
frozen nor gone, and it is not frozen itself (13 R440; 16 R500, R503). -/
def State.gangRuns (s : State) (k : Core) (g : Gang) : Bool :=
  (s.ctx g.ctxKey).state == .live && !g.frozen && !(mget .free k.banks g.bank).saved &&
  (match s.part? g.part with
   | some p => !p.frz
   | none => false)

/-- The places of the ready streams of a gang, beginning after the stream it issued last (01 R34). -/
def Gang.offers (g : Gang) : List Nat :=
  let ready := below g.streams.length (fun i => g.ready (g.streamAt i))
  let lastAt := below g.streams.length (fun i =>
    (slicesOf (g.streamAt i).slices).any (fun k => bitAt g.lastSlices k))
  match lastAt.head? with
  | some j => ready.filter (fun i => decide (j < i)) ++ ready.filter (fun i => decide (i ≤ j))
  | none => ready

/-- Inserts a gang by its order of arrival. -/
def insertArrival (x : Nat × Gang) : List (Nat × Gang) → List (Nat × Gang)
  | [] => [x]
  | y :: ys => if x.2.arrival < y.2.arrival then x :: y :: ys else y :: insertArrival x ys

/-- The gangs of a core with a ready stream that satisfy a condition, in order of arrival. -/
def State.readyGangs (s : State) (k : Core) (p : Gang → Bool) : List (Nat × Gang) :=
  (k.slots.filter (fun x => s.gangRuns k x.2 && p x.2 && !x.2.offers.isEmpty)).foldl
    (fun xs x => insertArrival x xs) []

/-- The round robin: the gangs that arrived after the one issued last, then the others (01 R34); the
stream of a YIELD in the cycle before comes last (07 R266). -/
def herdOrder (last : Option Nat) (gs : List (Nat × Gang)) : List (Nat × Gang) :=
  let after (x : Nat × Gang) : Bool := match last with
    | some a => decide (a < x.2.arrival)
    | none => true
  let xs := gs.filter after ++ gs.filter (fun x => !after x)
  xs.filter (fun x => !x.2.yielded) ++ xs.filter (fun x => x.2.yielded)

/-- The gang of the churn engine that issued least recently (15 R490). -/
def leastChurn : List (Nat × Gang) → Option (Nat × Gang)
  | [] => none
  | x :: xs =>
    match leastChurn xs with
    | none => some x
    | some y => if x.2.lastChurn ≤ y.2.lastChurn then some x else some y

/-- The gang slot that issues in a core's cycle, and whether in the herd engine. -/
def State.chooseGang (s : State) (k : Core) (cyc : Nat) : Option (Nat × Gang × Bool) :=
  let herd := (herdOrder k.herdLast (s.readyGangs k (fun g => g.promotion.isNone))).head?
  let churn := leastChurn (s.readyGangs k (fun g => g.promotion.isSome))
  let due : Bool := match k.herdCycle with
    | some n => decide (n + 4 ≤ cyc)
    | none => true
  match herd, churn with
  | some h, some c => if due then some (h.1, h.2, true) else some (c.1, c.2, false)
  | some h, none => some (h.1, h.2, true)
  | none, some c => some (c.1, c.2, false)
  | none, none => none

/-! Fetch (15 R492; 06 R216, R230). -/

/-- How the fetch of a word ends. -/
inductive FetchRes where
  | word (w : Nat)
  | miss (addr : Nat)
  | cause (c : Cause) (addr : Nat)
  | light (f : LightFault)
  | nres (addr page : Nat)
  | memoryError (pa : Nat)
  | noMemory (pa : Nat)
  deriving DecidableEq, Repr

/-- The translation of the frame of a code address by the die's fetch agent (14 R452), which reads all of it (15
R492). Code on a system page has no home slice to be read at, and gives PERM. -/
def State.fetchTranslate (s : State) (d ctx va : Nat) : AccResult :=
  let check (l : Leaf) : AccResult :=
    if l.sysp then .cause .perm else s.checkLeaf l .fetch (va / 256 * 256) 256
  match (s.die d).agent.find? (fun l => l.maps ctx va) with
  | some l => check l
  | none =>
    match s.walk ctx va with
    | .leaf l _ => check l
    | .perm => .cause .perm
    | .memoryError pa => .memoryError pa
    | .noMemory pa => .noMemory pa

/-- The fetch of a word from the core's instruction cache, or what stands in its way. A word of a run of hints that
is longer than the cache is taken as its frame passes (06 R227). -/
def State.fetchWord (s : State) (c ctx : Nat) (passing : Bool) (va : Nat) : FetchRes :=
  if va % 4 ≠ 0 then .cause .align va
  else
    match (s.core c).icache.find? (fun f => f.ctx == ctx && f.va == va / 256 * 256) with
    | some f => .word (ofBytes ((f.bytes.drop (va % 256)).take 4))
    | none =>
      match s.fetchTranslate (dieOfCore c) ctx va with
      | .ok pa _ =>
        if passing then .word (ofBytes (s.readHome (pa + va % 256) 4)) else .miss va
      | .cause x => .cause x va
      | .light f => .light f
      | .nres l => .nres va l.va
      | .memoryError pa => .memoryError pa
      | .noMemory pa => .noMemory pa

/-- How the fetch of an instruction and its hints ends. -/
inductive Fetched where
  | unit (word : Nat) (hints : List Hint) (pc : Nat)
  | stop (r : FetchRes)
  deriving DecidableEq, Repr

/-- The data words after a hint (06 R228). -/
def State.fetchData (s : State) (c ctx : Nat) (passing : Bool) : Nat → Nat → List Nat → List Nat ⊕ FetchRes
  | 0, _, acc => .inl acc
  | n + 1, va, acc =>
    match s.fetchWord c ctx passing (va % 2 ^ 48) with
    | .word w => s.fetchData c ctx passing n (va + 4) (acc ++ [w])
    | r => .inr r

/-- Whether an address lies 255 frames or more beyond the start of a run of hints: the run and the frames before it
fill the instruction cache. -/
def beyondCache (start va : Nat) : Bool := decide (255 ≤ (va + 2 ^ 48 - start / 256 * 256) % 2 ^ 48 / 256)

/-- The fetch of hints and the instruction they bind to (06 R225). There are fewer words than the fuel. -/
def State.fetchFrom (s : State) (c ctx start : Nat) : Nat → Nat → List Hint → Fetched
  | 0, va, _ => .stop (.cause .perm va)
  | n + 1, va, hs =>
    match s.fetchWord c ctx (beyondCache start va) va with
    | .word w =>
      if isHint w then
        match s.fetchData c ctx (beyondCache start va) (hintDataWords w) (va + 4) [] with
        | .inl ds => s.fetchFrom c ctx start n ((va + 4 + 4 * ds.length) % 2 ^ 48) (hs ++ [⟨w, ds⟩])
        | .inr r => .stop r
      else .unit w hs va
    | r => .stop r

/-- The fetch at a PC. -/
def State.fetchUnit (s : State) (c ctx pc : Nat) : Fetched := s.fetchFrom c ctx pc (2 ^ 46) pc []

/-- The fill of the frame of a code address by the fetch agent: every core of the die whose running parts
share the context and CODE installs it (15 R492). -/
def State.fillFrame (s : State) (d ctx code va : Nat) : State :=
  match s.fetchTranslate d ctx va with
  | .ok pa l =>
    let base := va / 256 * 256
    let pbase := pa / 256 * 256
    let f : CodeFrame := ⟨ctx, base, s.readHome pbase 256⟩
    let s := if l.cacheable then
        s.modDie d (fun x =>
          { x with agent := if x.agent.any (fun y => y.maps ctx va) then x.agent else x.agent ++ [l] })
      else s
    { s with cores := mmapVals (fun c k =>
        if c / 256 = d && k.slots.any (fun g => g.2.ctxKey == ctx && g.2.code == code) &&
            !(k.icache.any (fun x => x.ctx == ctx && x.va == base)) then
          { k with icache := (f :: k.icache).take 256 }
        else k) s.cores }
  | _ => s

/-! The issue. -/

/-- What the step does next: the meaning of an instruction or event on a state, or a state alone. -/
inductive Plan where
  | run (i : Instr) (s : State)
  | done (s : State)

/-- The first deferred fault of each active lane that has one (09 R358, 10 R397). -/
def Gang.deferredRecs (g : Gang) (m : LaneMask) : List TrapRec :=
  (lanesOf m).filterMap (fun l => ((g.lane l).deferred.head?).map (fun d => .plain l d.cause d.addr))

/-- The gang without the deferred faults that it now takes. -/
def Gang.takeDeferred (g : Gang) (recs : List TrapRec) : Gang :=
  g.modLanes (recs.map (fun r => r.lane)) (fun _ x => { x with deferred := x.deferred.drop 1 })

/-- A fetch that stops: the wait, the trap of the active lanes, or the context fault. -/
def State.fetchStop (s : State) (g : Gang) (r : FetchRes) : State :=
  let is := s.cur
  match r with
  | .word _ => s
  | .miss _ => s.putGang (g.setWait is.stream .fetch)
  | .cause c a => s.trapAll g is.active c (BitVec.ofNat 64 a)
  | .light f => s.putGang (g.setWait is.stream (.light [f]))
  | .nres a page =>
    s.trap g ((lanesOf is.active).map (fun l =>
      ⟨l, .nres, BitVec.ofNat 64 a, some ⟨a, g.ctx, is.core, 1, 4, 0, page⟩⟩))
  | .memoryError pa => s.gangFault is.core is.slot 5 0 pa g []
  | .noMemory pa => s.noteBad pa

/-- Notes an issue of a stream: the switch of a herd interleave (01 R50), the engines' order, and the slots
that the hints take (06 R225): each is an issue of its engine, so the herd engine's share (01 R33; 15 R490) counts
from the unit's last slot. -/
def State.noteIssue (s : State) (c slot i cyc words : Nat) (herd : Bool) (g : Gang) : State :=
  let mask := (g.streamAt i).slices
  let k := s.core c
  let g := if k.lastStream = some (slot, mask) then g else g.switch (slicesLanes mask)
  let g := { g with
    lastSlices := mask
    lastChurn := if herd then g.lastChurn else cyc }
  (s.modCore c (fun k =>
    { k with
      slots := mmapVals (fun _ x => { x with yielded := false }) k.slots
      herdLast := if herd then some g.arrival else k.herdLast
      herdCycle := if herd then some (cyc + words - 1) else k.herdCycle
      lastCycle := some (cyc + words - 1)
      lastStream := some (slot, mask) })).setGang c slot { g with yielded := false }

/-- Whether a lane of a mask has applied one half of a packed pair (05 R200): its instruction has begun, and a deferred
fault waits for the next one (09 R358). -/
def Gang.halfway (g : Gang) (m : LaneMask) : Bool := (lanesOf m).any (fun l => (g.lane l).half.isSome)

/-- The issue of a chosen stream: a deferred fault first, then fetch, then the instruction's meaning. One that is
retried after NRES finds which requested pages are there (14 R460). -/
def State.issueStream (s : State) (c slot i cyc : Nat) (herd : Bool) (g : Gang) : Plan :=
  let st := g.streamAt i
  match g.streamPc st with
  | none => .done s
  | some pc =>
    let s := if st.wait = .retry then s.fqSettle g.part g.ctx else s
    let active := g.streamActive st pc
    let recs := g.deferredRecs active
    if !recs.isEmpty && !g.halfway active then
      let g := g.takeDeferred recs
      .done ((s.setGang c slot g).trapStanding c slot g true recs)
    else
      let at_ : Issue := ⟨c, slot, i, BitVec.ofNat 48 pc, BitVec.ofNat 48 pc, BitVec.ofNat 48 (pc + 4), 0, [], active⟩
      match s.fetchUnit c g.ctxKey pc with
      | .stop r =>
        let s := s.noteIssue c slot i cyc 1 herd g
        let s := { s with cur := at_ }
        match s.issuer with
        | some g => .done (s.fetchStop g r)
        | none => .done s
      | .unit w hs p =>
        let is : Issue :=
          { at_ with pc := BitVec.ofNat 48 p, next := BitVec.ofNat 48 (p + 4), word := w, hints := hs }
        let words := (p + 2 ^ 48 - pc) % 2 ^ 48 / 4 + 1
        let s := { s.noteIssue c slot i cyc words herd g with cur := is }
        match decodeUnit w hs with
        | some ins => .run ins s
        | none => .run .undefinedWord s

/-- A core's issue slot: at most one instruction, and none while the last one's hints take slots. -/
def State.coreCycle (s : State) (c : Nat) : Plan :=
  let k := s.core c
  let cyc := s.clockOf c
  let free : Bool := match k.lastCycle with
    | some n => decide (n < cyc)
    | none => true
  if !free then .done s
  else
    match s.chooseGang k cyc with
    | none => .done s
    | some (slot, g, herd) =>
      match g.offers with
      | [] => .done s
      | i :: _ => s.issueStream c slot i cyc herd g

end Sys2Proof.Machine
end

