-- ==== Sys2Proof/Machine/Moves.lean ====
section
/-! DEFINITION. The outcome of a meaning, and the placing of an instruction where the next step fetches it (log
entry 2).
-/

namespace Sys2Proof.Machine

/-- The outcome of a meaning: a fault when it touched no memory. -/
def finish (s : State) : Host.Outcome State Fault Refusal :=
  match s.bad with
  | some f => .fault f
  | none => .next s

/-! Placing an instruction where the next step fetches it (log entry 2). -/

/-- A core's instruction cache with a word at a code address: the frame that holds it, or a frame of zeros
with it. -/
def Core.placeCode (k : Core) (ctx va w : Nat) : Core :=
  let base := va / 256 * 256
  let old := match k.icache.find? (fun f => f.ctx == ctx && f.va == base) with
    | some f => f.bytes
    | none => List.replicate 256 (0 : Byte)
  let bs := old.take (va % 256) ++ bytesOf 4 w ++ old.drop (va % 256 + 4)
  { k with icache := ⟨ctx, base, bs⟩ :: k.icache.filter (fun f => !(f.ctx == ctx && f.va == base)) }

/-- The context and PC that the next step fetches at, with the core, when the agenda's next move is a core
that issues. -/
def State.fetchPoint (s : State) : Option (Nat × Nat × Nat) :=
  match s.agenda with
  | .core c :: _ =>
    match s.chooseGang (s.core c) (s.clockOf c) with
    | some (_, g, _) =>
      match g.offers with
      | i :: _ => (g.streamPc (g.streamAt i)).map (fun pc => (c, g.ctxKey, pc))
      | [] => none
    | none => none
  | _ => none

/-- A gang of 32 lanes at address 0 of context 0 of partition 0, in slot 0 of core 0. -/
def placedGang : Gang :=
  Gang.start ⟨0, 0, 0, 0, 0, 0, 0, 0, 0, 120, 0, 0xFFFFFFFF, 0xFFFFFFFF, 0, 0, 32, 0⟩

/-- The part of that gang's team: eight granules, four tiles, four cream slots and four binding entries. -/
def placedPart : TeamPart :=
  { launch := 0, part := 0, ctx := 0, team := 0, number := 0, cores := [0], slots := [0], bank := 0, granule0 := 0,
    scratch := 32 * 1024, tile0 := 0, tiles := 4, cream0 := 0, creams := 4, bind0 := 0, binds := 4, ended := false }

/-- The machine with a program of one word loaded from outside: at the next fetch when a core is about to
issue; otherwise in core 0, with the partition, the context and the gang that its run takes. -/
def State.placeWord (s : State) (w : Nat) : State :=
  match s.fetchPoint with
  | some (c, ctx, pc) => s.modCore c (fun k => k.placeCode ctx pc w)
  | none =>
    let p := match s.part? 0 with
      | some x => { x with frz := false, frozen := false }
      | none => Partition.reset 1
    let s := { s with agenda := .core 0 :: s.agenda, parts := mput s.parts 0 p }
    let s := s.modCtx 0 (fun x => { x with state := .live })
    s.modCore 0 (fun k =>
      { k.placeCode 0 0 w with
        slots := [(0, placedGang)], parts := [placedPart], banks := mput k.banks 0 ⟨some 0, false, false⟩
        lastCycle := none })

end Sys2Proof.Machine
end

