-- ==== Sys2Proof/Machine/Access.lean ====
section
/-! DEFINITION. The per-lane memory instructions' shared parts: addresses, the checks of 08 R307, waits,
done lanes, restarts and completion (spec 05 R184 to R188, R212; 08 R304 to R309, R311; 10 R399; 14 R450,
R460, R464; 17 R528; 03 R113, R114).
-/

namespace Sys2Proof.Machine

/-! Sizes (06 R221). -/

def LoadSize.bytes : LoadSize → Nat
  | .i8 => 1
  | .ui8 => 1
  | .i16 => 2
  | .ui16 => 2
  | .b32 => 4
  | .b64 => 8
  | .b128 => 16

def StoreSize.bytes : StoreSize → Nat
  | .b8 => 1
  | .b16 => 2
  | .b32 => 4
  | .b64 => 8
  | .b128 => 16

def LoadMode.bytes : LoadMode → Nat
  | .plain z => LoadSize.bytes z
  | .ordered wide _ => if wide then 8 else 4

def StoreMode.bytes : StoreMode → Nat
  | .plain z => StoreSize.bytes z
  | .ordered wide _ => if wide then 8 else 4

/-! Places. -/

/-- Where an access lands: a virtual address on a page, or a core's scratchpad. -/
inductive Place where
  | page (va : Nat) (leaf : Leaf)
  | bank (core off : Nat)
  deriving DecidableEq, Repr

/-- The physical address of a place on a page. -/
def Place.pa : Place → Nat
  | .page va l => l.pa + (va - l.va)
  | .bank _ off => off

/-- Whether a place lies on a system page. -/
def Place.sysp : Place → Bool
  | .page _ l => l.sysp
  | .bank _ _ => false

/-- The object that a place's aligned 8-byte word is (08 R345). -/
def Place.obj : Place → ObjLoc
  | .page va _ => .global (va / 8 * 8)
  | .bank c off => .bank c (off / 8 * 8)

/-- How the checks of a lane end. -/
inductive Check where
  | ok (p : Place)
  | cause (c : Cause) (addr : DWord) (post : Option FaultEntry)
  | light (f : LightFault)
  | memoryError (pa : Nat)
  | noMemory (pa : Nat)
  deriving DecidableEq, Repr

/-- The ACC field of a fault entry (14 R461). -/
def AccKind.acc (k : AccKind) : Nat := (if k.r then 1 else 0) + (if k.w then 2 else 0) + (if k.x then 4 else 0)

/-- An exact address sum as tw.addr shows it. -/
def sumWord (x : Int) : DWord := BitVec.ofInt 64 x

/-! Checks (08 R305 to R307). -/

/-- Checks 5 to 7 of a lane at a virtual address, through the core's translation caches. -/
def State.checkPage (s : State) (g : Gang) (l va n : Nat) (kind : AccKind) : State × Check :=
  let c := s.cur.core
  let last := match s.issuer with
    | some h => (h.lane l).lastPage
    | none => none
  let (s, last, r) := s.access c (fun pa => kind.plain && s.cachedAt c pa n) last g.ctxKey va n kind
  let s := s.modGang c s.cur.slot (fun h => h.modLane l (fun x => { x with lastPage := last }))
  let a : DWord := BitVec.ofNat 64 va
  (s, match r with
    | .ok _ leaf => .ok (.page va leaf)
    | .cause k => .cause k a none
    | .light f => .light f
    | .nres leaf => .cause .nres a (some ⟨va, g.ctx, c, 1, kind.acc, 0, leaf.va⟩)
    | .memoryError pa => .memoryError pa
    | .noMemory pa => .noMemory pa)

/-- A global address (08 R305). -/
def State.checkGlobal (s : State) (g : Gang) (l : Nat) (sum : Int) (n : Nat) (kind : AccKind) : State × Check :=
  if sum % n ≠ 0 then (s, .cause .align (sumWord sum) none)
  else if sum < 0 || 2 ^ 48 ≤ sum then (s, .cause .perm (sumWord sum) none)
  else s.checkPage g l sum.toNat n kind

/-- A private offset of a lane (01 R61, R62; 14 R464). -/
def State.checkPrivate (s : State) (g : Gang) (l : Nat) (sum : Int) (n : Nat) (kind : AccKind) : State × Check :=
  let x := s.ctx g.ctxKey
  let ps := 2 ^ x.psLog
  let va : Int := (field x.pb 47 0 + (s.cur.core * 1024 + g.slot * 32 + l) * ps : Nat) + sum
  if sum % n ≠ 0 then (s, .cause .align (sumWord va) none)
  else if sum < 0 || (ps : Int) ≤ sum then (s, .cause .perm (sumWord va) none)
  else if (x.hwm : Int) ≤ sum then
    (s, .cause .nres (sumWord va)
      (some ⟨va.toNat, g.ctx, s.cur.core, 2, kind.acc, 0, va.toNat⟩))
  else s.checkPage g l va.toNat n kind

/-- The core, part and offset of a scratchpad or window address (08 R305; 03 R111). -/
def State.bankPlace (s : State) (g : Gang) (window : Bool) (sum : Int) : Option (Nat × TeamPart × Nat) :=
  if sum < 0 then none
  else if window then
    if 0x1FFFFFF < sum then none else s.windowTarget s.cur.core g.launch g.team sum.toNat
  else
    match (s.core s.cur.core).partOf g with
    | some t => if sum < (t.scratch : Int) then some (s.cur.core, t, sum.toNat) else none
    | none => none

/-- Checks 1 to 4 of a scratchpad or window address (08 R307). OWN and TRAILER give the scratchpad offset of the
granule (10 R401), in the part that the address names. -/
def State.checkBank (s : State) (g : Gang) (window : Bool) (sum : Int) (n : Nat) : Check :=
  if sum % n ≠ 0 then .cause .align (sumWord sum) none
  else
    match s.bankPlace g window sum with
    | none => .cause .perm (sumWord sum) none
    | some (c, t, off) =>
      let x := (s.core c).granule (t.at_ off / 4096)
      let granule : DWord := BitVec.ofNat 64 (off / 4096 * 4096)
      if x.owner ≠ .threads then .cause .own granule none
      else if x.poison then .cause .trailer granule none
      else .ok (.bank c (t.at_ off))

/-- The spaces of the per-lane instructions. -/
inductive LaneSpace where
  | global | priv | scratch | window
  deriving DecidableEq, Repr

/-- The registers of an address field: a pair for a global address. -/
def LaneSpace.width : LaneSpace → Nat
  | .global => 2
  | _ => 1

/-- The space of an object field (06 R235). -/
def Space.lane : Space → LaneSpace
  | .global => .global
  | .scratch => .scratch
  | .window => .window

/-- The exact address of a lane (08 R305). -/
def Gang.address (g : Gang) (sp : LaneSpace) (a : Src) (off : Int) (l : Nat) : Int :=
  match sp with
  | .global => (g.src64 l a).toNat + off
  | _ => (g.src l a).toNat + off

/-- The checks of one lane. -/
def State.checkLane (s : State) (g : Gang) (sp : LaneSpace) (sum : Int) (n : Nat) (kind : AccKind) (l : Nat) :
    State × Check :=
  match sp with
  | .global => s.checkGlobal g l sum n kind
  | .priv => s.checkPrivate g l sum n kind
  | .scratch => (s, s.checkBank g false sum n)
  | .window => (s, s.checkBank g true sum n)

/-- The checks of some lanes, in ascending order. -/
def State.checkLanes (s : State) (ls : List Nat) (f : State → Nat → State × Check) :
    State × List (Nat × Check) :=
  ls.foldl
    (fun (x : State × List (Nat × Check)) l =>
      let y := f x.1 l
      (y.1, x.2 ++ [(l, y.2)]))
    (s, [])

/-! Outcomes (08 R308). -/

def oksOf (cs : List (Nat × Check)) : List (Nat × Place) :=
  cs.filterMap (fun x => match x.2 with
    | .ok p => some (x.1, p)
    | _ => none)

def causesOf (cs : List (Nat × Check)) : List TrapRec :=
  cs.filterMap (fun x => match x.2 with
    | .cause c a post => some ⟨x.1, c, a, post⟩
    | _ => none)

def lightsOf (cs : List (Nat × Check)) : List LightFault :=
  cs.filterMap (fun x => match x.2 with
    | .light f => some f
    | _ => none)

def errorsOf (cs : List (Nat × Check)) : List Nat :=
  cs.filterMap (fun x => match x.2 with
    | .memoryError pa => some pa
    | _ => none)

def badsOf (cs : List (Nat × Check)) : List Nat :=
  cs.filterMap (fun x => match x.2 with
    | .noMemory pa => some pa
    | _ => none)

/-- Changes the issuing gang. -/
def State.onGang (s : State) (f : Gang → Gang) : State := s.modGang s.cur.core s.cur.slot f

/-- Whether a lane awaits a reply over the link. -/
def Gang.awaits (g : Gang) (l : Nat) : Bool :=
  match (g.lane l).link with
  | .awaited _ => true
  | _ => false

/-- The outcome of a per-lane instruction's checks: light faults are served first (14 R450; log entry 13),
a memory error ends the context (14 R469); otherwise the lanes without a cause perform and are done, and the
instruction waits for replies, traps, or completes. perform answers the lanes that it leaves to a later issue of the
instruction: those that wait for a reply, and those of an atomic whose applications come later. -/
def State.perLane (s : State) (cs : List (Nat × Check))
    (perform : State → List (Nat × Place) → State × LaneMask) (complete : State → State) : State :=
  let i := s.cur.stream
  match s.issuer, lightsOf cs, errorsOf cs with
  | none, _, _ => s
  | some g, f :: fs, _ => s.putGang (g.setWait i (.light (f :: fs)))
  | some g, [], pa :: _ => s.gangFault s.cur.core s.cur.slot 5 0 pa g []
  | some _, [], [] =>
    let s := (badsOf cs).foldl State.noteBad s
    let ok := oksOf cs
    let (s, waiting) := perform s ok
    let s := s.onGang (fun g => g.markDone (maskOf (ok.map (·.1)) &&& ~~~waiting))
    if waiting != 0 then s.onGang (fun g => if (lanesOf waiting).any g.awaits then g.setWait i .link else g)
    else
      match causesOf cs, s.issuer with
      | [], _ => complete s
      | recs, some g => s.trap g recs
      | _, none => s

/-- The common completion of an instruction without a result. -/
def State.completeIssue (s : State) : State := s.onGang (fun g => g.advance s.cur)

/-- The completion of a load-like instruction: the latch entries, then the advance (08 R309). -/
def State.completeLoad (s : State) (d : Dst) (wide : Bool) : State :=
  s.onGang (fun g => (g.entries s.cur (g.parts s.cur false) d wide).advance s.cur)

/-! Bank conflicts (03 R113, R114). -/

/-- The words of a scratchpad access of n bytes, as core and word. -/
def bankWords (n : Nat) (p : Place) : List Nat :=
  match p with
  | .bank c off => (List.range ((off + n - 1) / 4 + 1 - off / 4)).map (fun i => c * 2 ^ 20 + off / 4 + i)
  | .page _ _ => []

/-- The cycles beyond one that some places' accesses take: the most distinct words in one bank, less
one. -/
def bankStall (n : Nat) (ps : List Place) : Nat :=
  let ws := nubNat (ps.flatMap (bankWords n))
  (ws.map (fun w => (ws.filter (fun v => v / 2 ^ 20 == w / 2 ^ 20 && v % 64 == w % 64)).length)).foldl max 1 - 1

/-- Adds cycles to sr.bankstall (01 R58). -/
def Gang.addCycles (g : Gang) (n : Nat) : Gang := { g with bankstall := satCount (g.bankstall + n) }

/-- Adds an access's stall to sr.bankstall (01 R58). -/
def Gang.addStall (g : Gang) (n : Nat) (ps : List Place) : Gang := g.addCycles (bankStall n ps)

/-! Releases and acquires on the objects of an instruction (05 R186 to R188). -/

/-- The distinct objects of some places. -/
def objsOf (ps : List Place) : List ObjLoc :=
  ps.foldl (fun os p => if os.contains p.obj then os else os ++ [p.obj]) []

/-- The write-backs of a release on some objects by the issuing gang's team. -/
def State.releaseObjs (s : State) (g : Gang) (os : List ObjLoc) (sc : Scope) : State :=
  match (s.core s.cur.core).partOf g with
  | some t => os.foldl (fun s o => s.releaseObj s.cur.core t o sc) s
  | none => s

/-- Whether a unit may pass control elsewhere than to the next one. -/
def Instr.transfers : Instr → Bool
  | .br _ | .brpAny _ | .brpAll _ | .brpLane _ | .call _ | .ret _ | .jmpi _ | .tret | .emret _ | .trap _ => true
  | _ => false

/-- The vector registers that a unit may write: at most four from its destination field (06 R218 to R221). -/
def unitWrites (w : Nat) : List Nat := (List.range 4).map ((formatFields w).1 + ·)

/-- Whether a younger load of a gang may read what an acquire removed: of the ranges given, or none when it removed
every word (05 R212). A load of a scratchpad does not; a vector load does when its address is one that registers of
the list are still to change, or when it lies in a range. -/
def Gang.mayMatch (g : Gang) (ranges : Option (List (Nat × Nat))) (written : List Nat) (hs : List Hint) : Instr → Bool
  | .ldg o =>
    match ranges, o.a with
    | some rs, .reg r =>
      let n := LoadMode.bytes o.mode
      let off := (wideImm hs).getD ((o.off * n : Nat) : Int)
      written.any (fun x => x == r || x == r + 1) || g.liveLanes.any (fun l =>
        rs.any (fun q => rangesMeet q.1 q.2 (g.address .global o.a off l).toNat n))
    | _, _ => true
  | .ldl _ | .sldg _ | .spld _ | .tgathI32 _ | .tgathF32 _ => true
  | _ => false

/-- The most loads among a gang's next units that an acquire can match: of a number of units from a PC on, those that
may; where control may pass elsewhere, or the code is not in the cache, each of the units left. -/
def State.youngerLoads (s : State) (c : Nat) (g : Gang) (ranges : Option (List (Nat × Nat))) :
    Nat → Nat → List Nat → Nat
  | 0, _, _ => 0
  | n + 1, pc, written =>
    match s.fetchUnit c g.ctxKey pc with
    | .stop _ => n + 1
    | .unit w hs p =>
      match decodeUnit w hs with
      | none => n + 1
      | some i =>
        if Instr.transfers i then n + 1
        else
          (if g.mayMatch ranges written hs i then 1 else 0) +
            s.youngerLoads c g ranges n ((p + 4) % 2 ^ 48) (unitWrites w ++ written)

/-- sr.replay after an acquire that removed the words of some ranges, or every word: of a promoted gang's younger
loads in its 64-entry reorder buffer (01 R35), those that have performed and match are replayed; which have performed
depends on timing, so their number is a free one up to that of the loads that can match (05 R212; 01 R58; log
entry 15). -/
def State.countReplays (s : State) (c slot pc : Nat) (ranges : Option (List (Nat × Nat))) : State :=
  s.modGang c slot (fun g =>
    if g.promotion.isSome && ranges != some [] then
      { g with replay := satCount (g.replay + Config.replays s.tick % (s.youngerLoads c g ranges 63 pc [] + 1)) }
    else g)

/-- The removals of an acquire of some objects, and its replays. -/
def State.acquireObjs (s : State) (g : Gang) (os : List ObjLoc) (sc : Scope) : State :=
  let c := s.cur.core
  match (s.core c).partOf g with
  | some t =>
    let rs := bindRanges t sc (os.flatMap ((s.core c).boundTo t))
    (os.foldl (fun (s : State) o => s.acquireObj c t o sc) s).countReplays c s.cur.slot s.cur.next.toNat (some rs)
  | none => s

/-- The address at which an ordered access on some objects meets a memory error in the walk of a bound range. -/
def State.objsError (s : State) (g : Gang) (os : List ObjLoc) (sc : Scope) : Option Nat :=
  match (s.core s.cur.core).partOf g with
  | some t => s.bindsError t sc (os.flatMap ((s.core s.cur.core).boundTo t))
  | none => none

/-- Whether lanes of other streams of a gang wait for absent pages in a sparse instruction: a later sparse instruction,
a release and an operation of the sparse unit come after them (04 R166). Lanes of the issuing stream itself stand at
later instructions. -/
def Gang.treeWaits (g : Gang) (is : Issue) : Bool :=
  (lanesOf g.tree).any (fun l => !bitAt (g.streamAt is.stream).slices (l / 4))

/-- Whether a release on some objects must wait: for earlier sparse lanes (04 R166), and at an effective scope of .sys,
the instruction's or that of an entry bound to an object (05 R186), for the acknowledgement of every earlier write of
its active lanes to a system page (05 R184). -/
def State.mustWait (s : State) (g : Gang) (os : List ObjLoc) (sc : Scope) : Bool :=
  g.treeWaits s.cur ||
  ((sc == .sys ||
    match (s.core s.cur.core).partOf g with
    | some t => (os.flatMap ((s.core s.cur.core).boundTo t)).any (fun b => b.scope == .sys)
    | none => false) &&
  s.hasUnacked s.cur.core s.cur.slot (lanesOf s.cur.active))

/-- An instruction whose lanes have passed their checks, ordered at a scope or not at all: a release may have to wait, a
memory error in the walk of a bound range ends the context (14 R469), and otherwise it goes on. -/
def State.onObjects (s : State) (g : Gang) (sc : Option Scope) (release : Bool) (cs : List (Nat × Check))
    (go : State) : State :=
  match sc with
  | none => go
  | some sc =>
    let os := objsOf ((oksOf cs).map (·.2))
    if release && s.mustWait g os sc then s
    else
      match s.objsError g os sc with
      | some pa => s.gangFault s.cur.core s.cur.slot 5 0 pa g []
      | none => go

/-- A release retires a store or atomic with .rel to an aligned 8-byte word: the lock trigger on it ends,
and a gang promoted by it is demoted (01 R37, R40; 08 R327). -/
def Gang.endLock (g : Gang) (os : List ObjLoc) : Gang :=
  let mine (t : Trigger) : Bool :=
    match t with
    | .lock va => os.contains (.global va)
    | _ => false
  let g := { g with held := g.held.filter (fun t => !mine t) }
  match g.promotion with
  | some p => if mine p.trigger then { g.switch g.liveLanes with promotion := none } else g
  | none => g

/-! Lanes on system pages (17 R528). -/

/-- The replies that lanes hold, by lane. -/
def Gang.reply (g : Gang) (l : Nat) : LinkReply := (g.lane l).link

/-- Sets what a lane expects over the link. -/
def State.setReply (s : State) (l : Nat) (r : LinkReply) : State :=
  s.onGang (fun g => g.modLane l (fun x => { x with link := r }))

/-- An access of a lane on a connection that is not open ends its context (17 R522, R528). -/
def State.linkFault (s : State) (pa : Nat) : State :=
  match s.issuer with
  | some g => s.gangFault s.cur.core s.cur.slot 5 0 pa g []
  | none => s

/-- A READ for a lane. -/
def State.askLink (s : State) (l pa n : Nat) (got : List Byte) : State :=
  if s.connOpen (apertureConn pa) then
    (s.sysRead pa n (s.cur.core, s.cur.slot, l)).setReply l (.awaited got)
  else s.linkFault pa

/-- The bytes that the READ of a load of n bytes asks for: those, or the whole word of a narrower load, so that lanes
that read one word receive the same value (08 R311; DESIGN CHOICE, log entry 75). -/
def linkSpan (pa n : Nat) : Nat × Nat := if n < 4 then (pa / 4 * 4, 4) else (pa, n)

/-- The bytes that a lane's own or shared reply holds, of the lanes of a load with their physical addresses; none
while it is awaited, and no reply at all when the lane has asked for none, or shared one with a lane that is gone. -/
def Gang.linkState (g : Gang) (n : Nat) (xs : List (Nat × Nat)) (x : Nat × Nat) : LinkReply :=
  match g.reply x.1 with
  | .shared k =>
    if xs.any (fun y => y.1 == k && linkSpan y.2 n == linkSpan x.2 n) then
      (match g.reply k with
       | .shared _ => .none
       | r => r)
    else .none
  | r => r

/-- The READs of the lanes that have no reply: one for the lanes that read one word, made by the first of them. -/
def State.askWords (s : State) (n : Nat) (new : List (Nat × Nat)) : State :=
  new.foldl
    (fun s x =>
      match new.find? (fun y => linkSpan y.2 n == linkSpan x.2 n) with
      | some y =>
        if y.1 = x.1 then s.askLink x.1 (linkSpan x.2 n).1 (linkSpan x.2 n).2 []
        else s.setReply x.1 (.shared y.1)
      | none => s) s

/-- Reads of system pages by the lanes of a load, with their physical addresses: the bytes of the replies that have
come, which the lanes take, and READs for the lanes that have asked for none. -/
def State.linkReads (s : State) (n : Nat) (xs : List (Nat × Nat)) : State × List (Nat × Option (List Byte)) :=
  match s.issuer with
  | none => (s, [])
  | some g =>
    let s := s.askWords n (xs.filter (fun x => g.linkState n xs x == .none))
    let ys := xs.map (fun x => (x.1, match g.linkState n xs x with
      | .held bs => some ((bs.drop (x.2 - (linkSpan x.2 n).1)).take n)
      | _ => none))
    (ys.foldl (fun (s : State) y => if y.2.isSome then s.setReply y.1 .none else s) s, ys)

/-- Reads of single bytes of system pages by a lane, one READ after the other: the bytes once every reply
is there. -/
def State.linkBytes (s : State) (l : Nat) (pas : List Nat) : State × Option (List Byte) :=
  let ask (s : State) (got : List Byte) : State × Option (List Byte) :=
    match pas[got.length]? with
    | some pa => (s.askLink l pa 1 got, none)
    | none => (s.setReply l .none, some got)
  match (s.issuer.map (fun g => g.reply l)).getD .none with
  | .held bs => ask s bs
  | .awaited _ => (s, none)
  | _ => ask s []

/-- A write of a system page, made by a lane as an access of the lanes of a mask. -/
def State.linkWrite (s : State) (l pa : Nat) (bs : List Byte) (lanes : LaneMask) : State :=
  if s.connOpen (apertureConn pa) then s.sysWrite pa bs lanes (s.cur.core, s.cur.slot, l)
  else s.linkFault pa

end Sys2Proof.Machine
end

