-- ==== Sys2Proof/Machine/Crypto.lean ====
section
/-! DEFINITION. SHA-256 and ECDSA on P-256, by which images are verified and reports are signed (spec 17 R535,
R537, R538). The spec names the two algorithms and their curve; what they compute is taken from their standards,
FIPS 180-4 and FIPS 186-4 (PRESUMED, assumption log 78).
-/

namespace Sys2Proof.Machine

/-- Bytes with the most significant one first. -/
def bigEndian (n x : Nat) : List Byte := (bytesOf n x).reverse

/-! SHA-256: its constants are the first 32 bits of the fractions of roots of primes. -/

/-- The first 64 primes. -/
def firstPrimes : List Nat :=
  (List.range 312).filter (fun n => decide (2 ≤ n) && (List.range n).all (fun d => decide (d < 2) || n % d != 0))

/-- The largest number above r, by less than 2 to the power b, whose k-th power is at most n, or r. -/
def rootAbove (k n : Nat) : Nat → Nat → Nat
  | 0, r => r
  | b + 1, r => rootAbove k n b (if (r + 2 ^ b) ^ k ≤ n then r + 2 ^ b else r)

/-- The first 32 bits of the fraction of the k-th root of a number. -/
def rootFraction (k p : Nat) : Word := BitVec.ofNat 32 (rootAbove k (p * 2 ^ (32 * k)) 40 0)

/-- The exclusive or of some rotations of a word. -/
def rotations (is : List Nat) (x : Word) : Word := is.foldl (fun y i => y ^^^ x.rotateRight i) 0

/-- Eight working words after a round; kw is the sum of its constant and its schedule word. -/
def shaRound (v : List Word) (kw : Word) : List Word :=
  let word (i : Nat) : Word := v.getD i 0
  let choice := ((word 5 ^^^ word 6) &&& word 4) ^^^ word 6
  let majority := (word 0 &&& (word 1 ||| word 2)) ||| (word 1 &&& word 2)
  let new := kw + choice + rotations [6, 11, 25] (word 4) + word 7
  (majority + rotations [2, 13, 22] (word 0) + new) :: v.take 3 ++ (word 3 + new) :: (v.drop 4).take 3

/-- A schedule with one more word, from four of the sixteen before it. -/
def shaExtend (ws : List Word) : List Word :=
  let ago (n : Nat) : Word := ws.getD (ws.length - n) 0
  let near := rotations [17, 19] (ago 2) ^^^ (ago 2 >>> 10)
  let far := rotations [7, 18] (ago 15) ^^^ (ago 15 >>> 3)
  ws ++ [near + ago 7 + far + ago 16]

/-- Applies a function so many times. -/
def times (f : α → α) : Nat → α → α
  | 0, x => x
  | n + 1, x => times f n (f x)

/-- A hash value of eight words after a block of 64 bytes. -/
def shaBlock (v : List Word) (bs : List Byte) : List Word :=
  let ws := times shaExtend 48 ((chunksAux 4 16 bs).map (fun b => BitVec.ofNat 32 (ofBytes b.reverse)))
  let ks := firstPrimes.map (rootFraction 3)
  List.zipWith (· + ·) v ((List.zipWith (· + ·) ks ws).foldl shaRound v)

/-- The padded message. -/
def shaPad (bs : List Byte) : List Byte :=
  bs ++ [0x80] ++ bytesOf ((119 - bs.length % 64) % 64) 0 ++ bigEndian 8 (8 * bs.length)

/-- The SHA-256 digest as a number, its first byte most significant. -/
def sha256 (bs : List Byte) : Nat :=
  let p := shaPad bs
  let v := (chunksAux 64 p.length p).foldl shaBlock ((firstPrimes.take 8).map (rootFraction 2))
  v.foldl (fun n w => n * 2 ^ 32 + w.toNat) 0

/-! P-256. -/

/-- The field's prime, the coefficient b, the base point and its order. -/
def p256P : Nat := 2 ^ 256 - 2 ^ 224 + 2 ^ 192 + 2 ^ 96 - 1
def p256N : Nat := 0xffffffff00000000ffffffffffffffffbce6faada7179e84f3b9cac2fc632551
def p256B : Nat := 0x5ac635d8aa3a93e7b3ebbd55769886bc651d06b0cc53b0f63bce3c3e27d2604b
def p256G : Nat × Nat :=
  (0x6b17d1f2e12c4247f8bce6e563a440f277037d812deb33a0f4a13945d898c296,
   0x4fe342e2fe1a7f9b8ee7eb4a7c0f9e162bce33576b315ececbb6406837bf51f5)

/-- b to the power e modulo m, for an e of so many bits. -/
def powMod (m b e : Nat) : Nat → Nat
  | 0 => 1 % m
  | n + 1 =>
    let r := powMod m (b * b % m) (e / 2) n
    if e % 2 = 1 then b * r % m else r

/-- The inverse modulo a prime of 256 bits. -/
def invMod (m a : Nat) : Nat := powMod m (a % m) (m - 2) 256

/-- A point of the curve; none is the point at infinity. -/
abbrev Point := Option (Nat × Nat)

/-- The third point of a line of a slope through two points, mirrored. -/
def slopeAdd (k : Nat) (a b : Nat × Nat) : Point :=
  let x := (k * k + 2 * p256P - a.1 - b.1) % p256P
  some (x, (k * (a.1 + p256P - x) + p256P - a.2) % p256P)

/-- The sum of two points. -/
def Point.add : Point → Point → Point
  | none, q => q
  | p, none => p
  | some a, some b =>
    if a.1 ≠ b.1 then slopeAdd ((b.2 + p256P - a.2) * invMod p256P (b.1 + p256P - a.1) % p256P) a b
    else if a.2 ≠ b.2 || a.2 = 0 then none
    else slopeAdd ((3 * a.1 * a.1 + p256P - 3) * invMod p256P (2 * a.2) % p256P) a b

/-- A multiple of a point, by a number of so many bits. -/
def Point.mul (p : Point) (k : Nat) : Nat → Point
  | 0 => none
  | n + 1 =>
    let q := Point.mul (Point.add p p) (k / 2) n
    if k % 2 = 1 then Point.add p q else q

/-- Whether two coordinates are a point of the curve. -/
def onCurve (a : Nat × Nat) : Bool :=
  decide (a.1 < p256P) && decide (a.2 < p256P) &&
  a.2 * a.2 % p256P == (a.1 * a.1 * a.1 + (p256P - 3) * a.1 + p256B) % p256P

/-- The signature of a digest by a private key, with a secret number for this signature. -/
def ecdsaSign (key nonce digest : Nat) : Nat × Nat :=
  match Point.mul (some p256G) nonce 256 with
  | none => (0, 0)
  | some q =>
    let r := q.1 % p256N
    (r, invMod p256N nonce * (digest + r * key) % p256N)

/-- Whether a signature of a digest verifies with a public key. -/
def ecdsaVerify (key : Nat × Nat) (sig : Nat × Nat) (digest : Nat) : Bool :=
  onCurve key && decide (1 ≤ sig.1) && decide (sig.1 < p256N) && decide (1 ≤ sig.2) && decide (sig.2 < p256N) &&
  match Point.add (Point.mul (some p256G) (digest * invMod p256N sig.2 % p256N) 256)
      (Point.mul (some key) (sig.1 * invMod p256N sig.2 % p256N) 256) with
  | some q => q.1 % p256N == sig.1
  | none => false

/-! Images and reports. -/

/-- Whether a firmware image passes the three checks of 17 R535: the signature over its body, the signing key, its
SVN. -/
def imagePasses (image : List Byte) : Bool :=
  ecdsaVerify (Config.imageKey image) (Config.imageSignature image) (sha256 (Config.imageBody image)) &&
  sha256 (Config.keyBytes (Config.imageKey image)) == Config.fusedKeyDigest.toNat &&
  decide (Config.fusedSvn.toNat ≤ (Config.imageSvn image).toNat)

/-- The private identity key (17 R537), a number from 1 to n − 1. -/
def identityKey : Nat := Config.fusedSecret % (p256N - 1) + 1

/-- The public identity key. -/
def identityPoint : Nat × Nat := (Point.mul (some p256G) identityKey 256).getD (0, 0)

/-- The signature of a report's bytes 0 to 127 by the identity key (17 R538): its secret number is free. -/
def signReport (body : List Byte) : Nat × Nat :=
  ecdsaSign identityKey (Config.signNonce body % (p256N - 1) + 1) (sha256 body)

end Sys2Proof.Machine
end

