-- ==== Sys2Proof/Machine/Control.lean ====
section
/-! DEFINITION. Branches and gang control (spec 07 R258 to R268; 01 R16, R23, R24; 16 R498).
-/

namespace Sys2Proof.Machine

/-! Branches (07 R258 to R262). -/

/-- The target of BR, BRP and CALL (07 R259): from the first hint or the word, with the far displacement's
high bits when a hint gives them. -/
def Issue.target (is : Issue) (disp : Int) : VAddr :=
  let d := match farDisp is.hints with
    | some h => signed 42 (h * 2 ^ 20 + unsignedField 20 disp)
    | .none => disp
  BitVec.ofInt 48 ((is.hpc.toNat : Int) + 4 * d)

/-- The lanes of an issue go to their next addresses, and the instruction completes. -/
def Gang.goto (g : Gang) (is : Issue) (pc : Nat → VAddr) : Gang :=
  (g.modLanes (lanesOf is.active) (fun l x => { x with pc := pc l })).complete is

/-- A branch to one target of the participating lanes that take it (07 R260). -/
def State.branch (s : State) (disp : Int) (taken : Gang → LaneMask → Nat → Bool) : State :=
  s.issue [] (fun g =>
    let p := g.parts s.cur false
    s.putGang (g.goto s.cur (fun l => if p.getLsbD l && taken g p l then s.cur.target disp else s.cur.next)))

def execBr (o : BrOp) (s : State) : Host.Outcome State Fault Refusal :=
  finish (s.branch o.disp (fun _ _ _ => true))
def execBrpAny (o : BrpOp) (s : State) : Host.Outcome State Fault Refusal :=
  finish (s.branch o.disp (fun g p _ => g.pred o.p &&& p != 0))
def execBrpAll (o : BrpOp) (s : State) : Host.Outcome State Fault Refusal :=
  finish (s.branch o.disp (fun g p _ => g.pred o.p &&& p == p))
def execBrpLane (o : BrpOp) (s : State) : Host.Outcome State Fault Refusal :=
  finish (s.branch o.disp (fun g _ l => g.predAt o.p l))

/-- CALL: the link pair of each participating lane, and the branch (07 R261). -/
def execCall (o : CallOp) (s : State) : Host.Outcome State Fault Refusal :=
  finish (s.issue [2 * o.k, 2 * o.k + 1] (fun g =>
    let p := g.parts s.cur false
    let link := destWords (.reg (2 * o.k)) true (s.cur.next.setWidth 64)
    let h := (lanesOf p).foldl (fun h l => h.setRegs l link) g
    s.putGang (h.goto s.cur (fun l => if p.getLsbD l then s.cur.target o.disp else s.cur.next))))

/-- The cause of a jump target: misaligned, or outside 48 bits (07 R262). -/
def targetCause (l : Nat) (x : DWord) : Option TrapRec :=
  if bits x.toNat 0 2 ≠ 0 then some (.plain l .align x)
  else if bits x.toNat 48 16 ≠ 0 then some (.plain l .perm x)
  else none

/-- RET and JMPI (07 R262). -/
def State.jump (s : State) (o : JumpOp) : State :=
  s.issue (useSrc 2 o.v) (fun g =>
    let p := g.parts s.cur false
    let recs := (lanesOf p).filterMap (fun l => targetCause l (g.src64 l o.v))
    if recs.isEmpty then
      s.putGang (g.goto s.cur (fun l =>
        if p.getLsbD l then (g.src64 l o.v).setWidth 48 else s.cur.next))
    else s.trap g recs)

def execRet (o : JumpOp) (s : State) : Host.Outcome State Fault Refusal := finish (s.jump o)
def execJmpi (o : JumpOp) (s : State) : Host.Outcome State Fault Refusal := finish (s.jump o)

/-! Gang control (07 R263 to R268). -/

/-- REGANG: the stream waits with its token; when every peer has arrived they go on as one (01 R23). One that is
reached by every peer in one stream completes in one issue. A gang that is parted reaches it in the herd engine
(R264). While a stop is pending a wait there is a stop point, and ends at the resume (16 R498). -/
def execRegang (o : RegangOp) (s : State) : Host.Outcome State Fault Refusal :=
  finish (s.issue [] (fun g =>
    let i := s.cur.stream
    let k := (slicesOf (g.streamAt i).slices).headD 0
    let whole := (g.regangPeers k).all (bitAt (g.streamAt i).slices)
    let g := if whole then g else g.demoteHolding
    let h := g.setWait i (.regang o.token s.cur.pc 0 (s.ctx g.ctxKey).wdog.toNat)
    s.putGang (if s.stopping g.part && !whole then h else h.tryRegang o.token k)))

/-- EXIT: the participating lanes end (07 R265); with the last one the gang ends. The lanes that remain may leave the
gang blocked in BWAIT, so that laggards arise (01 R37). -/
def execExit (s : State) : Host.Outcome State Fault Refusal :=
  finish (s.issue [] (fun g =>
    let p := g.parts s.cur false
    let h := g.modLanes (lanesOf p) (fun _ x => { x with live := false, wait := none, handlers := [] })
    let h := h.advance s.cur
    let h := (if s.stopping g.part then h else h.recheckRegang).endLaggards
    let s := s.putGang h
    if h.liveLanes.isEmpty then s.endGang s.cur.core s.cur.slot
    else s.modCore s.cur.core (fun k => k.noteLaggards (s.clockOf s.cur.core) h)))

/-- YIELD: the last choice of the round robin for the next cycle, in the herd engine (07 R266). -/
def execYield (s : State) : Host.Outcome State Fault Refusal :=
  finish (s.issue [] (fun g =>
    s.putGang { g.advance s.cur with yielded := g.promotion.isNone }))

/-- The union of liveness hints (07 R268). -/
def Liveness.union (a b : Liveness) : Liveness :=
  ⟨a.regs ||| b.regs, a.granules ||| b.granules, a.tiles ||| b.tiles⟩

/-- The latch histories of some lanes written back and emptied (01 R52). -/
def Gang.emptyLatches (g : Gang) (m : LaneMask) : Gang :=
  (g.switch (lanesOf m)).modLanes (lanesOf m) (fun _ x => { x with hist := [] })

/-- A stream that stopped at a PPT: it issues nothing more, a promoted gang is demoted, a switch for all its lanes
(01 R50), and the gang's liveness takes the hint in (07 R268). -/
def Gang.stopStream (g : Gang) (slices : Nat) (lv : Liveness) : Gang :=
  let mark (st : Stream) : Stream :=
    if (slicesOf st.slices).any (bitAt slices) then { st with wait := .stopped } else st
  { g.demoteHolding with
    streams := g.streams.map mark
    liveness := match g.liveness with
      | some x => some (Liveness.union x lv)
      | none => some lv }

/-- PPT (07 R267, R268). -/
def execPpt (s : State) : Host.Outcome State Fault Refusal :=
  finish (s.issue [] (fun g =>
    let stopping := match s.part? g.part with
      | some x => x.stop
      | none => false
    let slices := (g.streamAt s.cur.stream).slices
    let h := (g.emptyLatches s.cur.active).advance s.cur
    s.putGang (if stopping then h.stopStream slices (livenessOf s.cur.hints) else h)))

end Sys2Proof.Machine
end

