-- ==== Sys2Proof/Machine/LoadStore.lean ====
section
/-! DEFINITION. Loads and stores of the lanes and of the scalars (spec 08 R313 to R320; 07 R303; 05 R187,
R188, R204).
-/

namespace Sys2Proof.Machine

def LoadMode.scope? : LoadMode → Option Scope
  | .plain _ => none
  | .ordered _ sc => some sc

def StoreMode.scope? : StoreMode → Option Scope
  | .plain _ => none
  | .ordered _ sc => some sc

/-- The registers that an access of n bytes names. -/
def regsOf (n : Nat) : Nat := if n ≤ 4 then 1 else n / 4

/-- The register image of loaded bytes: narrow forms are extended to 32 bits (08 R315). -/
def LoadMode.value (m : LoadMode) (bs : List Byte) : DWord × DWord :=
  let x := ofBytes bs
  match m with
  | .plain .i8 => ((BitVec.ofInt 32 (signed 8 x)).setWidth 64, 0)
  | .plain .i16 => ((BitVec.ofInt 32 (signed 16 x)).setWidth 64, 0)
  | _ => (BitVec.ofNat 64 x, BitVec.ofNat 64 (x / 2 ^ 64))

/-- The bytes that a store writes (08 R316). -/
def Gang.storeBytes (g : Gang) (n l : Nat) (v : Src) : List Byte :=
  if n ≤ 4 then bytesOf n (g.src l v).toNat
  else if n = 8 then bytesOf 8 (g.src64 l v).toNat
  else bytesOf 8 (g.src128 l v).1.toNat ++ bytesOf 8 (g.src128 l v).2.toNat

/-! Reading places. -/

/-- The lanes of some places that are on pages of memory, with their physical addresses. -/
def pagesOf (oks : List (Nat × Place)) : List (Nat × Nat) :=
  oks.filterMap (fun x => match x.2 with
    | .page va l => if l.sysp then none else some (x.1, l.pa + (va - l.va))
    | .bank _ _ => none)

/-- One lane's read of a bank, or of its word at its home. -/
def State.readHomeOf (s : State) (c n : Nat) (p : Place) : State × List Byte :=
  match p with
  | .bank k off => (s, (s.core k).sbytes off n)
  | .page _ _ =>
    let s := s.toHome c p.pa
    (s, s.readHome p.pa n)

/-- The lanes of some places that are on system pages, with their physical addresses. -/
def farOf (oks : List (Nat × Place)) : List (Nat × Nat) :=
  (oks.filter (fun x => x.2.sysp)).map (fun x => (x.1, x.2.pa))

/-- The bytes that some lanes read: plain ones through the L1 and at the banks, ordered ones at the homes;
none for a lane that waits for the link. The lanes' READs of system pages go out in ascending lane order; 00 R10
leaves the lanes unordered (DESIGN CHOICE, log entry 75). -/
def State.readPlaces (s : State) (ordered : Bool) (n : Nat) (oks : List (Nat × Place)) :
    State × List (Nat × Option (List Byte)) :=
  let c := s.cur.core
  let reqs := (pagesOf oks).flatMap (fun x => (List.range n).map (fun i => (16 * x.1 + i, x.2 + i)))
  let (s, ans) := if ordered then (s, []) else s.l1Read c reqs s.cur.pc.toNat (blockLength s.cur.hints)
  let (s, far) := if (farOf oks).isEmpty then (s, []) else s.linkReads n (farOf oks)
  oks.foldl
    (fun (x : State × List (Nat × Option (List Byte))) y =>
      let (s, l) := (x.1, y.1)
      if y.2.sysp then (s, x.2 ++ far.filter (fun z => z.1 == l))
      else if ordered then
        let r := s.readHomeOf c n y.2
        (r.1, x.2 ++ [(l, some r.2)])
      else
        match y.2 with
        | .bank k off => (s, x.2 ++ [(l, some ((s.core k).sbytes off n))])
        | .page _ _ => (s, x.2 ++ [(l, some ((ans.filter (fun a => a.1 / 16 == l)).map (·.2)))]))
    (s, [])

/-- The lanes that still wait. -/
def waitersOf (xs : List (Nat × Option (List Byte))) : LaneMask :=
  maskOf ((xs.filter (fun x => x.2.isNone)).map (·.1))

/-- The results of the lanes that read. -/
def Gang.putAll (g : Gang) (d : Dst) (n : Nat) (f : List Byte → DWord × DWord)
    (xs : List (Nat × Option (List Byte))) : Gang :=
  xs.foldl
    (fun g x => match x.2 with
      | some bs => g.putResult d (regsOf n) x.1 (f bs).1 (f bs).2
      | none => g) g

/-! Loads. -/

/-- A non-faulting load's lane on a page that is not resident: zero in its destination, p7 clear, done
(08 R318). -/
def Gang.nfLane (g : Gang) (d : Dst) (n l : Nat) : Gang :=
  ((g.putResult d (regsOf n) l 0 0).setPredAt 7 l false).markDone (maskOf [l])

/-- Takes the lanes of a non-faulting load whose page is not resident out of its checks. -/
def State.takeAbsent (s : State) (nf : Bool) (d : Dst) (n : Nat) (cs : List (Nat × Check)) :
    State × List (Nat × Check) :=
  let absent (x : Nat × Check) : Bool :=
    match x.2 with
    | .cause c _ _ => nf && c == .nres
    | _ => false
  let ls := (cs.filter absent).map (·.1)
  (s.onGang (fun g => ls.foldl (fun g l => g.nfLane d n l) g), cs.filter (fun x => !absent x))

/-- What the lanes of a load do: the reads, for an ordered load the acquire, and the results. -/
def State.performLoad (s : State) (g : Gang) (mode : LoadMode) (d : Dst) (oks : List (Nat × Place)) :
    State × LaneMask :=
  let n := LoadMode.bytes mode
  let (s, xs) := s.readPlaces (LoadMode.scope? mode).isSome n oks
  let got := (oks.filter (fun x => !(waitersOf xs).getLsbD x.1)).map (·.2)
  let s := match LoadMode.scope? mode with
    | some sc => s.acquireObjs g (objsOf got) sc
    | none => s
  (s.onGang (fun g => (g.putAll d n (LoadMode.value mode) xs).addStall n (oks.map (·.2))), waitersOf xs)

/-- The access of a load: an ordered one reads the memory at the home, whatever a cache holds (05 R188). -/
def LoadMode.kind (m : LoadMode) : AccKind := if (LoadMode.scope? m).isSome then .loadHome else .load

/-- A load (08 R315). -/
def State.load (s : State) (sp : LaneSpace) (mode : LoadMode) (d : Dst) (a : Src) (off : Nat) (nf : Bool) :
    State :=
  let n := LoadMode.bytes mode
  s.issue (useDst (regsOf n) d ++ useSrc sp.width a) (fun g =>
    let o := (wideImm s.cur.hints).getD ((off * n : Nat) : Int)
    let (s, cs) := s.checkLanes (lanesOf (g.todo s.cur))
      (fun s l => s.checkLane g sp (g.address sp a o l) n (LoadMode.kind mode) l)
    let (s, cs) := s.takeAbsent nf d n cs
    s.onObjects g (LoadMode.scope? mode) false cs
      (s.perLane cs (fun s oks => s.performLoad g mode d oks) (fun s => s.completeLoad d (regsOf n != 1))))

def execLdg (o : LdgOp) (s : State) : Host.Outcome State Fault Refusal :=
  finish (s.load .global o.mode o.d o.a o.off o.nf)
def execLdl (o : LdlOp) (s : State) : Host.Outcome State Fault Refusal :=
  finish (s.load .priv (.plain o.size) o.d o.a o.off false)
def execLds (o : LdsOp) (s : State) : Host.Outcome State Fault Refusal :=
  finish (s.load .scratch o.mode o.d o.a o.off false)
def execLdw (o : LdsOp) (s : State) : Host.Outcome State Fault Refusal :=
  finish (s.load .window o.mode o.d o.a o.off false)

/-! Stores. -/

/-- Writes bytes of a place at its bank or its home; core c's copies of the word leave first. -/
def State.writeHomeOf (s : State) (c : Nat) (p : Place) (bs : List Byte) : State :=
  match p with
  | .bank k off => s.modCore k (fun x => x.setBytes off bs)
  | .page _ _ => (s.toHome c p.pa).writeHome p.pa bs

/-- Writes each lane's bytes: plain ones at the L1 and the banks, ordered ones at the homes, those of
system pages over the link, as an access of the lanes that a mask names for each. In ascending lane order, so
the highest lane's byte stands (08 R311). -/
def State.writePlaces (s : State) (ordered : Bool) (lanes : Nat → LaneMask)
    (xs : List (Nat × Place × List Byte)) : State :=
  let c := s.cur.core
  let plain := if ordered then [] else xs.flatMap (fun x =>
    match x.2.1 with
    | .page va l => if l.sysp then [] else (List.range x.2.2.length).map (fun i =>
        (l.pa + (va - l.va) + i, x.2.2.getD i 0))
    | .bank _ _ => [])
  let s := if plain.isEmpty then s else s.l1Store c plain
  xs.foldl
    (fun s x =>
      match x.2.1 with
      | .page va l =>
        if l.sysp then s.linkWrite x.1 (l.pa + (va - l.va)) x.2.2 (lanes x.1)
        else if ordered then s.writeHomeOf c x.2.1 x.2.2
        else s
      | .bank k off => s.modCore k (fun y => y.setBytes off x.2.2))
    s

/-- What the lanes of a store do: for an ordered store the release, then the writes. -/
def State.performStore (s : State) (g : Gang) (mode : StoreMode) (v : Src) (oks : List (Nat × Place)) :
    State × LaneMask :=
  let n := StoreMode.bytes mode
  let objs := objsOf (oks.map (·.2))
  let s := match StoreMode.scope? mode with
    | some sc => (s.releaseObjs g objs sc).onGang (fun g => g.endLock objs)
    | none => s
  let s := s.writePlaces (StoreMode.scope? mode).isSome (fun l => 1 <<< l)
    (oks.map (fun x => (x.1, x.2, g.storeBytes n x.1 v)))
  (s.onGang (fun g => g.addStall n (oks.map (·.2))), 0)

/-- A store (08 R316). A release at .sys waits at issue for the link (05 R184). -/
def State.store (s : State) (sp : LaneSpace) (mode : StoreMode) (v a : Src) (off : Nat) : State :=
  let n := StoreMode.bytes mode
  s.issue (useSrc (regsOf n) v ++ useSrc sp.width a) (fun g =>
    let o := (wideImm s.cur.hints).getD ((off * n : Nat) : Int)
    let (s, cs) := s.checkLanes (lanesOf (g.todo s.cur))
      (fun s l => s.checkLane g sp (g.address sp a o l) n .store l)
    s.onObjects g (StoreMode.scope? mode) true cs
      (s.perLane cs (fun s oks => s.performStore g mode v oks) State.completeIssue))

def execStg (o : StOp) (s : State) : Host.Outcome State Fault Refusal :=
  finish (s.store .global o.mode o.v o.a o.off)
def execStl (o : StlOp) (s : State) : Host.Outcome State Fault Refusal :=
  finish (s.store .priv (.plain o.size) o.v o.a o.off)
def execSts (o : StOp) (s : State) : Host.Outcome State Fault Refusal :=
  finish (s.store .scratch o.mode o.v o.a o.off)
def execStw (o : StOp) (s : State) : Host.Outcome State Fault Refusal :=
  finish (s.store .window o.mode o.v o.a o.off)

/-! The scalar load and store (07 R303): one access per issue, which counts as an access of every active lane;
a cause stands in every active lane. -/

/-- The check of a scalar access, made through the lowest of the lanes that have it still to make and given to each. -/
def State.checkScalar (s : State) (g : Gang) (o : SMemOp) (kind : AccKind) : State × List (Nat × Check) :=
  let m := s.cur.active &&& ~~~g.done
  if m = 0 then (s, [])
  else
    let r := s.checkGlobal g (lowest m) ((g.sreg o.a).toNat + 8 * o.x) 8 kind
    (r.1, (lanesOf m).map (fun l => (l, r.2)))

/-- The lanes that read for a scalar load: one for all; of a system page each, which share its READ, so that a lane
that joins the wait makes its own. -/
def scalarReaders (oks : List (Nat × Place)) : List (Nat × Place) :=
  if oks.any (fun x => x.2.sysp) then oks else oks.take 1

def execSldg (o : SMemOp) (s : State) : Host.Outcome State Fault Refusal :=
  finish (s.issue [] (fun g =>
    let (s, cs) := s.checkScalar g o .load
    s.perLane cs
      (fun s oks =>
        let (s, xs) := s.readPlaces false 8 (scalarReaders oks)
        match xs.find? (fun x => x.2.isSome) with
        | some (_, some bs) => (s.onGang (fun g => g.setSreg o.d (BitVec.ofNat 64 (ofBytes bs))), waitersOf xs)
        | _ => (s, waitersOf xs))
      State.completeIssue))

def execSstg (o : SMemOp) (s : State) : Host.Outcome State Fault Refusal :=
  finish (s.issue [] (fun g =>
    let (s, cs) := s.checkScalar g o .store
    s.perLane cs
      (fun s oks =>
        (s.writePlaces false (fun _ => s.cur.active)
          ((oks.take 1).map (fun x => (x.1, x.2, bytesOf 8 (g.sreg o.d).toNat))), 0))
      State.completeIssue))

end Sys2Proof.Machine
end

