-- ==== Sys2Proof/Machine/Atomics.lean ====
section
/-! DEFINITION. The atomics (spec 08 R321 to R328; 05 R197 to R200; 01 R37).
-/

namespace Sys2Proof.Machine

/-- The bytes of an atomic's operand. -/
def AtomicType.bytes : AtomicType → Nat
  | .i64 => 8
  | .ui64 => 8
  | _ => 4

/-- The packed types, aligned to 2 bytes (08 R325). -/
def AtomicType.half? : AtomicType → Option FpFmt
  | .bf16x2 => some bf16
  | .f16x2 => some fp16
  | _ => none

/-- The registers of the data field (08 R321). -/
def atomicRegs (fn : AtomicFn) (ty : AtomicType) : Nat :=
  let n := AtomicType.bytes ty / 4
  if fn = .cas then 2 * n else n

/-- The new value of an integer operation on w-bit words (08 R323). -/
def atomicInt (w : Nat) (isSigned : Bool) (fn : AtomicFn) (o d cmp : Nat) : Nat :=
  let v (x : Nat) : Int := if isSigned then signed w x else (x : Int)
  match fn with
  | .add => (o + d) % 2 ^ w
  | .min => if v o ≤ v d then o else d
  | .max => if v o ≤ v d then d else o
  | .and => o &&& d
  | .or => o ||| d
  | .xor => o ^^^ d
  | .exch => d
  | .cas => if o = cmp then d else o

/-- The new value of an FP32 operation: rounded once, no flag (08 R323, R324). -/
def atomicF32 (fn : AtomicFn) (o d cmp : Nat) : Nat :=
  match fn with
  | .add => (fp32.add .rne o d).1
  | .min => (fp32.pick false o d).1
  | .max => (fp32.pick true o d).1
  | .exch => d
  | .cas => if o = cmp then d else o
  | _ => o

/-- The new value of a packed add: each half on its own. -/
def atomicHalves (f : FpFmt) (o d : Nat) : Nat :=
  (f.add .rne (bits o 0 16) (bits d 0 16)).1 + (f.add .rne (bits o 16 16) (bits d 16 16)).1 * 65536

/-- The new value (08 R323). -/
def atomicNew (fn : AtomicFn) (ty : AtomicType) (o d cmp : Nat) : Nat :=
  match ty with
  | .i32 => atomicInt 32 true fn o d cmp
  | .ui32 => atomicInt 32 false fn o d cmp
  | .i64 => atomicInt 64 true fn o d cmp
  | .ui64 => atomicInt 64 false fn o d cmp
  | .f32 => atomicF32 fn o d cmp
  | .bf16x2 => atomicHalves bf16 o d
  | .f16x2 => atomicHalves fp16 o d

/-- The data and the compare value of a lane (08 R321). -/
def Gang.atomicData (g : Gang) (fn : AtomicFn) (ty : AtomicType) (v : Src) (l : Nat) : Nat × Nat :=
  match atomicRegs fn ty with
  | 1 => ((g.src l v).toNat, 0)
  | 2 =>
    let x := g.src64 l v
    if fn = .cas then ((hiWord x).toNat, (loWord x).toNat) else (x.toNat, 0)
  | _ => ((g.src128 l v).2.toNat, (g.src128 l v).1.toNat)

/-- One application at a bank or at a home slice: the old value (05 R197, R198). -/
def State.rmw (s : State) (c n : Nat) (p : Place) (f : Nat → Nat) : State × Nat :=
  let (s, bs) := s.readHomeOf c n p
  let old := ofBytes bs
  (s.writeHomeOf c p (bytesOf n (f old)), old)

/-- The place of the second half of a packed pair that spans two words, with its checks (05 R200; 08 R325). -/
def State.atomicSecond (s : State) (g : Gang) (sp : LaneSpace) (ty : AtomicType) (sum : Int) (l : Nat) :
    State × Option Check :=
  if (AtomicType.half? ty).isSome && sum % 4 != 0 then
    let r := s.checkLane g sp (sum + 2) 2 .atomic l
    (r.1, some r.2)
  else (s, none)

/-- The checks of a lane: both halves of a packed pair (08 R325). -/
def State.checkAtomic (s : State) (g : Gang) (sp : LaneSpace) (ty : AtomicType) (sum : Int) (l : Nat) :
    State × Check :=
  let n := if (AtomicType.half? ty).isSome then 2 else AtomicType.bytes ty
  let (s, a) := s.checkLane g sp sum n .atomic l
  match a with
  | .ok p =>
    match s.atomicSecond g sp ty sum l with
    | (s, some (.ok _)) => (s, .ok p)
    | (s, some c) => (s, c)
    | (s, none) => (s, .ok p)
  | c => (s, c)

/-- One application of a packed add to one half of an operand: the old half. -/
def State.rmwHalf (s : State) (c : Nat) (f : FpFmt) (d : Nat) (p : Place) : State × Nat :=
  s.rmw c 2 p (fun o => (f.add .rne o d).1)

/-- A trigger arises: anew for the gang that it promoted, else it is held (01 R37, R40). -/
def Gang.raiseTrigger (g : Gang) (now : Nat) (t : Trigger) : Gang :=
  match g.promotion with
  | some p =>
    if p.trigger = t then { g with promotion := some { p with arose := now } }
    else if g.held.contains t then g else { g with held := g.held ++ [t] }
  | none => if g.held.contains t then g else { g with held := g.held ++ [t] }

/-- Whether a hinted lock attempt succeeded (01 R37): cas returned the compare value, exch zero. -/
def lockTaken (fn : AtomicFn) (old cmp : Nat) : Bool :=
  match fn with
  | .cas => old == cmp
  | .exch => old == 0
  | _ => false

/-- The lock-holder trigger of a lane that took a lock. -/
def State.noteLock (s : State) (fn : AtomicFn) (p : Place) (old cmp : Nat) : State :=
  match p.obj with
  | .global va =>
    if lockHint s.cur.hints && lockTaken fn old cmp then
      s.onGang (fun g => g.raiseTrigger (s.clockOf s.cur.core) (.lock va))
    else s
  | .bank _ _ => s

/-- A lane's old value, when there is a destination. -/
def State.putOld (s : State) (ty : AtomicType) (d : Option Dst) (l old : Nat) : State :=
  match d with
  | some d => s.onGang (fun h => h.putResult d (regsOf (AtomicType.bytes ty)) l (BitVec.ofNat 64 old) 0)
  | none => s

/-- What is left of a pair whose low half has been applied. -/
def Place.half (p q : Place) (old : Nat) : Half :=
  match q with
  | .page _ _ => ⟨old, p.obj, none, q.pa⟩
  | .bank c off => ⟨old, p.obj, some c, off⟩

/-- Where the high half of a pair is. -/
def Half.place (h : Half) : Place :=
  match h.core with
  | some c => .bank c h.addr
  | none => .page h.addr ⟨0, h.addr, h.addr, 4, true, true, false, false, true, true, true, h.addr⟩

/-- One lane's atomic, with as many applications as may be made now: whether it is complete, and what is left of
them. -/
def State.applyAtomic (s : State) (g : Gang) (sp : LaneSpace) (fn : AtomicFn) (ty : AtomicType) (v a : Src)
    (d : Option Dst) (left : Option Nat) (l : Nat) (p : Place) : State × Option Nat × Bool :=
  let c := s.cur.core
  let x := g.atomicData fn ty v l
  if left = some 0 then (s, left, false)
  else
    match AtomicType.half? ty, s.atomicSecond g sp ty (g.address sp a 0 l) l with
    | some f, (s, some (.ok q)) =>
      let (s, lo) := s.rmwHalf c f (bits x.1 0 16) p
      if left = some 1 then
        (s.onGang (fun h => h.modLane l (fun y => { y with half := some (p.half q lo) })), some 0, false)
      else
        let (s, hi) := s.rmwHalf c f (bits x.1 16 16) q
        (s.putOld ty d l (lo + hi * 65536), left.map (· - 2), true)
    | _, (s, _) =>
      let (s, old) := s.rmw c (AtomicType.bytes ty) p (fun o => atomicNew fn ty o x.1 x.2)
      ((s.noteLock fn p old x.2).putOld ty d l old, left.map (· - 1), true)

/-- The places of a lane's applications, for the bank conflicts (03 R113). -/
def State.atomicPlaces (s : State) (g : Gang) (sp : LaneSpace) (ty : AtomicType) (a : Src) (x : Nat × Place) :
    List Place :=
  match (s.atomicSecond g sp ty (g.address sp a 0 x.1) x.1).2 with
  | some (.ok q) => [x.2, q]
  | _ => [x.2]

/-- The bank conflicts of some lanes of an atomic. -/
def State.atomicStall (s : State) (g : Gang) (sp : LaneSpace) (ty : AtomicType) (a : Src) (xs : List (Nat × Place)) :
    Nat :=
  bankStall (if (AtomicType.half? ty).isSome then 2 else AtomicType.bytes ty) (xs.flatMap (s.atomicPlaces g sp ty a))

/-- What the lanes of an atomic do, in ascending order: the release, each application with its old value
when there is a destination, the acquire. Each application performs by itself (05 R198, R200), so the move may make
only some of them; the others come at a later issue. -/
def State.performAtomic (s : State) (g : Gang) (sp : LaneSpace) (fn : AtomicFn) (ty : AtomicType)
    (v a : Src) (d : Option Dst) (sc : Scope) (order : Order) (oks : List (Nat × Place)) : State × LaneMask :=
  let objs := objsOf (oks.map (·.2))
  let s := if order = .rel then (s.releaseObjs g objs sc).onGang (fun g => g.endLock objs) else s
  let r := oks.foldl
    (fun (r : State × Option Nat × List (Nat × Place)) x =>
      let (s, n, done) := r.1.applyAtomic g sp fn ty v a d r.2.1 x.1 x.2
      (s, n, if done then r.2.2 else r.2.2 ++ [x]))
    (s, s.split, [])
  let (s, rest) := (r.1, r.2.2)
  let gone := oks.filter (fun x => !rest.contains x)
  let s := if order = .acq && !gone.isEmpty then s.acquireObjs g (objsOf (gone.map (·.2))) sc else s
  (s.onGang (fun h => h.addCycles (s.atomicStall g sp ty a oks - s.atomicStall g sp ty a rest)),
    maskOf (rest.map (·.1)))

/-- A lane between the halves of its pair (05 R200): the second application, with the old value, and the acquire. -/
def State.finishHalf (s : State) (g : Gang) (ty : AtomicType) (v : Src) (d : Option Dst) (sc : Scope) (order : Order)
    (l : Nat) : State :=
  match (g.lane l).half, AtomicType.half? ty, s.split with
  | none, _, _ | _, none, _ | _, _, some 0 => s
  | some h, some f, n =>
    let (s, hi) := s.rmwHalf s.cur.core f (bits (g.atomicData .add ty v l).1 16 16) h.place
    let s := (s.onGang (fun x => (x.modLane l (fun y => { y with half := none })).markDone (maskOf [l]))).putOld ty d l
      (h.old + hi * 65536)
    let s := if order = .acq then s.acquireObjs g [h.obj] sc else s
    { s with split := n.map (· - 1) }

/-- An atomic; with a destination it makes a latch entry (08 R309, R322). A lane between the halves of its pair has
passed its checks and goes first. -/
def State.atomic (s : State) (sp : LaneSpace) (fn : AtomicFn) (ty : AtomicType) (v a : Src) (d : Option Dst)
    (sc : Scope) (order : Order) : State :=
  let regs := useSrc (atomicRegs fn ty) v ++ useSrc sp.width a
  s.issue regs (fun g =>
    let begun := (lanesOf (g.todo s.cur)).filter (fun l => (g.lane l).half.isSome)
    let s := begun.foldl (fun s l => s.finishHalf g ty v d sc order l) s
    let (s, cs) := s.checkLanes ((lanesOf (g.todo s.cur)).filter (fun l => (g.lane l).half.isNone))
      (fun s l => s.checkAtomic g sp ty (g.address sp a 0 l) l)
    if s.split = some 0 && !begun.isEmpty then s
    else
      s.onObjects g (if order = .relaxed then none else some sc) (order == .rel) cs
        (s.perLane cs (fun s oks => s.performAtomic g sp fn ty v a d sc order oks)
          (fun s => match d with
            | some d => s.completeLoad d (AtomicType.bytes ty == 8)
            | none => s.completeIssue)))

/-- The space of ATOMS and REDS. -/
def bankSpace (window : Bool) : LaneSpace := if window then .window else .scratch

def execAtom (o : AtomOp) (s : State) : Host.Outcome State Fault Refusal :=
  finish (s.atomic .global o.fn o.ty (asSrc o.d) o.a (some o.d) o.scope o.order)
def execRed (o : RedOp) (s : State) : Host.Outcome State Fault Refusal :=
  finish (s.atomic .global o.fn o.ty o.v o.a none o.scope o.order)
def execAtoms (o : AtomsOp) (s : State) : Host.Outcome State Fault Refusal :=
  finish (s.atomic (bankSpace o.window) o.fn o.ty (asSrc o.d) o.a (some o.d) o.scope o.order)
def execReds (o : RedsOp) (s : State) : Host.Outcome State Fault Refusal :=
  finish (s.atomic (bankSpace o.window) o.fn o.ty o.v o.a none o.scope o.order)

end Sys2Proof.Machine
end

