-- ==== Sys2Proof/Machine/CacheCtl.lean ====
section
/-! DEFINITION. Cache control, prefetch, page requests and sealing (spec 08 R329 to R335; 03 R149 to R152;
05 R183, R193; 14 R460, R463).
-/

namespace Sys2Proof.Machine

/-! CFLUSH and CINV (08 R329). -/

/-- The check of a lane's range: past 2^48 is PERM, and a memory error in the walk of a page of it ends the context (14
R469). A range is no one place, so the core stands for it. -/
def State.checkRange (s : State) (ctx : Nat) (base len : DWord) : Check :=
  if 2 ^ 48 < base.toNat + len.toNat then .cause .perm base none
  else
    match s.walkError ctx base.toNat len.toNat with
    | some pa => .memoryError pa
    | none => .ok (.bank s.cur.core 0)

/-- The level of a cache operation: the L1, and at .dev and .sys the remote-data cache as well. -/
def rangeLevel (sc : Scope) : Nat := if sc = .dev ∨ sc = .sys then 2 else 1

/-- The physical ranges that some lanes name together. -/
def State.rangesOf (s : State) (g : Gang) (o : RangeOp) (ls : List Nat) : List (Nat × Nat) :=
  ls.flatMap (fun l => s.physRanges g.ctxKey (g.src64 l o.base).toNat (g.src64 l o.len).toNat)

/-- A cache operation over the participating lanes' ranges, all of them as they stand when it is performed. -/
def State.rangeOp (s : State) (o : RangeOp) (act : State → Gang → List (Nat × Nat) → State) : State :=
  s.issue (useSrc 2 o.len ++ useSrc 2 o.base) (fun g =>
    let cs := (lanesOf (g.todo s.cur)).map (fun l => (l, s.checkRange g.ctxKey (g.src64 l o.base) (g.src64 l o.len)))
    s.perLane cs (fun s oks => (act s g (s.rangesOf g o (oks.map (·.1))), 0)) State.completeIssue)

def execCflush (o : RangeOp) (s : State) : Host.Outcome State Fault Refusal :=
  finish (s.rangeOp o (fun s _ rs => s.releaseWords s.cur.core (rangeLevel o.scope) (meetsRanges rs)))
def execCinv (o : RangeOp) (s : State) : Host.Outcome State Fault Refusal :=
  finish (s.rangeOp o (fun s g rs => s.acquireWords s.cur.core (rangeLevel o.scope)
    (fun a => meetsRanges rs a && !s.sealedWord g.part a)))

/-! CPREF (08 R331). -/

/-- The pieces of a range within 4 KiB pages. -/
def pagePieces (base len : Nat) : List (Nat × Nat) :=
  if len = 0 then []
  else
    (List.range ((base + len - 1) / 4096 - base / 4096 + 1)).map (fun i =>
      let lo := max base ((base / 4096 + i) * 4096)
      (lo, min (base + len) ((base / 4096 + i + 1) * 4096) - lo))

/-- Fills a physical run into a core's L1, frame by frame. -/
def State.prefetchRun (s : State) (c pa n pc : Nat) (hint : Option Nat) : State :=
  let as_ := (List.range n).map (pa + ·)
  (nubNat (as_.map (· / 256))).foldl
    (fun s f => s.l1Want c f ((as_.filter (fun a => a / 256 == f)).map (· % 256)) pc hint) s

/-- A prefetch of a virtual range: pages that a load could not read at once are skipped. -/
def State.prefetchRange (s : State) (ctx base len : Nat) : State :=
  if 2 ^ 48 < base + len then s
  else
    (pagePieces base (min len 4096)).foldl
      (fun (s : State) x =>
        match s.engineAccess ctx x.1 x.2 .load with
        | .ok pa l =>
          if l.sysp then s else s.prefetchRun s.cur.core pa x.2 s.cur.pc.toNat (blockLength s.cur.hints)
        | _ => s) s

def execCpref (o : CprefOp) (s : State) : Host.Outcome State Fault Refusal :=
  finish (s.issue (useSrc 2 o.len ++ useSrc 2 o.base) (fun g =>
    let s := (lanesOf (g.parts s.cur false)).foldl
      (fun s l => s.prefetchRange g.ctxKey (g.src64 l o.base).toNat (g.src64 l o.len).toNat) s
    s.completeIssue))

/-! PREQ (08 R332; 14 R460). -/

/-- A lane's request for the page of an address: only for a mapped, readable page that is not resident and
no system page. -/
def State.requestPage (s : State) (g : Gang) (va : Nat) : State :=
  if 2 ^ 48 ≤ va then s
  else
    match s.walk g.ctxKey va with
    | .leaf l _ =>
      if l.r && !l.res && !l.sysp then s.fqPost g.part ⟨l.va, g.ctx, s.cur.core, 3, 1, 0, l.va⟩ else s
    | _ => s

/-- A memory error that the walk of a request meets (14 R469). -/
def State.requestError (s : State) (g : Gang) (va : Nat) : Option Nat :=
  if 2 ^ 48 ≤ va then none
  else
    match s.walk g.ctxKey va with
    | .memoryError pa => some pa
    | _ => none

def execPreq (o : PreqOp) (s : State) : Host.Outcome State Fault Refusal :=
  finish (s.issue (useSrc 2 o.a) (fun g =>
    let vas := (lanesOf (g.parts s.cur false)).map (fun l => (g.src64 l o.a).toNat)
    match vas.findSome? (s.requestError g) with
    | some pa => s.gangFault s.cur.core s.cur.slot 5 0 pa g []
    | none => (vas.foldl (fun s va => s.requestPage g va) s).completeIssue))

/-! SEAL and UNSEAL (08 R333 to R335; 03 R149 to R152). -/

/-- A per-issue instruction (08 R304): with no participating lane it does nothing but advance. -/
def State.perIssue (s : State) (regs : List Nat) (k : Gang → LaneMask → State) : State :=
  s.issue regs (fun g =>
    let p := g.parts s.cur false
    if p = 0 then s.completeIssue else k g p)

/-- Writes a status to a scalar and completes. -/
def State.finishScalar (s : State) (d : Nat) (x : DWord) : State :=
  s.onGang (fun g => (g.setSreg d x).advance s.cur)

/-- Whether a range's operands are refused with 0x03. -/
def sealRangeBad (base len : Nat) : Bool :=
  base % 256 != 0 || len % 256 != 0 || decide (len < 256) || decide (2 ^ 40 < len) || decide (2 ^ 48 < base + len)

/-- Writes back and removes words from every cache of the device. -/
def State.scrub (s : State) (p : Nat → Bool) : State :=
  (s.cores.foldl (fun s k => s.l1Remove k.1 p) s).rdcsRemove p

/-- A range that a SEAL names: its context, base and length, and the frames of its resident pages. -/
structure SealRange where
  ctx : Nat              -- partition * 256 + context
  base : Nat
  len : Nat
  frames : List (Nat × Nat)
  deriving DecidableEq, Repr

/-- Whether an object of a context lies in a range that is to be sealed, by its virtual address, on a page that is
there or absent, or by its frame. -/
def State.objMeets (s : State) (ctx : Nat) (o : ObjLoc) (q : SealRange) : Bool :=
  match o with
  | .global va => (ctx == q.ctx && rangesMeet va 8 q.base q.len) ||
      (s.physRanges ctx va 8).any (fun x => q.frames.any (fun r => rangesMeet x.1 x.2 r.1 r.2))
  | .bank _ _ => false

/-- Whether an engine of a core has still to write to a range for a party of its partition: a copy to
global memory, the completion signal of any copy, an operation of the sparse unit. -/
def State.engineWritesOn (s : State) (k : Core) (q : SealRange) : Bool :=
  k.copies.any (fun x => x.2.who.ctx / 256 == q.ctx / 256 &&
    (x.2.form == .store || s.objMeets x.2.who.ctx x.2.obj.loc q ||
      x.2.obj.leaf.any (fun l => q.frames.any (fun r => rangesMeet l.pa l.size r.1 r.2)))) ||
  k.sparse.any (fun x => x.2.who.ctx / 256 == q.ctx / 256)

/-- Whether an engine write to a range by a party of its partition is in flight, on a core or with a spilled context
(03 R150). -/
def State.engineWrites (s : State) (q : SealRange) : Bool :=
  s.cores.any (fun k => s.engineWritesOn k.2 q) || s.spilled.any (fun x => s.engineWritesOn x.items q)

/-- SEAL: 0x03, then 0x02, then 0x01; a valid one waits for the engine writes issued before it. -/
def execSeal (o : SS) (s : State) : Host.Outcome State Fault Refusal :=
  finish (s.perIssue [] (fun g _ =>
    let base := (g.sreg o.a).toNat
    let len := (g.sreg (o.a + 1)).toNat
    match s.part? g.part with
    | none => s
    | some x =>
      if sealRangeBad base len then s.finishScalar o.d 3
      else if x.seals.any (fun y => y.ctx == g.ctx && rangesMeet base len y.base y.len) then s.finishScalar o.d 2
      else if 16 ≤ x.seals.length then s.finishScalar o.d 1
      else if let some pa := s.walkError g.ctxKey base len then s.gangFault s.cur.core s.cur.slot 5 0 pa g []
      else if s.engineWrites ⟨g.ctxKey, base, len, s.physRanges g.ctxKey base len⟩ then s
      else
        let frames := s.physRanges g.ctxKey base len
        let s := s.scrub (meetsRanges frames)
        let s := s.modPart g.part (fun x => { x with seals := x.seals ++ [⟨g.ctx, base, len, frames⟩] })
        s.finishScalar o.d 0))

/-- UNSEAL: 0x03 before 0x04. -/
def execUnseal (o : SS) (s : State) : Host.Outcome State Fault Refusal :=
  finish (s.perIssue [] (fun g _ =>
    let base := (g.sreg o.a).toNat
    let len := (g.sreg (o.a + 1)).toNat
    match s.part? g.part with
    | none => s
    | some x =>
      if sealRangeBad base len then s.finishScalar o.d 3
      else
        match x.seals.find? (fun y => y.ctx == g.ctx && y.base == base && y.len == len) with
        | none => s.finishScalar o.d 4
        | some y =>
          if let some pa := s.walkError g.ctxKey base len then s.gangFault s.cur.core s.cur.slot 5 0 pa g []
          else
          let s := s.scrub (meetsRanges (s.sealRanges g.part y))
          let s := s.modPart g.part (fun x => { x with seals := x.seals.filter (fun z => z != y) })
          s.finishScalar o.d 0))

end Sys2Proof.Machine
end

