-- ==== Sys2Proof/Machine/Barrier.lean ====
section
/-! DEFINITION. Barrier objects, bindings, fences and ownership (spec 08 R336 to R352; 05 R185 to R193, R206;
03 R116 to R121).
-/

namespace Sys2Proof.Machine

/-! Barrier objects (08 R336 to R342). -/

/-- The checks of the lanes of a barrier instruction on their objects. -/
def State.checkObjects (s : State) (g : Gang) (sp : Space) (obj : Src) (kind : AccKind) :
    State × List (Nat × Check) :=
  s.checkLanes (lanesOf (g.todo s.cur))
    (fun s l => s.checkLane g (Space.lane sp) (g.address (Space.lane sp) obj 0 l) 8 kind l)

/-- BSIG: the release once, then each lane's add in ascending order (08 R338). -/
def execBsig (o : BarOp) (s : State) : Host.Outcome State Fault Refusal :=
  finish (s.issue (useSrc 2 o.n ++ useSrc (Space.lane o.space).width o.obj) (fun g =>
    let (s, cs) := s.checkObjects g o.space o.obj .signal
    s.onObjects g (if o.ordered then some o.scope else none) true cs
      (s.perLane cs
        (fun s oks =>
          let s := if o.ordered then s.releaseObjs g (objsOf (oks.map (·.2))) o.scope else s
          let s := oks.foldl
            (fun (s : State) x => (s.rmw s.cur.core 8 x.2 (fun v => v + (g.src64 x.1 o.n).toNat)).1) s
          (s.onGang (fun h => h.addStall 8 (oks.map (·.2))), 0))
        State.completeIssue)))

/-- The values of the objects of some lanes at their homes or banks; the core's copies of their words leave first,
whether or not the read acquires (05 R188, R190, R195). -/
def State.readObjects (s : State) (oks : List (Nat × Place)) : State × List (Nat × Place × Nat) :=
  oks.foldl
    (fun (x : State × List (Nat × Place × Nat)) y =>
      let (s, bs) := x.1.readHomeOf x.1.cur.core 8 y.2
      (s, x.2 ++ [(y.1, y.2, ofBytes bs)]))
    (s, [])

/-- BRD (08 R341). -/
def execBrd (o : BrdOp) (s : State) : Host.Outcome State Fault Refusal :=
  finish (s.issue (useDst 2 o.d ++ useSrc (Space.lane o.space).width o.obj) (fun g =>
    let (s, cs) := s.checkObjects g o.space o.obj .observe
    s.onObjects g (if o.ordered then some o.scope else none) false cs
      (s.perLane cs
        (fun s oks =>
          let (s, xs) := s.readObjects oks
          let s := if o.ordered then s.acquireObjs g (objsOf (oks.map (·.2))) o.scope else s
          (s.onGang (fun h =>
            (xs.foldl (fun h x => h.putResult o.d 2 x.1 (BitVec.ofNat 64 x.2.2) 0) h).addStall 8
              (oks.map (·.2))), 0))
        (fun s => s.completeLoad o.d true))))

/-- One lane of a BWAIT: past it when the object has reached its target, else blocked (08 R339), with the entries
that are bound to the object now: a later BIND or UNBIND does not reach its acquire (05 R185). -/
def Gang.bwaitLane (g : Gang) (is : Issue) (o : BarOp) (limit : Nat) (bound : ObjLoc → List Bind)
    (x : Nat × Place × Nat) : Gang :=
  let l := x.1
  let t := g.src64 l o.n
  if t.toNat ≤ x.2.2 then g.setPcs [l] is.next
  else
    let addr := (g.address (Space.lane o.space) o.obj 0 l).toNat
    let w : BWait := ⟨x.2.1.obj, addr, t, o.ordered, o.scope, is.next, bound x.2.1.obj, false, 0, limit⟩
    (g.modLane l (fun y => { y with wait := some w })).endLaggard x.2.1.obj

/-- The binding entries of an object in the table of the issuing gang's part. -/
def State.boundFor (s : State) (c : Nat) (g : Gang) (o : ObjLoc) : List Bind :=
  match (s.core c).partOf g with
  | some t => (s.core c).boundTo t o
  | none => []

/-- BWAIT (08 R339). A lane that completes is past the instruction whatever the others do; the gang's laggards are
found (01 R37), and a parting by the wait demotes no gang (R340). -/
def execBwait (o : BarOp) (s : State) : Host.Outcome State Fault Refusal :=
  finish (s.issue (useSrc 2 o.n ++ useSrc (Space.lane o.space).width o.obj) (fun g =>
    let (s, cs) := s.checkObjects g o.space o.obj .observe
    let waits := g.parts s.cur false
    let errors (s : State) : List Nat := errorsOf cs ++
      (if o.ordered then (s.objsError g (objsOf ((oksOf cs).map (·.2))) o.scope).toList else [])
    match s.issuer, lightsOf cs, errors s with
    | none, _, _ => s
    | some g, f :: fs, _ => s.putGang (g.setWait s.cur.stream (.light (f :: fs)))
    | some g, [], pa :: _ => s.gangFault s.cur.core s.cur.slot 5 0 pa g []
    | some _, [], [] =>
      let s := (badsOf cs).foldl State.noteBad s
      let (s, xs) := s.readObjects (oksOf cs)
      let met := xs.filter (fun x => decide ((g.src64 x.1 o.n).toNat ≤ x.2.2))
      let s := if o.ordered && !met.isEmpty then s.acquireObjs g (objsOf (met.map (·.2.1))) o.scope else s
      let limit := (s.ctx g.ctxKey).wdog.toNat
      let bound := s.boundFor s.cur.core g
      let s := s.onGang (fun h => (xs.foldl (fun h x => h.bwaitLane s.cur o limit bound x) h).addStall 8
        ((oksOf cs).map (·.2)))
      let s := s.modCore s.cur.core (fun k => k.noteLaggards (s.clockOf s.cur.core) g)
      let slices (h : Gang) : List Nat := slicesOf (h.streamAt s.cur.stream).slices
      match causesOf cs, s.issuer with
      | _, none => s
      | [], some h => s.putGang ((h.setPcs (lanesOf (s.cur.active &&& ~~~waits)) s.cur.next).completeWait s.cur)
      | recs, some h => s.trap (h.reform s.cur.stream (slices h)) recs))

/-! Bindings (08 R343 to R346; 05 R185). -/

/-- How a BIND's operand check ends. -/
inductive BindCheck where
  | ok (loc : ObjLoc)
  | cause (c : Cause) (addr : Nat)
  | memoryError (pa : Nat)
  | noMemory (pa : Nat)
  deriving DecidableEq, Repr

/-- The object of a BIND (08 R344). -/
def State.bindObject (s : State) (g : Gang) (sp : Space) (obj : Nat) : BindCheck :=
  match sp with
  | .global =>
    if 2 ^ 48 ≤ obj then .cause .perm obj
    else
      match s.walk g.ctxKey obj with
      | .leaf l _ => if l.sysp then .cause .perm obj else .ok (.global obj)
      | .perm => .cause .perm obj
      | .memoryError pa => .memoryError pa
      | .noMemory pa => .noMemory pa
  | _ =>
    match s.bankPlace g (sp == .window) obj with
    | some (c, t, off) => .ok (.bank c (t.at_ off))
    | none => .cause .perm obj

/-- The checks of BIND in order (08 R344). -/
def State.checkBind (s : State) (g : Gang) (t : TeamPart) (o : BindOp) : BindCheck :=
  let base := (g.sreg o.s).toNat
  let len := (g.sreg (o.s + 1)).toNat
  let obj := (g.sreg (o.s + 2)).toNat
  if t.binds ≤ o.index then .cause .perm 0
  else if base % 8 ≠ 0 then .cause .align base
  else if len % 8 ≠ 0 then .cause .align len
  else if obj % 8 ≠ 0 then .cause .align obj
  else if len < 8 || 2 ^ 47 < len || 2 ^ 48 < base + len then .cause .perm base
  else s.bindObject g o.space obj

/-- Changes an entry on every core of a team (08 R346). -/
def State.setBinding (s : State) (t : TeamPart) (i : Nat) (f : Nat → Map Bind → Map Bind) : State :=
  t.cores.foldl
    (fun s c => s.modCore c (fun k =>
      match k.teamPart t.launch t.team with
      | some u => { k with binds := f (64 * u.bank + u.bind0 + i) k.binds }
      | none => k)) s

def execBind (o : BindOp) (s : State) : Host.Outcome State Fault Refusal :=
  finish (s.perIssue [] (fun g p =>
    match (s.core s.cur.core).partOf g with
    | none => s
    | some t =>
      match s.checkBind g t o with
      | .cause c a => s.trapAll g p c (BitVec.ofNat 64 a)
      | .memoryError pa => s.gangFault s.cur.core s.cur.slot 5 0 pa g []
      | .noMemory pa => s.noteBad pa
      | .ok loc =>
        let b : Bind := ⟨(g.sreg o.s).toNat, (g.sreg (o.s + 1)).toNat, loc, o.scope⟩
        (s.setBinding t o.index (fun k m => mput m k b)).completeIssue))

/-- UNBIND: an index at or above .bind is PERM; it names no address, and tw.addr is 0 (DEDUCED, log entry 21). -/
def execUnbind (o : UnbindOp) (s : State) : Host.Outcome State Fault Refusal :=
  finish (s.perIssue [] (fun g p =>
    match (s.core s.cur.core).partOf g with
    | none => s
    | some t =>
      if t.binds ≤ o.index then s.trapAll g p .perm 0
      else (s.setBinding t o.index (fun k m => mdel m k)).completeIssue))

/-! Fences (08 R347; 05 R192). -/

/-- FENCE: the release, then the acquire, as its kind says. -/
def execFence (o : FenceOp) (s : State) : Host.Outcome State Fault Refusal :=
  finish (s.perIssue [] (fun g _ =>
    let wide := match (s.core s.cur.core).partOf g with
      | some t => t.wide
      | none => false
    let level := scopeLevel wide o.scope
    if o.kind != .acq && s.mustWait g [] o.scope then s
    else
      let s := if o.kind = .acq then s else s.releaseAllWords s.cur.core level
      let s := if o.kind = .rel then s
        else (s.acquireAllWords s.cur.core level g.part).countReplays s.cur.core s.cur.slot s.cur.next.toNat none
      s.completeIssue))

/-! Ownership (08 R348 to R352). -/

/-- The first granule and the count of a run operand. -/
def runFirst (v : Word) : Nat := bits v.toNat 0 7
/-- See runFirst. -/
def runCount (v : Word) : Nat := bits v.toNat 8 7 + 1

/-- Whether an MMA into a tile, or an ACVT of it, is queued or executing. -/
def Core.tileBusy (k : Core) (tile : Nat) : Bool :=
  k.mx.any (fun x =>
    match x with
    | .mma _ _ _ t _ _ _ _ => t == tile
    | .acvt _ t _ _ _ _ => t == tile)

/-- A tile of a core. -/
def Core.tile (k : Core) (t : Nat) : Tile := mget Tile.reset k.tiles t

/-- Sets the owner of granules of a core. -/
def Core.setOwners (k : Core) (gs : List Nat) (o : Owner) : Core :=
  gs.foldl (fun k g => k.modGranule g (fun x => { x with owner := o })) k

/-- The word of TAKE, and the core after it (08 R350). -/
def Core.take (k : Core) (t : TeamPart) (slot : Nat) (v : Word) (tile : Bool) : Core × Nat :=
  if tile then
    let i := t.tile0 + bits v.toNat 0 2
    match (k.tile i).token with
    | some h => (k, if h = slot then 0 else 2)
    | none =>
      if k.tileBusy i then (k, 1)
      else ({ k with tiles := mput k.tiles i { k.tile i with token := some slot } }, 0)
  else
    let gs := (List.range (runCount v)).map (fun i => t.granule0 + runFirst v + i)
    match findAt (fun g => (k.granule g).owner != .threads && (k.granule g).inflight != 0) gs 0 with
    | some (i, _) => (k, i * 256 + 1)
    | none => (k.setOwners gs .threads, 0)

/-- The word of OWNQ (08 R352). -/
def Core.ownq (k : Core) (t : TeamPart) (slot : Nat) (v : Word) (tile : Bool) : Nat :=
  if tile then
    let i := t.tile0 + bits v.toNat 0 2
    let busy := if k.tileBusy i then 4 else 0
    match (k.tile i).token with
    | none => busy
    | some h => (if h = slot then 1 else 2) + busy + h * 2 ^ 10
  else
    let g := k.granule (t.granule0 + runFirst v)
    g.owner.code + (if g.poison then 4 else 0) + min g.inflight 255 * 256

/-- The cause of an operand that names no granules or no tile of the part (08 R349). -/
def TeamPart.ownCause (t : TeamPart) (v : Word) (tile : Bool) : Option (Cause × Nat) :=
  if tile then (if t.tiles ≤ bits v.toNat 0 2 then some (.own, bits v.toNat 0 2) else none)
  else if t.granules < runFirst v + runCount v then some (.perm, runFirst v * 4096)
  else none

/-- The shape of the ownership instructions: the operand of the lowest participating lane, its range
check, then the act on the part. -/
def State.ownership (s : State) (regs : List Nat) (a : Src) (tile : Bool)
    (k : Gang → LaneMask → TeamPart → Word → State) : State :=
  s.issue regs (fun g =>
    let p := g.parts s.cur false
    match (s.core s.cur.core).partOf g with
    | none => s
    | some t =>
      let v := g.src (lowest p) a
      match (if p = 0 then none else t.ownCause v tile) with
      | some (c, x) => s.trapAll g p c (BitVec.ofNat 64 x)
      | none => k g p t v)

/-- Writes a word to the destination in every participating lane, with the latch entries, and completes. -/
def State.finishVector (s : State) (p : LaneMask) (d : Dst) (x : Nat) : State :=
  s.onGang (fun g => (g.writeVec s.tick s.cur p d false false (fun _ => BitVec.ofNat 64 x)).advance s.cur)

def execTake (o : TakeOp) (s : State) : Host.Outcome State Fault Refusal :=
  finish (s.ownership (useDst 1 o.d ++ useSrc 1 o.a) o.a o.tile (fun g p t v =>
    if p = 0 then s.finishVector p o.d 0
    else
      let r := (s.core s.cur.core).take t g.slot v o.tile
      (s.setCore s.cur.core r.1).finishVector p o.d r.2))

def execOwnq (o : TakeOp) (s : State) : Host.Outcome State Fault Refusal :=
  finish (s.ownership (useDst 1 o.d ++ useSrc 1 o.a) o.a o.tile (fun g p t v =>
    s.finishVector p o.d ((s.core s.cur.core).ownq t g.slot v o.tile)))

/-- GIVE (08 R351): all granules or none; a tile's token only from the gang that holds it. -/
def execGive (o : GiveOp) (s : State) : Host.Outcome State Fault Refusal :=
  let tile := o.target == .tile
  finish (s.ownership (useSrc 1 o.a) o.a tile (fun g p t v =>
    let c := s.cur.core
    let k := s.core c
    if p = 0 then s.completeIssue
    else
      match o.target with
      | .tile =>
        let i := t.tile0 + bits v.toNat 0 2
        if (k.tile i).token = some g.slot then
          (s.setCore c { k with tiles := mput k.tiles i { k.tile i with token := none } }).completeIssue
        else s.trapAll g p .own (BitVec.ofNat 64 (bits v.toNat 0 2))
      | .granules w =>
        let gs := (List.range (runCount v)).map (fun i => t.granule0 + runFirst v + i)
        match gs.find? (fun x => (k.granule x).owner != .threads) with
        | some x => s.trapAll g p .own (BitVec.ofNat 64 ((x - t.granule0) * 4096))
        | none => (s.setCore c (k.setOwners gs w)).completeIssue))

end Sys2Proof.Machine
end

