-- ==== Sys2Proof/Machine/Residue.lean ====
section
/-! DEFINITION. Residue elements, block scales, trailers and accumulator elements (spec 02 R79 to R109).
-/

namespace Sys2Proof.Machine

/-! Residue elements (02 R79 to R82). -/

/-- The integer of an RN8 code; none is NaR. -/
def rn8Read (x : Nat) : Option Int :=
  let e3 := bits x 6 2
  let e7 := bits x 3 3
  let e8 := bits x 0 3
  if e3 = 3 || e7 = 7 then none
  else
    let u := (112 * e3 + 120 * e7 + 105 * e8) % 168
    some (if u < 84 then (u : Int) else (u : Int) - 168)

/-- The integer of an RN12 code; none is NaR. -/
def rn12Read (x : Nat) : Option Int :=
  let e13 := bits x 8 4
  let e15 := bits x 4 4
  let e16 := bits x 0 4
  if e13 > 12 || e15 = 15 then none
  else
    let u := (2640 * e13 + 1456 * e15 + 2145 * e16) % 3120
    some (if u < 1560 then (u : Int) else (u : Int) - 3120)

/-- The RN8 code of an integer, 0xC0 for NaR (02 R80). -/
def rn8Code (n : Option Int) : Nat :=
  match n with
  | none => 0xC0
  | some n =>
    let u := (n % 168).toNat
    u % 3 * 64 + u % 7 * 8 + u % 8

/-- The RN12 code of an integer, 0xF00 for NaR (02 R80). -/
def rn12Code (n : Option Int) : Nat :=
  match n with
  | none => 0xF00
  | some n =>
    let u := (n % 3120).toNat
    u % 13 * 256 + u % 15 * 16 + u % 16

/-- The 12-bit code of element i of a packed run (02 R81). -/
def rn12At (byte : Nat → Nat) (i : Nat) : Nat :=
  let v := byte (3 * (i / 2)) + 256 * byte (3 * (i / 2) + 1) + 65536 * byte (3 * (i / 2) + 2)
  if i % 2 = 0 then v % 4096 else v / 4096

/-- Packs RN12 codes, two in three bytes (02 R81). -/
def rn12Pack : List Nat → List Byte
  | a :: b :: xs => bytesOf 3 (a + 4096 * b) ++ rn12Pack xs
  | [a] => bytesOf 3 a
  | [] => []

/-- The offset of block j of a plane (02 R85). -/
def offsetAt (byte : Nat → Nat) (j : Nat) : Nat :=
  if j % 2 = 0 then byte (j / 2) % 16 else byte (j / 2) / 16

/-- Packs block offsets, two in a byte (02 R85). -/
def offsetPack : List Nat → List Byte
  | a :: b :: xs => BitVec.ofNat 8 (a + 16 * b) :: offsetPack xs
  | [a] => [BitVec.ofNat 8 a]
  | [] => []

/-! CRC-32C (02 R90, 07 R288). -/

/-- Eight steps of the reflected polynomial. -/
def crcBits : Nat → Word → Word
  | 0, c => c
  | n + 1, c => crcBits n (if c.getLsbD 0 then (c >>> 1) ^^^ 0x82F63B78 else c >>> 1)

/-- The running value after one byte. -/
def crcByte (c : Word) (b : Byte) : Word := crcBits 8 (c ^^^ b.setWidth 32)

/-- The running value after bytes. -/
def crcRun (c : Word) (bs : List Byte) : Word := bs.foldl crcByte c

/-- The CRC-32C of bytes. -/
def crc32c (bs : List Byte) : Word := crcRun 0xFFFFFFFF bs ^^^ 0xFFFFFFFF

/-! Quantisation (02 R104) and decoding (02 R105). -/

/-- An exact real number to quantise: NaN, an infinity, or m * 2^e. -/
abbrev QVal := FpVal

/-- The magnitude of a number to quantise against a unit 2^q, RNE: the integer and whether inexact. -/
def quantMag (m : Nat) (e q : Int) : Nat × Bool := roundAt .rne false m e q

/-- Whether the magnitude of x, in units of 2^q, does not exceed nmax. -/
def fitsAt (nmax : Nat) (q : Int) : QVal → Bool
  | .nan _ => true
  | .inf _ => false
  | .fin _ m e => decide ((quantMag m e q).1 ≤ nmax)

/-- The least offset in 0..15 that every value allows, or 15 (02 R104). The rounded quotient of the
largest magnitude is the largest rounded quotient, so the values are tested one by one. -/
def quantOffset (nmax : Nat) (sb : Nat) (xs : List QVal) : Nat :=
  ((List.range 16).find? (fun (o : Nat) => xs.all (fitsAt nmax ((sb : Int) + (o : Int) - 127)))).getD 15

/-- What a value becomes: its integer (none: NaR), whether it saturated, its flags (02 R104). -/
def quantElem (nmax : Nat) (q : Int) : QVal → Option Int × Bool × Flags
  | .nan _ => (none, false, fNV)
  | .inf s => (some (signedMag s nmax), true, fOF ||| fNX)
  | .fin s m e =>
    let (n, inexact) := quantMag m e q
    if nmax < n then (some (signedMag s nmax), true, fOF ||| fNX)
    else (some (signedMag s n), false,
      (if inexact then fNX else 0) ||| (if m != 0 && n == 0 then fUF ||| fNX else 0))

/-- A residue element decoded to INT32 (02 R105). -/
def decodeInt (n : Option Int) : Word × Flags :=
  match n with
  | none => (0x80000000, fNV)
  | some n => (BitVec.ofInt 32 n, 0)

/-- A residue element decoded to FP32 (02 R105). -/
def decodeFp (n : Option Int) (sb o : Nat) : Word × Flags :=
  match n with
  | none => (0x7FC00000, fNV)
  | some n =>
    let (c, fl) := fp32.pack .rne (n < 0) n.natAbs ((sb : Int) + o - 127)
    (BitVec.ofNat 32 c, fl)

/-! Accumulator elements (02 R92 to R99). -/

/-- k of a mode. -/
def accK (a48 : Bool) : Nat := if a48 then 16 else 11

/-- M of a mode. -/
def accM (a48 : Bool) : Nat := 2 ^ (3 * accK a48) - 2 ^ accK a48

/-- A number taken into the range of a mode. -/
def accWrap (a48 : Bool) (c : Int) : Int :=
  let m := accM a48
  let u := (c % (m : Int)).toNat
  if u < m / 2 then (u : Int) else (u : Int) - (m : Int)

/-- The integer of an element's channels, by the Chinese remainder theorem (02 R97). -/
def accRead (a48 : Bool) (e : Elem) : Int :=
  let k := accK a48
  let p := 2 ^ k
  accWrap a48
    (e.c1 * (p * (p + 1)) * 2 ^ (k - 1) + e.c2 * (p * p - 1) * (p - 1)
      + e.c3 * ((p - 1) * p) * (2 ^ (k - 1) + 1) : Nat)

/-- The channels of an integer (02 R96). -/
def accOf (a48 : Bool) (c : Int) : Elem :=
  let p := 2 ^ accK a48
  ⟨false, (c % ((p - 1 : Nat) : Int)).toNat, (c % (p : Int)).toNat, (c % ((p + 1 : Nat) : Int)).toNat⟩

/-- An element with zero channels. -/
def Elem.zero : Elem := ⟨false, 0, 0, 0⟩

/-- An element after an integer is added in each channel (02 R97); the all-ones code of ch1 may stand
for zero (02 R94), which a free value decides. -/
def accAdd (a48 : Bool) (free : Bool) (e : Elem) (s : Int) : Elem :=
  let p := 2 ^ accK a48
  let c1 := (((e.c1 : Int) + s) % ((p - 1 : Nat) : Int)).toNat
  { e with
    c1 := if c1 = 0 && free then p - 1 else c1
    c2 := (((e.c2 : Int) + s) % (p : Int)).toNat
    c3 := (((e.c3 : Int) + s) % ((p + 1 : Nat) : Int)).toNat }

/-- An element multiplied by 2^n in each channel (02 R99); free as for accAdd. -/
def accScale (a48 free : Bool) (e : Elem) (n : Nat) : Elem :=
  let p := 2 ^ accK a48
  let c1 := e.c1 * 2 ^ n % (p - 1)
  { e with
    c1 := if c1 = 0 && free then p - 1 else c1
    c2 := e.c2 * 2 ^ n % p
    c3 := e.c3 * 2 ^ n % (p + 1) }

/-- The 64-bit form of an element (02 R93). A NaR element's channels are not defined (02 R98): three
free numbers fill them. -/
def elemWord (a48 : Bool) (e : Elem) (free : Nat → Nat) : DWord :=
  let k := accK a48
  let p := 2 ^ k
  let c1 := if e.nar then free 0 % p else e.c1
  let c2 := if e.nar then free 1 % p else e.c2
  let c3 := if e.nar then free 2 % (p + 1) else e.c3
  BitVec.ofNat 64 ((if e.nar then 2 ^ 55 else 0) + c1 + c2 * 2 ^ k + c3 * 2 ^ (2 * k))

/-- The element that AST stores (02 R94). -/
def elemOfWord (a48 : Bool) (w : DWord) : Elem :=
  let k := accK a48
  let c1 := bits w.toNat 0 k
  let c2 := bits w.toNat k k
  let c3 := bits w.toNat (2 * k) (k + 1)
  let high := bits w.toNat (3 * k + 1) (63 - 3 * k)
  ⟨decide (c3 > 2 ^ k) || high != 0, c1, c2, c3⟩

/-- The largest 64-bit number. -/
def max64 : Nat := 2 ^ 64 - 1

/-- A saturating 64-bit number. -/
def sat64 (n : Nat) : Nat := min n max64

/-! Trailers (02 R87 to R89). -/

/-- The 16 bytes of a trailer. -/
def trailerBytes (fmt flags maxn satn narn : Nat) (crc : Word) : List Byte :=
  bytesOf 1 fmt ++ bytesOf 1 flags ++ bytesOf 2 maxn ++ bytesOf 2 (min satn 0xFFFF) ++
    bytesOf 2 (min narn 0xFFFF) ++ bytesOf 4 0 ++ bytesOf 4 crc.toNat

/-- FLAGS (02 R89). -/
def trailerFlags (a48 range : Bool) (satn narn : Nat) : Nat :=
  (if a48 then 8 else 0) + (if narn != 0 then 4 else 0) + (if satn != 0 then 2 else 0)
    + (if range then 1 else 0)

/-- FMT of a trailer. -/
def trailerFmt (t : List Byte) : Nat := ofBytes (t.take 1)

/-- MAXN of a trailer. -/
def trailerMaxn (t : List Byte) : Nat := ofBytes ((t.drop 2).take 2)

/-- The CRC field of a trailer. -/
def trailerCrc (t : List Byte) : Nat := ofBytes ((t.drop 12).take 4)

/-- The element bytes of a residue tile. -/
def tileElemBytes (rn8 : Bool) : Nat := if rn8 then 16384 else 24576

/-- The bytes of a quantised tile image (02 R86). -/
def tileBytes (rn8 : Bool) : Nat := tileElemBytes rn8 + 272

end Sys2Proof.Machine
end

