-- ==== Sys2Proof/Machine/CopyEngine.lean ====
section
/-! DEFINITION. The copy engine: issue, landing, hand-on, signal, and deferred faults (spec 09 R353 to R368;
03 R116 to R125; 05 R202 to R207; 14 R450, R456, R460).
-/

namespace Sys2Proof.Machine

/-! Issue checks of the engine instructions (09 R355; 10 R401). -/

/-- A failing check: its cause and its tw.addr. -/
abbrev Fails := List (Cause × Nat)

/-- A check of a table. -/
def failIf (bad : Bool) (c : Cause) (addr : Nat) : Fails := if bad then [(c, addr)] else []

/-- The failing check of highest rank, the first in its table (10 R397, R401). -/
def worst : Fails → Option (Cause × Nat)
  | [] => none
  | x :: xs =>
    match worst xs with
    | some y => if causeCode y.1 < causeCode x.1 then some y else some x
    | none => some x

/-- The barrier object that a descriptor names (09 R365): in a scratchpad or window below .scratch, or on a
mapped, writable page that is no system page. -/
def State.engineObject (s : State) (g : Gang) (osp oaddr : Nat) : BindCheck :=
  match osp with
  | 0 =>
    match s.walk g.ctxKey oaddr with
    | .leaf l _ => if l.sysp || !l.w then .cause .perm oaddr else .ok (.global oaddr)
    | .perm => .cause .perm oaddr
    | .memoryError pa => .memoryError pa
    | .noMemory pa => .noMemory pa
  | 3 => .cause .perm 0
  | n =>
    match s.bankPlace g (n == 2) oaddr with
    | some (c, t, off) => .ok (.bank c (t.at_ off))
    | none => .cause .perm oaddr

/-- The end of an engine instruction's checks: the trap of every participating lane, or the start. -/
def State.afterChecks (s : State) (g : Gang) (p : LaneMask) (fails : Fails) (k : State) : State :=
  match worst fails with
  | some (c, a) => s.trapAll g p c (BitVec.ofNat 64 a)
  | none => k

/-- The checks of an engine instruction with an object. -/
def State.withObject (s : State) (g : Gang) (p : LaneMask) (fails : Fails) (obj : BindCheck)
    (k : ObjLoc → State) : State :=
  match obj with
  | .memoryError pa => s.gangFault s.cur.core s.cur.slot 5 0 pa g []
  | .noMemory pa => s.noteBad pa
  | .cause c a => s.afterChecks g p (fails ++ [(c, a)]) s
  | .ok loc => s.afterChecks g p fails (k loc)

/-- The issuer that an engine operation records: the lowest participating lane (09 R360). -/
def State.issuerOf (s : State) (g : Gang) (p : LaneMask) : Issuer :=
  ⟨s.cur.core, g.slot, lowest p, g.ctxKey, g.launch, g.team, g.arrival⟩

/-- Six descriptor words. -/
def Gang.descriptor (g : Gang) (n : Nat) : List DWord := (List.range 6).map (fun i => g.sreg (n + i))

/-! The copy descriptor (09 R361). -/

def cdTile (dw : List DWord) : Bool := field (dwAt dw 3) 50 50 == 1
def cdHand (dw : List DWord) : Nat := field (dwAt dw 3) 49 48
def cdPitch (dw : List DWord) : Nat := field (dwAt dw 3) 47 32
def cdLoff (dw : List DWord) : Nat := field (dwAt dw 3) 18 0
def cdOsp (dw : List DWord) : Nat := field (dwAt dw 4) 49 48
def cdOaddr (dw : List DWord) : Nat := field (dwAt dw 4) 47 0
def cdHandle (dw : List DWord) : Nat := field (dwAt dw 0) 31 0
def cdSz0 (dw : List DWord) : Nat := field (dwAt dw 0) 47 32
def cdSz1 (dw : List DWord) : Nat := field (dwAt dw 0) 63 48
def cdCoord (dw : List DWord) (i : Nat) : Nat := packed5 (dwAt dw 1) (dwAt dw 2) i
def cdLen (dw : List DWord) : Nat := field (dwAt dw 0) 19 0
def cdWindow (dw : List DWord) : Nat := field (dwAt dw 1) 24 0

/-- The owner to which HAND hands granules. -/
def cdOwner (dw : List DWord) : Owner := if cdHand dw = 2 then .matrixUnit else .threads

/-- Whether the operand words break R354 or R361: bits that must be zero, HAND, OSP, TILE. -/
def cdBad (form : CopyForm) (dw : List DWord) : Bool :=
  field (dwAt dw 2) 63 56 != 0 || field (dwAt dw 3) 63 51 != 0 || field (dwAt dw 3) 31 19 != 0 ||
  field (dwAt dw 4) 63 50 != 0 || cdHand dw == 1 || cdHand dw == 3 || cdOsp dw == 3 ||
  (form != .multicast && dwAt dw 5 != 0) ||
  (form == .window && (field (dwAt dw 0) 63 20 != 0 || field (dwAt dw 1) 63 25 != 0 || dwAt dw 2 != 0 || cdTile dw)) ||
  (form == .cream && (!cdTile dw || cdHand dw != 0 || decide (32 ≤ cdLoff dw)))

/-! What a copy moves (09 R362 to R364). -/

/-- The rows of a copy: global address, local offset and bytes; the length it signals, the bytes of its
local range, and whether the rules of R362 to R364 hold. -/
structure CopyShape where
  rows : List (Nat × Nat × Nat)
  length : Nat
  span : Nat
  ok : Bool
  deriving DecidableEq, Repr

/-- The bytes of n elements of a format. -/
def fmtBytes (fmt n : Nat) : Nat := if fmt = 2 then 3 * n / 2 else n * fmtSize fmt

/-- A box (09 R362). -/
def boxShape (e dw : List DWord) : CopyShape :=
  let n := teRank e
  let co (i : Nat) : Nat := if i < n then cdCoord dw i else 0
  let sz (i : Nat) : Nat := if i = 0 then cdSz0 dw else if i = 1 then cdSz1 dw else 1
  let rb := fmtBytes (teFmt e) (cdSz0 dw)
  let p := if cdPitch dw = 0 then (rb + 15) / 16 * 16 else cdPitch dw * 16
  let empty := cdSz0 dw == 0 || cdSz1 dw == 0
  let inside := (List.range n).all (fun i => decide (co i + sz i ≤ teExt e i))
  let ok := !empty && inside && (n != 1 || cdSz1 dw == 1) && decide (rb ≤ p) &&
    !(teFmt e == 2 && (co 0 % 2 != 0 || cdSz0 dw % 2 != 0))
  { rows := (List.range (cdSz1 dw)).map (fun d =>
      (elemAddr e (fun i => if i = 1 then co 1 + d else co i), cdLoff dw + d * p, rb))
    length := rb * cdSz1 dw
    span := if empty then 0 else (cdSz1 dw - 1) * p + rb
    ok := ok }

/-- A quantised tile (09 R363). A tile of the tensor begins within its extents. -/
def tileShape (e dw : List DWord) : CopyShape :=
  let n := tileBytes (teFmt e == 1)
  let c (i : Nat) : Nat := cdCoord dw i
  let ok := isResidue (teFmt e) && teRank e == 2 && teExt e 0 % 128 == 0 && teExt e 1 % 128 == 0 &&
    c 0 % 128 == 0 && c 1 % 128 == 0 && decide (c 0 < teExt e 0) && decide (c 1 < teExt e 1)
  { rows := [(teBase e + 16 * (c 1 / 128 * teStride e 1 + c 0 / 128 * teStride e 2), cdLoff dw, n)]
    length := n
    span := if isResidue (teFmt e) then n else 0
    ok := ok }

/-- The shape of a copy. -/
def copyShape (form : CopyForm) (e dw : List DWord) : CopyShape :=
  if form = .window then
    let n := cdLen dw
    ⟨[], n, n, n % 16 == 0 && decide (16 ≤ n) && decide (n ≤ 524288)⟩
  else if teClass e ≠ 0 then ⟨[], 0, 0, false⟩
  else if cdTile dw then tileShape e dw
  else boxShape e dw

/-- The granules of a part that a run of its bytes touches. -/
def TeamPart.spanGranules (t : TeamPart) (off n : Nat) : List Nat :=
  ((granulesOf off n).filter (fun g => decide (g < t.granules))).map (t.granule0 + ·)

/-- The first granule of some that an engine does not own. -/
def Core.ownFails (k : Core) (t : TeamPart) (gs : List Nat) (o : Owner) : Fails :=
  match gs.find? (fun g => (k.granule g).owner != o) with
  | some g => [(.own, (g - t.granule0) * 4096)]
  | none => []

/-- The first poisoned granule of some. -/
def Core.poisonFails (k : Core) (t : TeamPart) (gs : List Nat) : Fails :=
  match gs.find? (fun g => (k.granule g).poison) with
  | some g => [(.trailer, (g - t.granule0) * 4096)]
  | none => []

/-- The part of a team on a core. -/
def State.livePart (s : State) (c launch team : Nat) : Option TeamPart :=
  ((s.core c).teamPart launch team).bind (fun t => if t.ended then none else some t)

/-- A run of local bytes that a copy names: its core, part and offset, the owner its granules go to, and
whether the copy reads it. -/
structure CopyRun where
  core : Nat
  part : TeamPart
  off : Nat
  owner : Owner
  source : Bool
  deriving DecidableEq, Repr

/-- The cores that MASK names (09 R361). -/
def maskCores (c : Nat) (dw : List DWord) : List Nat :=
  (below 64 (fun k => (dwAt dw 5).getLsbD k)).map (fun k => c / 64 * 64 + k)

/-- The runs of a copy (09 R364): the destinations first. -/
def State.copyRuns (s : State) (g : Gang) (t : TeamPart) (form : CopyForm) (dw : List DWord) : List CopyRun :=
  let c := s.cur.core
  let o := cdOwner dw
  match form with
  | .load => [⟨c, t, cdLoff dw, o, false⟩]
  | .store => [⟨c, t, cdLoff dw, o, true⟩]
  | .multicast => (maskCores c dw).filterMap (fun k =>
      (s.livePart k g.launch g.team).map (fun u => ⟨k, u, cdLoff dw, o, false⟩))
  | .window =>
    let k := c / 64 * 64 + cdWindow dw / 2 ^ 19
    ((s.livePart k g.launch g.team).map (fun u => CopyRun.mk k u (cdWindow dw % 2 ^ 19) o false)).toList ++
      [⟨c, t, cdLoff dw, .threads, true⟩]
  | .cream => []

/-- The granule checks of a run. -/
def State.runFails (s : State) (span : Nat) (r : CopyRun) : Fails :=
  let gs := r.part.spanGranules r.off span
  (s.core r.core).ownFails r.part gs .copyEngine ++
    (if r.source then (s.core r.core).poisonFails r.part gs else [])

/-- The place of a part's cream slot in its core's cream store (03 R122). -/
def TeamPart.creamAt (t : TeamPart) (i : Nat) : Nat := 32 * t.bank + t.cream0 + i

/-- A cream slot of a core. -/
def Core.creamSlot (k : Core) (i : Nat) : Cream := mget Cream.reset k.cream i

/-- The checks of R365 but for the handle and the object, in the order of its table. -/
def State.copyFails (s : State) (g : Gang) (t : TeamPart) (form : CopyForm) (dw : List DWord)
    (sh : CopyShape) : Fails :=
  let c := s.cur.core
  let loff := cdLoff dw
  let slot := loff % 32
  let missing := (maskCores c dw).any (fun k => (s.livePart k g.launch g.team).isNone)
  let target := s.livePart (c / 64 * 64 + cdWindow dw / 2 ^ 19) g.launch g.team
  let short := match target with
    | some u => decide (u.scratch < cdWindow dw % 2 ^ 19 + sh.span)
    | none => true
  (if form = .cream then
    failIf (decide (slot < t.creams) && ((s.core c).creamSlot (t.creamAt slot)).state == .filling) .own slot
   else (s.copyRuns g t form dw).flatMap (s.runFails sh.span)) ++
  failIf (form != .cream && loff % 16 != 0) .align loff ++
  failIf (form == .window && cdWindow dw % 16 != 0) .align (cdWindow dw) ++
  failIf (cdOaddr dw % 8 != 0) .align (cdOaddr dw) ++
  failIf (cdBad form dw || !sh.ok) .perm 0 ++
  failIf (form != .cream && decide (t.scratch < loff + sh.span)) .perm loff ++
  failIf (form == .multicast && (dwAt dw 5 == 0 || missing)) .perm 0 ++
  failIf (form == .window && short) .perm (cdWindow dw) ++
  failIf (form == .cream && decide (t.creams ≤ slot)) .perm 0

/-- The pieces of a copy's global rows within pages: global address, local offset and bytes. -/
def CopyShape.pieces (sh : CopyShape) : List (Nat × Nat × Nat) :=
  sh.rows.flatMap (fun r => (pagePieces r.1 r.2.2).map (fun x => (x.1, r.2.1 + (x.1 - r.1), x.2)))

/-- The pieces of a copy in flight. -/
def CopyOp.pieces (x : CopyOp) : List (Nat × Nat × Nat) := (copyShape x.form x.entry x.dw).pieces

/-- The access of a form to global memory. -/
def CopyOp.kind (x : CopyOp) : AccKind := if x.form = .store then .store else .load

/-- The translations that an engine makes at once: those of pages that are there and permit the access. -/
def State.translated (s : State) (ctx : Nat) (kind : AccKind) (ps : List (Nat × Nat × Nat)) : List Leaf :=
  ps.filterMap (fun p =>
    if 2 ^ 48 ≤ p.1 then none
    else match s.engineAccess ctx p.1 p.2.2 kind with
      | .ok _ l => some l
      | _ => none)

/-- Writes back the words of a virtual range at the issuing core's L1 and its die's remote-data cache, as
before a copy (05 R204). -/
def State.beforeEngine (s : State) (c ctx : Nat) (ranges : List (Nat × Nat)) : State :=
  s.releaseWords c 2 (meetsRanges (ranges.flatMap (fun r => s.physRanges ctx r.1 (min r.2 (2 ^ 48 - r.1)))))

/-- The service cores set A, and for a write D, for the pieces of an engine operation (14 R450). -/
def State.lightPieces (s : State) (ctx : Nat) (kind : AccKind) (ps : List (Nat × Nat × Nat)) : State :=
  ps.foldl (fun s p => s.engineTouch ctx p.1 kind.w) s

/-- The translations that a copy makes when it issues, if it makes them then (14 R456; log entry 27). -/
def State.earlyHeld (s : State) (ctx : Nat) (kind : AccKind) (ps : List (Nat × Nat × Nat)) : List Leaf :=
  if Config.translatesEarly s.tick then s.translated ctx kind ps else []

/-- The start of a copy that passes its checks (09 R366): the write-back of its source, the snapshot, the
in-flight counts, the cream slot. A granule that is both source and destination is named once, for the destination's
owner, which R364 leaves open (DESIGN CHOICE, log entry 26). -/
def State.startCopy (s : State) (g : Gang) (p : LaneMask) (t : TeamPart) (form : CopyForm) (o : CpyOp)
    (dw e : List DWord) (loc : ObjLoc) : State :=
  let c := s.cur.core
  let sh := copyShape form e dw
  let rs := s.copyRuns g t form dw
  let names := rs.flatMap (fun r => (r.part.spanGranules r.off sh.span).map (fun x => (r.core, x, r.owner)))
  let names := names.foldl
    (fun (ns : List (Nat × Nat × Owner)) n =>
      if ns.any (fun m => m.1 == n.1 && m.2.1 == n.2.1) then ns else ns ++ [n]) []
  let s := if form = .window then s else s.ttTouch c g.ctxKey (handleSlot (cdHandle dw))
  let s := if form = .store || form = .window then s
    else s.beforeEngine c g.ctxKey (sh.rows.map (fun r => (r.1, r.2.2)))
  let s := s.raiseGranules (names.map (fun n => (n.1, n.2.1)))
  let slot := t.creamAt (cdLoff dw % 32)
  let kind : AccKind := if form = .store then .store else .load
  let held := s.earlyHeld g.ctxKey kind sh.pieces
  let s := s.lightPieces g.ctxKey kind (sh.pieces.filter (fun q => held.any (fun l => l.maps g.ctxKey q.1)))
  let x : CopyOp :=
    { form := form, who := s.issuerOf g p, dw := dw, entry := e, handle := cdHandle dw
      obj := ⟨loc, o.scope, none⟩, src := t.at_ (cdLoff dw)
      dsts := (rs.filter (fun r => !r.source)).map (fun r => (r.core, r.part.at_ r.off))
      slot := slot, names := names, landed := false, length := sh.length, span := sh.span
      held := held
      links := [] }
  let s := s.modCore c (fun k =>
    { k with
      copies := match mfree k.copies (16 * t.bank) 16 with
        | some i => mput k.copies i x
        | none => k.copies
      cream := if form = .cream then mput k.cream slot { k.creamSlot slot with state := .filling }
        else k.cream })
  s.completeIssue

/-- The address at which a core's read of a table entry that its fetch cache does not hold meets a memory error (03
R135; 14 R469). -/
def State.entryError (s : State) (c ctx slot : Nat) : Option Nat :=
  if (s.core c).tensorCache.contains (ctx * 4096 + slot) then none else s.badAt true (s.ttAddr ctx slot) 64

/-- What an instruction of the issuing gang does with the table entry of a slot; a memory error there ends the
context (14 R469). -/
def State.onEntry (s : State) (g : Gang) (slot : Nat) (k : State) : State :=
  match s.entryError s.cur.core g.ctxKey slot with
  | some pa => s.gangFault s.cur.core s.cur.slot 5 0 pa g []
  | none => k

/-- The copies of a core whose contexts are on it: those of a saved context take no place (16 R506). -/
def Core.copiesHere (k : Core) : Map CopyOp := k.copies.filter (fun x => !k.hasSaved x.2.who.ctx)

/-- A copy instruction (09 R360, R365, R367): it waits while sixteen copies are in flight. -/
def State.copyIssue (s : State) (form : CopyForm) (o : CpyOp) : State :=
  s.perIssue [] (fun g p =>
    let dw := g.descriptor o.s
    let h := cdHandle dw
    let e := if form = .window then [] else s.ttEntry g.ctxKey (handleSlot h)
    match (s.core s.cur.core).partOf g with
    | none => s
    | some t =>
      if 16 ≤ (s.core s.cur.core).copiesHere.length then s
      else
        let go : State :=
          s.withObject g p (s.copyFails g t form dw (copyShape form e dw))
            (s.engineObject g (cdOsp dw) (cdOaddr dw)) (fun loc => s.startCopy g p t form o dw e loc)
        if form = .window then go
        else
          s.onEntry g (handleSlot h)
            (if s.handleOk g.ctxKey h then go else s.trapAll g p .staleTid (BitVec.ofNat 64 h)))

def execCpy (o : CpyOp) (s : State) : Host.Outcome State Fault Refusal := finish (s.copyIssue .load o)
def execCpys (o : CpyOp) (s : State) : Host.Outcome State Fault Refusal := finish (s.copyIssue .store o)
def execCpym (o : CpyOp) (s : State) : Host.Outcome State Fault Refusal := finish (s.copyIssue .multicast o)
def execCpyw (o : CpyOp) (s : State) : Host.Outcome State Fault Refusal := finish (s.copyIssue .window o)
def execCpyb (o : CpyOp) (s : State) : Host.Outcome State Fault Refusal := finish (s.copyIssue .cream o)

/-! Engine accesses to global memory. -/

/-- An engine's access to a piece: through a translation that it holds, whose bits it has set, or by a
walk (14 R456, R459), whose light fault is served on the way (R450). -/
def State.pieceAccess (s : State) (held : List Leaf) (ctx va n : Nat) (kind : AccKind) : AccResult :=
  if 2 ^ 48 ≤ va then .cause .perm
  else
    match held.find? (fun l => l.maps ctx va) with
    | some l => s.checkLeaf l.lit kind va n
    | none => s.litAccess ctx va n kind

/-- The address of a fault in a piece: for SEAL the first sealed byte (09 R358). -/
def State.faultAddr (s : State) (held : List Leaf) (ctx va n : Nat) (c : Cause) : Nat :=
  if c = .seal then
    match (List.range n).find? (fun i => match s.pieceAccess held ctx (va + i) 1 .store with
        | .cause .seal => true
        | _ => false) with
    | some i => va + i
    | none => va
  else va

/-- What stands in the way of an engine operation's accesses: a fault, a memory error, an address of no
memory, or pages that are not resident. -/
inductive Hindrance where
  | none
  | fault (c : Cause) (addr : Nat)
  | memoryError (pa : Nat)
  | noMemory (pa : Nat)
  | absent (pages : List (Nat × Leaf))
  deriving DecidableEq, Repr

/-- The first hindrance of some pieces; faults come before pages that are not resident. -/
def State.hindrance (s : State) (held : List Leaf) (ctx : Nat) (kind : AccKind)
    (ps : List (Nat × Nat × Nat)) : Hindrance :=
  let rs := ps.map (fun p => (p, s.pieceAccess held ctx p.1 p.2.2 kind))
  let bad := rs.findSome? (fun r => match r.2 with
    | .cause c => some (Hindrance.fault c (s.faultAddr held ctx r.1.1 r.1.2.2 c))
    | .memoryError pa => some (.memoryError pa)
    | .noMemory pa => some (.noMemory pa)
    | _ => Option.none)
  match bad with
  | some h => h
  | Option.none =>
    match rs.filterMap (fun r => match r.2 with
        | .nres l => some (r.1.1, l)
        | _ => Option.none) with
    | [] => .none
    | xs => .absent xs

/-- The requests for pages that an engine operation waits for, at a try that has found others resident (09 R359; 14
R460, R461). -/
def State.requestAbsent (s : State) (c ctx : Nat) (kind : AccKind) (pages : List (Nat × Leaf)) : State :=
  pages.foldl
    (fun s p => s.fqPost (ctx / 256) ⟨p.1, ctx % 256, c, 4, kind.acc, 0, p.2.va⟩)
    (s.fqSettle (ctx / 256) (ctx % 256))

/-- The gang of an issuer, when it is still there. -/
def State.issuerGang (s : State) (who : Issuer) : Option Gang :=
  (s.gang? who.core who.slot).bind (fun g =>
    if g.arrival = who.arrival && g.launch = who.launch then some g else none)

/-- A context fault that an engine operation makes (14 R469; 09 R358). -/
def State.engineFault (s : State) (who : Issuer) (status cause pa : Nat) (ws : List LaneWindow) : State :=
  s.contextFault who.ctx
    { status := status, cause := cause, gang := some (who.core, who.slot, s.issuerSeq who), pa := pa, windows := ws }

/-- The window that a status record gives an ended lane with a deferred fault (16 R495): the cause, marked deferred,
and the faulting address; where the lane would have trapped is open (log entry 28). -/
def State.endedWindow (s : State) (who : Issuer) (c : Cause) (addr : Nat) : LaneWindow :=
  { lane := who.lane, cause := twCause 0 1 true (causeCode c) (causeCode c)
    pc := (Config.freeWord s.tick 2).toNat % 2 ^ 48, addr := BitVec.ofNat 64 addr }

/-- A deferred fault (09 R358), kept for the issuing lane, whose wait in BWAIT ends. -/
def State.deferFault (s : State) (who : Issuer) (c : Cause) (addr : Nat) : State :=
  match s.issuerGang who with
  | some g =>
    let x := g.lane who.lane
    let y : Lane := { x with
      wait := none
      deferred := x.deferred ++ [⟨c, BitVec.ofNat 64 addr⟩] }
    (s.setGang who.core who.slot ((g.setLane who.lane y).rewakeLanes [who.lane])).modCore who.core Core.endWaits
  | none => s

/-- Whether the lane that issued an operation has not ended. -/
def State.laneLives (s : State) (who : Issuer) : Bool :=
  match s.issuerGang who with
  | some g => (g.lane who.lane).live
  | none => false

/-- The end of an engine operation by a deferred fault (09 R358): it leaves, and the issuing lane has the fault. When
the lane has ended it is a context fault, which ends the operation with all of its context's, before its part can
end (16 R494). -/
def State.faultOp (s : State) (who : Issuer) (c : Cause) (addr : Nat) (leave : State → State) : State :=
  if s.laneLives who then (leave s).deferFault who c addr
  else s.engineFault who 3 (causeCode c) 0 [s.endedWindow who c addr]

/-! Landing (09 R366). -/

/-- A write of bytes by an engine at their home (05 R204): the issuing core's L1 and every remote-data cache
lose the words. -/
def State.engineWrite (s : State) (c pa : Nat) (bs : List Byte) : State :=
  let near := meetsRanges [(pa, bs.length)]
  ((s.l1Remove c near).rdcsRemove near).writeHome pa bs

/-- Writes bytes that an engine lands in a core's scratchpad: the granules lose their poison (03 R120). -/
def State.landBytes (s : State) (c off : Nat) (bs : List Byte) : State :=
  s.modCore c (fun k =>
    (granulesOf off bs.length).foldl
      (fun k g => k.modGranule g (fun x => { x with poison := false })) (k.setBytes off bs))

/-- The bytes of a piece as a copy reads them: at the home, or from the link's reply. -/
def State.pieceBytes (s : State) (x : CopyOp) (i : Nat) (p : Nat × Nat × Nat) : List Byte :=
  match mfind? x.links i with
  | some (.held bs) => bs
  | _ =>
    match s.pieceAccess x.held x.who.ctx p.1 p.2.2 .load with
    | .ok pa l => if l.sysp then [] else s.readHome pa p.2.2
    | _ => []

/-- The local bytes of a store or of a window copy's source. -/
def State.localBytes (s : State) (x : CopyOp) (rel n : Nat) : List Byte :=
  (s.core x.who.core).sbytes (x.src + rel) n

/-- Lands one piece that is read from global memory at every destination. -/
def State.landPiece (s : State) (x : CopyOp) (rel : Nat) (bs : List Byte) : State :=
  x.dsts.foldl (fun (s : State) d => s.landBytes d.1 (d.2 + rel) bs) s

/-- Writes one piece to global memory; a system page has had its WRITE (see askLinks). -/
def State.storePiece (s : State) (x : CopyOp) (p : Nat × Nat × Nat) (bs : List Byte) : State :=
  match s.pieceAccess x.held x.who.ctx p.1 p.2.2 .store with
  | .ok pa l => if l.sysp then s else s.engineWrite x.who.core pa bs
  | _ => s

/-- Numbers a list. -/
def numbered (xs : List α) : List (Nat × α) := (List.range xs.length).zip xs

/-- The image of a copy in local order: its pieces joined. -/
def State.image (s : State) (x : CopyOp) : List Byte :=
  (numbered x.pieces).flatMap (fun p => s.pieceBytes x p.1 p.2)

/-- The trailer check of a landed tile (02 R91). -/
def imageOk (fmt : Nat) (img : List Byte) : Bool :=
  let n := tileElemBytes (fmt == 1) + 256
  let t := img.drop n
  trailerFmt t == fmt && trailerCrc t == (crc32c (img.take n)).toNat

/-- The largest of some numbers. -/
def largest (xs : List Nat) : Nat := xs.foldl max 0

/-- The largest offset of a plane of 512 offsets (03 R123). -/
def planeMax (plane : List Byte) : Nat := largest (plane.map (fun b => max (b.toNat % 16) (b.toNat / 16)))

/-- A cream slot with a tile image in column order (03 R123). -/
def creamOf (fmt sb : Nat) (ok : Bool) (img : List Byte) : Cream :=
  let rn8 := fmt == 1
  let line := tileElemBytes rn8 / 128
  let plane := (img.drop (tileElemBytes rn8)).take 256
  { state := if ok then .valid else .poisoned
    rn8 := rn8
    bytes := (List.range 128).foldl
      (fun m j => putBytes (putBytes m (256 * j) ((img.drop (line * j)).take line)) (256 * j + 192)
        ((plane.drop (2 * j)).take 2)) []
    trailer := img.drop (tileElemBytes rn8 + 256)
    maxOff := planeMax plane
    sb := sb }

/-- The moves of a copy, and whether its trailer check passes (09 R366). -/
def State.moveCopy (s : State) (x : CopyOp) : State × Bool :=
  let ps := numbered x.pieces
  let base := cdLoff x.dw
  let tiled := cdTile x.dw && x.form != .store && x.form != .window
  let img := if tiled then s.image x else []
  let ok := !tiled || imageOk (teFmt x.entry) img
  match x.form with
  | .window => (s.landPiece x 0 (s.localBytes x 0 x.length), true)
  | .store =>
    (ps.foldl (fun (s : State) p =>
      s.storePiece x p.2 (s.localBytes x (p.2.2.1 - base) p.2.2.2)) s, true)
  | .cream =>
    (s.modCore x.who.core (fun k =>
      { k with cream := mput k.cream x.slot (creamOf (teFmt x.entry) (teSb x.entry) ok img) }), ok)
  | _ => (ps.foldl (fun (s : State) p => s.landPiece x (p.2.2.1 - base) (s.pieceBytes x p.1 p.2)) s, ok)

/-- The granules with landed bytes of a tile whose check fails are poisoned (03 R120). -/
def State.poisonTile (s : State) (x : CopyOp) : State :=
  x.dsts.foldl
    (fun (s : State) d => s.modCore d.1 (fun k =>
      (granulesOf d.2 x.length).foldl
        (fun k g => k.modGranule g (fun y => { y with poison := true })) k)) s

/-- The object of an engine operation with the translation of its page, which a service core has marked as written (14
R450): what the operation signals through from then on. -/
def State.holdObj (s : State) (ctx : Nat) (o : EngineObj) : State × EngineObj :=
  match o.loc with
  | .global va =>
    match s.litAccess ctx va 8 .signal with
    | .ok _ l => (s.engineTouch ctx va true, { o with leaf := some l.lit })
    | _ => (s, o)
  | .bank _ _ => (s, o)

/-- A copy whose pages are all there lands: its bytes, its granules, and its signal once they are handed. It keeps the
translation of its object, so that no fault ends it any more (05 R205; DEDUCED, log entry 28). -/
def State.landCopy (s : State) (c i : Nat) (x : CopyOp) : State :=
  let s := s.fqSettle (x.who.ctx / 256) (x.who.ctx % 256)
  let s := s.lightPieces x.who.ctx x.kind x.pieces
  let (s, ok) := s.moveCopy x
  let s := if ok || x.form == .cream then s else s.poisonTile x
  let (s, o) := s.holdObj x.who.ctx x.obj
  let s := s.modCore c (fun k =>
    { k with copies := mput k.copies i { x with landed := true, links := [], obj := o } })
  (x.names.foldl State.landGranule s).settleCopies

/-- Whether an MMA that reads a cream slot is queued (03 R125). -/
def Core.creamRead (k : Core) (slot : Nat) : Bool :=
  k.mx.any (fun x => match x with
    | .mma _ _ _ _ _ _ sl _ => sl == slot
    | .acvt .. => false)

/-- A copy's datagram for a piece on a system page, and the translation that it holds from then on (14 R456, R458):
the READ of a source (17 R526, R528), or the WRITE of a destination, which it makes once. -/
def State.askLink1 (s : State) (c i : Nat) (x : CopyOp) (j pa n rel : Nat) (l : Leaf) : State :=
  let note (r : LinkReply) (s : State) : State := s.modCore c (fun k =>
    { k with copies := mmod k.copies i (fun y => { y with
        links := mput y.links j r
        held := if y.held.contains l then y.held else y.held ++ [l] }) })
  if x.kind.w then note (.held []) (s.sysWrite pa (s.localBytes x rel n) 0 (c, 32 + i, j))
  else note (.awaited []) (s.sysRead pa n (c, 32 + i, j))

/-- The datagrams of a copy's pieces on system pages that have not been sent. -/
def State.askLinks (s : State) (c i : Nat) (x : CopyOp) : State :=
  (numbered x.pieces).foldl
    (fun (s : State) p =>
      match s.pieceAccess x.held x.who.ctx p.2.1 p.2.2.2 x.kind with
      | .ok pa l =>
        if l.sysp && (mfind? x.links p.1).isNone then
          s.askLink1 c i x p.1 pa p.2.2.2 (p.2.2.1 - cdLoff x.dw) l
        else s
      | _ => s) s

/-- Whether a copy still waits for the link: for the reply to a READ, or for the acknowledgement of a WRITE, after
which its bytes have landed (05 R205; 09 R368). -/
def State.waitsLink (s : State) (c i : Nat) (x : CopyOp) : Bool :=
  s.copyUnacked c i x || (numbered x.pieces).any (fun p =>
    match s.pieceAccess x.held x.who.ctx p.2.1 p.2.2.2 x.kind with
    | .ok _ l => l.sysp && (match mfind? x.links p.1 with
      | some (.held _) => false
      | _ => true)
    | _ => false)

/-- What stands in the way of an engine operation's completion signal (09 R358, R359; 14 R469). -/
def State.objHindrance (s : State) (c : Nat) (who : Issuer) (o : EngineObj) : Hindrance :=
  match s.signalError c who o, o.loc with
  | some pa, _ => .memoryError pa
  | none, .global va => s.hindrance o.leaf.toList who.ctx .signal [(va, 0, 8)]
  | none, .bank _ _ => .none

/-- The aperture address of a piece on a system page whose connection is not open (17 R528). -/
def State.closedPiece (s : State) (x : CopyOp) : Option Nat :=
  x.pieces.findSome? (fun p => match s.pieceAccess x.held x.who.ctx p.1 p.2.2 x.kind with
    | .ok pa l => if l.sysp && !s.connOpen (apertureConn pa) then some pa else none
    | _ => none)

/-- An engine operation that its hindrance holds up: a fault is left to DEFERRED_FAULT, a memory error ends the
context (14 R469), an absent page is requested. -/
def State.opHeld (s : State) (c : Nat) (who : Issuer) (kind : AccKind) (h : Hindrance)
    (go : Unit → State) : State :=
  match h with
  | .fault _ _ => s
  | .memoryError pa => s.engineFault who 5 0 pa []
  | .noMemory pa => s.noteBad pa
  | .absent ps => s.requestAbsent c who.ctx kind ps
  | .none => go ()

/-- COPY_COMPLETE (09 R359, R366, R367): a copy lands when its pages and its object's page are there, no queued MMA
reads its slot and no fault ends it: a copy that faults hands on no granule (05 R205). A landed copy signals once its
granules are handed. -/
def State.copyComplete (s : State) (c i : Nat) : State :=
  match mfind? (s.core c).copies i with
  | none => s
  | some x =>
    if !s.engineRuns c x.who.ctx then s
    else if x.landed then
      s.opHeld c x.who .signal (s.objHindrance c x.who x.obj) (fun _ => s.settleCopies)
    else if x.form = .cream && (s.core c).creamRead x.slot then s
    else
      match s.closedPiece x with
      | some pa => s.engineFault x.who 5 0 pa []
      | none =>
        s.opHeld c x.who x.kind (s.hindrance x.held x.who.ctx x.kind x.pieces) (fun _ =>
          s.opHeld c x.who .signal (s.objHindrance c x.who x.obj) (fun _ =>
            if s.waitsLink c i x then s.askLinks c i x else s.landCopy c i x))

def execCopyComplete (core index : Nat) (s : State) : Host.Outcome State Fault Refusal :=
  finish (s.copyComplete core index)

/-! Deferred faults of copies (09 R358). -/

/-- The bytes that a copy had moved when a fault ends it: any of those whose pages permit them; the pages of those that
it read or wrote are marked (14 R450). What it had sent to a system page stays sent. -/
def State.partCopy (s : State) (x : CopyOp) : State :=
  let base := cdLoff x.dw
  (numbered x.pieces).foldl
    (fun (s : State) p =>
      match s.pieceAccess x.held x.who.ctx p.2.1 p.2.2.2 x.kind with
      | .ok _ l =>
        let rel := p.2.2.1 - base
        let had := (List.range p.2.2.2).filter (fun j => Config.hadWritten s.tick (rel + j))
        if l.sysp || had.isEmpty then s
        else
          let s := s.engineTouch x.who.ctx p.2.1 x.kind.w
          if x.form = .store then
            had.foldl (fun (s : State) j =>
              s.storePiece x (p.2.1 + j, p.2.2.1 + j, 1) (s.localBytes x (rel + j) 1)) s
          else if x.form = .cream then s
          else
            let bs := s.pieceBytes x p.1 p.2
            had.foldl (fun (s : State) j => s.landPiece x (rel + j) [bs.getD j 0]) s
      | _ => s) s

/-- The deferred fault of a copy: in its pages or in its object's page (09 R358). A copy that has landed meets none. -/
def State.copyDeferred (s : State) (c i : Nat) : State :=
  match mfind? (s.core c).copies i with
  | none => s
  | some x =>
    if !s.engineRuns c x.who.ctx || x.landed then s
    else
      match s.hindrance x.held x.who.ctx x.kind x.pieces, s.objHindrance c x.who x.obj with
      | .fault cause a, _ => (s.partCopy x).faultOp x.who cause a (fun t => t.failCopy c i)
      | .none, .fault cause a => (s.partCopy x).faultOp x.who cause a (fun t => t.failCopy c i)
      | _, _ => s

end Sys2Proof.Machine
end

