-- ==== Sys2Proof/Machine/Matrix.lean ====
section
/-! DEFINITION. The matrix unit: leases, MMA and MMAZ, MACQ, ACVT, ALD and AST (spec 09 R369 to R378; 02 R86
to R109; 03 R121 to R126).
-/

namespace Sys2Proof.Machine

/-! Leases (09 R369, R370). -/

/-- Changes the lease of a core. -/
def Core.modLease (k : Core) (f : Lease → Lease) : Core := { k with lease := f k.lease }

/-- The lease ends. -/
def Lease.finish (le : Lease) : Lease :=
  match le.holder with
  | some h => { le with holder := none, remaining := 0, last := h }
  | none => le

/-- Whether a gang beside the holder requests. -/
def Lease.contested (le : Lease) : Bool := le.requests.any (fun r => some r.1 != le.holder)

/-- MLEASE of a slot (09 R369). -/
def Lease.ask (le : Lease) (slot count : Nat) : Lease :=
  if le.holder = some slot then
    if le.contested then { le.finish with requests := mput le.requests slot count }
    else { le with remaining := count }
  else { le with requests := mput le.requests slot count }

def execMlease (o : MleaseOp) (s : State) : Host.Outcome State Fault Refusal :=
  finish (s.perIssue [] (fun g _ =>
    (s.modCore s.cur.core (fun k => k.modLease (fun le => le.ask g.slot o.count))).completeIssue))

def execMrel (s : State) : Host.Outcome State Fault Refusal :=
  finish (s.perIssue [] (fun g _ => (s.modCore s.cur.core (fun k => k.mrel g.slot)).completeIssue))

/-- The slot that the arbiter grants: the lowest above the last holder's, wrapping (09 R370). -/
def Lease.next (le : Lease) : Option Nat :=
  match (le.requests.filter (fun r => decide (le.last < r.1))).head? with
  | some r => some r.1
  | none => le.requests.head?.map (·.1)

/-- A grant. The idle cycles of R369 count from it until the first MMA. -/
def Lease.grant (le : Lease) (now : Nat) : Lease :=
  match le.holder, le.next with
  | none, some slot =>
    { le with
      holder := some slot
      remaining := mget 0 le.requests slot
      requests := mdel le.requests slot
      lastMma := now }
  | _, _ => le

/-- Whether leases may be granted on a core: its partition is neither stopping nor frozen (16 R498). -/
def State.leasesRun (s : State) (c : Nat) : Bool :=
  match s.partOfCluster (clusterOfCore c) with
  | some (_, p) => !p.frz && !p.stop
  | none => false

def execMatrixLeaseGrant (core : Nat) (s : State) : Host.Outcome State Fault Refusal :=
  finish (if s.leasesRun core then s.modCore core (fun k => k.modLease (fun le => le.grant (s.clockOf core))) else s)

/-- A lease without an MMA for 2,048 cycles ends when another gang requests (09 R369). -/
def Lease.idleEnd (le : Lease) (now : Nat) : Lease :=
  if le.holder.isSome && le.contested && decide (le.lastMma + 2048 ≤ now) then le.finish else le

def execLeaseIdleEnd (core : Nat) (s : State) : Host.Outcome State Fault Refusal :=
  finish (s.modCore core (fun k => k.modLease (fun le => le.idleEnd (s.clockOf core))))

/-! MMA and MMAZ at issue (09 R371 to R373). -/

def maOff (w : DWord) : Nat := field w 18 0
def maSba (w : DWord) : Nat := field w 39 32
def maFa (w : DWord) : Bool := field w 40 40 == 1

/-- The granules of an A image or of a conversion's result. -/
def State.imageFails (k : Core) (t : TeamPart) (off n : Nat) : Fails :=
  k.ownFails t (t.spanGranules off n) .matrixUnit

/-- The first TRAILER of an MMA in the order of 10 R401: a poisoned granule, a poisoned slot, the A
image's FMT. -/
def mmaTrailer (k : Core) (t : TeamPart) (off : Nat) (fa : Bool) (slot : Nat) : Fails :=
  let n := tileBytes fa
  let fmtAt := t.at_ off + tileElemBytes fa + 256
  (k.poisonFails t (t.spanGranules off n) ++
    failIf (decide (slot < t.creams) && (k.creamSlot (t.creamAt slot)).state == .poisoned) .trailer slot ++
    failIf (decide (off + n ≤ t.scratch) && k.sbyte fmtAt != (if fa then 1 else 2)) .trailer off).take 1

/-- The checks of R372 but for CONV, in the order of its table. -/
def mmaFails (k : Core) (t : TeamPart) (o : MmaOp) (w : DWord) : Fails :=
  let off := maOff w
  let n := tileBytes (maFa w)
  failIf (decide (t.tiles ≤ o.tile) || (k.tile (t.tile0 + o.tile)).token.isSome) .own o.tile ++
  State.imageFails k t off n ++
  failIf (decide (o.slot < t.creams) && (k.creamSlot (t.creamAt o.slot)).state == .filling) .own o.slot ++
  failIf (off % 16 != 0) .align off ++
  failIf (field w 31 19 != 0 || field w 63 41 != 0 || maSba w == 255) .perm 0 ++
  failIf (decide (t.scratch < off + n)) .perm off ++
  failIf (decide (t.creams ≤ o.slot)) .perm 0 ++
  mmaTrailer k t off (maFa w) o.slot

/-- The holder's lease after one more MMA. -/
def Lease.useOne (le : Lease) (now : Nat) : Lease :=
  let le := { le with remaining := le.remaining - 1, lastMma := now }
  if le.remaining = 0 then le.finish else le

/-- An MMA that passes its checks: it waits for its lease and for a place in the queue. -/
def State.mmaQueue (s : State) (g : Gang) (t : TeamPart) (a48 reset : Bool) (o : MmaOp) (w : DWord) : State :=
  let c := s.cur.core
  let k := s.core c
  if k.lease.holder = some g.slot then
    if 4 ≤ k.mxHere.length then s
    else
      let op : MxOp := .mma a48 reset (maFa w) (t.tile0 + o.tile) (t.at_ (maOff w)) (maSba w)
        (t.creamAt o.slot) (s.issuerOf g s.cur.active)
      let s := s.modCore c (fun k =>
        { k.modLease (fun le => le.useOne (s.clockOf c)) with mx := k.mx ++ [op] })
      (s.raiseGranules ((t.spanGranules (maOff w) (tileBytes (maFa w))).map (fun x => (c, x)))).completeIssue
  else if (mfind? k.lease.requests g.slot).isSome then s
  else s.modCore c (fun k => k.modLease (fun le => le.ask g.slot 8))

/-- MMA and MMAZ: collective (09 R371). -/
def State.mma (s : State) (a48 reset : Bool) (o : MmaOp) : State :=
  s.issue [] (fun g =>
    match (s.core s.cur.core).partOf g with
    | none => s
    | some t =>
      if !(g.fullyGanged && s.cur.active == BitVec.allOnes 32) then s.trapAll g s.cur.active .conv 0
      else
        let w := g.sreg o.a
        s.afterChecks g s.cur.active (mmaFails (s.core s.cur.core) t o w) (s.mmaQueue g t a48 reset o w))

def execMmaA33 (o : MmaOp) (s : State) : Host.Outcome State Fault Refusal := finish (s.mma false false o)
def execMmaA48 (o : MmaOp) (s : State) : Host.Outcome State Fault Refusal := finish (s.mma true false o)
def execMmazA33 (o : MmaOp) (s : State) : Host.Outcome State Fault Refusal := finish (s.mma false true o)
def execMmazA48 (o : MmaOp) (s : State) : Host.Outcome State Fault Refusal := finish (s.mma true true o)

/-! Executing an MMA (02 R96 to R102; 09 R373). -/

/-- The 128 lines of a residue operand: each element times 2 to its block's offset, none for NaR. elem
reads a code by line and position, off an offset by line and block. -/
def residueLines (rn8 : Bool) (elem off : Nat → Nat → Nat) : List (List (Option Int)) :=
  (List.range 128).map (fun i => (List.range 128).map (fun k =>
    (if rn8 then rn8Read (elem i k) else rn12Read (elem i k)).map (fun n => n * 2 ^ off i (k / 32))))

/-- The byte of an A image in a core's scratchpad. -/
def Core.imageByte (k : Core) (base n : Nat) : Nat := (k.sbyte (base + n)).toNat

/-- The lines of an A image (02 R85, R86). -/
def Core.aLines (k : Core) (rn8 : Bool) (base : Nat) : List (List (Option Int)) :=
  let byte := k.imageByte base
  residueLines rn8
    (fun i p => if rn8 then byte (128 * i + p) else rn12At (fun n => byte (192 * i + n)) p)
    (fun i b => offsetAt (fun n => byte (tileElemBytes rn8 + n)) (4 * i + b))

/-- The lines of a B tile: the columns of a cream slot (03 R123). -/
def Cream.lines (x : Cream) : List (List (Option Int)) :=
  let byte (j n : Nat) : Nat := (mget 0 x.bytes (256 * j + n)).toNat
  residueLines x.rn8
    (fun j p => if x.rn8 then byte j p else rn12At (byte j) p)
    (fun j b => offsetAt (fun n => byte j (192 + n)) b)

/-- The sum of the products of two lines. -/
def dotLines : List (Option Int) → List (Option Int) → Int
  | x :: xs, y :: ys => x.getD 0 * y.getD 0 + dotLines xs ys
  | _, _ => 0

/-- Whether a line holds a NaR. -/
def lineNar (xs : List (Option Int)) : Bool := xs.any (·.isNone)

/-- Sets the uncertain bit when the budget has reached M/2 (02 R102). -/
def Tile.judge (t : Tile) : Tile :=
  { t with uncertain := t.uncertain || decide (accM t.a48 / 2 ≤ t.budget) }

/-- Changes every element of a tile that is not zero. -/
def Tile.mapElems (t : Tile) (f : Nat → Elem → Elem) : Tile :=
  { t with elems := (mmapVals f t.elems).filter (fun p => p.2 != Elem.zero) }

/-- The mode change of the alignment pass (02 R99). -/
def Tile.toMode (t : Tile) (a48 : Bool) : Tile :=
  if t.a48 = a48 then t
  else { t.mapElems (fun _ e => { accOf a48 (accRead t.a48 e) with nar := e.nar }) with a48 := a48 }

/-- The scale change of the alignment pass (02 R99): a lower unit multiplies the elements and the budget. -/
def Tile.toScale (t : Tile) (y : Int) : Tile :=
  if y < t.x then
    let n := (t.x - y).toNat
    { t.mapElems (fun i e => accScale t.a48 (Config.zeroCode i (accWrap t.a48 (accRead t.a48 e * 2 ^ n))) e n) with
      x := y
      budget := sat64 (t.budget * 2 ^ n) }
  else t

/-- The tile that an MMA accumulates into: reset by MMAZ, else aligned (02 R99). -/
def Tile.aligned (t : Tile) (a48 reset : Bool) (y : Int) : Tile :=
  if reset then { t with elems := [], a48 := a48, x := y, budget := 0, uncertain := false }
  else ((t.toMode a48).toScale y).judge

/-- The element at a place after an MMA (02 R97, R98): a NaR line marks it; the factor 2^d scales the
products. -/
def accStep (a48 : Bool) (n d : Nat) (e : Elem) (nar : Bool) (sum : Int) : Elem :=
  if nar then { e with nar := true }
  else if e.nar then e
  else accAdd a48 (Config.zeroCode n (accWrap a48 (accRead a48 e + sum * 2 ^ d))) e (sum * 2 ^ d)

/-- The elements of a tile after products of two operands. -/
def Tile.accumulate (t : Tile) (d : Nat) (a b : List (List (Option Int))) : Tile :=
  let row (i : Nat) (x : List (Option Int)) : List (Nat × Elem) :=
    (numbered b).map (fun y =>
      let n := 128 * i + y.1
      (n, accStep t.a48 n d (mget Elem.zero t.elems n)
        (lineNar x || lineNar y.2) (dotLines x y.2)))
  { t with elems := ((numbered a).flatMap (fun x => row x.1 x.2)).filter (fun p => p.2 != Elem.zero) }

/-- The range budget after an MMA (02 R101). -/
def Tile.addBudget (t : Tile) (maxA maxB oA oB d : Nat) : Tile :=
  ({ t with budget := sat64 (t.budget + 128 * maxA * maxB * 2 ^ (oA + oB) * 2 ^ d) } : Tile).judge

/-- A tile after an MMA of an A image and a cream slot. -/
def Core.mmaTile (k : Core) (t : Tile) (a48 reset fa : Bool) (off sba slot : Nat) : Tile :=
  let b := k.creamSlot slot
  let y : Int := (sba : Int) + b.sb - 254
  let t := t.aligned a48 reset y
  let d := (y - t.x).toNat
  let plane := k.sbytes (off + tileElemBytes fa) 256
  let trailer := k.sbytes (off + tileElemBytes fa + 256) 16
  (t.accumulate d (k.aLines fa off) b.lines).addBudget (trailerMaxn trailer) (trailerMaxn b.trailer)
    (planeMax plane) b.maxOff d

/-- The head of the matrix unit's queue leaves: its granules' counts fall and its part may end. -/
def State.mxDone (s : State) (c off n : Nat) : State :=
  let s := s.modCore c (fun k => { k with mx := k.mx.eraseP (fun x => !k.hasSaved (MxOp.ctx x)) })
  (s.lowerGranules ((granulesOf off n).map (fun g => (c, g)))).checkPartsOf c

/-- MMA_EXECUTE (09 R373). -/
def State.mmaExecute (s : State) (c : Nat) : State :=
  match (s.core c).mxHere with
  | .mma a48 reset fa tile off sba slot who :: _ =>
    if !s.engineRuns c who.ctx then s
    else
      let s := s.modCore c (fun k =>
        { k with tiles := mput k.tiles tile (k.mmaTile (k.tile tile) a48 reset fa off sba slot) })
      s.mxDone c off (tileBytes fa)
  | _ => s

def execMmaExecute (core : Nat) (s : State) : Host.Outcome State Fault Refusal := finish (s.mmaExecute core)

/-! MACQ (09 R375). -/

/-- Whether an MMA into a tile is queued. -/
def Core.tileMma (k : Core) (tile : Nat) : Bool :=
  k.mx.any (fun x => match x with
    | .mma _ _ _ t _ _ _ _ => t == tile
    | .acvt .. => false)

/-- The MMAs and ACVTs of a tile that are queued. -/
def Core.tilePending (k : Core) (tile : Nat) : Nat :=
  (k.mx.filter (fun x => match x with
    | .mma _ _ _ t _ _ _ _ => t == tile
    | .acvt _ t _ _ _ _ => t == tile)).length

/-- The items of MACQ. -/
def Core.macqItem (k : Core) (tile item : Nat) : DWord :=
  let t := k.tile tile
  match item with
  | 0 => BitVec.ofNat 64
      ((if t.uncertain then 2 ^ 31 else 0) + (if t.a48 then 2 ^ 16 else 0) + (t.x % 1024).toNat)
  | 1 => BitVec.ofNat 64 t.budget
  | _ => BitVec.ofNat 64 (k.tilePending tile % 256)

def execMacq (o : MacqOp) (s : State) : Host.Outcome State Fault Refusal :=
  finish (s.perIssue [] (fun g p =>
    let k := s.core s.cur.core
    match k.partOf g with
    | none => s
    | some t =>
      let tile := t.tile0 + o.tile
      if t.tiles ≤ o.tile then s.trapAll g p .own (BitVec.ofNat 64 o.tile)
      else if o.item < 2 && k.tileBusy tile then s
      else s.finishScalar o.d (k.macqItem tile o.item)))

/-! ACVT (09 R376, R377; 02 R106 to R109). -/

def acSbn (w : DWord) : Nat := field w 39 32
def acShift (w : DWord) : Nat := field w 29 24
def acDoff (w : DWord) : Nat := field w 18 0

/-- The result bytes of a target, its trailer among them. -/
def AcvtTarget.bytes : AcvtTarget → Nat
  | .i32 => 65552
  | .f32 => 65552
  | .bf16 => 32784
  | .rn12 => 24848

/-- The checks of R377, in the order of its table. -/
def acvtFails (k : Core) (t : TeamPart) (rtrap : Bool) (o : AcvtOp) (w : DWord) : Fails :=
  let n := AcvtTarget.bytes o.target
  let tile := k.tile (t.tile0 + o.tile)
  failIf (decide (t.tiles ≤ o.tile) || tile.token.isSome) .own o.tile ++
  State.imageFails k t (acDoff w) n ++
  failIf (acDoff w % 16 != 0) .align (acDoff w) ++
  failIf (field w 63 40 != 0 || field w 31 30 != 0 || field w 23 19 != 0 ||
    (o.target == .rn12 && acSbn w == 255)) .perm 0 ++
  failIf (decide (t.scratch < acDoff w + n)) .perm (acDoff w) ++
  failIf (decide (o.tile < t.tiles) && tile.uncertain && rtrap) .arange o.tile

/-- ACVT waits for the MMAs into its tile, makes its checks, waits for a place in the queue. -/
def execAcvt (o : AcvtOp) (s : State) : Host.Outcome State Fault Refusal :=
  finish (s.perIssue [] (fun g p =>
    let c := s.cur.core
    let k := s.core c
    match k.partOf g with
    | none => s
    | some t =>
      let w := g.sreg o.s
      if decide (o.tile < t.tiles) && k.tileMma (t.tile0 + o.tile) then s
      else
        s.afterChecks g p (acvtFails k t (s.ctx g.ctxKey).rtrap o w)
          (if 4 ≤ k.mxHere.length then s
           else
            let off := t.at_ (acDoff w)
            let op : MxOp := .acvt o.target (t.tile0 + o.tile) off (acShift w) (acSbn w) (s.issuerOf g p)
            let s := s.modCore c (fun k => { k with mx := k.mx ++ [op] })
            (s.raiseGranules ((granulesOf off (AcvtTarget.bytes o.target)).map (fun x => (c, x)))).completeIssue)))

/-- A conversion's element bytes with what its trailer and flags say: MAXN before its limit, SATN, NARN. -/
structure Converted where
  bytes : List Byte
  maxn : Nat
  satn : Nat
  narn : Nat
  flags : Flags
  deriving DecidableEq, Repr

/-- Conversions joined in order. -/
def Converted.join (a b : Converted) : Converted :=
  ⟨a.bytes ++ b.bytes, max a.maxn b.maxn, a.satn + b.satn, a.narn + b.narn, a.flags ||| b.flags⟩

/-- No element. -/
def Converted.empty : Converted := ⟨[], 0, 0, 0, 0⟩

/-- One element to INT32 (02 R106). DESIGN CHOICE (assumption log 76): the result of a NaR element does not
count in MAXN, which R87 says for the residue formats only. -/
def acvtInt (shift : Nat) (c : Option Int) : Converted :=
  match c with
  | none => ⟨bytesOf 4 0x80000000, 0, 0, 1, fNV⟩
  | some c =>
    let h : Int := if shift = 0 then 0 else 2 ^ (shift - 1)
    let y := (c + h) / 2 ^ shift
    let z := max (-(2 ^ 31 : Int)) (min (2 ^ 31 - 1) y)
    ⟨bytesOf 4 (BitVec.ofInt 32 z).toNat, z.natAbs, if z = y then 0 else 1, 0, if z = y then 0 else fOF⟩

/-- One element to FP32 or BF16 (02 R107). -/
def acvtFp (f : FpFmt) (n : Nat) (x : Int) (c : Option Int) : Converted :=
  match c with
  | none => ⟨bytesOf n f.qnan, 0, 0, 1, fNV⟩
  | some c =>
    let (r, fl) := f.pack .rne (c < 0) c.natAbs x
    ⟨bytesOf n r, 0, if r == f.inf false || r == f.inf true then 1 else 0, 0, fl⟩

/-- One block of 32 elements to RN12 (02 R108): its codes and its offset. -/
def acvtBlock (x : Int) (sbn : Nat) (cs : List (Option Int)) : Converted × List Nat × Nat :=
  let val (c : Option Int) : QVal :=
    match c with
    | none => .nan false
    | some c => .fin (c < 0) c.natAbs x
  let o := quantOffset 1559 sbn (cs.map val)
  let rs := cs.map (fun c => quantElem 1559 ((sbn : Int) + o - 127) (val c))
  (rs.foldl
    (fun a r => a.join ⟨[], (r.1.getD 0).natAbs, if r.2.1 then 1 else 0, if r.1.isNone then 1 else 0, r.2.2⟩)
    Converted.empty,
   rs.map (fun r => rn12Code r.1), o)

/-- The integers of a tile's elements in order; none for NaR. -/
def Tile.values (t : Tile) : List (Option Int) :=
  (List.range 16384).map (fun n =>
    let e := mget Elem.zero t.elems n
    if e.nar then none else some (accRead t.a48 e))

/-- The element bytes, and for RN12 the plane, of a conversion. -/
def Tile.convert (t : Tile) (target : AcvtTarget) (shift sbn : Nat) : Converted :=
  match target with
  | .i32 => (t.values.map (acvtInt shift)).foldl Converted.join Converted.empty
  | .f32 => (t.values.map (acvtFp fp32 4 t.x)).foldl Converted.join Converted.empty
  | .bf16 => (t.values.map (acvtFp bf16 2 t.x)).foldl Converted.join Converted.empty
  | .rn12 =>
    let bs := (chunksAux 32 512 t.values).map (acvtBlock t.x sbn)
    let r := (bs.map (·.1)).foldl Converted.join Converted.empty
    { r with bytes := rn12Pack (bs.flatMap (fun b => b.2.1)) ++ offsetPack (bs.map (fun b => b.2.2)) }

/-- The trailer code of a target (02 R88). -/
def AcvtTarget.fmt : AcvtTarget → Nat
  | .i32 => 0x10
  | .f32 => 0x11
  | .bf16 => 0x12
  | .rn12 => 0x02

/-- A conversion's whole result: the elements and their trailer (02 R109). -/
def Tile.result (t : Tile) (target : AcvtTarget) (shift sbn : Nat) : List Byte × Flags :=
  let r := t.convert target shift sbn
  (r.bytes ++ trailerBytes (AcvtTarget.fmt target) (trailerFlags t.a48 t.uncertain r.satn r.narn)
    (min r.maxn 0xFFFF) r.satn r.narn (crc32c r.bytes), r.flags)

/-- ACVT_EXECUTE (09 R377): the result, and the flags of the gang that issued it. -/
def State.acvtExecute (s : State) (c : Nat) : State :=
  match (s.core c).mxHere with
  | .acvt target tile off shift sbn who :: _ =>
    if !s.engineRuns c who.ctx then s
    else
      let r := ((s.core c).tile tile).result target shift sbn
      let s := s.modCore c (fun k => k.setBytes off r.1)
      let s := match s.issuerGang who with
        | some g => s.setGang who.core who.slot (g.orFlags r.2)
        | none => s
      s.mxDone c off (AcvtTarget.bytes target)
  | _ => s

def execAcvtExecute (core : Nat) (s : State) : Host.Outcome State Fault Refusal := finish (s.acvtExecute core)

/-! ALD and AST (09 R378). -/

/-- The tw.addr of a cause for which 10 R401 states none, by lane: a free value. -/
def State.freeAddr (s : State) (l : Nat) : DWord := Config.freeWord s.tick (64 + l)

/-- The checks of a lane of ALD or AST; a place stands for the element by its index. -/
def tileCheck (k : Core) (t : TeamPart) (slot tile i : Nat) (free : DWord) : Check :=
  if t.tiles ≤ tile || (k.tile (t.tile0 + tile)).token ≠ some slot then .cause .own (BitVec.ofNat 64 tile) none
  else if 16384 ≤ i then .cause .perm free none
  else .ok (.bank 0 i)

/-- The shape of ALD and AST. -/
def State.tileLanes (s : State) (regs : List Nat) (i : Src) (tile : Nat)
    (act : State → Gang → TeamPart → Nat → Nat → State) (complete : State → State) : State :=
  s.issue regs (fun g =>
    let k := s.core s.cur.core
    match k.partOf g with
    | none => s
    | some t =>
      let cs := (lanesOf (g.todo s.cur)).map (fun l => (l, tileCheck k t g.slot tile (g.src l i).toNat (s.freeAddr l)))
      s.perLane cs (fun s oks => (oks.foldl (fun s x => act s g t x.1 (g.src x.1 i).toNat) s, 0)) complete)

/-- What a lane of ALD reads: a NaR element's channels are free (02 R98). -/
def State.ald (s : State) (t : TeamPart) (tile n : Nat) : DWord :=
  let x := (s.core s.cur.core).tile (t.tile0 + tile)
  elemWord x.a48 (mget Elem.zero x.elems n) (fun j => Config.freeChannel s.tick (4 * n + j))

def execAld (o : AldOp) (s : State) : Host.Outcome State Fault Refusal :=
  finish (s.tileLanes (useDst 2 o.d ++ useSrc 1 o.i) o.i o.tile
    (fun s _ t l n => s.onGang (fun h => h.putResult o.d 2 l (s.ald t o.tile n) 0))
    (fun s => s.completeLoad o.d true))

/-- An element stored by AST: its budget rises to its magnitude (02 R94, R102). DESIGN CHOICE (assumption
log 76): an element that is NaR leaves the budget, since its magnitude is not defined. -/
def Tile.store (t : Tile) (n : Nat) (w : DWord) : Tile :=
  let e := elemOfWord t.a48 w
  { t with
    elems := if e = Elem.zero then mdel t.elems n else mput t.elems n e
    budget := if e.nar then t.budget else max t.budget (accRead t.a48 e).natAbs }

def execAst (o : AstOp) (s : State) : Host.Outcome State Fault Refusal :=
  finish (s.tileLanes (useSrc 2 o.v ++ useSrc 1 o.i) o.i o.tile
    (fun s g t l n => s.modCore s.cur.core (fun k =>
      { k with tiles := mput k.tiles (t.tile0 + o.tile) ((k.tile (t.tile0 + o.tile)).store n (g.src64 l o.v)) }))
    State.completeIssue)

end Sys2Proof.Machine
end

