-- ==== Sys2Proof/Machine/Tensor.lean ====
section
/-! DEFINITION. The tensor identifier table's instructions: TDEF, TDROP, TQRY and TGATH (spec 09 R379 to R382;
03 R127 to R136; 04 R156 to R161).
-/

namespace Sys2Proof.Machine

/-! Reading structures by virtual address at their homes. -/

/-- What ends a walk over structures in memory: a cause; a node that breaks 04 R162; no units; a root split
at level 32; a page that is not resident; a memory error; an address of no memory. -/
inductive SpStop where
  | cause (c : Cause) (addr : Nat)
  | malformed (va : Nat)
  | pool
  | split (va : Nat)
  | absent (va : Nat) (l : Leaf) (kind : AccKind)
  | memoryError (pa : Nat)
  | noMemory (pa : Nat)
  deriving DecidableEq, Repr

/-- An access of the tensor and sparse unit: its light faults are served when it has been made (14 R450).
System pages have no home slice and give PERM. -/
def State.unitAccess (s : State) (ctx va n : Nat) (kind : AccKind) : Except SpStop Nat :=
  if 2 ^ 48 ≤ va then .error (.cause .perm va)
  else
    match s.walk ctx va with
    | .perm => .error (.cause .perm va)
    | .memoryError pa => .error (.memoryError pa)
    | .noMemory pa => .error (.noMemory pa)
    | .leaf l _ =>
      if l.sysp then .error (.cause .perm va)
      else
        match s.checkLeaf { l with a := true, d := true } kind va n with
        | .ok pa _ => .ok pa
        | .cause c => .error (.cause c va)
        | .nres l => .error (.absent va l kind)
        | .memoryError pa => .error (.memoryError pa)
        | .noMemory pa => .error (.noMemory pa)
        | .light _ => .error (.cause .perm va)

/-- The physical pieces of a virtual range. -/
def State.unitPieces (s : State) (ctx va n : Nat) (kind : AccKind) : Except SpStop (List (Nat × Nat)) :=
  (pagePieces va n).mapM (fun p => (s.unitAccess ctx p.1 p.2 kind).map (fun pa => (pa, p.2)))

/-- What stops an access of the unit to a virtual range in each page of it. -/
def State.unitStops (s : State) (ctx va n : Nat) (kind : AccKind) : List SpStop :=
  (pagePieces va n).filterMap (fun p => match s.unitAccess ctx p.1 p.2 kind with
    | .error e => some e
    | .ok _ => none)

/-- Bytes of a virtual range at their homes. -/
def State.unitRead (s : State) (ctx va n : Nat) : Except SpStop (List Byte) :=
  (s.unitPieces ctx va n .load).map (fun ps => ps.flatMap (fun p => s.readHome p.1 p.2))

/-- The number that n bytes hold at a place in a list of bytes. -/
def num (b : List Byte) (off n : Nat) : Nat := ofBytes ((b.drop off).take n)

/-! TDEF (09 R379; 03 R131; 04 R161). -/

/-- Nodes in a unit (04 R155). -/
def unitNodes (size : Nat) : Nat := if size ≤ 2 then 1 else if size = 4 then 2 else 3

/-- The bytes of an empty root (04 R158). -/
def emptyRoot (p bump : Nat) : List Byte :=
  bytesOf 8 p ++ bytesOf 8 0x101 ++ bytesOf 120 0 ++ bytesOf 4 0xFFFFFFFF ++ bytesOf 60 0 ++
    bytesOf 8 0xFFFFFFFF ++ bytesOf 8 bump ++ bytesOf 40 0

/-- Whether the shard table's entries meet R157: LOWs rising in steps of 64, roots aligned and outside the
pool. R161's list of what makes a description invalid does not name the roots' places (DESIGN CHOICE, log entry 31). -/
def shardsOk (t : List Byte) (pool poolEnd : Nat) : Nat → Int → Nat → Bool
  | 0, _, _ => true
  | n + 1, prev, i =>
    let low := num t (16 + 16 * i) 8
    let root := num t (24 + 16 * i) 8
    low % 64 == 0 && decide (prev < (low : Int)) && decide (root < 2 ^ 48) && root % 256 == 0 &&
      !(decide (pool ≤ root) && decide (root < poolEnd)) && shardsOk t pool poolEnd n low (i + 1)

/-- The structures that a sparse description names, with their virtual ranges, and whether they are valid
(04 R161). -/
def State.sparseValid (s : State) (ctx : Nat) (e : List DWord) : Except SpStop (Bool × List (Nat × Nat)) := do
  let base := teBase e
  let n := teShards e
  if n = 1 then
    let b ← s.unitRead ctx base 256
    let p := num b 0 4
    return (p != 0 && b == emptyRoot p 0, [(base, 256)])
  else
    let t ← s.unitRead ctx base (16 + 16 * n)
    let poolsz := num t 0 4
    let p := poolsz / n
    let poolEnd := tePool e + poolsz * unitNodes (fmtSize (teFmt e)) * 256
    if num t 4 4 != 0 || num t 8 8 != 0 || p == 0 || !shardsOk t (tePool e) poolEnd n (-1) 0 then
      return (false, [(base, 16 + 16 * n)])
    else
      let roots := (List.range n).map (fun i => (i, num t (24 + 16 * i) 8))
      let bs ← roots.mapM (fun r => (s.unitRead ctx r.2 256).map (fun b => (r.1, b)))
      return (bs.all (fun b => b.2 == emptyRoot p (b.1 * p)),
        (base, 16 + 16 * n) :: roots.map (fun r => (r.2, 256)))

/-- The structure that BASE of a sparse description names: its root, or its shard table (04 R154, R157). -/
def baseRange (e : List DWord) : Nat × Nat :=
  (teBase e, if teShards e = 1 then 256 else 16 + 16 * teShards e)

/-- The roots that a shard table names, as far as it can be read. -/
def State.tableRoots (s : State) (ctx : Nat) (e : List DWord) : List (Nat × Nat) :=
  if teShards e = 1 then []
  else
    match s.unitRead ctx (teBase e) (16 + 16 * teShards e) with
    | .ok t => (List.range (teShards e)).map (fun i => (num t (24 + 16 * i) 6, 256))
    | .error _ => []

/-- The write-back before TDEF reads a region's structures (04 R161): of the shard table first, so that the roots
that it names are those that the issuing core stored. -/
def State.beforeTdef (s : State) (c ctx : Nat) (e : List DWord) : State :=
  let s := s.beforeEngine c ctx [baseRange e]
  s.beforeEngine c ctx (s.tableRoots ctx e)

/-- The zero fields and the conditions of a description that need no memory (03 R129, R131). -/
def descOk (d : List DWord) : Bool :=
  let cls := teClass d
  let fmt := teFmt d
  let n := teRank d
  let res := isResidue fmt
  let zeros := field (dwAt d 0) 23 19 == 0 && field (dwAt d 0) 7 4 == 0 && field (dwAt d 1) 63 48 == 0 &&
    field (dwAt d 2) 63 48 == 0 && field (dwAt d 4) 63 56 == 0 && field (dwAt d 7) 63 55 == 0
  let common := decide (cls ≤ 1) && fmtListed cls fmt && decide (1 ≤ n) && decide (n ≤ 5) &&
    (List.range n).all (fun i => decide (1 ≤ teExt d i)) && !(res && teSb d == 255)
  let dense := dwAt d 7 == 0 && teBase d % 16 == 0 && teScale d % 16 == 0 &&
    (!res || (teExt d 0 % 32 == 0 && teScale d != 0))
  let sparse := dwAt d 5 == 0 && dwAt d 6 == 0 && teBase d % 256 == 0 && tePool d % 256 == 0 &&
    decide (1 ≤ teShards d) && decide (teShards d ≤ 64) && decide (teSpace d ≤ 2 ^ 64)
  zeros && common && (if cls = 0 then dense else sparse)

/-- The entry that TDEF writes: STATE 1, GEN kept, SB and SCALE zero for a binary format, extents at and above RANK
zero (03 R129, R131, R133). -/
def entryOf (d : List DWord) (gen : Nat) : List DWord :=
  let ext := pack5 (fun i => if i < teRank d then teExt d i else 0)
  let sb := if isResidue (teFmt d) then teSb d else 0
  [BitVec.ofNat 64 (gen * 2 ^ 32 + sb * 2 ^ 24 + teRank d * 2 ^ 16 + teFmt d * 2 ^ 8 + teClass d * 4 + 1),
   dwAt d 1, if isResidue (teFmt d) then dwAt d 2 else 0, ext.1, ext.2, dwAt d 5, dwAt d 6, dwAt d 7]

/-- Writes an entry. -/
def State.writeEntry (s : State) (ctx slot : Nat) (e : List DWord) : State :=
  ((List.range 8).foldl (fun (s : State) k => s.setDword (s.ttAddr ctx slot + 8 * k) (dwAt e k)) s).ttInvalidate
    ctx slot

/-- TDEF of a valid description: what the slot's state allows (03 R133). -/
def State.define (s : State) (ctx d : Nat) (desc : List DWord) : State :=
  let slot := field (dwAt desc 0) 63 52
  let old := s.ttEntry ctx slot
  match teState old with
  | 0 => (s.writeEntry ctx slot (entryOf desc (teGen old))).finishScalar d
      (BitVec.ofNat 64 (slot * 2 ^ 20 + teGen old))
  | n => s.finishScalar d (BitVec.ofNat 64 (n * 2 ^ 56))

/-- The outcome of a per-issue instruction whose reads of memory stop: every participating lane waits for
the page, traps, or its context faults. -/
def State.stopIssue (s : State) (g : Gang) (p : LaneMask) (e : SpStop) : State :=
  match e with
  | .cause c a => s.trapAll g p c (BitVec.ofNat 64 a)
  | .absent va l kind => s.trap g ((lanesOf p).map (fun x =>
      ⟨x, .nres, BitVec.ofNat 64 va, some ⟨va, g.ctx, s.cur.core, 1, kind.acc, 0, l.va⟩⟩))
  | .memoryError pa => s.gangFault s.cur.core s.cur.slot 5 0 pa g []
  | .noMemory pa => s.noteBad pa
  | .malformed _ => s
  | .pool => s
  | .split _ => s

/-- TDEF (09 R379). -/
def execTdef (o : SS) (s : State) : Host.Outcome State Fault Refusal :=
  finish (s.perIssue [] (fun g p =>
    let desc := (List.range 8).map (fun i => g.sreg (o.a + i))
    let write (s : State) : State :=
      s.onEntry g (field (dwAt desc 0) 63 52) ((s.touch (s.ttAddr g.ctxKey 0) 64).define g.ctxKey o.d desc)
    if !descOk desc then s.trapAll g p .perm 0
    else if teClass desc = 0 then write s
    else
      let s := s.beforeTdef s.cur.core g.ctxKey desc
      match s.sparseValid g.ctxKey desc with
      | .error e => s.stopIssue g p e
      | .ok (false, _) => s.trapAll g p .perm 0
      | .ok (true, rs) =>
        write (s.lightPieces g.ctxKey .load
          (rs.flatMap (fun r => (pagePieces r.1 r.2).map (fun x => (x.1, 0, x.2)))))))

/-- A per-issue instruction on a current handle (03 R128). -/
def State.withHandle (s : State) (a : Nat) (k : Gang → Nat → State) : State :=
  s.perIssue [] (fun g p =>
    let h := field (g.sreg a) 31 0
    let s' := s.ttTouch s.cur.core g.ctxKey (handleSlot h)
    s.onEntry g (handleSlot h)
      (if s.handleOk g.ctxKey h then k g h else s'.trapAll g p .staleTid (BitVec.ofNat 64 h)))

/-- TDROP (09 R380; 03 R133): the slot drains while operations hold its snapshot, else it is free. -/
def execTdrop (o : SS) (s : State) : Host.Outcome State Fault Refusal :=
  finish (s.withHandle o.a (fun g h =>
    let slot := handleSlot h
    let st := if s.slotInFlight g.ctxKey slot then 2 else 0
    let w := (s.dword (s.ttAddr g.ctxKey slot)).toNat
    let w' := w - bits w 32 20 * 2 ^ 32 + (handleGen h + 1) % 2 ^ 20 * 2 ^ 32 - w % 4 + st
    let s := (s.setDword (s.ttAddr g.ctxKey slot) (BitVec.ofNat 64 w')).ttInvalidate g.ctxKey slot
    s.finishScalar o.d 0))

/-- TQRY (09 R381). -/
def execTqry (o : TqryOp) (s : State) : Host.Outcome State Fault Refusal :=
  finish (s.withHandle o.a (fun g h =>
    let s := s.ttTouch s.cur.core g.ctxKey (handleSlot h)
    s.finishScalar o.d (dwAt (s.ttEntry g.ctxKey (handleSlot h)) o.k)))

/-! TGATH (09 R382). -/

/-- The coordinates of an element index, up to RANK. -/
def splitIndex (e : List DWord) (idx : Nat) : Nat → Nat
  | i =>
    if i < teRank e then
      idx / ((List.range i).map (teExt e)).foldl (· * ·) 1 % teExt e i
    else 0

/-- The addresses of the bytes that an element index reads: its element's, then its block's offset's. -/
def gatherAddrs (e : List DWord) (idx : Nat) : List Nat :=
  let c := splitIndex e idx
  let a := elemAddr e c
  let line := idx / teExt e 0
  let j := line * (teExt e 0 / 32) + c 0 / 32
  (if teFmt e = 1 then [a] else [a + c 0 % 2, a + c 0 % 2 + 1]) ++ [teScale e + j / 2]

/-- The value of an element from its bytes, with flags (02 R81, R85, R105). -/
def gatherValue (e : List DWord) (idx : Nat) (fp : Bool) (bs : List Byte) : Word × Flags :=
  let b (i : Nat) : Nat := (bs.getD i 0).toNat
  let c0 := splitIndex e idx 0
  let line := idx / teExt e 0
  let j := line * (teExt e 0 / 32) + c0 / 32
  let (n, plane) :=
    if teFmt e = 1 then (rn8Read (b 0), b 1)
    else (rn12Read (if c0 % 2 = 0 then b 0 + b 1 % 16 * 256 else b 0 / 16 + b 1 * 16), b 2)
  if fp then decodeFp n (teSb e) (if j % 2 = 0 then plane % 16 else plane / 16) else decodeInt n

/-- The checks of a lane of TGATH: its index, then each byte's address. -/
def State.checkGather (s : State) (g : Gang) (e : List DWord) (idx l : Nat) : State × Check :=
  if teSpace e ≤ idx then (s, .cause .perm (s.freeAddr l) none)
  else
    (gatherAddrs e idx).foldl
      (fun (x : State × Check) va =>
        match x.2 with
        | .ok _ => x.1.checkGlobal g l va 1 .load
        | _ => x)
      (s, .ok (.bank 0 0))

/-- The places of a lane's bytes, which its checks have passed. -/
def State.gatherPlaces (s : State) (g : Gang) (e : List DWord) (idx l : Nat) : State × List Place :=
  (gatherAddrs e idx).foldl
    (fun (x : State × List Place) va =>
      match x.1.checkGlobal g l va 1 .load with
      | (s, .ok p) => (s, x.2 ++ [p])
      | (s, _) => (s, x.2))
    (s, [])

/-- What the lanes of a TGATH do: the reads through the L1 or over the link, and the results. -/
def State.performGather (s : State) (g : Gang) (o : TgathOp) (e : List DWord) (fp : Bool)
    (oks : List (Nat × Place)) : State × LaneMask :=
  let (s, per) := oks.foldl
    (fun (x : State × List (Nat × List Place)) y =>
      let r := x.1.gatherPlaces g e (g.src y.1 o.i).toNat y.1
      (r.1, x.2 ++ [(y.1, r.2)]))
    (s, [])
  let reqs := per.flatMap (fun x => ((numbered x.2).filter (fun p => !p.2.sysp)).map
    (fun p => (16 * x.1 + p.1, p.2.pa)))
  let (s, ans) := s.l1Read s.cur.core reqs s.cur.pc.toNat (blockLength s.cur.hints)
  per.foldl
    (fun (x : State × LaneMask) y =>
      let l := y.1
      let (s, got) := x.1.linkBytes l ((y.2.filter Place.sysp).map Place.pa)
      match got with
      | none => (s, maskSet x.2 l true)
      | some far =>
        let bs := (numbered y.2).map (fun p =>
          if p.2.sysp then far.getD ((y.2.take p.1).filter Place.sysp).length 0
          else ((ans.find? (fun a => a.1 == 16 * l + p.1)).map (·.2)).getD 0)
        let v := gatherValue e (g.src l o.i).toNat fp bs
        (s.onGang (fun h => (h.putResult o.d 1 l (v.1.setWidth 64) 0).orFlags v.2), x.2))
    (s, 0)

/-- A TGATH whose table entry can be read: the handle, the entry, then each lane. -/
def State.tgathOn (s : State) (g : Gang) (o : TgathOp) (fp : Bool) (h : Nat) (todo : LaneMask) : State :=
  if !s.handleOk g.ctxKey h then s.trapAll g todo .staleTid (BitVec.ofNat 64 h)
  else
    let e := s.ttEntry g.ctxKey (handleSlot h)
    let s := s.ttTouch s.cur.core g.ctxKey (handleSlot h)
    if teClass e ≠ 0 || !isResidue (teFmt e) then
      s.trap g ((lanesOf todo).map (fun l => .plain l .perm (s.freeAddr l)))
    else
      let (s, cs) := s.checkLanes (lanesOf todo) (fun s l => s.checkGather g e (g.src l o.i).toNat l)
      s.perLane cs (fun s oks => s.performGather g o e fp oks) (fun s => s.completeLoad o.d false)

/-- TGATH (09 R382). -/
def State.tgath (s : State) (o : TgathOp) (fp : Bool) : State :=
  s.issue (useDst 1 o.d ++ useSrc 1 o.i) (fun g =>
    let h := field (g.sreg o.h) 31 0
    let todo := g.todo s.cur
    if todo = 0 then s.completeLoad o.d false
    else s.onEntry g (handleSlot h) (s.tgathOn g o fp h todo))

def execTgathI32 (o : TgathOp) (s : State) : Host.Outcome State Fault Refusal := finish (s.tgath o false)
def execTgathF32 (o : TgathOp) (s : State) : Host.Outcome State Fault Refusal := finish (s.tgath o true)

end Sys2Proof.Machine
end

