-- ==== Sys2Proof/Machine/Sparse.lean ====
section
/-! DEFINITION. Sparse-tensor regions: keys, trees, the steps of the index engine, and the instructions and
engine operations on them (spec 04 R153 to R180; 09 R383 to R385).
-/

namespace Sys2Proof.Machine

/-! Regions (04 R153 to R158). -/

/-- A region as an operation sees it: its context and its entry. -/
structure Region where
  ctx : Nat
  e : List DWord
  deriving DecidableEq, Repr

/-- The element size. -/
def Region.size (r : Region) : Nat := fmtSize (teFmt r.e)
/-- The bytes of a unit. -/
def Region.unit (r : Region) : Nat := 256 * unitNodes r.size
/-- The address of a unit. -/
def Region.unitVa (r : Region) (u : Nat) : Nat := tePool r.e + u * r.unit

/-- The key of coordinates below the extents, else none (04 R153). -/
def Region.key (r : Region) (c : Nat → Nat) : Option Nat :=
  (List.range (teRank r.e)).reverse.foldl
    (fun k i => k.bind (fun k => if c i < teExt r.e i then some (k * teExt r.e i + c i) else none)) (some 0)

/-- The key of a leaf's bit 0. -/
def leafKey (k : Nat) : Nat := k / 64 * 64

/-- No child, no unit. -/
def noUnit : Nat := 0xFFFFFFFF

/-! Nodes as bytes. -/

def nodeType (b : List Byte) : Nat := num b 8 1
def nodeLevel (b : List Byte) : Nat := num b 9 1
def nodeCount (b : List Byte) : Nat := num b 10 1

/-- The children of an interior node with the separator keys before them; key 0 of child 0 stands for below
every key. -/
def nodeEntries (b : List Byte) : List (Nat × Nat) :=
  (List.range (min (nodeCount b) 15 + 1)).map
    (fun j => (if j = 0 then 0 else num b (8 + 8 * j) 8, num b (136 + 4 * j) 4))

/-- Replaces bytes at a place. -/
def patch (b : List Byte) (off : Nat) (x : List Byte) : List Byte :=
  b.take off ++ x ++ b.drop (off + x.length)

/-- An interior node with other children; POOLSZ, FREE and BUMP stay. Without children it takes the empty
form (04 R158, R170). -/
def putEntries (b : List Byte) (level : Nat) (es : List (Nat × Nat)) : List Byte :=
  let keys := (es.drop 1).map (·.1)
  let kids := if es.isEmpty then [noUnit] else es.map (·.2)
  let head := bytesOf 8 ((es.length - 1) * 65536 + level * 256 + 1)
  let ks := (List.range 15).flatMap (fun i => bytesOf 8 (keys.getD i 0))
  let cs := (List.range 16).flatMap (fun i => bytesOf 4 (kids.getD i 0))
  patch b 8 (head ++ ks ++ cs)

def leafOf (b : List Byte) : Nat := num b 0 8
def leafMap (b : List Byte) : Nat := num b 16 8

/-- The bits set below bit n of a bitmap. -/
def bitsBelow (m n : Nat) : Nat := (below n (bitAt m)).length

/-- The values of a leaf, in key order (04 R159). -/
def leafVals (size : Nat) (b : List Byte) : List Nat :=
  (List.range (bitsBelow (leafMap b) 64)).map (fun j => num b (32 + j * size) size)

/-- A leaf's unit (04 R159): the values packed, zeros after them. -/
def makeLeaf (unit size key map : Nat) (vals : List Nat) : List Byte :=
  let body := bytesOf 8 key ++ bytesOf 8 (vals.length * 65536 + 2) ++ bytesOf 8 map ++ bytesOf 8 0 ++
    vals.flatMap (bytesOf size)
  body ++ bytesOf (unit - body.length) 0

/-- The value of a bit of a leaf, zero when absent. -/
def leafValue (size : Nat) (b : List Byte) (bit : Nat) : Nat :=
  if bitAt (leafMap b) bit then num b (32 + bitsBelow (leafMap b) bit * size) size else 0

/-! Steps (04 R164): a buffer of the nodes that the step has read or changed. -/

/-- A node in a step's buffer: its bytes, and whether the step changed it. -/
structure Node where
  bytes : List Byte
  dirty : Bool
  deriving DecidableEq, Repr

/-- A step of the index engine. -/
abbrev Step (α : Type) := StateT (Map Node) (Except SpStop) α

/-- Stops a step. -/
def stopStep (e : SpStop) : Step α := fun _ => .error e

/-- A node by address: from the buffer, else from its home. -/
def readNode (s : State) (r : Region) (va n : Nat) : Step (List Byte) := do
  let buf ← get
  match mfind? buf va with
  | some x => return x.bytes
  | none =>
    match s.unitRead r.ctx va n with
    | .error e => stopStep e
    | .ok b => do
      set (mput buf va ⟨b, false⟩)
      return b

/-- Changes a node. -/
def writeNode (va : Nat) (b : List Byte) : Step Unit := modify (fun buf => mput buf va ⟨b, true⟩)

/-- A shard as a step sees it: the address of its root and its sub-pool's bounds. -/
structure Shard where
  root : Nat
  lo : Nat
  hi : Nat
  deriving DecidableEq, Repr

/-- The roots and lowest keys of a region's shards (04 R154, R157). -/
def shardTable (s : State) (r : Region) : Step (List (Nat × Nat)) := do
  let n := teShards r.e
  if n ≤ 1 then return [(0, teBase r.e)]
  else
    let t ← readNode s r (teBase r.e) (16 + 16 * n)
    return (List.range n).map (fun i => (num t (16 + 16 * i) 8, num t (24 + 16 * i) 6))

/-- The shard of a key: the highest whose LOW is at most the key, else shard 0 (04 R154). -/
def shardOf (t : List (Nat × Nat)) (key : Nat) : Nat :=
  ((below t.length (fun i => decide ((t.getD i (0, 0)).1 ≤ key))).getLast?).getD 0

/-- A shard by its number (04 R156). DESIGN CHOICE (assumption log 77): its bounds follow POOLSZ of the root as it
stands in memory at the step. -/
def getShard (s : State) (r : Region) (t : List (Nat × Nat)) (i : Nat) : Step Shard := do
  let root := (t.getD i (0, 0)).2
  let b ← readNode s r root 256
  let p := num b 0 4
  return ⟨root, i * p, (i + 1) * p⟩

/-- Separator keys that rise in steps of 64. -/
def keysOk : List Nat → Bool
  | [] => true
  | [k] => k % 64 == 0
  | k :: k' :: ks => k % 64 == 0 && decide (k < k') && keysOk (k' :: ks)

/-- Whether an interior node is well formed (04 R162). -/
def interiorOk (b : List Byte) (sh : Shard) (root : Bool) (level : Nat) : Bool :=
  nodeType b == 1 && decide (nodeCount b ≤ 15) && nodeLevel b == level && decide (1 ≤ level) &&
  decide (level ≤ 32) && keysOk (((nodeEntries b).drop 1).map (·.1)) &&
  (nodeEntries b).all (fun x =>
    if x.2 = noUnit then root && nodeCount b == 0 && level == 1
    else decide (sh.lo ≤ x.2) && decide (x.2 < sh.hi))

/-- Whether a leaf is well formed under bounds of its keys (04 R162). -/
def leafOk (b : List Byte) (lo hi : Nat) : Bool :=
  nodeType b == 2 && nodeLevel b == 0 && decide (1 ≤ nodeCount b) && decide (nodeCount b ≤ 64) &&
  leafOf b % 64 == 0 && decide (lo ≤ leafOf b) && decide (leafOf b < hi)

/-- A checked interior node. -/
def interior (s : State) (r : Region) (sh : Shard) (va : Nat) (level : Option Nat) : Step (List Byte) := do
  let b ← readNode s r va 256
  if interiorOk b sh (va == sh.root) (level.getD (nodeLevel b)) then return b
  else stopStep (.malformed va)

/-- A checked leaf. -/
def leaf (s : State) (r : Region) (va lo hi : Nat) : Step (List Byte) := do
  let b ← readNode s r va r.unit
  if leafOk b lo hi then return b else stopStep (.malformed va)

/-- A node on the way to a leaf: its address, bytes, level, and the place of the child taken. -/
structure PathNode where
  va : Nat
  bytes : List Byte
  level : Nat
  at_ : Nat
  deriving DecidableEq, Repr

/-- The place of the child that descent takes (04 R168). -/
def childAt (es : List (Nat × Nat)) (key : Nat) : Nat :=
  ((below es.length (fun j => j == 0 || decide ((es.getD j (0, 0)).1 ≤ key))).getLast?).getD 0

/-- The descent to the leaf that a key's leaf stands beside: the nodes passed, the deepest first, and the
leaf reached; none under an empty root. -/
def descend (s : State) (r : Region) (sh : Shard) (key : Nat) :
    Nat → Nat → Option Nat → Nat → Nat → List PathNode → Step (List PathNode × Option (Nat × List Byte))
  | 0, va, _, _, _, _ => stopStep (.malformed va)
  | fuel + 1, va, level, lo, hi, path => do
    let b ← interior s r sh va level
    let es := nodeEntries b
    let lvl := nodeLevel b
    let j := childAt es key
    let x := es.getD j (0, 0)
    let path := ⟨va, b, lvl, j⟩ :: path
    if x.2 = noUnit then return (path, none)
    else
      let lo := if j = 0 then lo else max lo x.1
      let hi := match es[j + 1]? with
        | some y => min hi y.1
        | none => hi
      let cva := r.unitVa x.2
      if lvl = 1 then
        let c ← leaf s r cva lo hi
        return (path, some (cva, c))
      else descend s r sh key fuel cva (some (lvl - 1)) lo hi path

/-- The descent for a key, from its shard's root. -/
def findPath (s : State) (r : Region) (key : Nat) :
    Step (Shard × List PathNode × Option (Nat × List Byte)) := do
  let t ← shardTable s r
  let sh ← getShard s r t (shardOf t key)
  let x ← descend s r sh (leafKey key) 33 sh.root none 0 (2 ^ 64) []
  return (sh, x)

/-- The leaf that covers a key, with its address. -/
def findLeaf (s : State) (r : Region) (key : Nat) : Step (Option (Nat × List Byte)) := do
  let (_, _, l) ← findPath s r key
  return l.bind (fun x => if leafOf x.2 = leafKey key then some x else none)

/-- SPLD of a key (04 R171). -/
def readKey (s : State) (r : Region) (key : Nat) : Step Nat := do
  let l ← findLeaf s r key
  return match l with
    | some x => leafValue r.size x.2 (key % 64)
    | none => 0

/-! Units (04 R160, R169). -/

/-- Whether a stop is a fault of a page that does not permit the access. -/
def SpStop.isPerm : SpStop → Bool
  | .cause .perm _ => true
  | _ => false

/-- Whether a stop is a sealed range. -/
def SpStop.isSeal : SpStop → Bool
  | .cause .seal _ => true
  | _ => false

/-- The first of some stops in the order of 04 R180: a page that does not permit the access, then what else stops it. -/
def firstStop (es : List SpStop) : Option SpStop :=
  match es.find? SpStop.isPerm with
  | some e => some e
  | none => es.head?

/-- The nodes of a range may be written, but for a seal, which is found after every permission (04 R180). -/
def mayWrite (s : State) (r : Region) (va n : Nat) : Step Unit :=
  match firstStop ((s.unitStops r.ctx va n .store).filter (fun e => !e.isSeal)) with
  | some e => stopStep e
  | none => return ()

/-- Takes units: from FREE, then from BUMP; none when the sub-pool cannot supply them all. DESIGN CHOICE (assumption
log 77): a list that returns to a unit already taken by the allocation is malformed. -/
def takeUnits (s : State) (r : Region) (sh : Shard) :
    Nat → Nat → Nat → List Nat → Step (Option (List Nat × Nat × Nat))
  | 0, free, bump, got => return some (got, free, bump)
  | n + 1, free, bump, got => do
    if free ≠ noUnit then
      if free < sh.lo || sh.hi ≤ free || got.contains free then stopStep (.malformed sh.root)
      else
        let va := r.unitVa free
        mayWrite s r va r.unit
        let b ← readNode s r va r.unit
        let link := num b 24 4
        if nodeType b != 0 || (link != noUnit && (decide (link < sh.lo) || decide (sh.hi ≤ link))) then
          stopStep (.malformed va)
        else takeUnits s r sh n link bump (got ++ [free])
    else if bump < sh.hi then takeUnits s r sh n free (bump + 1) (got ++ [bump])
    else return none

/-- An allocation of n units from a shard's root, or POOL; the pages of the root and the units must permit the
change, which is found before a malformed free list or bump index (04 R180). The address of a malformed one, which the
spec does not give, is that of the root or of the free unit (DESIGN CHOICE, log entry 77). -/
def allocate_ (s : State) (r : Region) (sh : Shard) (n : Nat) : Step (List Nat) := do
  mayWrite s r sh.root 256
  let b ← readNode s r sh.root 256
  let bump := num b 208 4
  let bad := decide (bump < sh.lo) || decide (sh.hi < bump)
  let got ← takeUnits s r sh n (num b 200 4) (if bad then sh.hi else bump) []
  match if bad then none else got with
  | none => stopStep (if bad then .malformed sh.root else .pool)
  | some (us, free, bump) => do
    us.forM (fun u => mayWrite s r (r.unitVa u) r.unit)
    writeNode sh.root (patch b 200 (bytesOf 8 free ++ bytesOf 8 bump))
    return us

/-- Frees a unit: TYPE zero, at the head of FREE (04 R160). -/
def freeUnit (s : State) (r : Region) (sh : Shard) (va n : Nat) : Step Unit := do
  let root ← readNode s r sh.root 256
  let b ← readNode s r va n
  writeNode va (patch (patch b 8 [0]) 24 (bytesOf 4 (num root 200 4)))
  writeNode sh.root (patch root 200 (bytesOf 8 ((va - tePool r.e) / r.unit)))

/-! Insertion and deletion (04 R168, R170). -/

/-- Places children into a node at the head of a path, splitting upward; units are taken in order
(04 R168). -/
def insertUp (s : State) (r : Region) (sh : Shard) :
    List PathNode → List (Nat × Nat) → List Nat → Step Unit
  | [], _, _ => return ()
  | p :: up, es, us => do
    let b ← readNode s r p.va 256
    if es.length ≤ 16 then writeNode p.va (putEntries b p.level es)
    else
      let left := es.take 8
      let mid := (es.getD 8 (0, 0)).1
      let right := (0, (es.getD 8 (0, 0)).2) :: es.drop 9
      let blank := bytesOf 256 0
      match up with
      | [] => do
        let u1 := us.getD 0 0
        let u2 := us.getD 1 0
        writeNode (r.unitVa u1) (putEntries blank p.level left)
        writeNode (r.unitVa u2) (putEntries blank p.level right)
        writeNode p.va (putEntries b (p.level + 1) [(0, u1), (mid, u2)])
      | q :: _ => do
        let u := us.getD 0 0
        writeNode (r.unitVa u) (putEntries blank p.level right)
        writeNode p.va (putEntries b p.level left)
        let qs := nodeEntries q.bytes
        insertUp s r sh up (qs.take (q.at_ + 1) ++ [(mid, u)] ++ qs.drop (q.at_ + 1)) (us.drop 1)

/-- The nodes of a path, from the deepest, that hold sixteen children without a gap. -/
def fullNodes (path : List PathNode) : List PathNode :=
  path.takeWhile (fun p => (nodeEntries p.bytes).length == 16)

/-- The children of the level-1 node with a new leaf beside the leaf reached (04 R168). -/
def withLeaf (p : PathNode) (reached key unit : Nat) : List (Nat × Nat) :=
  let es := nodeEntries p.bytes
  if key < reached then (0, unit) :: (reached, (es.getD 0 (0, 0)).2) :: es.drop 1
  else es.take (p.at_ + 1) ++ [(key, unit)] ++ es.drop (p.at_ + 1)

/-- Inserts a leaf with one value: the nodes that change must permit it before units are taken (04 R169, R180). The
address that a root's split at LEVEL 32 gives is the root's, for which the spec names none (DESIGN CHOICE, log
entry 77). -/
def insertLeaf (s : State) (r : Region) (sh : Shard) (path : List PathNode) (reached : Option Nat)
    (key v : Nat) : Step Unit := do
  let full := if reached.isSome then fullNodes path else []
  let rootSplit := full.length == path.length && !full.isEmpty
  (path.take (full.length + 1)).forM (fun p => mayWrite s r p.va 256)
  let us ← allocate_ s r sh (1 + full.length + (if rootSplit then 1 else 0))
  if rootSplit && (path.getLast?.map (·.level)) == some 32 then stopStep (.split sh.root)
  else
    let u := us.getD 0 0
    writeNode (r.unitVa u) (makeLeaf r.unit r.size (leafKey key) (2 ^ (key % 64)) [v])
    match path, reached with
    | p :: _, some c => insertUp s r sh path (withLeaf p c (leafKey key) u) (us.drop 1)
    | _, _ => insertUp s r sh path [(0, u)] (us.drop 1)

/-- Removes the child at a place; the key after a removed child 0 goes with it (04 R170). -/
def dropChild (es : List (Nat × Nat)) (j : Nat) : List (Nat × Nat) :=
  let rest := es.take j ++ es.drop (j + 1)
  match rest with
  | x :: xs => (0, x.2) :: xs
  | [] => []

/-- Removes a child from the node at the head of a path; emptied nodes go too, up to the root. -/
def removeUp (s : State) (r : Region) (sh : Shard) : List PathNode → Step Unit
  | [] => return ()
  | p :: up => do
    let b ← readNode s r p.va 256
    let es := dropChild (nodeEntries b) p.at_
    if !es.isEmpty then writeNode p.va (putEntries b p.level es)
    else if up.isEmpty then writeNode p.va (putEntries b 1 [])
    else do
      freeUnit s r sh p.va 256
      removeUp s r sh up

/-- SPST of a key (04 R168 to R172): zero deletes, another value inserts or replaces. -/
def writeKey (s : State) (r : Region) (key v : Nat) : Step Unit := do
  let (sh, path, l) ← findPath s r key
  let bit := key % 64
  match l with
  | some (va, b) =>
    if leafOf b = leafKey key then
      let m := leafMap b
      let j := bitsBelow m bit
      let vals := leafVals r.size b
      if v = 0 then
        if !bitAt m bit then return ()
        else if m = 2 ^ bit then
          freeUnit s r sh va r.unit
          removeUp s r sh path
        else writeNode va (makeLeaf r.unit r.size (leafKey key) (m - 2 ^ bit) (vals.take j ++ vals.drop (j + 1)))
      else if bitAt m bit then
        writeNode va (makeLeaf r.unit r.size (leafKey key) m (vals.take j ++ [v] ++ vals.drop (j + 1)))
      else
        writeNode va (makeLeaf r.unit r.size (leafKey key) (m + 2 ^ bit) (vals.take j ++ [v] ++ vals.drop j))
    else if v = 0 then return ()
    else insertLeaf s r sh path (some (leafOf b)) key v
  | none => if v = 0 then return () else insertLeaf s r sh path none key v

/-! Iteration (04 R174). -/

/-- The least present key of a leaf at or above a cursor. -/
def leafNext (b : List Byte) (cursor : Nat) : Option Nat :=
  ((below 64 (fun i => bitAt (leafMap b) i && decide (cursor ≤ leafOf b + i))).head?).map (leafOf b + ·)

/-- The least present key at or above a cursor below a node, with its value. -/
def scan (s : State) (r : Region) (sh : Shard) (cursor : Nat) :
    Nat → Nat → Option Nat → Nat → Nat → Step (Option (Nat × Nat))
  | 0, va, _, _, _ => stopStep (.malformed va)
  | fuel + 1, va, level, lo, hi => do
    let b ← interior s r sh va level
    let es := nodeEntries b
    let lvl := nodeLevel b
    let first := childAt es (leafKey cursor)
    let child (found : Option (Nat × Nat)) (j : Nat) : Step (Option (Nat × Nat)) := do
      let x := es.getD j (0, 0)
      if found.isSome || x.2 = noUnit then return found
      else
        let lo := if j = 0 then lo else max lo x.1
        let hi := match es[j + 1]? with
          | some y => min hi y.1
          | none => hi
        if lvl = 1 then
          let c ← leaf s r (r.unitVa x.2) lo hi
          return (leafNext c cursor).map (fun k => (k, leafValue r.size c (k % 64)))
        else scan s r sh cursor fuel (r.unitVa x.2) (some (lvl - 1)) lo hi
    ((List.range es.length).filter (fun j => decide (first ≤ j))).foldlM child none

/-- SPNEXT in one shard. -/
def nextIn (s : State) (r : Region) (t : List (Nat × Nat)) (cursor i : Nat) : Step (Option (Nat × Nat)) := do
  let sh ← getShard s r t i
  scan s r sh cursor 33 sh.root none 0 (2 ^ 64)

/-- SPNEXT: the cursor's shard, then each higher one (04 R174). -/
def nextKey (s : State) (r : Region) (cursor : Nat) : Step (Option (Nat × Nat)) := do
  let t ← shardTable s r
  let i := shardOf t cursor
  ((List.range t.length).filter (fun j => decide (i ≤ j))).foldlM
    (fun found j => if found.isSome then return found else nextIn s r t cursor j) none

/-! Performing a step. -/

/-- What stops the writes of the nodes that a step changed: a page that does not permit one, then any other
stop (04 R180). -/
def State.stepHalt (s : State) (r : Region) (buf : Map Node) : Option SpStop :=
  firstStop ((buf.filter (fun x => x.2.dirty)).flatMap (fun x => s.unitStops r.ctx x.1 x.2.bytes.length .store))

/-- The pieces of the nodes that a step changed, with their bytes. -/
def State.stepWrites (s : State) (r : Region) (buf : Map Node) : Except SpStop (List (Nat × List Byte)) :=
  match s.stepHalt r buf with
  | some e => .error e
  | none =>
    (buf.filter (fun x => x.2.dirty)).foldlM
      (fun acc x => do
        let ps ← s.unitPieces r.ctx x.1 x.2.bytes.length .store
        let (_, ws) := ps.foldl
          (fun (y : List Byte × List (Nat × List Byte)) p => (y.1.drop p.2, y.2 ++ [(p.1, y.1.take p.2)]))
          (x.2.bytes, [])
        return acc ++ ws)
      []

/-- Performs a step for core c: its result and the machine after it, or what stops it with nothing
changed. Its tree writes leave no copy of the words in the core's L1 and in the remote-data caches, as 05 R204 has it
for a copy; 04 R164 does not say what becomes of cached copies (DESIGN CHOICE, log entry 77). -/
def State.runStep (s : State) (c : Nat) (r : Region) (x : Step α) : Except SpStop (α × State) :=
  match x [] with
  | .error e => .error e
  | .ok (v, buf) =>
    match s.stepWrites r buf with
    | .error e => .error e
    | .ok ws =>
      let s := buf.foldl
        (fun (s : State) n =>
          (pagePieces n.1 n.2.bytes.length).foldl (fun s p => s.engineTouch r.ctx p.1 n.2.dirty) s) s
      .ok (v, ws.foldl (fun (s : State) w => s.engineWrite c w.1 w.2) s)

/-- The roots of a region and its pool, with their lengths (04 R156 to R158), as far as they can be read: BASE names
a root or a shard table, and POOLSZ is the first field of both. -/
def State.regionParts (s : State) (r : Region) : List (Nat × Nat) :=
  match shardTable s r [], s.unitRead r.ctx (teBase r.e) 4 with
  | .ok (t, _), .ok b => t.map (fun x => (x.2, 256)) ++ [(tePool r.e, num b 0 4 * r.unit)]
  | _, _ => []

/-- Whether a virtual range meets a seal of its context, or a page that a seal of the partition binds. -/
def State.rangeSealed (s : State) (ctx va n : Nat) : Bool :=
  s.sealedRange ctx va n || (s.physRanges ctx va n).any (fun x => s.sealedWrite (ctx / 256) x.1 x.2)

/-- The first root of a region, or its pool, that meets a sealed range (04 R163): its address. -/
def State.regionSeal (s : State) (r : Region) : Option Nat :=
  ((s.regionParts r).find? (fun x => s.rangeSealed r.ctx x.1 x.2)).map (·.1)

/-- What stops a store: SEAL of a sealed region goes before malformed nodes, units and the root's split (04 R180). -/
def State.storeStop (s : State) (r : Region) (e : SpStop) : SpStop :=
  match e with
  | .malformed _ | .pool | .split _ => match s.regionSeal r with
    | some va => .cause .seal va
    | none => e
  | _ => e

/-- Whether a step changes a node. -/
def stepChanges (x : Step α) : Bool :=
  match x [] with
  | .ok (_, buf) => buf.any (fun n => n.2.dirty)
  | .error _ => false

/-- SPST of a key by core c: a change of a region that is sealed in part gives SEAL (04 R163). tw.addr is then the
address of the changed node that is sealed, or of the sealed root or pool (DESIGN CHOICE, assumption log 77). -/
def State.storeKey (s : State) (c : Nat) (r : Region) (key v : Nat) : Except SpStop State :=
  match s.runStep c r (writeKey s r key v) with
  | .error e => .error (s.storeStop r e)
  | .ok (_, t) =>
    match if stepChanges (writeKey s r key v) then s.regionSeal r else none with
    | some va => .error (.cause .seal va)
    | none => .ok t

/-! The lanes (09 R383, R384; 04 R165, R176, R180). -/

/-- How the lanes of a sparse instruction ended: those done, the causes recorded, the memory errors, and the shards
at which a lane waits for a page. -/
structure SpLanes where
  s : State
  done : LaneMask
  recs : List TrapRec
  errors : List Nat
  waiting : List Nat

/-- A lane that stops. -/
def SpLanes.stop (x : SpLanes) (g : Gang) (c l shard key : Nat) (e : SpStop) : SpLanes :=
  match e with
  | .cause k a => { x with recs := x.recs ++ [.plain l k (BitVec.ofNat 64 a)] }
  | .malformed va => { x with recs := x.recs ++ [.plain l .perm (BitVec.ofNat 64 va)] }
  | .split va => { x with recs := x.recs ++ [.plain l .perm (BitVec.ofNat 64 va)] }
  | .pool => { x with recs := x.recs ++ [.plain l .pool (BitVec.ofNat 64 key)] }
  | .absent va lf kind => { x with
      recs := x.recs ++ [⟨l, .nres, BitVec.ofNat 64 va, some ⟨va, g.ctx, c, 1, kind.acc, 0, lf.va⟩⟩]
      waiting := shard :: x.waiting }
  | .memoryError pa => { x with errors := x.errors ++ [pa] }
  | .noMemory pa => { x with s := x.s.noteBad pa }

/-- The shard of a key (04 R154), as far as the shard table can be read. -/
def State.keyShard (s : State) (r : Region) (key : Nat) : Nat :=
  match shardTable s r [] with
  | .ok (t, _) => shardOf t key
  | .error _ => 0

/-- Runs the lanes in ascending order: each answers the key it names and its step, or none for a
coordinate at or above its extent. A lane stands back while a lower lane of its shard waits for a page (04 R165). -/
def State.sparseLanes (s : State) (g : Gang) (r : Region) (ls : List Nat) (key : Nat → Option Nat)
    (act : State → Nat → Nat → Except SpStop State) : SpLanes :=
  ls.foldl
    (fun (x : SpLanes) l =>
      match key l with
      | none => { x with recs := x.recs ++ [.plain l .perm (s.freeAddr l)] }
      | some k =>
        let shard := x.s.keyShard r k
        if x.waiting.contains shard then x
        else
          match act x.s l k with
          | .ok s => { x with s := s, done := maskSet x.done l true }
          | .error e => x.stop g s.cur.core l shard k e)
    ⟨s, 0, [], [], []⟩

/-- The lanes that an instruction leaves waiting for absent pages when its recorded causes deliver NRES (10 R399). -/
def waitingLanes (recs : List TrapRec) : LaneMask :=
  match recs with
  | [] => 0
  | _ => if delivered recs = .nres then maskOf (recs.filterMap (fun r => if r.cause = .nres then some r.lane else none))
    else 0

/-- The outcome of the lanes. The gang keeps which of them wait for a page, for what must not overtake them (04
R166). -/
def SpLanes.outcome (x : SpLanes) (complete : State → State) : State :=
  let s := x.s.onGang (fun g =>
    { g.markDone x.done with tree := (g.tree &&& ~~~x.s.cur.active) ||| waitingLanes x.recs })
  match x.errors, s.issuer with
  | pa :: _, some g => s.gangFault s.cur.core s.cur.slot 5 0 pa g []
  | [], some g => if x.recs.isEmpty then complete s else s.trap g x.recs
  | _, none => s

/-- A sparse instruction (04 R180): the handle, the registers that the entry's RANK and FMT name, CLASS,
then the lanes. It waits for the gang's earlier sparse lanes that wait for a page (R166). Which registers it names
depends on the entry, which no lane reads when none participates: it then completes without the check of 01 R42
(DEDUCED, log entry 79). -/
def State.sparse (s : State) (h : Nat) (d : Option Dst) (wide : Region → Bool) (regsOk : Gang → Region → Bool)
    (body : State → Gang → Region → List Nat → SpLanes) : State :=
  s.issue [] (fun g =>
    let w := field (g.sreg h) 31 0
    let todo := g.todo s.cur
    let complete (r : Region) (s : State) : State :=
      match d with
      | some d => s.completeLoad d (wide r)
      | none => s.completeIssue
    let r : Region := ⟨g.ctxKey, s.ttEntry g.ctxKey (handleSlot w)⟩
    if todo = 0 then complete r s
    else if g.treeWaits s.cur then s
    else
      s.onEntry g (handleSlot w)
        (if !s.handleOk g.ctxKey w then s.trapAll g todo .staleTid (BitVec.ofNat 64 w)
         else if !regsOk g r then s.trapEmu g
         else if teClass r.e ≠ 1 then
           s.trap g ((lanesOf todo).map (fun l => .plain l .perm (s.freeAddr l)))
         else
           (body (s.ttTouch s.cur.core g.ctxKey (handleSlot w)) g r (lanesOf todo)).outcome (complete r)))

/-- The first register of a field that names one. -/
def firstReg (x : Src) : Nat :=
  match x with
  | .reg n => n
  | _ => 0

/-- The key of a lane's coordinates. -/
def Gang.laneKey (g : Gang) (r : Region) (c : Src) (l : Nat) : Option Nat :=
  r.key (fun i => (g.reg (firstReg c + i) l).toNat)

/-- The registers of coordinates. -/
def coordRegs (r : Region) (c : Src) : List Nat := useSrc (teRank r.e) c

/-- The registers of a value. -/
def Region.width (r : Region) : Nat := if r.size = 8 then 2 else 1

/-- Whether a value's register field, which may or may not name a pair, suits its width (06 R218; 09 R383). -/
def valueOk (r : Region) (pair : Bool) : Bool := r.size != 8 || pair

/-- The register image of a value (09 R384): signed integers extended. -/
def extendValue (fmt v : Nat) : DWord :=
  if fmt = 0x14 then (BitVec.ofInt 32 (signed 8 v)).setWidth 64
  else if fmt = 0x16 then (BitVec.ofInt 32 (signed 16 v)).setWidth 64
  else BitVec.ofNat 64 v

def execSpld (o : SpldOp) (s : State) : Host.Outcome State Fault Refusal :=
  finish (s.sparse o.h (some o.d) (fun r => r.size == 8)
    (fun g r => g.regsOk (coordRegs r o.c ++ useDst r.width o.d) && valueOk r o.d.pairOk)
    (fun s g r ls => s.sparseLanes g r ls (g.laneKey r o.c) (fun s l k =>
      (s.runStep s.cur.core r (readKey s r k)).map (fun x =>
        x.2.onGang (fun h => h.putResult o.d r.width l (extendValue (teFmt r.e) x.1) 0)))))

def execSpst (o : SpstOp) (s : State) : Host.Outcome State Fault Refusal :=
  finish (s.sparse o.h none (fun _ => false)
    (fun g r => g.regsOk (coordRegs r o.c ++ useSrc r.width o.v) && valueOk r o.v.pairOk)
    (fun s g r ls => s.sparseLanes g r ls (g.laneKey r o.c) (fun s l k =>
      let v := if r.size = 8 then (g.src64 l o.v).toNat else (g.src l o.v).toNat % 2 ^ (8 * r.size)
      s.storeKey s.cur.core r k v)))

/-- Whether a quad destination is one (09 R383). -/
def quadOk (d : Dst) : Bool := (useDst 1 d).all (fun n => n % 4 == 0)

def execSpnext (o : SpldOp) (s : State) : Host.Outcome State Fault Refusal :=
  finish (s.sparse o.h (some o.d) (fun _ => true)
    (fun g _ => g.regsOk (useSrc 2 o.c ++ useDst 4 o.d) && quadOk o.d)
    (fun s g r ls => s.sparseLanes g r ls (fun l => some (g.src64 l o.c).toNat) (fun s l k =>
      let next : Step (Option (Nat × Nat)) := if teSpace r.e ≤ k then pure none else nextKey s r k
      (s.runStep s.cur.core r next).map (fun x =>
        let v : DWord × DWord := match x.1 with
          | some (key, v) => (BitVec.ofNat 64 key, extendValue (teFmt r.e) v)
          | none => (BitVec.allOnes 64, 0)
        x.2.onGang (fun h => h.putResult o.d 4 l v.1 v.2)))))

/-- SPLEAF of a key: the leaf's words leave the issuing core's L1 and its die's remote-data cache, as at an
acquire (04 R173). -/
def State.leafOut (s : State) (g : Gang) (c : Nat) (r : Region) (x : Option (Nat × List Byte)) :
    State × DWord × DWord :=
  match x with
  | none => (s, 0, 0)
  | some (va, b) =>
    let rs := s.physRanges r.ctx va r.unit
    (s.acquireWords c 2 (fun a => meetsRanges rs a && !s.sealedWord g.part a),
      BitVec.ofNat 64 (leafMap b), BitVec.ofNat 64 (va + 32))

def execSpleaf (o : SpldOp) (s : State) : Host.Outcome State Fault Refusal :=
  finish (s.sparse o.h (some o.d) (fun _ => true)
    (fun g r => g.regsOk (coordRegs r o.c ++ useDst 4 o.d) && quadOk o.d)
    (fun s g r ls => s.sparseLanes g r ls (g.laneKey r o.c) (fun s l k =>
      (s.runStep s.cur.core r (findLeaf s r k)).map (fun x =>
        let y := x.2.leafOut g s.cur.core r x.1
        y.1.onGang (fun h => h.putResult o.d 4 l y.2.1 y.2.2)))))

/-! SPDENSE and SPIMPORT at issue (09 R385; 04 R177). -/

/-- A densify's corner and sizes. -/
def sdLow (dw : List DWord) (i : Nat) : Nat := packed5 (dwAt dw 1) (dwAt dw 2) i
def sdSize (dw : List DWord) (i : Nat) : Nat := packed5 (dwAt dw 3) (dwAt dw 4) i

def seScope (dw : List DWord) : Nat := field (dwAt dw 5) 52 50
def seOsp (dw : List DWord) : Nat := field (dwAt dw 5) 49 48
def seOaddr (dw : List DWord) : Nat := field (dwAt dw 5) 47 0

/-- A scope by its code. -/
def scopeOf (n : Nat) : Scope :=
  match n with
  | 0 => .gang
  | 1 => .team
  | 2 => .clus
  | 3 => .die
  | 4 => .dev
  | _ => .sys

/-- The rules of a densify's box (04 R177): it lies within the region, and its sizes, since an element stands at its
box offset there, within the destination. -/
def denseOk (r : Region) (dst dw : List DWord) : Bool :=
  teClass dst == 0 && teFmt dst == teFmt r.e &&
  (List.range (teRank r.e)).all (fun i =>
    decide (1 ≤ sdSize dw i) && decide (sdLow dw i + sdSize dw i ≤ teExt r.e i) &&
      decide (sdSize dw i ≤ teExt dst i))

/-- The bytes of a densify's box. -/
def denseBytes (r : Region) (dw : List DWord) : Nat :=
  ((List.range (teRank r.e)).map (sdSize dw)).foldl (· * ·) r.size

/-- The checks of an engine operation of the unit but for handles and object. -/
def sparseEngineFails (isImport : Bool) (r : Region) (dst dw : List DWord) : Fails :=
  let addr (k : Nat) : Nat := field (dwAt dw k) 47 0
  let zeros :=
    if isImport then
      field (dwAt dw 0) 63 32 == 0 && [1, 2, 3, 4].all (fun k => field (dwAt dw k) 63 48 == 0)
    else field (dwAt dw 0) 63 32 == 0 && field (dwAt dw 2) 63 56 == 0 && field (dwAt dw 4) 63 56 == 0
  (if isImport then
    failIf (addr 1 % 8 != 0) .align (addr 1) ++ failIf (addr 2 % 4 != 0) .align (addr 2) ++
    failIf (addr 3 % (max r.size 1) != 0) .align (addr 3) ++ failIf (addr 4 % 8 != 0) .align (addr 4)
   else []) ++
  failIf (seOaddr dw % 8 != 0) .align (seOaddr dw) ++
  failIf (!zeros || field (dwAt dw 5) 63 53 != 0 || decide (5 < seScope dw) || teClass r.e != 1 ||
    (!isImport && !denseOk r dst dw)) .perm 0

/-- SPDENSE and SPIMPORT at issue: the handles, the checks of R385, then the operation with its
snapshots. It waits for the gang's earlier sparse lanes that wait for a page (04 R166). -/
def State.sparseEngine (s : State) (isImport : Bool) (o : SpEngineOp) : State :=
  s.perIssue [] (fun g p =>
    if g.treeWaits s.cur then s else
    let dw := g.descriptor o.s
    let h := field (g.sreg o.h) 31 0
    let h2 := field (dwAt dw 0) 31 0
    let r : Region := ⟨g.ctxKey, s.ttEntry g.ctxKey (handleSlot h)⟩
    let dst := if isImport then [] else s.ttEntry g.ctxKey (handleSlot h2)
    let go : State :=
      s.withObject g p (sparseEngineFails isImport r dst dw) (s.engineObject g (seOsp dw) (seOaddr dw))
        (fun loc =>
          let x : SparseOp :=
            { isImport := isImport, who := s.issuerOf g p, dw := dw, entry := r.e, handle := h, dst := dst
              dstHandle := if isImport then 0 else h2, obj := ⟨loc, scopeOf (seScope dw), none⟩, row := 0
              entry_ := none, status := none, finished := false }
          let s := s.ttTouch s.cur.core g.ctxKey (handleSlot h)
          let s := s.modCore s.cur.core (fun k =>
            { k with sparse := match mfree k.sparse (4096 * g.bank) (k.sparse.length + 1) with
              | some i => mput k.sparse i x
              | none => k.sparse })
          s.completeIssue)
    s.onEntry g (handleSlot h)
      (if !s.handleOk g.ctxKey h then s.trapAll g p .staleTid (BitVec.ofNat 64 h)
       else if isImport then go
       else
         s.onEntry g (handleSlot h2)
           (if s.handleOk g.ctxKey h2 then go else s.trapAll g p .staleTid (BitVec.ofNat 64 h2))))

def execSpdense (o : SpEngineOp) (s : State) : Host.Outcome State Fault Refusal := finish (s.sparseEngine false o)
def execSpimport (o : SpEngineOp) (s : State) : Host.Outcome State Fault Refusal := finish (s.sparseEngine true o)

/-! Completing a densify (04 R177; 09 R385). -/

/-- The region of an engine operation. -/
def SparseOp.region (x : SparseOp) : Region := ⟨x.who.ctx, x.entry⟩

/-- The box offsets of element n of a densify, dimension 0 innermost. -/
def boxOffset (r : Region) (dw : List DWord) (n i : Nat) : Nat :=
  if i < teRank r.e then
    n / ((List.range i).map (sdSize dw)).foldl (· * ·) 1 % sdSize dw i
  else 0

/-- An element of a densify: its value and its destination's address, which its box offset gives (04 R177). -/
def State.denseElem (s : State) (x : SparseOp) (n : Nat) : Except SpStop (Nat × Nat × Map Node) :=
  let r := x.region
  match r.key (fun i => sdLow x.dw i + boxOffset r x.dw n i) with
  | none => .error (.cause .perm 0)
  | some k =>
    match readKey s r k [] with
    | .error e => .error e
    | .ok (v, buf) => .ok (v, elemAddr x.dst (boxOffset r x.dw n), buf)

/-- Writes an element of a densify at its home, with the bits that its pages need. -/
def State.denseWrite (s : State) (c : Nat) (x : SparseOp) (n : Nat) : Except SpStop State :=
  match s.denseElem x n with
  | .error e => .error e
  | .ok (v, va, buf) =>
    match s.unitPieces x.who.ctx va x.region.size .store with
    | .error e => .error e
    | .ok ps =>
      let s := buf.foldl (fun (s : State) y =>
        (pagePieces y.1 y.2.bytes.length).foldl (fun s p => s.engineTouch x.who.ctx p.1 false) s) s
      let s := (pagePieces va x.region.size).foldl (fun (s : State) p => s.engineTouch x.who.ctx p.1 true) s
      let r := ps.foldl
        (fun (y : State × List Byte) p => (y.1.engineWrite c p.1 (y.2.take p.2), y.2.drop p.2))
        (s, bytesOf x.region.size v)
      .ok r.1

/-- The elements of a densify. -/
def SparseOp.elems (x : SparseOp) : Nat := denseBytes x.region x.dw / max x.region.size 1

/-- The first thing that stops a densify, the faults before pages that are not there. -/
def State.denseStop (s : State) (c : Nat) (x : SparseOp) : Option SpStop :=
  let es := (List.range x.elems).filterMap (fun n => match s.denseWrite c x n with
    | .error e => some e
    | .ok _ => none)
  match es.find? (fun e => match e with
      | .absent _ _ _ => false
      | _ => true) with
  | some e => some e
  | none => es.head?

/-- Every element written that may be. -/
def State.denseAll (s : State) (c : Nat) (x : SparseOp) (keep : Nat → Bool) : State :=
  ((List.range x.elems).filter keep).foldl
    (fun (s : State) n => match s.denseWrite c x n with
      | .ok t => t
      | .error _ => s) s

/-- An engine operation of the unit whose writes are made: its signal, when its object's page is there. -/
def State.sparseSignal (s : State) (c i : Nat) (x : SparseOp) (n : Nat) : State :=
  let s := s.fqSettle (x.who.ctx / 256) (x.who.ctx % 256)
  let s := s.modCore c (fun k => { k with sparse := mput k.sparse i { x with finished := true } })
  s.opHeld c x.who .signal (s.objHindrance c x.who x.obj) (fun _ =>
    (s.engineSignal c x.who x.obj n).dropSparse c i)

/-- An operation of the unit that cannot go on: a fault is left to DEFERRED_FAULT. -/
def State.sparseHeld (s : State) (c : Nat) (who : Issuer) (e : SpStop) : State :=
  match e with
  | .absent va l kind => s.opHeld c who kind (.absent [(va, l)]) (fun _ => s)
  | .memoryError pa => s.opHeld c who .load (.memoryError pa) (fun _ => s)
  | .noMemory pa => s.opHeld c who .load (.noMemory pa) (fun _ => s)
  | _ => s

/-- SPDENSE_COMPLETE. -/
def State.spdenseComplete (s : State) (c i : Nat) : State :=
  match mfind? (s.core c).sparse i with
  | none => s
  | some x =>
    if x.isImport || !s.engineRuns c x.who.ctx then s
    else if x.finished then s.sparseSignal c i x (denseBytes x.region x.dw)
    else
      match s.denseStop c x with
      | none => (s.denseAll c x (fun _ => true)).sparseSignal c i x (denseBytes x.region x.dw)
      | some e => s.sparseHeld c x.who e

def execSpdenseComplete (core index : Nat) (s : State) : Host.Outcome State Fault Refusal :=
  finish (s.spdenseComplete core index)

/-! Importing rows (04 R178, R179). -/

/-- How a run of an import goes on. -/
inductive ImportEnd where
  | more
  | rows (status : Nat)
  | stop (e : SpStop)
  deriving DecidableEq, Repr

def imRp (dw : List DWord) : Nat := field (dwAt dw 1) 47 0
def imCi (dw : List DWord) : Nat := field (dwAt dw 2) 47 0
def imVa (dw : List DWord) : Nat := field (dwAt dw 3) 47 0
def imStatus (dw : List DWord) : Nat := field (dwAt dw 4) 47 0
def imRows (dw : List DWord) : Nat := field (dwAt dw 0) 31 0

/-- The status word (04 R179). -/
def importStatus (code row : Nat) : Nat := code * 2 ^ 56 + row

/-- A read of an array: the issuing core's dirty words go to their homes first (09 R385). -/
def State.arrayRead (s : State) (c ctx va n : Nat) : State × Except SpStop (List Byte) :=
  if n = 0 then (s, .ok [])
  else if 2 ^ 48 < va + n then (s, .error (.cause .perm va))
  else
    let s := s.beforeEngine c ctx [(va, n)]
    match s.unitRead ctx va n with
    | .ok b => ((pagePieces va n).foldl (fun (s : State) p => s.engineTouch ctx p.1 false) s, .ok b)
    | .error e => (s, .error e)

/-- The check of a row (04 R179): its status code, or its first and last entry. -/
def State.rowCheck (s : State) (c : Nat) (x : SparseOp) (k : Nat) : State × Except SpStop (Nat ⊕ Nat × Nat) :=
  let r := x.region
  match s.arrayRead c x.who.ctx (imRp x.dw + 8 * k) 16 with
  | (s, .error e) => (s, .error e)
  | (s, .ok b) =>
    let p0 := num b 0 8
    let p1 := num b 8 8
    if p1 < p0 then (s, .ok (.inl 1))
    else
      match s.arrayRead c x.who.ctx (imCi x.dw + 4 * p0) (4 * (p1 - p0)) with
      | (s, .error e) => (s, .error e)
      | (s, .ok cs) =>
        if (List.range (p1 - p0)).any (fun i => decide (teExt r.e 0 ≤ num cs (4 * i) 4)) then (s, .ok (.inl 2))
        else if teSpace r.e ≤ k * teExt r.e 0 then (s, .ok (.inl 4))
        else (s, .ok (.inr (p0, p1)))

/-- One entry of a row (04 R178): the status code that stops the import, or nothing. -/
def State.importEntry (s : State) (c : Nat) (x : SparseOp) (k e : Nat) : State × Except SpStop (Option Nat) :=
  let r := x.region
  match s.arrayRead c x.who.ctx (imCi x.dw + 4 * e) 4 with
  | (s, .error st) => (s, .error st)
  | (s, .ok ci) =>
    match s.arrayRead c x.who.ctx (imVa x.dw + r.size * e) r.size with
    | (s, .error st) => (s, .error st)
    | (s, .ok v) =>
      match s.storeKey c r (k * teExt r.e 0 + ofBytes ci) (ofBytes v) with
      | .ok s => (s, .ok none)
      | .error .pool => (s, .ok (some 3))
      | .error (.malformed _) => (s, .ok (some 5))
      | .error (.split _) => (s, .ok (some 6))
      | .error st => (s, .error st)

/-- The entries of a row from one on; where it stops. -/
def State.importRow (s : State) (c : Nat) (x : SparseOp) (k : Nat) : Nat → Nat → State × SparseOp × ImportEnd
  | 0, _ => (s, { x with row := k + 1, entry_ := none }, .more)
  | n + 1, e =>
    match s.importEntry c x k e with
    | (s, .ok none) => s.importRow c x k n (e + 1)
    | (s, .ok (some code)) => (s, x, .rows (importStatus code k))
    | (s, .error st) => (s, { x with row := k, entry_ := some (e, e + n + 1) }, .stop st)

/-- The rows of an import from where it stands. -/
def State.importRows (s : State) (c : Nat) : Nat → SparseOp → State × SparseOp × ImportEnd
  | 0, x => (s, x, .rows (importStatus 0 (imRows x.dw)))
  | n + 1, x =>
    let k := x.row
    let check : State × Except SpStop (Nat ⊕ Nat × Nat) :=
      match x.entry_ with
      | some y => (s, .ok (.inr y))
      | none => s.rowCheck c x k
    match check with
    | (s, .error st) => (s, x, .stop st)
    | (s, .ok (.inl code)) => (s, x, .rows (importStatus code k))
    | (s, .ok (.inr (p0, p1))) =>
      match s.importRow c x k (p1 - p0) p0 with
      | (s, x, .more) => s.importRows c n x
      | r => r

/-- An import as far as it goes: the rows, then its status word. -/
def State.importRun (s : State) (c : Nat) (x : SparseOp) : State × SparseOp × Option SpStop :=
  let (s, x, e) :=
    match x.status with
    | some w => (s, x, ImportEnd.rows w)
    | none => s.importRows c (imRows x.dw - x.row) x
  match e with
  | .more => (s, x, none)
  | .stop st => (s, x, some st)
  | .rows w =>
    match s.unitAccess x.who.ctx (imStatus x.dw) 8 .store with
    | .error st => (s, { x with status := some w }, some st)
    | .ok pa =>
      let s := s.engineTouch x.who.ctx (imStatus x.dw) true
      (s.engineWrite c pa (bytesOf 8 w), { x with status := some w, finished := true }, none)

/-- SPIMPORT_COMPLETE: the entries before what stops it stay; it goes on from there. -/
def State.spimportComplete (s : State) (c i : Nat) : State :=
  match mfind? (s.core c).sparse i with
  | none => s
  | some x =>
    if !x.isImport || !s.engineRuns c x.who.ctx then s
    else if x.finished then s.sparseSignal c i x 8
    else
      let (s, x, st) := s.importRun c x
      let s := s.modCore c (fun k => { k with sparse := mput k.sparse i x })
      match st with
      | none => s.sparseSignal c i x 8
      | some e => s.sparseHeld c x.who e

def execSpimportComplete (core index : Nat) (s : State) : Host.Outcome State Fault Refusal :=
  finish (s.spimportComplete core index)

/-! Deferred faults (09 R358). -/

/-- The end of an operation of the unit by a fault. -/
def State.sparseFail (s : State) (c i : Nat) (who : Issuer) (e : SpStop) : State :=
  match e with
  | .cause k a => s.faultOp who k a (fun t => t.dropSparse c i)
  | .malformed va => s.faultOp who .perm va (fun t => t.dropSparse c i)
  | _ => s

/-- The deferred fault of an operation of the unit: in its pages or tree, or in its object's page. -/
def State.sparseDeferred (s : State) (c i : Nat) : State :=
  match mfind? (s.core c).sparse i with
  | none => s
  | some x =>
    if !s.engineRuns c x.who.ctx then s
    else if x.finished then
      match s.objHindrance c x.who x.obj with
      | .fault k a => s.faultOp x.who k a (fun t => t.dropSparse c i)
      | _ => s
    else if x.isImport then
      let (t, y, st) := s.importRun c x
      match st with
      | some (.cause k a) =>
        let t := t.modCore c (fun k => { k with sparse := mput k.sparse i y })
        t.sparseFail c i x.who (.cause k a)
      | _ => s
    else
      match s.denseStop c x with
      | some (.cause k a) => (s.denseAll c x (Config.hadWritten s.tick)).sparseFail c i x.who (.cause k a)
      | some (.malformed va) => (s.denseAll c x (Config.hadWritten s.tick)).sparseFail c i x.who (.malformed va)
      | _ => s

/-- DEFERRED_FAULT: the matrix unit reads no global page and meets none. -/
def execDeferredFault (core : Nat) (unit : EngineUnit) (index : Nat) (s : State) :
    Host.Outcome State Fault Refusal :=
  finish (match unit with
    | .copy => s.copyDeferred core index
    | .sparse => s.sparseDeferred core index
    | .matrix => s)

end Sys2Proof.Machine
end

