-- ==== Sys2Proof/Machine/Queue.lean ====
section
/-! DEFINITION. Device queues: ENQ, DEQ, QSTAT and the queue commands (spec 09 R386 to R388; 15 R487 to
R489).
-/

namespace Sys2Proof.Machine

/-! The queue table (15 R488). -/

/-- The key of a queue of a partition. -/
def queueKey (part q : Nat) : Nat := part * 4096 + q

/-- A queue that exists. -/
def State.queue? (s : State) (part q : Nat) : Option Queue := mfind? s.queues (queueKey part q)

/-- The physical address of an entry of the queue table. -/
def Partition.queueEntry (x : Partition) (q : Nat) : Nat := field x.qtBase 47 0 + 32 * q

/-- The die of a cluster. -/
def dieOfCluster (k : Nat) : Nat := k / 4

/-- Whether a partition covers a die: one of its clusters lies on it. -/
def coversDie (part size d : Nat) : Bool :=
  (List.range size).any (fun i => dieOfCluster (part + i) == d)

/-- Whether the entry of a create is valid (15 R488): zero fields, CAP, BANK, DIE and the objects. -/
def Partition.queueEntryOk (x : Partition) (part : Nat) (e : List DWord) : Bool :=
  let d0 := dwAt e 0
  field d0 61 45 == 0 && field d0 31 18 == 0 && field d0 11 8 == 0 &&
  decide (1 ≤ field d0 44 32) && decide (field d0 44 32 ≤ 4096) &&
  decide (field d0 17 14 < x.qbanks) && coversDie part x.size (field d0 13 12) &&
  field (dwAt e 1) 63 48 == 0 && field (dwAt e 1) 2 0 == 0 &&
  field (dwAt e 2) 63 48 == 0 && field (dwAt e 2) 2 0 == 0 && dwAt e 3 == 0

/-- The items that a bank's live queues hold storage for (15 R489). -/
def State.bankUsed (s : State) (part die bank : Nat) : Nat :=
  (s.queues.filter (fun q => q.2.part == part && q.2.die == die && q.2.bank == bank)).foldl
    (fun n q => n + q.2.cap) 0

/-- The end of a queue command: BUSY clears and CODE is written, 0x04 when the register was written meanwhile
(15 R487; log entry 54). -/
def State.queueDone (s : State) (part q code : Nat) : State :=
  s.modPart part (fun x => { x with
    qNum := q, qCode := if x.qAgain then 4 else code, qBusy := false, qOp := 0, qAgain := false })

/-- A write of the queue command register (15 R487): QNUM, and with OP 1 or 2 a command, BUSY until its event. A write
while BUSY does nothing but what CODE tells. -/
def State.queueWrite (s : State) (part : Nat) (val : DWord) : State :=
  s.modPart part (fun x =>
    if x.qBusy then { x with qAgain := true }
    else
      let op := field val 17 16
      { x with qNum := field val 11 0, qBusy := op == 1 || op == 2, qOp := if op = 3 then 0 else op })

/-- Whether the event of a queue command, given as its OP and queue number, may happen: the command is in progress, or
none is and the event stands for the write as well. -/
def Partition.queueTurn (x : Partition) (op q : Nat) : Bool := !x.qBusy || (x.qOp == op && x.qNum == q % 4096)

/-- The create command (15 R487 to R489): a live queue gives 0x03 before the entry is looked at. -/
def State.queueCreate (s : State) (part q : Nat) : State :=
  match s.part? part with
  | none => s
  | some x =>
    let q := q % 4096
    let a := x.queueEntry q
    let s := s.touch a 32
    let e := (List.range 4).map (fun k => s.dword (a + 8 * k))
    let d0 := dwAt e 0
    if (s.queue? part q).isSome then s.queueDone part q 3
    else if !x.queueEntryOk part e then s.queueDone part q 1
    else if 4096 < s.bankUsed part (field d0 13 12) (field d0 17 14) + field d0 44 32 then s.queueDone part q 2
    else
      let n : Queue :=
        { part := part, ctx := field d0 7 0, cap := field d0 44 32, die := field d0 13 12,
          bank := field d0 17 14, iobj := field (dwAt e 1) 47 0, sobj := field (dwAt e 2) 47 0, items := [] }
      let s := s.setDword a (BitVec.ofNat 64 (field d0 61 0 + 2 ^ 62))
      { s with queues := mput s.queues (queueKey part q) n }.queueDone part q 0

/-- The destroy command (15 R489). -/
def State.queueDestroy (s : State) (part q : Nat) : State :=
  match s.part? part with
  | none => s
  | some x =>
    let q := q % 4096
    let a := x.queueEntry q
    if (s.queue? part q).isNone then s.queueDone part q 3
    else
      let s := s.setDword a (BitVec.ofNat 64 (field (s.dword a) 61 0))
      { s with queues := mdel s.queues (queueKey part q) }.queueDone part q 0

def execQueueCreate (part q : Nat) (s : State) : Host.Outcome State Fault Refusal :=
  finish (match s.part? part with
    | some x => if x.queueTurn 1 q then s.queueCreate part q else s
    | none => s)
def execQueueDestroy (part q : Nat) (s : State) : Host.Outcome State Fault Refusal :=
  finish (match s.part? part with
    | some x => if x.queueTurn 2 q then s.queueDestroy part q else s
    | none => s)

/-! ENQ, DEQ and QSTAT (09 R386 to R388). -/

/-- The queue that a scalar names for a gang: of the gang's own context (15 R489). -/
def State.queueOf (s : State) (g : Gang) (n : Nat) : Option (Nat × Queue) :=
  let v := (g.sreg n).toNat
  if 4096 ≤ v then none
  else
    match s.queue? g.part v with
    | some q => if q.ctx = g.ctx then some (queueKey g.part v, q) else none
    | none => none

/-- The registers from r upward of a lane as words. -/
def Gang.words (g : Gang) (l r n : Nat) : List Word := (List.range n).map (fun i => g.reg (r + i) l)

/-- The item that an ENQ's lane offers. -/
def Gang.itemOf (g : Gang) (l : Nat) : Src → List Word
  | .reg r => g.words l r 3
  | x => [g.src l x, 0, 0]

/-- What the lanes of a mask record when the object of a queue cannot be added to: a request for its page, or the
cause of the write, SEAL in a sealed range (03 R150; 14 R460). -/
def State.objectStops (s : State) (g : Gang) (p : LaneMask) (va : Nat) : List TrapRec :=
  match s.litAccess g.ctxKey va 8 .signal with
  | .nres l =>
    (lanesOf p).map (fun i =>
      ⟨i, .nres, BitVec.ofNat 64 va, some ⟨va, g.ctx, s.cur.core, 4, AccKind.signal.acc, 0, l.va⟩⟩)
  | .cause c => (lanesOf p).map (fun i => .plain i c (BitVec.ofNat 64 va))
  | _ => []

/-- One relaxed addition of 1 to a queue's object (09 R387). -/
def State.queueSignal (s : State) (c ctx va : Nat) : State := (s.engineTouch ctx va true).objAdd c ctx (.global va) 1

/-- A memory error at the object of a queue. -/
def State.objectError (s : State) (g : Gang) (va : Nat) : Option Nat :=
  match s.litAccess g.ctxKey va 8 .signal with
  | .memoryError pa => some pa
  | _ => none

/-- The object of a queue cannot be reached now: it is homed on a die under reset (16 R512), or names no memory. -/
def State.objectAway (s : State) (g : Gang) (va : Nat) : Option Nat :=
  match s.litAccess g.ctxKey va 8 .signal with
  | .noMemory pa => some pa
  | _ => none

/-- The shape of the queue instructions of lanes: the queue, its object when an item moves, then the act. -/
def State.onQueue (s : State) (regs : List Nat) (q : Nat) (moves : Queue → Bool) (obj : Queue → Nat)
    (k : Gang → LaneMask → Nat → State) : State :=
  s.issue regs (fun g =>
    let p := g.parts s.cur false
    if p = 0 then k g p 0
    else
      match s.queueOf g q with
      | none => s.trapAll g p .perm 0
      | some (key, x) =>
        if !moves x then k g p key
        else
          match s.objectAway g (obj x), s.objectError g (obj x), s.objectStops g p (obj x) with
          | some pa, _, _ => s.noteBad pa
          | none, some pa, _ => s.gangFault s.cur.core s.cur.slot 5 0 pa g []
          | none, none, [] => k g p key
          | none, none, recs => s.trap g recs)

/-- One lane of an ENQ: its status, and the queue with its item when there was room. -/
def State.enqLane (s : State) (c ctx key : Nat) (item : List Word) : State × Nat :=
  match mfind? s.queues key with
  | none => (s, 1)
  | some q =>
    if q.cap ≤ q.items.length then (s, 1)
    else
      ({ s with queues := mput s.queues key { q with items := q.items ++ [item] } }.queueSignal c ctx q.iobj, 0)

/-- One lane of a DEQ: the item that left. -/
def State.deqLane (s : State) (c ctx key : Nat) : State × Option (List Word) :=
  match mfind? s.queues key with
  | none => (s, none)
  | some q =>
    match q.items with
    | [] => (s, none)
    | x :: xs => ({ s with queues := mput s.queues key { q with items := xs } }.queueSignal c ctx q.sobj, some x)

/-- The lanes of an ENQ in ascending order, with the status of each. -/
def State.enqLanes (s : State) (g : Gang) (key : Nat) (v : Src) (ls : List Nat) : State × Map Nat :=
  ls.foldl
    (fun (x : State × Map Nat) l =>
      let r := x.1.enqLane s.cur.core g.ctxKey key (g.itemOf l v)
      (r.1, mput x.2 l r.2))
    (s, [])

def execEnq (o : EnqOp) (s : State) : Host.Outcome State Fault Refusal :=
  finish (s.onQueue (useDst 1 o.d ++ useSrc 3 o.v) o.q (fun x => decide (x.items.length < x.cap)) Queue.iobj (fun g p key =>
    let r := s.enqLanes g key o.v (lanesOf p)
    r.1.onGang (fun h =>
      (h.writeVec s.tick s.cur p o.d false false (fun l => BitVec.ofNat 64 (mget 0 r.2 l))).advance s.cur)))

/-- One lane of a DEQ with its destination quad: the status, then the item or zeros. -/
def State.deqInto (s : State) (d : Dst) (g : Gang) (key l : Nat) : State :=
  let (s, x) := s.deqLane s.cur.core g.ctxKey key
  let w (i : Nat) : Word := (x.getD []).getD i 0
  s.onGang (fun h =>
    h.putResult d 4 l (joinWords (if x.isSome then 0 else 1) (w 0)) (joinWords (w 1) (w 2)))

def execDeq (o : DeqOp) (s : State) : Host.Outcome State Fault Refusal :=
  finish (s.onQueue (useDst 4 o.d) o.q (fun x => !x.items.isEmpty) Queue.sobj (fun g p key =>
    let s := (lanesOf p).foldl (fun (s : State) l => s.deqInto o.d g key l) s
    s.completeLoad o.d true))

def execQstat (o : QstatOp) (s : State) : Host.Outcome State Fault Refusal :=
  finish (s.perIssue [] (fun g p =>
    match s.queueOf g o.q with
    | none => s.trapAll g p .perm 0
    | some (_, q) => s.finishScalar o.d (BitVec.ofNat 64 (q.cap * 2 ^ 32 + q.items.length))))

end Sys2Proof.Machine
end

