-- ==== Sys2Proof/Machine/Placement.lean ====
section
/-! DEFINITION. Where a team part fits and how it is placed (spec 01 R26, R46, R65 to R67; 03 R115, R122; 13
R441; 15 R478, R482 to R485; 16 R503).
-/

namespace Sys2Proof.Machine

/-! Free runs (01 R66). -/

/-- Whether [a, a + n) meets none of some intervals, given as base and length. -/
def clearOf (used : List (Nat × Nat)) (a n : Nat) : Bool :=
  used.all (fun u => decide (a + n ≤ u.1) || decide (u.1 + u.2 ≤ a))

/-- The lowest a at which a run of n fits below a total beside some intervals. The lowest run begins at 0 or
where an interval ends. -/
def lowestRun (total : Nat) (used : List (Nat × Nat)) (n : Nat) : Option Nat :=
  leastOf ((0 :: used.map (fun u => u.1 + u.2)).filter (fun a => decide (a + n ≤ total) && clearOf used a n))

/-- The lowest runs of n for k parties one after the other. -/
def lowestRuns (total n : Nat) : Nat → List (Nat × Nat) → Option (List Nat)
  | 0, _ => some []
  | k + 1, used =>
    match lowestRun total used n with
    | none => none
    | some a => (lowestRuns total n k ((a, n) :: used)).map (a :: ·)

/-! Fitting (01 R66; 13 R441). -/

/-- The positions of a part on a core. -/
structure Fit where
  slots : List Nat
  rows : List Nat
  granule0 : Nat
  tile0 : Nat
  bank : Nat
  cream0 : Nat
  bind0 : Nat
  deriving DecidableEq, Repr

/-- The bank of a core that holds a context or is empty; none where the context is saved (13 R441,
16 R503). The lower of two empty banks is taken. -/
def Core.bankFor (k : Core) (ctx : Nat) : Option Nat :=
  let b (i : Nat) : Bank := mget .free k.banks i
  let holds := below 2 (fun i => (b i).ctx == some ctx)
  match holds with
  | i :: _ => if (b i).saved then none else some i
  | [] => (below 2 (fun i => (b i).ctx.isNone)).head?

/-- Where a part of a launch fits on a core. -/
def Core.fit (k : Core) (dw : List DWord) : Option Fit :=
  let n := tcbGangs dw
  let free := below 32 (fun i => (mfind? k.slots i).isNone)
  let live := k.parts.filter (fun t => !t.ended)
  match k.bankFor (tcbCtx dw) with
  | none => none
  | some b =>
    if free.length < n then none
    else do
      let rows ← lowestRuns 2048 (tcbVregs dw) n (k.slots.map (fun g => (g.2.rows, g.2.vregs)))
      let gr ← lowestRun 128 (live.map (fun t => (t.granule0, t.granules))) ((tcbScratch dw + 4095) / 4096)
      let ti ← lowestRun 4 (live.map (fun t => (t.tile0, t.tiles))) (tcbAcc dw)
      let cr ← lowestRun 32 ((live.filter (fun t => t.bank == b)).map (fun t => (t.cream0, t.creams))) (tcbCream dw)
      let bi ← lowestRun 64 ((k.parts.filter (fun t => t.bank == b)).map (fun t => (t.bind0, t.binds))) (tcbBind dw)
      some ⟨free.take n, rows, gr, ti, b, cr, bi⟩

/-- Whether a reset of a core is in progress (16 R511, R512). -/
def ResetReg.covers (r : ResetReg) (c : Nat) : Bool :=
  r.busy && (match r.nowKind with
    | 1 => c == r.nowTarget
    | 2 => c / 64 == r.nowTarget / 64
    | 3 => c / 256 == r.nowTarget / 256
    | _ => false)

/-- Whether a core of a partition takes teams now: not under reset. -/
def State.coreUp (s : State) (c : Nat) : Bool := !s.dev.resetReg.covers c

/-- Where a part of a launch fits on a core now. -/
def State.fitOn (s : State) (c : Nat) (dw : List DWord) : Option Fit :=
  if s.coreUp c then (s.core c).fit dw else none

/-! Placing (03 R115; 01 R46; 15 R478). -/

/-- The part that a fit gives. -/
def Fit.part (f : Fit) (l : Launch) (n team number : Nat) (cores : List Nat) : TeamPart :=
  { launch := n, part := l.part, ctx := l.ctx, team := team, number := number, cores := cores,
    slots := f.slots, bank := f.bank, granule0 := f.granule0, scratch := tcbScratch l.dw,
    tile0 := f.tile0, tiles := tcbAcc l.dw, cream0 := f.cream0, creams := tcbCream l.dw,
    bind0 := f.bind0, binds := tcbBind l.dw, ended := false }

/-- The memories of a part at its placement: scratchpad zero, owners threads, tiles and cream slots at
their placement states, bindings empty (03 R115, R122; 05 R185). -/
def Core.clearPart (k : Core) (t : TeamPart) : Core :=
  let lo := 4096 * t.granule0
  let hi := 4096 * (t.granule0 + t.granules)
  { k with
    scratch := mfilter (fun a _ => !(decide (lo ≤ a) && decide (a < hi))) k.scratch
    granules := mfilter (fun g _ => !t.hasGranule g) k.granules
    tiles := mfilter (fun i _ => !(decide (t.tile0 ≤ i) && decide (i < t.tile0 + t.tiles))) k.tiles
    cream := mfilter (fun i _ => !(decide (t.creamAt 0 ≤ i) && decide (i < t.creamAt t.creams))) k.cream
    binds := mfilter (fun i _ =>
      !(decide (64 * t.bank + t.bind0 ≤ i) && decide (i < 64 * t.bank + t.bind0 + t.binds))) k.binds }

/-- The start of gang j of a part (01 R46, 15 R472). -/
def Fit.gang (f : Fit) (l : Launch) (n team number arrivals j : Nat) : GangStart :=
  { part := l.part, ctx := l.ctx, launch := n, seq := tcbSeq l.dw, team := team,
    index := number * tcbGangs l.dw + j, bank := f.bank, slot := f.slots.getD j 0, rows := f.rows.getD j 0,
    vregs := tcbVregs l.dw, code := tcbCode l.dw, emuEntry := tcbEmu l.dw, trapEntry := tcbTrap l.dw,
    entry := tcbEntry l.dw, args := tcbArgs l.dw, lanes := min 32 (tcbLanes l.dw - 32 * j),
    arrival := arrivals + j }

/-- A core with a part and its gangs. -/
def Core.placePart (k : Core) (f : Fit) (l : Launch) (n team number : Nat) (cores : List Nat) : Core :=
  let t := f.part l n team number cores
  let k := k.clearPart t
  let gs := (List.range (tcbGangs l.dw)).map (fun j => Gang.start (f.gang l n team number k.arrivals j))
  { k with
    slots := gs.foldl (fun m g => mput m g.slot g) k.slots
    parts := k.parts ++ [t]
    banks := mput k.banks f.bank ⟨some l.ctx, false, (mget .free k.banks f.bank).held⟩
    arrivals := k.arrivals + tcbGangs l.dw
    lastLaunch := some n }

/-- Places one part: after a part of another launch, the acquire of FENCE.acq at .dev comes first
(15 R478). -/
def State.placePart (s : State) (c : Nat) (f : Fit) (l : Launch) (n team number : Nat) (cores : List Nat) :
    State :=
  let s := if (s.core c).lastLaunch = some n then s else s.acquireAllWords c 2 l.part
  s.modCore c (fun k => k.placePart f l n team number cores)

/-- Notes that a team was placed: the launch runs (ST 3), and NEXT lies above it (15 R471, 16 R515). -/
def State.notePlaced (s : State) (n team : Nat) : State :=
  match mfind? s.launches n with
  | none => s
  | some l =>
    let s := s.modLaunch n (fun l =>
      { l with running := insertNat team l.running, placed := max l.placed (team + 1) })
    if s.tcbSt l.tcb = 2 then s.setDw6 l.tcb 3 (s.tcbPred l.tcb) else s

/-- Places a single-core team on a core, when it fits. -/
def State.placeTeam (s : State) (c n : Nat) (l : Launch) (team : Nat) : Option State :=
  (s.fitOn c l.dw).map (fun f => (s.placePart c f l n team 0 [c]).notePlaced n team)

/-- Places the parts of a wide team on chosen cores. -/
def State.placeParts (s : State) (n : Nat) (l : Launch) (team : Nat) (cores : List Nat) :
    List Nat → Nat → Option State
  | [], _ => some (s.notePlaced n team)
  | c :: cs, k =>
    match s.fitOn c l.dw with
    | none => none
    | some f => (s.placePart c f l n team k cores).placeParts n l team cores cs (k + 1)

/-- The clusters of a partition, ascending. -/
def clustersOf (p size : Nat) : List Nat := (List.range size).map (p + ·)

/-- The cores of a cluster where a part of a launch fits, ascending. -/
def State.fitting (s : State) (l : Launch) (cluster : Nat) : List Nat :=
  ((List.range 64).map (64 * cluster + ·)).filter (fun c => (s.fitOn c l.dw).isSome)

/-- Places a wide team on the lowest-numbered fitting cores of the lowest-numbered cluster where it fits
(15 R483). -/
def State.placeWide (s : State) (size n : Nat) (l : Launch) (team : Nat) : Option State :=
  let n' := tcbParts l.dw
  match ((clustersOf l.part size).map (s.fitting l)).find? (fun cs => decide (n' ≤ cs.length)) with
  | none => none
  | some cs => s.placeParts n l team (cs.take n') (cs.take n') 0

/-! Co-resident launches (15 R484). -/

/-- Places wide teams in ascending index. -/
def State.placeWideTeams (s : State) (size n : Nat) (l : Launch) : List Nat → Option State
  | [] => some s
  | t :: ts => (s.placeWide size n l t).bind (fun s => s.placeWideTeams size n l ts)

/-- One round of single-core teams over some cores: the machine and the teams left. -/
def State.placeRound (s : State) (n : Nat) (l : Launch) : List Nat → List Nat → State × List Nat
  | [], ts => (s, ts)
  | _, [] => (s, [])
  | c :: cs, t :: ts =>
    match s.placeTeam c n l t with
    | some s => s.placeRound n l cs ts
    | none => s.placeRound n l cs (t :: ts)

/-- Rounds until every team has a core; none when a round gives none. -/
def State.placeRounds (s : State) (n : Nat) (l : Launch) (cores : List Nat) : Nat → List Nat → Option State
  | _, [] => some s
  | 0, _ => none
  | k + 1, ts =>
    let r := s.placeRound n l cores ts
    if r.2.length = ts.length then none else r.1.placeRounds n l cores k r.2

/-- Places every team of a co-resident launch, or none. A partition holds at most 32 teams per core. -/
def State.placeAll (s : State) (size n : Nat) (l : Launch) : Option State :=
  let teams := tcbTeams l.dw
  if 32 * 64 * size < teams then none
  else if tcbParts l.dw = 1 then s.placeRounds n l (coresOfPart l.part size) teams (List.range teams)
  else s.placeWideTeams size n l (List.range teams)

/-- The machine as though a partition's cores were empty and up (15 R484). -/
def State.emptied (s : State) (p size : Nat) : State :=
  { s with
    cores := mfilter (fun c _ => !(coresOfPart p size).contains c) s.cores
    dev := { s.dev with resetReg := { s.dev.resetReg with busy := false } } }

/-! Energy admission (15 R485). -/

/-- An offer of an estimate: the account after it, and whether it is admitted. -/
def Partition.offer (x : Partition) (window est : Nat) : Partition × Bool :=
  let x := x.inWindow window
  let first := !x.offered
  let ok := x.ebudget == 0 || decide (est + x.used + x.adm ≤ x.ebudget) ||
    (first && decide (x.ebudget < est))
  ({ x with
     offered := true
     adm := if ok && x.ebudget != 0 then min (x.adm + est) 0xFFFFFFFF else x.adm }, ok)

/-- An offer of an estimate to a partition. -/
def State.offer (s : State) (p est : Nat) : State × Bool :=
  match s.part? p with
  | none => (s, false)
  | some x =>
    let r := x.offer s.windowNow est
    (s.modPart p (fun _ => r.1), r.2)

/-- The estimate of one team. -/
def Launch.estimate (l : Launch) : Nat := tcbEest l.dw

end Sys2Proof.Machine
end

