-- ==== Sys2Proof/Machine/Sched.lean ====
section
/-! DEFINITION. The queue unit: which team goes where next, prefetch and recall, placement, hold-back,
completion of launches and energy windows (spec 15 R476, R479 to R485; 16 R498, R513 to R515).
-/

namespace Sys2Proof.Machine

/-! Sending (15 R479 to R484). -/

/-- The next team of a launch: a lost team that is dispatched again, else the next index (15 R481,
16 R514). -/
def Launch.nextTeam (l : Launch) : Nat :=
  match l.again with
  | t :: _ => t
  | [] => l.next

/-- A launch without its next team. -/
def Launch.took (l : Launch) : Launch :=
  match l.again with
  | _ :: ts => { l with again := ts }
  | [] => { l with next := l.next + 1 }

/-- Whether a launch is a co-resident one, or of wide teams. -/
def Launch.waits (l : Launch) : Bool := tcbCores l.dw || decide (1 < tcbParts l.dw)

/-- The cores of a partition with a free prefetch slot, ascending: each holds a request (15 R482). -/
def State.requests (s : State) (p size : Nat) : List Nat :=
  (coresOfPart p size).filter (fun c => s.coreUp c && decide ((s.core c).prefetch.length < 2))

/-- Puts a team into a core's prefetch slot. -/
def State.prefetchTo (s : State) (c n team : Nat) : State :=
  s.modCore c (fun k => { k with prefetch := k.prefetch ++ [⟨n, team⟩] })

/-- The placement of a wide team or a co-resident launch that fits, when the window admits it; a refused
offer is kept (15 R485). -/
def State.placeAdmitted (s : State) (p est : Nat) (placed : State → Option State) : State × Bool :=
  match placed s with
  | none => (s, false)
  | some _ =>
    let r := s.offer p est
    if r.2 then ((placed r.1).getD r.1, true) else (r.1, false)

/-- Whether a launch keeps the younger ones back: a wide or co-resident one that has been the oldest with an undispatched
team for 100 µs (15 R481). -/
def Launch.holds (l : Launch) (now : Nat) : Bool :=
  l.hold || (l.waits && (match l.since with
    | some t => decide (t + cyclesPer100us ≤ now)
    | none => false))

/-- Sends the next team of a launch, or places its co-resident whole: the machine, and whether something
was sent. A co-resident launch that cannot fit even on the empty partition is refused (15 R484). -/
def State.sendOne (s : State) (p size n : Nat) (l : Launch) : State × Bool :=
  if (s.ctx (ctxKey p l.ctx)).state ≠ .live then (s, false)
  else if tcbCores l.dw then
    if s.stopping p then (s, false)
    else if ((s.emptied p size).placeAll size n l).isNone then (s.completeLaunch n 2, true)
    else
      let r := s.placeAdmitted p (l.estimate * tcbTeams l.dw) (fun s => s.placeAll size n l)
      (if r.2 then r.1.modLaunch n (fun l => { l with next := tcbTeams l.dw, again := [] }) else r.1, r.2)
  else if 1 < tcbParts l.dw then
    if s.stopping p then (s, false)
    else
      let r := s.placeAdmitted p l.estimate (fun s => s.placeWide size n l l.nextTeam)
      (if r.2 then r.1.modLaunch n Launch.took else r.1, r.2)
  else
    match s.requests p size with
    | [] => (s, false)
    | c :: _ => ((s.prefetchTo c n l.nextTeam).modLaunch n Launch.took, true)

/-- The first launch in order that can send now: the machine after it and its number. A launch that is
held for keeps the younger ones back (15 R481). -/
def State.sendFirst (s : State) (p size : Nat) : List Nat → State × Option Nat
  | [] => (s, none)
  | n :: ns =>
    match mfind? s.launches n with
    | none => s.sendFirst p size ns
    | some l =>
      let r := s.sendOne p size n l
      if r.2 then (r.1.noteOldest p, some n)
      else if l.holds s.time then (r.1, none)
      else r.1.sendFirst p size ns

/-! Recalls (15 R482). -/

/-- The launches of a partition whose teams a held launch keeps back: it and those after it (15 R481). -/
def State.keptBack (s : State) (p : Nat) (x : Partition) : List Nat :=
  match (s.sendable p).head? with
  | some n => if (match mfind? s.launches n with
      | some l => l.holds s.time
      | none => false) then x.launches.dropWhile (fun m => m != n) else []
  | none => []

/-- The prefetched teams on other cores of a partition that fit on a core now: core and team. -/
def State.recallable (s : State) (p : Nat) (x : Partition) (c : Nat) : List (Nat × Prefetched) :=
  (coresOfPart p x.size).flatMap (fun d =>
    if d = c then []
    else
      ((s.core d).prefetch.filter (fun y => match mfind? s.launches y.launch with
        | some l => (s.fitOn c l.dw).isSome && !(s.keptBack p x).contains y.launch
        | none => false)).map (fun y => (d, y)))

/-- The one of lowest team index. -/
def lowestTeam : List (Nat × Prefetched) → Option (Nat × Prefetched)
  | [] => none
  | x :: xs =>
    match lowestTeam xs with
    | none => some x
    | some y => if x.2.team ≤ y.2.team then some x else some y

/-- The recall for the lowest core whose request one can serve: the machine after it, and the team's launch. -/
def State.recall (s : State) (p : Nat) (x : Partition) : State × Option Nat :=
  if s.cores.all (fun k => k.2.prefetch.isEmpty) then (s, none)
  else
    match (s.requests p x.size).find? (fun c => !(s.recallable p x c).isEmpty) with
    | none => (s, none)
    | some c =>
      match lowestTeam (s.recallable p x c) with
      | none => (s, none)
      | some (e, y) =>
        ((s.modCore e (fun k => { k with prefetch := k.prefetch.filter (fun z => z != y) })).prefetchTo c
          y.launch y.team, some y.launch)

/-- What the queue unit of a partition sends next: only with EN, with banks, and not frozen (13 R437,
15 R479). With no other team to send it recalls one (15 R482). -/
def State.nextSend (s : State) (p : Nat) : State × Option Nat :=
  match s.part? p with
  | none => (s, none)
  | some x =>
    if !x.en || x.frz || x.qbanks == 0 then (s, none)
    else
      let r := s.sendFirst p x.size (s.sendable p)
      match r.2 with
      | some _ => r
      | none => r.1.recall p x

/-- The die that dispatches for a partition: its home die, or the mirror (15 R479, 16 R513). -/
def dispatchDie (p : Nat) (x : Partition) : Nat :=
  if x.mirror then (dieOfCluster p + 1) % 4 else dieOfCluster p

/-- The partitions that a die dispatches for and that can send, with the offers of those that cannot. -/
def State.senders (s : State) (d : Nat) : State × List (Nat × Partition) :=
  (s.parts.filter (fun x => dispatchDie x.1 x.2 == d)).foldl
    (fun (a : State × List (Nat × Partition)) x =>
      let r := a.1.nextSend x.1
      if r.2.isSome then (a.1, a.2 ++ [x]) else (r.1, a.2))
    (s, [])

/-- The highest PRIO of some partitions. -/
def topPrio (xs : List (Nat × Partition)) : Nat := (xs.map (fun x => x.2.prio)).foldl max 0

/-- The partition whose decision it is, and the decisions of its turn with this one: the highest PRIO, then turns of
WEIGHT decisions in that PRIO's cycle by lowest cluster (15 R480). -/
def Die.pick (d : Die) (xs : List (Nat × Partition)) : Option (Nat × Nat) :=
  let turn := mfind? d.turns (topPrio xs)
  let ys : List (Nat × Partition) := xs.filter (fun x => x.2.prio == topPrio xs)
  let again : Option (Nat × Nat) := turn.bind (fun t =>
    (ys.find? (fun y => y.1 == t.1 && decide (t.2 < y.2.weight))).map (fun y => (y.1, t.2 + 1)))
  match again with
  | some r => some r
  | none =>
    let later : List (Nat × Partition) := match turn with
      | some t => ys.filter (fun y => decide (t.1 < y.1))
      | none => ys
    match later ++ ys with
    | y :: _ => some (y.1, 1)
    | [] => none

/-- Whether a die may make a dispatch decision: one in a fabric cycle (15 R480), and none under reset (16 R512). -/
def State.mayDecide (s : State) (d : Nat) : Bool :=
  (s.die d).decided != some s.time && (s.coreUp (256 * d) || s.dev.resetReg.nowKind != 3)

/-- The next decision of a die: the machine after it, the partition and the launch that sent. -/
def State.decision (s : State) (d : Nat) : State × Option (Nat × Nat) :=
  if !s.mayDecide d then (s, none)
  else
    let r := s.senders d
    match (s.die d).pick r.2 with
    | none => (r.1, none)
    | some (p, granted) =>
      let t := r.1.modDie d (fun x =>
        { x with turns := mput x.turns (topPrio r.2) (p, granted), decided := some s.time })
      let u := t.nextSend p
      (u.1, u.2.map (fun n => (p, n)))

/-- DISPATCH_DECISION (15 R480). -/
def State.dispatchDecision (s : State) (d : Nat) : State := (s.decision d).1

def execDispatchDecision (die : Nat) (s : State) : Host.Outcome State Fault Refusal :=
  finish (s.dispatchDecision die)

/-- Once a waiting wide or co-resident launch has been the oldest for 100 µs, younger launches are held
back (15 R481). -/
def State.holdTimeout (s : State) (p : Nat) : State :=
  match (s.sendable p).head? with
  | none => s
  | some n =>
    s.modLaunch n (fun l =>
      match l.since with
      | some t => if l.waits && decide (t + cyclesPer100us ≤ s.time) then { l with hold := true } else l
      | none => l)

/-- DISPATCH_HOLD_TIMEOUT, in each partition. -/
def execDispatchHoldTimeout (s : State) : Host.Outcome State Fault Refusal :=
  finish (s.parts.foldl (fun (s : State) x => s.holdTimeout x.1) s)

/-! Prefetch requests (15 R482). -/

/-- PREFETCH_REQUEST: the decision of the die, when it sends a team, or one that it recalls, to this core. -/
def State.prefetchRequest (s : State) (c : Nat) : State :=
  match s.partOfCluster (clusterOfCore c) with
  | none => s
  | some (p, x) =>
    let r := s.decision (dispatchDie p x)
    if r.2.isSome && (r.1.core c).prefetch.length == (s.core c).prefetch.length + 1 then r.1 else s

def execPrefetchRequest (core : Nat) (s : State) : Host.Outcome State Fault Refusal :=
  finish (s.prefetchRequest core)

/-! Placement events (15 R482 to R485). -/

/-- TEAM_PLACEMENT: the core's oldest prefetched team, when it fits and is admitted. -/
def State.teamPlacement (s : State) (c : Nat) : State :=
  match s.partOfCluster (clusterOfCore c), (s.core c).prefetch with
  | some (p, _), x :: rest =>
    match mfind? s.launches x.launch with
    | none => s
    | some l =>
      if s.stopping p || (s.ctx (ctxKey p l.ctx)).state != .live then s
      else
        let r := s.placeAdmitted p l.estimate (fun s => s.placeTeam c x.launch l x.team)
        if r.2 then r.1.modCore c (fun k => { k with prefetch := rest }) else r.1
  | _, _ => s

def execTeamPlacement (core : Nat) (s : State) : Host.Outcome State Fault Refusal :=
  finish (s.teamPlacement core)

/-- The decision of the die that dispatches for a partition, when it sends for a launch of this partition of a kind. -/
def State.sendKind (s : State) (p : Nat) (kind : Launch → Bool) : State :=
  match s.part? p with
  | none => s
  | some x =>
    let r := s.decision (dispatchDie p x)
    match r.2 with
    | none => r.1
    | some (q, n) =>
      match mfind? s.launches n with
      | some l => if q = p && kind l then r.1 else s
      | none => s

/-- WIDE_TEAM_PLACEMENT (15 R483). -/
def execWideTeamPlacement (part : Nat) (s : State) : Host.Outcome State Fault Refusal :=
  finish (s.sendKind part (fun l => !tcbCores l.dw && decide (1 < tcbParts l.dw)))

/-- CORESIDENT_PLACEMENT (15 R484). -/
def execCoresidentPlacement (part : Nat) (s : State) : Host.Outcome State Fault Refusal :=
  finish (s.sendKind part (fun l => tcbCores l.dw))

/-! Completion and windows. -/

/-- Whether every team of a launch has ended, or an interrupted launch's teams have (15 R476; 16 R515). -/
def Launch.finished (l : Launch) : Bool :=
  l.running.isEmpty && (l.interrupted || decide (l.ended.length = tcbTeams l.dw))

/-- LAUNCH_COMPLETE: the oldest finished launch of a partition. -/
def State.launchComplete (s : State) (p : Nat) : State :=
  match s.part? p with
  | none => s
  | some x =>
    match x.launches.find? (fun n => match mfind? s.launches n with
      | some l => l.finished
      | none => false) with
    | none => s
    | some n =>
      match mfind? s.launches n with
      | some l => s.completeLaunch n (if l.interrupted then 4 else 1)
      | none => s

def execLaunchComplete (part : Nat) (s : State) : Host.Outcome State Fault Refusal := finish (s.launchComplete part)

/-- ENERGY_WINDOW_START: USED and ADM of every partition are cleared for a window that has begun
(15 R485). -/
def State.windowStart (s : State) : State :=
  { s with parts := mmapVals (fun _ x => x.inWindow s.windowNow) s.parts }

def execEnergyWindowStart (s : State) : Host.Outcome State Fault Refusal := finish s.windowStart

end Sys2Proof.Machine
end

