-- ==== Sys2Proof/Machine/Waits.lean ====
section
/-! DEFINITION. The events that end a wait: a signalled object, the watchdog, light faults, retries of absent
pages, code fills; and promotion with its end (spec 01 R24, R36 to R40; 05 R206, R209; 08 R339; 14 R450,
R451, R462; 15 R491, R492; 16 R498, R510).
-/

namespace Sys2Proof.Machine

/-- Whether the gang in a slot may leave a wait now: its partition neither stops nor is frozen, and its
context is on the core (16 R498, R503). -/
def State.wakes (s : State) (c : Nat) (g : Gang) : Bool :=
  (s.ctx g.ctxKey).state == .live && !g.frozen && !s.stopping g.part && s.engineRuns c g.ctxKey

/-! BWAIT_WAKE (08 R339; 05 R206). -/

/-- A blocked lane whose object has reached its target: past the BWAIT. -/
def Gang.wakeLane (g : Gang) (l : Nat) (w : BWait) : Gang :=
  g.modLane l (fun x => { x with pc := w.after, wait := none })

/-- What a lane that stood blocked at a stop meets when it reads its object again, as though the BWAIT had just
issued (08 R342, R307; 16 R498): the object's place, or what stands in the way. Light faults are served on the
way. -/
def State.recheck (s : State) (c : Nat) (g : Gang) (w : BWait) : Check :=
  let a : DWord := BitVec.ofNat 64 w.addr
  match w.obj with
  | .global va =>
    match s.litAccess g.ctxKey va 8 .observe with
    | .ok _ l => .ok (.page va l)
    | .cause k => .cause k a none
    | .light f => .light f
    | .nres l => .cause .nres a (some ⟨va, g.ctx, c, 1, AccKind.observe.acc, 0, l.va⟩)
    | .memoryError pa => .memoryError pa
    | .noMemory pa => .noMemory pa
  | .bank k off =>
    match (s.core k).teamPart g.launch g.team with
    | some t =>
      let x := (s.core k).granule (off / 4096)
      let granule : DWord := BitVec.ofNat 64 (off / 4096 * 4096 - 4096 * t.granule0)
      if t.ended then .cause .perm a none
      else if x.owner ≠ .threads then .cause .own granule none
      else if x.poison then .cause .trailer granule none
      else .ok (.bank k off)
    | none => .cause .perm a none

/-- The lanes of a gang that read their objects again after a resume, with their waits. -/
def Gang.againLanes (g : Gang) : List (Nat × BWait) :=
  g.liveLanes.filterMap (fun l => match (g.lane l).wait with
    | some w => if w.again && decide (w.count ≤ w.limit) && (g.lane l).level == g.sliceLevel (l / 4) then some (l, w) else none
    | none => none)

/-- A lane whose object can be read again: its wait goes on with the entries that are bound to the object now. -/
def State.waitOn (s : State) (c slot : Nat) (g : Gang) (x : Nat × Place) : State :=
  let s := match x.2 with
    | .page va _ => s.engineTouch g.ctxKey va false
    | .bank _ _ => s
  s.modGang c slot (fun h => h.modLane x.1 (fun y => { y with
    wait := y.wait.map (fun w => { w with again := false, binds := s.boundFor c g w.obj }) }))

/-- Whether two lanes stand at one instruction of one stream. -/
def Gang.together (g : Gang) (a b : Nat) : Bool :=
  (g.lane a).pc == (g.lane b).pc &&
    g.streams.any (fun st => bitAt st.slices (a / 4) && bitAt st.slices (b / 4))

/-- The outcome of reads of objects that lanes stand blocked on: those that may wait on; an absent page is requested
and its lanes stay blocked; a cause is a trap of the lanes that stand at one BWAIT. -/
def State.waitAgain (s : State) (c slot : Nat) (g : Gang) (cs : List (Nat × Check)) : State :=
  match errorsOf cs with
  | pa :: _ => s.gangFault c slot 5 0 pa g []
  | [] =>
    let s := (oksOf cs).foldl (fun s x => s.waitOn c slot g x) ((badsOf cs).foldl State.noteBad s)
    let recs := causesOf cs
    if recs.isEmpty then s
    else if delivered recs = .nres then
      (recs.filterMap (fun r => r.post)).foldl (fun s e => s.fqPost g.part e) s
    else
      match s.gang? c slot with
      | some g => s.trapStanding c slot g false recs
      | none => s

/-- The lanes that stood blocked at a stop read their objects again (08 R342). -/
def State.rewait (s : State) (c slot : Nat) : State :=
  match s.gang? c slot with
  | none => s
  | some g =>
    match g.againLanes with
    | [] => s
    | (a, _) :: _ =>
      let s := s.fqSettle g.part g.ctx
      s.waitAgain c slot g
        ((g.againLanes.filter (fun x => g.together a x.1)).map (fun x => (x.1, s.recheck c g x.2)))

/-- A memory error that a read of an object meets (14 R469). -/
def State.objError (s : State) (ctx : Nat) (o : ObjLoc) : Option Nat :=
  match o with
  | .global va =>
    match s.litAccess ctx va 8 .observe with
    | .memoryError pa => some pa
    | _ => none
  | .bank _ _ => none

/-- A blocked lane whose object has reached its target, after the read that found it: the acquire of the ranges that
were bound to the object when the BWAIT issued, and the advance. -/
def State.woken (s : State) (c slot l : Nat) (g : Gang) (w : BWait) : State :=
  let s := s.modGang c slot (fun h => h.wakeLane l w)
  match w.acq, (s.core c).partOf g with
  | true, some t =>
    (s.acquireBinds c t w.binds w.scope).countReplays c slot w.after.toNat (some (bindRanges t w.scope w.binds))
  | _, _ => s

/-- A memory error in the walk of a range that the acquire of a wait acts on (14 R469). -/
def State.wakeError (s : State) (c : Nat) (g : Gang) (w : BWait) : Option Nat :=
  match w.acq, (s.core c).partOf g with
  | true, some t => s.bindsError t w.scope w.binds
  | _, _ => none

/-- The wake of one lane: the object is read at its home or bank, after the core's own copies of its word have left
(05 R188, R195); at a value below the target the lane waits on. A lane that waits for a handler of its slice
stays, and one past its limit ends with WDOG (01 R60; 16 R510). -/
def State.wakeOne (s : State) (c slot l : Nat) : State :=
  match s.gang? c slot with
  | none => s
  | some g =>
    match (g.lane l).wait with
    | none => s
    | some w =>
      if (g.lane l).level ≠ g.sliceLevel (l / 4) || w.again || decide (w.limit < w.count) then s
      else
        match s.objError g.ctxKey w.obj with
        | some pa => s.gangFault c slot 5 0 pa g []
        | none =>
          match s.objRead c g.ctxKey w.obj with
          | (t, some v) =>
            if v < w.target.toNat then t
            else
              match t.wakeError c g w with
              | some pa => t.gangFault c slot 5 0 pa g []
              | none => t.woken c slot l g w
          | (t, none) => t

/-- BWAIT_WAKE: each blocked lane of a gang whose target is met goes on. -/
def State.bwaitWake (s : State) (c slot : Nat) : State :=
  match s.gang? c slot with
  | none => s
  | some g =>
    if !s.wakes c g then s
    else
      let s := s.rewait c slot
      let s := g.liveLanes.foldl (fun (s : State) l => s.wakeOne c slot l) s
      let woke := match s.gang? c slot with
        | some h => g.liveLanes.filter (fun l => (g.lane l).wait.isSome && (h.lane l).wait.isNone)
        | none => []
      if woke.isEmpty then s else (s.modGang c slot (fun h => h.rewakeLanes woke)).modCore c Core.endWaits

def execBwaitWake (core slot : Nat) (s : State) : Host.Outcome State Fault Refusal :=
  finish (s.bwaitWake core slot)

/-! WDOG (05 R209; 01 R60; 10 R401). -/

/-- The lanes of a gang whose wait in BWAIT has passed its limit. -/
def Gang.lateLanes (g : Gang) : List Nat :=
  g.liveLanes.filter (fun l => match (g.lane l).wait with
    | some w => decide (w.limit < w.count) && (g.lane l).level == g.sliceLevel (l / 4)
    | none => false)

/-- The first stream whose wait at REGANG has passed its limit. -/
def Gang.lateStream (g : Gang) : Option Stream :=
  g.streams.find? (fun st => match st.wait with
    | .regang _ _ n limit => decide (limit < n)
    | _ => false)

/-- The lanes that trap with WDOG: those blocked at one BWAIT, or those of a stream at its REGANG. Lanes of the same
slices at higher PCs wait with them (01 R23) and do not trap: R24 names the waiting lanes, and a trap window holds the
instruction that a lane trapped at (DEDUCED, log entry 34). -/
def Gang.wdogRecs (g : Gang) : List TrapRec :=
  match g.lateLanes with
  | a :: ls =>
    ((a :: ls).filter (g.together a)).map (fun l =>
      .plain l .wdog (match (g.lane l).wait with
        | some w => BitVec.ofNat 64 w.addr
        | none => 0))
  | [] =>
    match g.lateStream with
    | some st => ((slicesOf st.slices).flatMap g.sliceActive).map (fun l => .plain l .wdog 0)
    | none => []

/-- WDOG. -/
def State.wdogTrap (s : State) (c slot : Nat) : State :=
  match s.gang? c slot with
  | none => s
  | some g =>
    if !s.wakes c g || g.wdogRecs.isEmpty then s
    else (s.trapStanding c slot g false g.wdogRecs).modCore c Core.endWaits

def execWdog (core slot : Nat) (s : State) : Host.Outcome State Fault Refusal := finish (s.wdogTrap core slot)

/-! LIGHT_FAULT, NRES_RETRY and FETCH_FILL. -/

/-- The first stream of a gang that satisfies a condition. -/
def Gang.findStream (g : Gang) (p : StreamWait → Bool) : Option (Nat × Stream) :=
  findAt (fun st => p st.wait) g.streams 0

/-- LIGHT_FAULT: a service core sets the bits that are still clear, and the instruction restarts
(14 R450, R451). -/
def State.lightFault (s : State) (c slot : Nat) : State :=
  match s.gang? c slot with
  | none => s
  | some g =>
    match g.findStream (fun w => match w with
      | .light _ => true
      | _ => false) with
    | some (i, ⟨_, .light fs⟩) => (fs.foldl State.serveLight s).modGang c slot (fun g => g.setWait i .run)
    | _ => s

def execLightFault (core slot : Nat) (s : State) : Host.Outcome State Fault Refusal :=
  finish (s.lightFault core slot)

/-- A gang whose waits on absent pages are retried (14 R462). -/
def Gang.retry (g : Gang) : Gang :=
  let go (st : Stream) : Stream := if st.wait = .nres then { st with wait := .retry } else st
  { g with streams := g.streams.map go }

/-- NRES_RETRY: the gang's waiting instructions try again, unless a stop holds them (16 R498). -/
def State.nresRetry (s : State) (c slot : Nat) : State :=
  match s.gang? c slot with
  | none => s
  | some g => if s.wakes c g then s.setGang c slot g.retry else s

def execNresRetry (core slot : Nat) (s : State) : Host.Outcome State Fault Refusal :=
  finish (s.nresRetry core slot)

/-- The address whose code a stream waits for: what its fetch misses now, or, when another fill has brought it, or a
lane of it has woken at code that is there, its issue point (15 R492). -/
def State.missing (s : State) (c : Nat) (g : Gang) (st : Stream) : Option Nat :=
  match st.wait, g.streamPc st with
  | .fetch, some pc =>
    match s.fetchUnit c g.ctxKey pc with
    | .stop (.miss a) => some a
    | _ => some pc
  | _, _ => none

/-- A gang whose waits for the frame of an address end. -/
def State.fetched (s : State) (c ctx code va : Nat) (g : Gang) : Gang :=
  let go (st : Stream) : Stream :=
    match s.missing c g st with
    | some a => if a / 256 = va / 256 then { st with wait := .run } else st
    | none => st
  if g.ctxKey = ctx && g.code == code then { g with streams := g.streams.map go } else g

/-- The first stream of a core that waits for code: its gang and address. -/
def State.fetchWait (s : State) (c : Nat) : Option (Gang × Nat) :=
  ((s.core c).slots.flatMap (fun x => x.2.streams.filterMap (fun st =>
    (s.missing c x.2 st).map (fun va => (x.2, va))))).head?

/-- FETCH_FILL: the agent reads the frame at its home, every core of the die with the same code installs
it, and the waits for it end (15 R492). -/
def State.fetchFill (s : State) (c : Nat) : State :=
  match s.fetchWait c with
  | none => s
  | some (g, va) =>
    let d := dieOfCore c
    let t := s.fillFrame d g.ctxKey g.code va
    { t with cores := mmapVals (fun i k =>
        if i / 256 = d then { k with slots := mmapVals (fun _ h => s.fetched i g.ctxKey g.code va h) k.slots }
        else k) t.cores }

def execFetchFill (core : Nat) (s : State) : Host.Outcome State Fault Refusal := finish (s.fetchFill core)

/-! PROMOTION and PROMOTION_TIMEOUT (01 R36 to R40; 15 R491). -/

/-- The priority of a trigger: 1 is the highest (01 R37). -/
def Trigger.priority : Trigger → Nat
  | .lock _ => 1
  | .laggard _ => 2
  | .tail => 3

/-- Whether the tail trigger of a gang holds (01 R37). -/
def State.tailHolds (s : State) (k : Core) (g : Gang) : Bool :=
  match mfind? s.launches g.launch with
  | none => false
  | some l =>
    !l.toSend && !g.spent.contains .tail && !s.cores.any (fun x => x.2.prefetch.any (fun y => y.launch == g.launch)) &&
      decide ((k.slots.filter (fun x => x.2.launch == g.launch)).length ≤ 4)

/-- The laggard triggers of a gang: those that it holds, and those whose condition stands now, which arise again after
a trap (01 R37, R40). -/
def Core.laggards (k : Core) (g : Gang) : List Trigger :=
  g.held.filter (fun t => t.priority == 2) ++
    ((k.laggedOn g).filter (fun o => !g.blockedOn o && !g.spent.contains (.laggard o))).map Trigger.laggard

/-- The trigger of highest priority that a gang has. -/
def State.triggerOf (s : State) (k : Core) (g : Gang) : Option Trigger :=
  match g.held.find? (fun t => t.priority == 1), (k.laggards g).head? with
  | some t, _ => some t
  | none, some t => some t
  | none, none => if s.tailHolds k g then some .tail else none

/-- The promoted gangs of a core. -/
def Core.promoted (k : Core) : List (Nat × Gang) := k.slots.filter (fun x => x.2.promotion.isSome)

/-- Whether one promoted gang gives way before another: a lower priority, else the more recent
(01 R39). -/
def yieldsBefore (x y : Gang) : Bool :=
  match x.promotion, y.promotion with
  | some a, some b =>
    decide (b.trigger.priority < a.trigger.priority) ||
      (a.trigger.priority == b.trigger.priority && decide (b.since < a.since))
  | _, _ => false

/-- The promoted gang that gives way first. -/
def firstToYield : List (Nat × Gang) → Option (Nat × Gang)
  | [] => none
  | x :: xs =>
    match firstToYield xs with
    | none => some x
    | some y => if yieldsBefore y.2 x.2 then some y else some x

/-- A gang in the churn engine: a switch (01 R50), its trigger no longer held; a laggard trigger's condition stands
when its object is in the list. -/
def Gang.promote (g : Gang) (now : Nat) (t : Trigger) (os : List ObjLoc) : Gang :=
  Gang.lapse
    { g.switch g.liveLanes with promotion := some ⟨now, t, now, true⟩, held := g.held.filter (fun x => x != t) } os

/-- Whether an older gang of the core would be promoted first by the same laggard trigger (01 R38). -/
def State.olderLaggard (s : State) (k : Core) (g : Gang) (t : Trigger) : Bool :=
  match t with
  | .laggard _ => k.slots.any (fun x =>
      decide (x.2.arrival < g.arrival) && x.2.promotion.isNone && x.2.fullyGanged && s.triggerOf k x.2 == some t)
  | _ => false

/-- PROMOTION: a fully ganged gang with a trigger takes a free slot of four, or the slot of a gang whose
trigger has a lower priority; not while a stop is requested, under which promoted gangs are demoted (16 R498; log
entry 33). -/
def State.promotion (s : State) (c slot : Nat) : State :=
  match s.gang? c slot with
  | none => s
  | some g =>
    let k := s.core c
    if !s.wakes c g || s.stopping g.part || g.promotion.isSome || !g.fullyGanged then s
    else
      match s.triggerOf k g with
      | none => s
      | some t =>
        let enter (s : State) : State := s.modGang c slot (fun g => g.promote (s.clockOf c) t (k.laggedOn g))
        if s.olderLaggard k g t then s
        else if k.promoted.length < 4 then enter s
        else
          match firstToYield k.promoted with
          | none => s
          | some (j, h) =>
            match h.promotion with
            | some p =>
              if t.priority < p.trigger.priority then
                enter (s.modGang c j Gang.demoteHolding)
              else s
            | none => s

def execPromotion (core slot : Nat) (s : State) : Host.Outcome State Fault Refusal :=
  finish (s.promotion core slot)

/-- PROMOTION_TIMEOUT: 4,096 cycles after the promotion, or after its trigger last arose, the gang is demoted, a switch
(01 R50), and every trigger that it has is dropped: the gang is promoted again only when one arises anew, a laggard
trigger when the share has fallen and is reached again, and a tail trigger not at all (01 R40). -/
def State.promotionTimeout (s : State) (c slot : Nat) : State :=
  match s.gang? c slot with
  | none => s
  | some g =>
    match g.promotion with
    | none => s
    | some p =>
      if s.clockOf c < p.arose + 4096 then s
      else
        let k := s.core c
        let standing := ((k.laggedOn g).filter (fun o => !g.blockedOn o)).map Trigger.laggard ++
          (if s.tailHolds k g then [.tail] else [])
        s.modGang c slot (fun g =>
          { g.switch g.liveLanes with promotion := none, held := [], spent := standing ++ g.spent })

def execPromotionTimeout (core slot : Nat) (s : State) : Host.Outcome State Fault Refusal :=
  finish (s.promotionTimeout core slot)

end Sys2Proof.Machine
end

