-- ==== Sys2Proof/Machine/Partitions.lean ====
section
/-! DEFINITION. Partitions, stops and contexts as their registers act on them: PARTMAP, QBANKS, STOP, FRZ and
the resume, the STATE writes, shootdowns, RESUME and KILL (spec 13 R433 to R440; 14 R456 to R467; 16 R497 to
R502).
-/

namespace Sys2Proof.Machine

/-! Who writes (13 R430). -/

/-- Writers H. -/
def mayH : Party → Bool
  | .host => true
  | _ => false

/-- Writers H and S. -/
def mayHS : Party → Bool
  | .system _ => false
  | _ => true

/-- Writers H and P. -/
def mayHP (part : Nat) : Party → Bool
  | .host => true
  | .service => false
  | .system p => p == part

/-- Writers H, S and P. -/
def mayHSP (part : Nat) : Party → Bool
  | .system p => p == part
  | _ => true

/-! PARTMAP (13 R433 to R435). -/

/-- The clusters of a SIZE code; none for a reserved code. -/
def sizeOf? (code : Nat) : Option Nat := if code = 0 then some 0 else if code ≤ 5 then some (2 ^ (code - 1)) else none

/-- SIZEp of a PARTMAP value. -/
def mapCode (val : DWord) (p : Nat) : Nat := bits val.toNat (4 * p) 4

/-- The size at each cluster that a value gives; 0 where no partition starts. -/
def mapSize (val : DWord) (p : Nat) : Nat := (sizeOf? (mapCode val p)).getD 0

/-- Whether a value describes aligned partitions without overlap. -/
def mapOk (val : DWord) : Bool :=
  (List.range 16).all (fun p =>
    let n := mapSize val p
    (sizeOf? (mapCode val p)).isSome &&
    (n == 0 || (p % n == 0 && decide (p + n ≤ 16) &&
      (List.range 16).all (fun q => q == p || mapSize val q == 0 || decide (q < p) || decide (p + n ≤ q)))))

/-- Whether a partition holds a context that is not free. -/
def State.partInUse (s : State) (p : Nat) : Bool := s.ctxs.any (fun x => x.1 / 256 == p && x.2.state != .free)

/-- The size of a partition; 0 when there is none. -/
def State.partSize (s : State) (p : Nat) : Nat := ((s.part? p).map (fun x => x.size)).getD 0

/-- The places where a PARTMAP value changes, makes or removes a partition. -/
def State.mapChanges (s : State) (val : DWord) : List Nat := below 16 (fun p => mapSize val p != s.partSize p)

/-- A partition goes: its contexts, launches, queues and prefetched teams, and STRETCH of its cores. -/
def State.removePart (s : State) (p : Nat) : State :=
  let cores := coresOfPart p (s.partSize p)
  { s with
    parts := mdel s.parts p
    ctxs := mfilter (fun c _ => c / 256 != p) s.ctxs
    launches := mfilter (fun _ l => l.part != p) s.launches
    queues := mfilter (fun _ q => q.part != p) s.queues
    spilled := s.spilled.filter (fun x => x.ctx / 256 != p)
    cores := mmapVals (fun c k => if cores.contains c then { k with prefetch := [] } else k) s.cores }

/-- A partition reset (13 R435): its USED and ADM are those of a window without any; the mirror die dispatches for it
while its home die is under reset (16 R513). -/
def State.makePart (s : State) (p n : Nat) : State :=
  let cores := coresOfPart p n
  { s with
    parts := mput s.parts p { Partition.reset n with
      window := s.windowNow, mirror := s.dieAway (dieOfCluster p) }
    cores := mmapVals (fun c k => if cores.contains c then { k with stretch := 0 } else k) s.cores }

/-- A PARTMAP write (13 R434, R436): refused whole, in recovery too (17 R536), or made, with a reset of each partition
that is new or changes its size. -/
def State.partmapWrite (s : State) (val : DWord) : State :=
  let ps := s.mapChanges val
  if !mapOk val || ps.any s.partInUse || s.dev.phase == 0xE0 then { s with dev := { s.dev with err := true } }
  else
    let s := ps.foldl State.removePart s
    let s := ps.foldl (fun (s : State) p => if mapSize val p = 0 then s else s.makePart p (mapSize val p)) s
    { s with dev := { s.dev with partmap := val, err := false } }

def execPartmapWrite (val : DWord) (s : State) : Host.Outcome State Fault Refusal := finish (s.partmapWrite val)

/-- The queue-unit banks of a die that partitions hold beside one (13 R438). -/
def State.banksOnDie (s : State) (d besides : Nat) : Nat :=
  (s.parts.filter (fun x => x.1 != besides && coversDie x.1 x.2.size d)).foldl (fun n x => n + x.2.qbanks) 0

/-- A QBANKS write (13 R438). -/
def State.qbanksWrite (s : State) (p : Nat) (val : DWord) : State :=
  match s.part? p with
  | none => s
  | some x =>
    let n := field val 4 0
    if (List.range 4).any (fun d => coversDie p x.size d && decide (16 < n + s.banksOnDie d p)) then s
    else s.modPart p (fun x => { x with qbanks := n })

def execQbanksWrite (part : Nat) (val : DWord) (s : State) : Host.Outcome State Fault Refusal :=
  finish (s.qbanksWrite part val)

/-! Stopping (16 R498 to R502). -/

/-- Whether a stream stands at a stop point. -/
def Gang.streamStopped (g : Gang) (st : Stream) : Bool :=
  match st.wait with
  | .stopped => true
  | .regang _ _ _ _ => true
  | .nres => true
  | .run => (g.streamPc st).isNone
  | .retry => (g.streamPc st).isNone
  | _ => false

/-- Whether a gang has stopped: frozen, or with every stream at a stop point (16 R498). -/
def Gang.halted (g : Gang) : Bool := g.frozen || g.streams.all g.streamStopped

/-- Whether every stream of a gang stopped at a PPT (16 R501). -/
def Gang.atPpt (g : Gang) : Bool := g.streams.all (fun st => st.wait == .stopped) && !g.frozen

/-- A core without the lease requests of gangs of a condition, which have stopped (09 R369). -/
def Core.dropRequests (k : Core) (p : Gang → Bool) : Core :=
  let stays (i : Nat) : Bool := match mfind? k.slots i with
    | some g => !p g
    | none => true
  { k with lease := { k.lease with requests := mfilter (fun i _ => stays i) k.lease.requests } }

/-- A core without a lease (09 R369). -/
def Core.endLease (k : Core) : Core :=
  match k.lease.holder with
  | some slot => { k with lease := { k.lease with holder := none, remaining := 0, last := slot } }
  | none => k

/-- Changes each core of a partition that has been used. -/
def State.modPartCores (s : State) (p : Nat) (f : Core → Core) : State :=
  let n := s.partSize p
  { s with cores := mmapVals (fun c k => if decide (64 * p ≤ c) && decide (c < 64 * (p + n)) then f k else k) s.cores }

/-- The cores of a partition that have been used. -/
def State.partCores (s : State) (p : Nat) : Map Core :=
  let n := s.partSize p
  mfilter (fun c _ => decide (64 * p ≤ c) && decide (c < 64 * (p + n))) s.cores

/-- Whether a bank of a core holds a saved context. -/
def Core.bankSaved (k : Core) (b : Nat) : Bool := (mget .free k.banks b).saved

/-- The gangs of a core whose context is on it and not saved. -/
def Core.present (k : Core) : Map Gang := mfilter (fun _ g => !k.bankSaved g.bank) k.slots

/-- Changes each gang of a core whose context is not saved. -/
def Core.modPresent (k : Core) (f : Gang → Gang) : Core :=
  { k with slots := mmapVals (fun _ g => if k.bankSaved g.bank then g else f g) k.slots }

/-- Whether an engine operation of a core is in flight for a context that is neither saved nor frozen. -/
def Core.enginesBusy (k : Core) : Bool :=
  let here (ctx : Nat) : Bool := !k.banks.any (fun b => (b.2.saved || b.2.held) && b.2.ctx == some (ctx % 256))
  k.copies.any (fun x => here x.2.who.ctx) || k.sparse.any (fun x => here x.2.who.ctx) ||
  k.mx.any (fun x => match x with
    | .mma _ _ _ _ _ _ _ who => here who.ctx
    | .acvt _ _ _ _ _ who => here who.ctx)

/-- STOPPED (16 R499): a stop is requested, and every gang is frozen or at a stop point with no engine
operation in flight but frozen ones. -/
def State.stopped (s : State) (p : Nat) : Bool :=
  match s.part? p with
  | none => false
  | some x =>
    if x.frz || x.frozen then true
    else x.stop && (s.partCores p).all (fun k => !k.2.enginesBusy && k.2.present.all (fun g => g.2.halted))

/-- A gang that a freeze meets: W-suppressed results written back, demoted (16 R500); one that stopped at
PPTs is left. -/
def Gang.freeze (g : Gang) : Gang :=
  if g.atPpt then g else { (g.switch g.liveLanes).demoteHolding with frozen := true }

/-- A core whose engine operations of running contexts stand still until the resume (16 R500). -/
def Core.holdEngines (k : Core) : Core :=
  { k with banks := mmapVals (fun _ b => if b.saved || b.ctx.isNone then b else { b with held := true }) k.banks }

/-- FRZ becomes 1 (16 R500): the engines stand still until the resume. -/
def State.freeze (s : State) (p : Nat) : State :=
  match s.part? p with
  | none => s
  | some x =>
    if x.frz then s
    else (s.modPart p (fun x => { x with frz := true, frozen := true })).modPartCores p (fun k =>
      ((k.endLease.dropRequests (fun _ => true)).modPresent Gang.freeze).holdEngines)

/-- STOP becomes 1 (16 R498, R499): every promoted gang is demoted, which it must be before it stops (log entry 33). -/
def State.setStop (s : State) (p : Nat) : State :=
  match s.part? p with
  | none => s
  | some x =>
    if x.stop then s
    else
      let s := s.modPart p (fun x => { x with stop := true, stopAt := some s.time })
      let s := s.modPartCores p (fun k => k.endLease.modPresent Gang.demoteHolding)
      if x.stopdl = 0 then s.freeze p else s

def execStop (who : Party) (part : Nat) (s : State) : Host.Outcome State Fault Refusal :=
  finish (if mayHS who then s.setStop part else s)
def execFrz (who : Party) (part : Nat) (s : State) : Host.Outcome State Fault Refusal :=
  finish (if mayHS who then s.freeze part else s)

/-- STOPDL_EXPIRE (16 R499): the deadline counts nanoseconds of the reference clock; a fabric cycle is
5/6 ns. -/
def State.stopdlExpire (s : State) (p : Nat) : State :=
  match s.part? p with
  | none => s
  | some x =>
    match x.stop, x.stopAt with
    | true, some t => if 6 * x.stopdl ≤ 5 * (s.time - t) && !s.stopped p then s.freeze p else s
    | _, _ => s

def execStopdlExpire (part : Nat) (s : State) : Host.Outcome State Fault Refusal := finish (s.stopdlExpire part)

/-! The resume (16 R502; 07 R268). -/

/-- The registers that a gang loses at its resume: those that no hint of its PPTs named. -/
def Gang.dropUnnamed (g : Gang) : Gang :=
  match g.atPpt, g.liveness with
  | true, some lv => { g with v := mfilter (fun k _ => bitAt lv.regs (k / 32)) g.v }
  | _, _ => g

/-- A gang that goes on. Its blocked lanes read their objects again as though the BWAIT had just issued (08 R342). A stop
may have held back streams that are all at REGANG. -/
def Gang.resume (g : Gang) : Gang :=
  let go (st : Stream) : Stream :=
    match st.wait with
    | .stopped => { st with wait := .run }
    | .nres => { st with wait := .retry }
    | _ => st
  let g := g.dropUnnamed
  let lane (x : Lane) : Lane := { x with wait := x.wait.map (fun w => { w with again := true }) }
  { g with
    streams := g.streams.map go, lanes := mmapVals (fun _ x => lane x) g.lanes
    frozen := false, liveness := none }.recheckRegang

/-- What the gangs of a part name: none when one of them names everything (16 R501). -/
def Core.partNames (k : Core) (t : TeamPart) : Option Liveness :=
  let gs := k.slots.filter (fun g => g.2.launch == t.launch && g.2.team == t.team)
  if gs.isEmpty || !gs.all (fun g => g.2.atPpt) then none
  else some (gs.foldl (fun a g => match g.2.liveness with
    | some lv => Liveness.union a lv
    | none => Liveness.all) ⟨0, 0, 0⟩)

/-- A part that goes on: granules that no hint named hold zeros and are owned by threads, poisoned as they were
(03 R120), tiles are in their placement state (07 R268). -/
def Core.resumePart (k : Core) (t : TeamPart) : Core :=
  match k.partNames t with
  | none => k
  | some lv =>
    let lost (g : Nat) : Bool := t.hasGranule g && !bitAt lv.granules (g - t.granule0)
    let lostTile (i : Nat) : Bool := decide (t.tile0 ≤ i) && decide (i < t.tile0 + t.tiles) && !bitAt lv.tiles (i - t.tile0)
    { k with
      scratch := mfilter (fun a _ => !lost (a / 4096)) k.scratch
      granules := mmapVals (fun g x => if lost g then { x with owner := .threads, landed := none } else x) k.granules
      tiles := mfilter (fun i _ => !lostTile i) k.tiles }

/-- A core whose frozen engine operations go on, but for those of a saved context. -/
def Core.releaseEngines (k : Core) : Core :=
  { k with banks := mmapVals (fun _ b => if b.saved then b else { b with held := false }) k.banks }

/-- A core that goes on: gangs that had stopped request the matrix unit anew (16 R502). -/
def Core.resume (k : Core) : Core :=
  let k := (k.dropRequests Gang.halted).releaseEngines
  let k := (k.parts.filter (fun t => !t.ended && !k.bankSaved t.bank)).foldl Core.resumePart k
  k.modPresent Gang.resume

/-- Clears STOP, FRZ or both; with the last of them the partition issues again. -/
def State.clearStop (s : State) (p : Nat) (stop frz : Bool) : State :=
  match s.part? p with
  | none => s
  | some x =>
    let y := { x with
      stop := x.stop && !stop
      frz := x.frz && !frz
      stopAt := if stop then none else x.stopAt }
    if (x.stop || x.frz) && !y.stop && !y.frz then
      (s.modPart p (fun _ => { y with frozen := false })).modPartCores p Core.resume
    else s.modPart p (fun _ => y)

def execPartitionResume (who : Party) (part : Nat) (s : State) : Host.Outcome State Fault Refusal :=
  finish (if mayHS who then s.clearStop part true true else s)

/-! Contexts (13 R439, R440). -/

/-- The gangs of a context, those of its saved and spilled state included. -/
def State.liveGangs (s : State) (ctx : Nat) : Nat :=
  (s.cores.map (fun k => (k.2.slots.filter (fun g => g.2.ctxKey == ctx)).length)).sum +
  (s.spilled.map (fun x => (x.items.slots.filter (fun g => g.2.ctxKey == ctx)).length)).sum

/-- Whether a core has an engine operation of a context. -/
def Core.opsOf (k : Core) (ctx : Nat) : Bool :=
  k.copies.any (fun x => x.2.who.ctx == ctx) || k.sparse.any (fun x => x.2.who.ctx == ctx) ||
  k.mx.any (fun x => match x with
    | .mma _ _ _ _ _ _ _ who => who.ctx == ctx
    | .acvt _ _ _ _ _ who => who.ctx == ctx)

/-- Whether a context has a gang or an engine operation in flight. -/
def State.ctxBusy (s : State) (ctx : Nat) : Bool :=
  s.liveGangs ctx != 0 || s.cores.any (fun k => k.2.opsOf ctx) || s.spilled.any (fun x => x.items.opsOf ctx)

/-- The conditions of a write of 1 (13 R440). -/
def Ctx.createOk (x : Ctx) : Bool :=
  field x.ptBase 11 0 == 0 && field x.ttBase 17 0 == 0 && field x.frec 7 0 == 0 &&
  decide (12 ≤ x.psLog) && decide (x.psLog ≤ 26) && field x.pb 47 0 % 2 ^ (20 + x.psLog) == 0 &&
  x.hwm % 4096 == 0 && decide (x.hwm ≤ 2 ^ x.psLog)

/-- Memory without the listed bytes of a range: each reads zero. -/
def memClear (m : List Host.Cell) (a n : Nat) : List Host.Cell :=
  m.filter (fun c => !(decide (a ≤ c.1) && decide (c.1 < a + n)))

/-- Writes zero to a range at its home. -/
def State.clearHome (s : State) (a n : Nat) : State :=
  if s.awayAt (a + n - 1) then s.noteBad (a + n - 1)
  else if s.reaches a n then
    let t := s.heal (touchesTransfer a n)
    t.setMem (memClear t.mem a n)
  else s.noteBad a

/-- Frees the seal entries of a context as UNSEAL does (13 R440, 08 R335). -/
def State.freeSeals (s : State) (ctx : Nat) : State :=
  match s.part? (ctx / 256) with
  | none => s
  | some x =>
    let mine (y : Seal) : Bool := y.ctx == ctx % 256
    let s := (x.seals.filter mine).foldl (fun s y => s.scrub (meetsRanges (s.sealRanges (ctx / 256) y))) s
    s.modPart (ctx / 256) (fun x => { x with seals := x.seals.filter (fun y => !mine y) })

/-- Frees the banks that hold a context. -/
def Core.freeBanksOf (k : Core) (c : Nat) : Core :=
  { k with banks := mmapVals (fun _ b => if b.ctx = some c then .free else b) k.banks }

/-- A STATE write of 1. -/
def State.ctxCreate (s : State) (ctx : Nat) : State :=
  let x := s.ctx ctx
  if x.state ≠ .free then s.modCtx ctx (fun x => { x with err := 3 })
  else if !x.createOk then s.modCtx ctx (fun x => { x with err := 1 })
  else (s.clearHome (field x.ttBase 47 0) 262144).modCtx ctx (fun x =>
    { x with state := .live, err := 0, wdog := 0x0000000100000000, hwm := max x.hwm 4096 })

/-- A STATE write of 0. -/
def State.ctxFree (s : State) (ctx : Nat) : State :=
  if s.ctxBusy ctx then s.modCtx ctx (fun x => { x with err := 2 })
  else
    let s := s.freeSeals ctx
    let s := s.modPartCores (ctx / 256) (fun k => k.freeBanksOf (ctx % 256))
    s.modCtx ctx (fun x => { x with state := .free, err := 0 })

/-- The code of STATE. -/
def CtxState.code : CtxState → Nat
  | .free => 0
  | .live => 1
  | .faulted => 2

/-- A write of STATE by a party that may make it: the current value makes no event (13 R440). -/
def State.stateWrite (s : State) (ctx val : Nat) : State :=
  if val = CtxState.code (s.ctx ctx).state then s
  else
    match val with
    | 0 => s.ctxFree ctx
    | 1 => s.ctxCreate ctx
    | _ => s.modCtx ctx (fun x => { x with err := 3 })

/-- A STATE write of a party on a partition that exists. -/
def State.stateWriteBy (s : State) (who : Party) (part ctx val : Nat) : State :=
  if mayHS who && (s.part? part).isSome then s.stateWrite (ctxKey part (ctx % 256)) val else s

def execContextCreate (who : Party) (part ctx : Nat) (s : State) : Host.Outcome State Fault Refusal :=
  finish (s.stateWriteBy who part ctx 1)
def execContextFree (who : Party) (part ctx : Nat) (s : State) : Host.Outcome State Fault Refusal :=
  finish (s.stateWriteBy who part ctx 0)

/-! Shootdowns (14 R456 to R459, R467). -/

/-- The contexts of a partition that a shootdown names. -/
def Partition.sdNames (x : Partition) (p ctx : Nat) : Bool := ctx / 256 == p && (x.sdAllCtx || ctx % 256 == x.sdCtx)

/-- The physical ranges of the leaves of a virtual range, resident or not, that are no system pages. -/
def State.frameRanges (s : State) (ctx base len : Nat) : List (Nat × Nat) :=
  if len = 0 then []
  else
    (s.piecesFrom base len 4 (field (s.ctx ctx).ptBase 47 12 * 4096) 0).filterMap (fun x =>
      match s.walk ctx x.1 with
      | .leaf l _ => if l.sysp then none else some (l.pa + (x.1 - l.va), x.2)
      | _ => none)

/-- The frames of a range for the contexts that a shootdown names. -/
def State.sdFrames (s : State) (p : Nat) (x : Partition) (base len : Nat) : List (Nat × Nat) :=
  (s.ctxs.filter (fun c => x.sdNames p c.1)).flatMap (fun c => s.frameRanges c.1 base len)

/-- Whether a purge covers a page of a sealed range: by the page's virtual address in a named context, or
by its frame. -/
def State.sdSealed (s : State) (x : Partition) (p base len : Nat) (frames : List (Nat × Nat)) : Bool :=
  x.seals.any (fun y =>
    (x.sdNames p (ctxKey p y.ctx) &&
      rangesMeet base len (y.base / 4096 * 4096) ((y.base + y.len + 4095) / 4096 * 4096 - y.base / 4096 * 4096)) ||
    (s.sealRanges p y).any (fun r => frames.any (fun f => rangesMeet f.1 f.2 r.1 r.2)))

/-- Whether a partition covers a core. -/
def State.onPart (s : State) (p c : Nat) : Bool := decide (64 * p ≤ c) && decide (c < 64 * (p + s.partSize p))

/-- The write-back and removal of frames from the L1s of a partition and the remote-data caches of its
dies. -/
def State.purge (s : State) (p : Nat) (frames : List (Nat × Nat)) : State :=
  let n := s.partSize p
  let s := (s.partCores p).foldl (fun s k => s.l1Remove k.1 (meetsRanges frames)) s
  ((List.range 4).filter (coversDie p n)).foldl (fun s d => s.rdcRemove d (meetsRanges frames)) s

/-- The shootdown that GO starts (14 R458). -/
def State.shootdown (s : State) (p : Nat) : State :=
  match s.part? p with
  | none => s
  | some x =>
    let base := x.sdBase.toNat
    let len := x.sdLen.toNat
    let done (s : State) (code : Nat) : State := s.modPart p (fun x => { x with sdBusy := false, sdCode := code })
    if len = 0 then done s 0
    else if base % 4096 ≠ 0 || len % 4096 ≠ 0 || decide (2 ^ 48 < base + len) then done s 2
    else
      let frames := if x.sdPurge then s.sdFrames p x base len else []
      if x.sdPurge && s.sdSealed x p base len frames then done s 3
      else
        let s := s.sweepOn p base len (x.sdNames p) (s.onPart p) (coversDie p x.size)
        if !x.sdPurge then done s 0
        else
          let s := s.purge p frames
          (s.modPart p (fun x => { x with
            sdBusy := true
            sdPending := some ⟨base, len, if x.sdAllCtx then none else some x.sdCtx⟩ })).settlePurges

/-- A write of the shootdown register (14 R457): with GO while BUSY, refused and nothing else. -/
def State.sdWrite (s : State) (p : Nat) (val : DWord) : State :=
  match s.part? p with
  | none => s
  | some x =>
    let go := field val 0 0 == 1
    if go && x.sdBusy then s.modPart p (fun x => { x with sdRefused := true })
    else
      let s := s.modPart p (fun x => { x with
        sdAllCtx := field val 16 16 == 1, sdCtx := field val 15 8, sdPurge := field val 2 2 == 1 })
      if go then s.shootdown p else s

/-- SHOOTDOWN: a write with GO and without PURGE. -/
def execShootdown (who : Party) (part : Nat) (val : DWord) (s : State) : Host.Outcome State Fault Refusal :=
  finish (if mayHSP part who then s.sdWrite part ((val ||| 1) &&& ~~~4) else s)
/-- SHOOTDOWN_PURGE: a write with GO and PURGE. -/
def execShootdownPurge (who : Party) (part : Nat) (val : DWord) (s : State) : Host.Outcome State Fault Refusal :=
  finish (if mayHSP part who then s.sdWrite part (val ||| 5) else s)

/-! RESUME and KILL (14 R462, R465; 16 R497). -/

/-- A retry of every waiting instruction of a context. -/
def State.retryCtx (s : State) (ctx : Nat) : State :=
  let s := s.fqSettle (ctx / 256) (ctx % 256)
  { s with cores := mmapVals (fun c k =>
      { k with slots := mmapVals (fun _ g =>
          if g.ctxKey == ctx && s.wakes c g then g.retry else g) k.slots }) s.cores }

/-- The gang that a memory-exhausted report names: the first that waits on an absent page. -/
def State.waitingGang (s : State) (ctx : Nat) : Option (Nat × Nat × Nat) :=
  ((s.gangsWhere (fun g => g.ctxKey == ctx && g.streams.any (fun st => st.wait == .nres))).head?).map
    (fun x => (x.1, x.2.1, x.2.2.seq.toNat))

/-- RESUME with END ends the context as memory-exhausted (14 R465). -/
def State.resumeEnd (s : State) (ctx : Nat) : State :=
  s.contextFault ctx { status := 4, cause := 0, gang := s.waitingGang ctx, pa := 0, windows := [] }

def execResume (who : Party) (part ctx : Nat) (s : State) : Host.Outcome State Fault Refusal :=
  finish (if mayHSP part who then s.retryCtx (ctxKey part (ctx % 256)) else s)
def execResumeEnd (who : Party) (part ctx : Nat) (s : State) : Host.Outcome State Fault Refusal :=
  finish (if mayHSP part who then s.resumeEnd (ctxKey part (ctx % 256)) else s)

/-- KILL (16 R497). -/
def State.kill (s : State) (ctx : Nat) : State :=
  s.contextFault ctx { status := 6, cause := 0, gang := none, pa := 0, windows := [] }

def execKill (who : Party) (part ctx : Nat) (s : State) : Host.Outcome State Fault Refusal :=
  finish (if mayHSP part who then s.kill (ctxKey part (ctx % 256)) else s)

end Sys2Proof.Machine
end

