-- ==== Sys2Proof/Machine/Preempt.lean ====
section
/-! DEFINITION. The exchange, spills and fills of saved contexts (spec 16 R503 to R509).
-/

namespace Sys2Proof.Machine

/-! The exchange (16 R505, R506, R508). -/

/-- The context numbers that the operation in progress names. -/
def Partition.exNames (x : Partition) : List Nat := x.xOut.toList ++ x.xIn.toList

/-- Whether an area's address is zero or no multiple of 4 KiB. -/
def areaBad (a : DWord) : Bool := field a 47 0 == 0 || field a 11 0 != 0

/-- Whether a lane of a context on a core is in a handler. -/
def Core.handling (k : Core) (ctx : Nat) : Bool :=
  k.slots.any (fun g => g.2.ctxKey == ctx && g.2.lanes.any (fun l => l.2.live && !l.2.handlers.isEmpty))

/-- Whether some core of a partition, or a spilled part, has a lane in a handler among the contexts named. -/
def State.handlingNamed (s : State) (p : Nat) (names : List Nat) : Bool :=
  (s.partCores p).any (fun k => names.any (fun c => k.2.handling (ctxKey p c))) ||
  s.spilled.any (fun x => names.any (fun c => x.ctx == ctxKey p c && x.items.handling (ctxKey p c)))

/-- Whether a shadow slot of a partition holds a context that an operation does not name. -/
def State.savedOther (s : State) (p : Nat) (names : List Nat) : Bool :=
  (s.partCores p).any (fun k => k.2.banks.any (fun b => b.2.saved && (match b.2.ctx with
    | some c => !names.contains c
    | none => false)))

/-- The codes 0x01 to 0x04 of an operation on some contexts; 0 when its checks pass (16 R505). -/
def State.exCheck (s : State) (p : Nat) (x : Partition) (names : List Nat) (area : Bool) : Nat :=
  if !s.stopped p then 1
  else if names.isEmpty || names.any (fun c => (s.ctx (ctxKey p c)).state != .live) ||
      (names.length == 2 && names.head? == names.getLast?) then 2
  else if s.savedOther p names then 3
  else if (area && areaBad x.swAddr) || (s.handlingNamed p names && areaBad x.hsBase) then 4
  else 0

/-- Writes n bytes whose contents the spec does not describe. -/
def State.writeFree (s : State) (a n : Nat) : State :=
  s.writeHome a ((List.range n).map (fun i => Config.freeByte s.tick (a + i)))

/-- The place of a lane's handler state in the handler-state area, from a core's index in the partition. -/
def handlerArea (hs k slot l : Nat) : Nat := hs + k * 0x40000 + (slot * 32 + l) * 256

/-- The lanes of a context on a core that are in handlers: slot, lane and level. -/
def Core.handlerLanes (k : Core) (ctx : Nat) : List (Nat × Nat × Nat) :=
  (k.slots.filter (fun g => g.2.ctxKey == ctx)).flatMap (fun g =>
    (g.2.lanes.filter (fun l => l.2.live && !l.2.handlers.isEmpty)).map (fun l => (g.1, l.1, l.2.level)))

/-- The handler state of a context on a core, written to its area (16 R508). -/
def State.saveHandlers (s : State) (c p hs ctx : Nat) : State :=
  ((s.core c).handlerLanes ctx).foldl
    (fun s x =>
      let a := handlerArea hs (c - 64 * p) x.1 x.2.1
      let s := s.writeFree a 128
      if x.2.2 = 2 then s.writeFree (a + 128) 128 else s) s

/-- Watchdog counts in units of 1,024 cycles, rounded down (16 R504). -/
def Gang.roundCounts (g : Gang) : Gang :=
  let lane (x : Lane) : Lane :=
    { x with wait := x.wait.map (fun w => { w with count := w.count / 1024 * 1024 }), lastPage := none }
  let go (st : Stream) : Stream :=
    match st.wait with
    | .regang t pc n limit => { st with wait := .regang t pc (n / 1024 * 1024) limit }
    | _ => st
  { g with lanes := mmapVals (fun _ x => lane x) g.lanes, streams := g.streams.map go }

/-- A gang that leaves for the shadow slot: a switch (01 R50). -/
def Gang.saved (g : Gang) : Gang := ((g.switch g.liveLanes).demoteHolding).roundCounts

/-- The bank of a core that holds a context in a state. -/
def Core.bankOf (k : Core) (c : Nat) (saved : Bool) : Option Nat :=
  (k.banks.find? (fun b => b.2.ctx == some c && b.2.saved == saved)).map (·.1)

/-- The write-back of a core's L1 to the homes, past its die's remote-data cache, and its emptying (16 R506). -/
def State.l1ToHomes (s : State) (c : Nat) : State :=
  let ws := cacheDirty allBytes (s.core c).l1
  (s.l1Remove c allBytes).rdcWriteBack (dieOfCore c) (fun a => ws.any (fun w => w.1 == a))

/-- Saves a context on a core where it runs (16 R506): the items stay at their positions, its translations
and the L1's contents leave. -/
def State.saveOn (s : State) (p hs o c : Nat) : State :=
  let key := ctxKey p o
  match (s.core c).bankOf o false with
  | none => s
  | some b =>
    let s := (s.saveHandlers c p hs key).l1ToHomes c
    s.modCore c (fun k =>
      { k.dropRequests (fun g => g.ctxKey == key) with
        slots := mmapVals (fun _ g => if g.ctxKey = key then g.saved else g) k.slots
        tlb := k.tlb.filter (fun l => l.ctx != key)
        walks := k.walks.filter (fun w => w.ctx != key)
        banks := mmod k.banks b (fun x => { x with saved := true }) })

/-- Restores a context on a core where it is saved. -/
def State.restoreOn (s : State) (i c : Nat) : State :=
  match (s.core c).bankOf i true with
  | none => s
  | some b => s.modCore c (fun k => { k with banks := mmod k.banks b (fun x => { x with saved := false }) })

/-- One core's part of an exchange. -/
def State.exchangeOn (s : State) (p : Nat) (x : Partition) (c : Nat) : State :=
  let back := x.xIn.bind (fun i => if ((s.core c).bankOf i true).isSome then some i else none)
  let s := match x.xOut with
    | some o => s.saveOn p (field x.hsBase 47 0) o c
    | none => s
  match back with
  | some i => s.restoreOn i c
  | none => s

/-- The end of an operation: BUSY clears and CODE is written. -/
def State.exDone (s : State) (p code : Nat) : State :=
  s.modPart p (fun x => { x with xCode := code, xBusy := false, xOp := 0 })

/-- The exchange. -/
def State.exchange (s : State) (p : Nat) : State :=
  match s.part? p with
  | none => s
  | some x =>
    let code := s.exCheck p x x.exNames false
    if code ≠ 0 then s.exDone p code
    else ((s.partCores p).foldl (fun s k => s.exchangeOn p x k.1) s).exDone p 0

/-! Spills (16 R504, R509). -/

/-- Whether a place in a list of runs, given as base and length. -/
def inRuns (rs : List (Nat × Nat)) (a : Nat) : Bool := rs.any (fun r => decide (r.1 ≤ a) && decide (a < r.1 + r.2))

/-- The positions of some parts: granules, tiles, cream slots and binding entries. -/
structure Positions where
  granules : List (Nat × Nat)
  tiles : List (Nat × Nat)
  cream : List (Nat × Nat)
  binds : List (Nat × Nat)
  deriving DecidableEq, Repr

/-- The positions of a list of parts. -/
def positionsOf (ts : List TeamPart) : Positions :=
  { granules := ts.map (fun t => (t.granule0, t.granules))
    tiles := ts.map (fun t => (t.tile0, t.tiles))
    cream := ts.map (fun t => (t.creamAt 0, t.creams))
    binds := ts.map (fun t => (64 * t.bank + t.bind0, t.binds)) }

/-- A core with only the items of a context, or without them. -/
def Core.split (k : Core) (ctx : Nat) (keep : Bool) : Core :=
  let mine (t : TeamPart) : Bool := Machine.ctxKey t.part t.ctx == ctx
  let ps := positionsOf (k.parts.filter mine)
  { k with
    slots := mfilter (fun _ g => (g.ctxKey == ctx) == keep) k.slots
    parts := k.parts.filter (fun t => mine t == keep)
    scratch := mfilter (fun a _ => inRuns ps.granules (a / 4096) == keep) k.scratch
    granules := mfilter (fun g _ => inRuns ps.granules g == keep) k.granules
    tiles := mfilter (fun i _ => inRuns ps.tiles i == keep) k.tiles
    cream := mfilter (fun i _ => inRuns ps.cream i == keep) k.cream
    binds := mfilter (fun i _ => inRuns ps.binds i == keep) k.binds
    copies := mfilter (fun _ x => (x.who.ctx == ctx) == keep) k.copies
    mx := k.mx.filter (fun x => (MxOp.ctx x == ctx) == keep)
    sparse := mfilter (fun _ x => (x.who.ctx == ctx) == keep) k.sparse }

/-- An item of a gang that the layout of 16 R504 gives a place. -/
inductive GangItem where
  | row (r l : Nat)
  | scalar (n : Nat)
  | pc (l : Nat)
  | latch (l n : Nat)
  | pred (p : Nat)
  | count (l : Nat)
  deriving DecidableEq, Repr

/-- The vector registers that a save of a gang names (16 R501). -/
def Gang.savedRegs (g : Gang) : List Nat :=
  match g.atPpt, g.liveness with
  | true, some lv => below g.vregs (bitAt lv.regs)
  | _, _ => List.range g.vregs

/-- The items of a gang: rows, scalars, PCs, latch histories, predicates and watchdog counts. -/
def Gang.items (g : Gang) : List GangItem :=
  let lanes := List.range 32
  g.savedRegs.flatMap (fun r => lanes.map (GangItem.row r)) ++ (List.range 64).map .scalar ++ lanes.map .pc ++
  lanes.flatMap (fun l => (List.range 4).map (GangItem.latch l)) ++ (List.range 8).map .pred ++ lanes.map .count

/-- The offset of an item in its shadow slot, and its bytes (16 R504). -/
def Gang.itemPlace (g : Gang) (i : GangItem) : Nat × Nat :=
  let id (l : Nat) : Nat := g.slot * 32 + l
  match i with
  | .row r l => ((g.rows + r) * 128 + 4 * l, 4)
  | .scalar n => (0x130000 + g.slot * 512 + 8 * n, 8)
  | .pc l => (0x134000 + id l * 6, 6)
  | .latch l n => (0x135800 + (id l * 4 + n) * 8, 8)
  | .pred p => (0x13D800 + (g.slot * 8 + p) * 4, 4)
  | .count l => (0x13DC00 + id l * 4, 4)

/-- The watchdog count of a lane: of its BWAIT, or of its stream's REGANG. -/
def Gang.countOf (g : Gang) (l : Nat) : Nat :=
  match (g.lane l).wait with
  | some w => w.count
  | none =>
    match g.streams.find? (fun st => bitAt st.slices (l / 4)) with
    | some ⟨_, .regang _ _ n _⟩ => n
    | _ => 0

/-- The number that an item holds. -/
def Gang.itemVal (g : Gang) (i : GangItem) : Nat :=
  match i with
  | .row r l => (g.reg r l).toNat
  | .scalar n => (g.sreg n).toNat
  | .pc l => (g.lane l).pc.toNat
  | .latch l n => ((g.lane l).latch n).toNat
  | .pred p => (g.pred p).toNat
  | .count l => g.countOf l / 1024

/-- A gang with another watchdog count of a lane. -/
def Gang.setCount (g : Gang) (l n : Nat) : Gang :=
  let x := g.lane l
  match x.wait with
  | some w => g.setLane l { x with wait := some { w with count := n } }
  | none =>
    { g with streams := g.streams.map (fun st => match st.wait with
        | .regang t pc _ limit => if bitAt st.slices (l / 4) then { st with wait := .regang t pc n limit } else st
        | _ => st) }

/-- A gang with an item that a fill reads. -/
def Gang.setItem (g : Gang) (i : GangItem) (v : Nat) : Gang :=
  match i with
  | .row r l => g.setReg r l (BitVec.ofNat 32 v)
  | .scalar n => g.setSreg n (BitVec.ofNat 64 v)
  | .pc l => g.setLane l { g.lane l with pc := BitVec.ofNat 48 v }
  | .latch l n =>
    let x := g.lane l
    g.setLane l { x with hist := (List.range 4).map (fun j =>
      if j = n then ⟨BitVec.ofNat 64 v, []⟩ else x.hist.getD j ⟨0, []⟩) }
  | .pred p => { g with preds := mput g.preds p (BitVec.ofNat 32 v) }
  | .count l => g.setCount l (1024 * v)

/-- The image of a gang's items as address and bytes. -/
def Gang.image (g : Gang) (base : Nat) : List (Nat × List Byte) :=
  g.items.map (fun i => (base + (g.itemPlace i).1, bytesOf (g.itemPlace i).2 (g.itemVal i)))

/-- A gang with its items as an image in memory holds them; one that the image leaves as it was stays. -/
def State.gangImage (s : State) (base : Nat) (g : Gang) : Gang :=
  g.items.foldl
    (fun (h : Gang) i =>
      let v := ofBytes (s.readHome (base + (g.itemPlace i).1) (g.itemPlace i).2)
      if h.itemVal i = v then h else h.setItem i v) g

/-- The numbers that a list of runs covers. -/
def runList (rs : List (Nat × Nat)) : List Nat := rs.flatMap (fun r => (List.range r.2).map (r.1 + ·))

/-- The place of a cream slot in a core's part of the spill area, after its shadow slot image (16 R509). -/
def creamArea (bank i : Nat) : Nat := 0x140000 + (i - 32 * bank) * 32768

/-- Writes a core's image of a context to its part of the spill area; items whose format is not described
get contents that the model leaves open. -/
def State.writeImage (s : State) (base hs bank ctx : Nat) (k : Core) : State :=
  let ps := positionsOf k.parts
  let s := (k.slots.flatMap (fun g => g.2.image base)).foldl (fun s w => s.writeHome w.1 w.2) s
  let s := (runList ps.granules).foldl (fun s g =>
    (s.writeHome (base + 0x40000 + g * 4096) (k.sbytes (g * 4096) 4096)).writeFree (base + 0x13F400 + g * 4) 4) s
  let s := (runList ps.tiles).foldl (fun s t =>
    (s.writeFree (base + 0xC0000 + t * 0x1C000) 0x1C000).writeFree (base + 0x13F600 + t * 32) 32) s
  let s := k.slots.foldl (fun s g => s.writeFree (base + 0x13EC00 + g.1 * 64) 64) s
  let s := k.copies.foldl (fun s x => s.writeFree (base + 0x13F680 + x.1 % 16 * 64) 64) s
  let s := s.writeFree (base + 0x13FA80) (64 * k.mx.length)
  let s := (runList ps.cream).foldl (fun s i =>
    s.writeHome (base + creamArea bank i) ((List.range 32768).map (mget 0 (k.creamSlot i).bytes))) s
  (k.handlerLanes ctx).foldl
    (fun s x =>
      let i := x.1 * 32 + x.2.1
      s.writeHome (base + 0x240000 + i * 256) (s.readHome (hs + i * 256) 256)) s

/-- One core's part of a spill. -/
def State.spillOn (s : State) (p : Nat) (x : Partition) (o c : Nat) : State :=
  let key := ctxKey p o
  match (s.core c).bankOf o true with
  | none => s
  | some b =>
    let k := (s.core c).split key true
    let i := c - 64 * p
    let s := s.writeImage (field x.swAddr 47 0 + i * 0x280000) (field x.hsBase 47 0 + i * 0x40000) b key k
    let rec_ : Spilled := ⟨key, c, b, (mget .free (s.core c).banks b).held,
      { k with banks := [], l1 := [], tlb := [], icache := [], walks := [] }⟩
    let s := { s with spilled := s.spilled ++ [rec_] }
    s.modCore c (fun k => { k.split key false with banks := mput k.banks b .free })

/-- The spill. -/
def State.spill (s : State) (p : Nat) : State :=
  match s.part? p with
  | none => s
  | some x =>
    let code := s.exCheck p x x.exNames true
    match x.xOut with
    | some o =>
      if code ≠ 0 then s.exDone p code
      else ((s.partCores p).foldl (fun s k => s.spillOn p x o k.1) s).exDone p 0
    | none => s.exDone p code

/-! Fills (16 R509). -/

/-- Whether two lists of runs meet. -/
def runsMeet (xs ys : List (Nat × Nat)) : Bool := xs.any (fun a => ys.any (fun b => rangesMeet a.1 a.2 b.1 b.2))

/-- A map whose keys move from one bank's range of n to another's. -/
def shiftBank (n old new : Nat) (m : Map α) : Map α := m.map (fun x => (x.1 - n * old + n * new, x.2))

/-- A spilled core's items with another bank. -/
def Core.rebank (k : Core) (old new : Nat) : Core :=
  { k with
    slots := mmapVals (fun _ g => { g with bank := new }) k.slots
    parts := k.parts.map (fun t => { t with bank := new })
    cream := shiftBank 32 old new k.cream
    binds := shiftBank 64 old new k.binds
    copies := shiftBank 16 old new
      (mmapVals (fun _ x => if x.form = .cream then { x with slot := x.slot - 32 * old + 32 * new } else x) k.copies)
    sparse := shiftBank 4096 old new k.sparse
    mx := k.mx.map (fun x => match x with
      | .mma a b c t o sb slot who => .mma a b c t o sb (slot - 32 * old + 32 * new) who
      | y => y) }

/-- Whether the positions of some items are free on a core. -/
def Core.hasRoom (k items : Core) : Bool :=
  let live (k : Core) : List TeamPart := k.parts.filter (fun t => !t.ended)
  let a := positionsOf (live k)
  let b := positionsOf (live items)
  let rows (k : Core) : List (Nat × Nat) := k.slots.map (fun g => (g.2.rows, g.2.vregs))
  items.slots.all (fun g => (mfind? k.slots g.1).isNone) && !runsMeet (rows k) (rows items) &&
  !runsMeet a.granules b.granules && !runsMeet a.tiles b.tiles && !runsMeet a.cream b.cream &&
  !runsMeet (positionsOf k.parts).binds (positionsOf items.parts).binds &&
  items.copies.all (fun x => (mfind? k.copies x.1).isNone) && items.sparse.all (fun x => (mfind? k.sparse x.1).isNone)

/-- Puts every pair of a map into another. -/
def mjoin (a b : Map α) : Map α := b.foldl (fun m x => mput m x.1 x.2) a

/-- A core with the items of a context back in a bank, saved. -/
def Core.join (k items : Core) (bank c : Nat) (held : Bool) : Core :=
  { k with
    slots := mjoin k.slots items.slots
    parts := k.parts ++ items.parts
    scratch := mjoin k.scratch items.scratch
    granules := mjoin k.granules items.granules
    tiles := mjoin k.tiles items.tiles
    cream := mjoin k.cream items.cream
    binds := mjoin k.binds items.binds
    copies := mjoin k.copies items.copies
    mx := k.mx ++ items.mx
    sparse := mjoin k.sparse items.sparse
    banks := mput k.banks bank ⟨some c, true, held⟩ }

/-- A core's spilled items as the spill area holds them (16 R509): what the layout of R504 places, the granules' bytes
and the cream slots; the rest, whose layout is not described, as the spill recorded it (log entry 47). -/
def State.imageItems (s : State) (base bank : Nat) (k : Core) : Core :=
  let ps := positionsOf k.parts
  let k := { k with slots := mmapVals (fun _ g => s.gangImage base g) k.slots }
  let k := (runList ps.granules).foldl (fun (k : Core) g =>
    k.setBytes (g * 4096) (s.readHome (base + 0x40000 + g * 4096) 4096)) k
  (runList ps.cream).foldl
    (fun (k : Core) i =>
      let bs := s.readHome (base + creamArea bank i) 32768
      let x := k.creamSlot i
      if (List.range 32768).map (mget 0 x.bytes) = bs then k
      else { k with cream := mput k.cream i { x with bytes := putBytes [] 0 bs } }) k

/-- The empty bank that a fill takes on a core where the context has no other, and the items with it, when the
positions are free (16 R503, R509). -/
def State.fillPlace (s : State) (x : Spilled) : Option (Nat × Core) :=
  let k := s.core x.core
  if k.banks.any (fun b => b.2.ctx == some (x.ctx % 256)) then none
  else
  match (below 2 (fun i => (mget .free k.banks i).ctx.isNone)).head? with
  | none => none
  | some b =>
    let items := x.items.rebank x.bank b
    if k.hasRoom items && s.coreUp x.core then some (b, items) else none

/-- A core's part of a fill: its items come back from the spill area, its handler state to the handler-state area. -/
def State.fillOn (s : State) (p inCtx : Nat) (x : Partition) (y : Spilled) : State :=
  let i := y.core - 64 * p
  let base := field x.swAddr 47 0 + i * 0x280000
  match s.fillPlace { y with items := s.imageItems base y.bank y.items } with
  | some (b, items) =>
    let s := (y.items.handlerLanes y.ctx).foldl
      (fun (s : State) z =>
        let n := z.1 * 32 + z.2.1
        s.writeHome (field x.hsBase 47 0 + i * 0x40000 + n * 256) (s.readHome (base + 0x240000 + n * 256) 256)) s
    s.modCore y.core (fun k => k.join items b inCtx y.held)
  | none => s

/-- The fill (16 R509). -/
def State.fill (s : State) (p : Nat) : State :=
  match s.part? p with
  | none => s
  | some x =>
    let code := s.exCheck p x x.exNames true
    match x.xIn with
    | some i =>
      if code ≠ 0 then s.exDone p code
      else
        let key := ctxKey p i
        let mine := s.spilled.filter (fun y => y.ctx == key)
        if mine.any (fun y => (s.fillPlace y).isNone) then s.exDone p 5
        else
          let s := mine.foldl (fun (s : State) y => s.fillOn p i x y) s
          { s with spilled := s.spilled.filter (fun y => y.ctx != key) }.exDone p 0
    | none => s.exDone p code

/-! The exchange register (16 R505). -/

/-- A write of the exchange register: its fields, then OP, whose names and checks are those of the write; an operation
that passes them is in progress until its event. REFUSED is cleared by a write of 1, and a write of OP while BUSY is
refused whole. -/
def State.exWrite (s : State) (p : Nat) (val : DWord) : State :=
  match s.part? p with
  | none => s
  | some x =>
    let op := field val 1 0
    if x.xBusy && op != 0 then s.modPart p (fun x => { x with xRefused := true })
    else
      let y := { x with
        xRefused := x.xRefused && field val 62 62 == 0
        inCtx := field val 23 16, outCtx := field val 15 8
        haveIn := field val 3 3 == 1, haveOut := field val 2 2 == 1 }
      if op = 0 then s.modPart p (fun _ => y)
      else
        let y := { y with
          xOut := if y.haveOut && op != 3 then some y.outCtx else none
          xIn := if y.haveIn && op != 2 then some y.inCtx else none }
        let code := s.exCheck p y y.exNames (op != 1)
        s.modPart p (fun _ =>
          if code ≠ 0 then { y with xCode := code, xOp := 0 } else { y with xBusy := true, xOp := op })

/-- The operation in progress of a partition, made. -/
def State.exRun (s : State) (p : Nat) : State :=
  match (s.part? p).map (fun x => x.xOp) with
  | some 1 => s.exchange p
  | some 2 => s.spill p
  | some 3 => s.fill p
  | _ => s

/-- The event of an operation: the one in progress is made, or, when none is, the write that names it comes first. -/
def State.exEvent (s : State) (who : Party) (p : Nat) (val : DWord) : State :=
  match s.part? p with
  | none => s
  | some x =>
    if x.xBusy then if x.xOp = field val 1 0 then s.exRun p else s
    else if mayHS who then (s.exWrite p val).exRun p
    else s

/-- A value with another OP. -/
def withOp (val : DWord) (op : Nat) : DWord := (val &&& ~~~3) ||| BitVec.ofNat 64 op

def execExchange (who : Party) (part : Nat) (val : DWord) (s : State) : Host.Outcome State Fault Refusal :=
  finish (s.exEvent who part (withOp val 1))
def execSpill (who : Party) (part : Nat) (val : DWord) (s : State) : Host.Outcome State Fault Refusal :=
  finish (s.exEvent who part (withOp val 2))
def execFill (who : Party) (part : Nat) (val : DWord) (s : State) : Host.Outcome State Fault Refusal :=
  finish (s.exEvent who part (withOp val 3))

end Sys2Proof.Machine
end

