-- ==== Sys2Proof/Machine/Resets.lean ====
section
/-! DEFINITION. Single-part resets and what becomes of the teams they end (spec 16 R511 to R516; 13 R435; 17
R523).
-/

namespace Sys2Proof.Machine

/-- The code of KIND (16 R511). -/
def PartKind.code : PartKind → Nat
  | .core => 1
  | .cluster => 2
  | .die => 3

/-- The part kind of a code. -/
def PartKind.ofCode : Nat → PartKind
  | 1 => .core
  | 2 => .cluster
  | _ => .die

/-- Whether a core lies in the part that a kind and a target name: only bits [9:6] of the target are read
for a cluster and [9:8] for a die. -/
def inPart (kind target c : Nat) : Bool :=
  match kind with
  | 1 => c == target
  | 2 => c / 64 == target / 64
  | 3 => c / 256 == target / 256
  | _ => false

/-- The teams that lose a part, as launch and team. -/
def State.hitTeams (s : State) (hit : Nat → Bool) : List (Nat × Nat) :=
  (s.cores.filter (fun k => hit k.1)).flatMap (fun k =>
    (k.2.parts.filter (fun t => !t.ended)).map (fun t => (t.launch, t.team)))

/-- The teams that are lost: with one team of a co-resident launch, all its running teams (16 R512). -/
def State.lostTeams (s : State) (hit : Nat → Bool) : List (Nat × Nat) :=
  let ts := s.hitTeams hit
  ts ++ s.launches.flatMap (fun l =>
    if tcbCores l.2.dw && ts.any (fun t => t.1 == l.1) then l.2.running.map (fun t => (l.1, t)) else [])

/-- A core without the gangs, parts and engine operations of some teams. -/
def Core.dropTeams (k : Core) (lost : List (Nat × Nat)) : Core :=
  let is (launch team : Nat) : Bool := lost.contains (launch, team)
  let mx (x : MxOp) : Bool := match x with
    | .mma _ _ _ _ _ _ _ who => is who.launch who.team
    | .acvt _ _ _ _ _ who => is who.launch who.team
  let ts := k.parts.filter (fun t => is t.launch t.team && !t.ended)
  let gs := k.slots.filter (fun g => is g.2.launch g.2.team)
  let k := gs.foldl (fun (k : Core) g => k.dropGang g.1) k
  let k := { k with
    copies := mfilter (fun _ x => !is x.who.launch x.who.team) k.copies
    sparse := mfilter (fun _ x => !is x.who.launch x.who.team) k.sparse
    mx := k.mx.filter (fun x => !mx x)
    granules := mfilter (fun g _ => !ts.any (fun t => t.hasGranule g)) k.granules }
  ((k.parts.filter (fun t => is t.launch t.team)).foldl Core.dropTeam k).freeBanks

/-- A core after a reset: everything on it gone, STRETCH clear (16 R512, 13 R435). The order of arrival goes on, so
that a reply to a gang that was lost meets no later one. -/
def Core.afterReset (k : Core) : Core := { Core.reset with arrivals := k.arrivals }

/-- A launch that lost teams (16 R514, R515): a restartable one dispatches them again, a co-resident one
all its teams; any other dispatches nothing more. -/
def Launch.lose (l : Launch) (teams : List Nat) : Launch :=
  if teams.isEmpty then l
  else
    let running := l.running.filter (fun t => !teams.contains t)
    if tcbRst l.dw then
      if tcbCores l.dw then { l with next := 0, again := [], running := [], ended := [] }
      else { l with running := running, again := teams.foldl (fun ts t => insertNat t ts) l.again }
    else { l with running := running, interrupted := true, lost := teams.foldl (fun ts t => insertNat t ts) l.lost }

/-- The prefetched teams of some cores, as launch and team. -/
def State.prefetchedOn (s : State) (hit : Nat → Bool) : List Prefetched :=
  (s.cores.filter (fun k => hit k.1)).flatMap (fun k => k.2.prefetch)

/-- Gives prefetched teams back to their launches: they are dispatched again. -/
def State.returnTeams (s : State) (xs : List Prefetched) : State :=
  xs.foldl (fun s x => s.modLaunch x.launch (fun l => { l with again := insertNat x.team l.again })) s

/-- The prefetched teams of interrupted launches leave. -/
def State.dropInterrupted (s : State) : State :=
  let stays (x : Prefetched) : Bool := match mfind? s.launches x.launch with
    | some l => !l.interrupted
    | none => false
  { s with cores := mmapVals (fun _ k => { k with prefetch := k.prefetch.filter stays }) s.cores }

/-- The L1 words of reset cores that reach the memory below: a store that had not left its core is applied
or not, as the model leaves open (16 R512). -/
def State.spillL1 (s : State) (c : Nat) : State := s.l1WriteBack c (fun a => Config.hadWritten s.tick (a / 4))

/-- A die under reset writes back its remote-data cache, which it loses with its fetch agent's state; its
mirror dispatches for the partitions at home on it; with die 0 the port is down (16 R512, R513; 17
R523). -/
def State.dieDown (s : State) (d : Nat) : State :=
  let s := s.rdcRemove d allBytes
  let s := s.modDie d (fun x => { x with agent := [] })
  let s := { s with parts := mmapVals (fun p x => if dieOfCluster p = d then { x with mirror := true } else x) s.parts }
  if d = 0 then
    { s with
      dev := { s.dev with up := false }
      conns := mmapVals (fun _ k => { k with held := [] }) s.conns }
  else s

/-- The context and slot of every table entry that an engine operation holds a snapshot of. -/
def State.heldSlots (s : State) : List (Nat × Nat) :=
  s.cores.flatMap (fun k => k.2.snapshotSlots) ++ s.spilled.flatMap (fun x => x.items.snapshotSlots)

/-- The end of what the part under reset held, and of the teams lost with it; slots whose last operation ended are free
(16 R512; 03 R133). -/
def State.endPartWork (s : State) (hit : Nat → Bool) : State :=
  let lost : List (Nat × Nat) := s.lostTeams hit
  let back := s.prefetchedOn hit
  let slots := s.heldSlots
  let s := (s.cores.filter (fun k => hit k.1)).foldl (fun s k => s.spillL1 k.1) s
  let s := { s with
    cores := mmapVals (fun c k => if hit c then k.afterReset else k.dropTeams lost) s.cores
    spilled := s.spilled.map (fun (x : Spilled) => { x with items := x.items.dropTeams lost }) }
  let s := { s with launches := mmapVals (fun n l =>
    l.lose ((lost.filter (fun (t : Nat × Nat) => t.1 == n)).map (fun (t : Nat × Nat) => t.2))) s.launches }
  ((s.returnTeams back).dropInterrupted.settleSlots slots).settlePurges

/-- A reset begins (16 R511, R512). From then on accesses to memory homed on a die under reset wait. -/
def State.beginReset (s : State) (cause kind target : Nat) : State :=
  let s := s.endPartWork (inPart kind target)
  let s := if kind = 3 then s.dieDown (target / 256) else s
  { s with dev := { s.dev with
    silent := s.dev.silent.filter (fun x => !(decide (x.1 ≤ kind) && inPart kind target x.2.1))
    resetReg := { s.dev.resetReg with
      busy := true, cause := cause, kind := kind, target := target, nowKind := kind, nowTarget := target } } }

/-- A host request (16 R511): refused while a reset is in progress. -/
def State.resetRequest (s : State) (kind target : Nat) : State :=
  if kind = 0 then s
  else if s.dev.resetReg.busy then
    { s with dev := { s.dev with resetReg := { s.dev.resetReg with refused := true } } }
  else s.beginReset 1 kind (target % 1024)

def execResetCore (target : Nat) (s : State) : Host.Outcome State Fault Refusal := finish (s.resetRequest 1 target)
def execResetCluster (target : Nat) (s : State) : Host.Outcome State Fault Refusal := finish (s.resetRequest 2 target)
def execResetDie (target : Nat) (s : State) : Host.Outcome State Fault Refusal := finish (s.resetRequest 3 target)

/-- The failure of a second die before the first has returned: every partition is frozen (16 R516). -/
def State.moduleFault (s : State) : State :=
  (s.parts.foldl (fun s x => s.freeze x.1) { s with dev := { s.dev with moduleFault := true } })

/-- A part's silence is answered: its record goes. -/
def State.heard (s : State) (kind target : Nat) : State :=
  { s with dev := { s.dev with silent := s.dev.silent.filter (fun x => !(x.1 == kind && x.2.1 == target)) } }

/-- Whether another die than one has failed and has not returned: its reset is in progress, or waits for another
part's. -/
def ResetReg.otherDie (r : ResetReg) (die : Nat) : Bool :=
  (r.busy && r.nowKind == 3 && r.nowTarget / 256 != die) ||
    r.waiting.any (fun x => x.2.1 == 3 && x.2.2 / 256 != die)

/-- A reset that the device makes without a request. One that falls in another part's reset waits for its
end (DEDUCED, log entry 49), but for a second die. -/
def State.deviceReset (s : State) (cause : Nat) (kind : PartKind) (target : Nat) : State :=
  let s := s.heard (PartKind.code kind) target
  let r := s.dev.resetReg
  if !r.busy then s.beginReset cause (PartKind.code kind) (target % 1024)
  else if kind = .die && r.otherDie (target % 1024 / 256) then s.moduleFault
  else
    { s with dev := { s.dev with resetReg :=
      { r with waiting := r.waiting ++ [(cause, PartKind.code kind, target % 1024)] } } }

def execUncorrectableStateError (kind : PartKind) (target : Nat) (s : State) : Host.Outcome State Fault Refusal :=
  finish (s.deviceReset 2 kind target)
def execUnresponsiveTimeout (kind : PartKind) (target : Nat) (s : State) : Host.Outcome State Fault Refusal :=
  finish (s.deviceReset 3 kind target)

/-- The register RESET as it reads (16 R511). -/
def ResetReg.word (r : ResetReg) : DWord :=
  BitVec.ofNat 64 ((if r.busy then 2 ^ 63 else 0) + (if r.refused then 2 ^ 62 else 0) + r.cause * 2 ^ 16 +
    r.kind * 2 ^ 12 + r.target)

/-- The next of the resets that the device holds. -/
def State.nextReset (s : State) : State :=
  match s.dev.resetReg.waiting with
  | [] => s
  | x :: xs =>
    { s with dev := { s.dev with resetReg := { s.dev.resetReg with waiting := xs } } }.beginReset x.1 x.2.1 x.2.2

/-- RESET_COMPLETE: BUSY clears, the returned die takes its state back, the host is notified (16 R513;
17 R534), and a reset that waited begins. -/
def State.resetComplete (s : State) : State :=
  if !s.dev.resetReg.busy then s
  else
    let s := { s with
      dev := { s.dev with resetReg := { s.dev.resetReg with busy := false } }
      parts := mmapVals (fun _ x => { x with mirror := false }) s.parts }
    let s := s.parts.foldl (fun s x => s.noteOldest x.1) s
    (s.notifyAll 0x14 0 s.dev.resetReg.word).nextReset

def execResetComplete (s : State) : Host.Outcome State Fault Refusal := finish s.resetComplete

end Sys2Proof.Machine
end

