-- ==== Sys2Proof/Machine/Rings.lean ====
section
/-! DEFINITION. Command rings: the check and acceptance of items, the execution of commands in acceptance
order with their completion entries, and kicks (spec 17 R529 to R534; 15 R475).
-/

namespace Sys2Proof.Machine

/-! The ring table (17 R530). -/

/-- The physical address of a ring's table entry. -/
def Partition.ringEntry (x : Partition) (r : Nat) : Nat := field x.crtBase 47 0 + 64 * r

/-- A ring as its entry describes it. -/
structure Ring where
  entry : Nat
  szLog : Nat
  base : Nat
  cbase : Nat
  cons0 : Nat
  kick : Nat
  deriving DecidableEq, Repr

/-- A ring that is read: EN is 1, and SZLOG, BASE and CBASE are as R530 asks. -/
def State.ring? (s : State) (x : Partition) (r : Nat) : Option Ring :=
  let e := x.ringEntry r
  let d0 := s.dword e
  let d1 := s.dword (e + 8)
  let sz := field d0 56 52
  if field d0 63 63 == 1 && decide (6 ≤ sz) && decide (sz ≤ 16) && field d0 11 0 == 0 && field d1 11 0 == 0 then
    some ⟨e, sz, field d0 47 0, field d1 47 0, (s.dword (e + 16)).toNat, (s.dword (e + 56)).toNat⟩
  else none

/-- The address of item n (17 R531). -/
def Ring.slot (x : Ring) (n : Nat) : Nat := x.base + 128 * (n % 2 ^ x.szLog)

/-- The address of completion entry n (17 R532). -/
def Ring.completion (x : Ring) (n : Nat) : Nat := x.cbase + 16 * (n % 2 ^ x.szLog)

/-! Acceptance (17 R531, R532). -/

/-- Whether item n is valid: both copies of its number are n. -/
def State.itemValid (s : State) (x : Ring) (n : Nat) : Bool :=
  (s.dword (x.slot n)).toNat == n && (s.dword (x.slot n + 120)).toNat == n

/-- The acceptance of item CONS0: the journal's copy, ACC and CONS0, and the notification. -/
def State.accept (s : State) (p r : Nat) (x : Ring) : State :=
  let n := x.cons0
  let a := x.slot n
  let job : Job := ⟨r, n, ofBytes (s.readHome (a + 8) 2), (s.dword (a + 16)).toNat⟩
  let s := s.modPart p (fun y => { y with jobs := y.jobs ++ [job] })
  let acc : DWord := BitVec.ofNat 64 (n + 1)
  let s := (s.setDword (x.entry + 48) acc).setDword (x.entry + 16) acc
  s.notifyPart p 0x10 r acc

/-- The queue unit takes the items of a ring, in order, until one is not valid. -/
def State.takeItems (s : State) (p r : Nat) : Nat → State
  | 0 => s
  | k + 1 =>
    match s.part? p with
    | none => s
    | some y =>
      match s.ring? y r with
      | none => s.touch (y.ringEntry r) 64
      | some x =>
        let s := s.touch (x.slot x.cons0) 128
        if s.itemValid x x.cons0 then (s.accept p r x).takeItems p r k else s

/-- A check of a ring: at most its slots are taken at once. -/
def State.checkRing (s : State) (p r : Nat) : State := s.takeItems p r 65536

/-- RING_RECHECK in a partition: its rings whose KICK is above CONS0 (17 R532). -/
def State.ringRecheck (s : State) (p : Nat) : State :=
  match s.part? p with
  | none => s
  | some y =>
    (List.range 64).foldl
      (fun (s : State) r =>
        match s.ring? y r with
        | some x => if x.cons0 < x.kick then s.checkRing p r else s
        | none => s) s

def execRingRecheck (s : State) : Host.Outcome State Fault Refusal :=
  finish (s.parts.foldl (fun (s : State) x => s.ringRecheck x.1) s)

/-- The rings of a partition one of whose slots a landed range touches at the item next taken. -/
def State.landedIn (s : State) (p : Nat) (a n : Nat) : State :=
  match s.part? p with
  | none => s
  | some y =>
    (List.range 64).foldl
      (fun (s : State) r =>
        match s.ring? y r with
        | some x => if rangesMeet a n (x.slot x.cons0) 128 then s.checkRing p r else s
        | none => s) s

/-- A WRITE landed: the queue units check the slots that it touches (17 R532). -/
def State.landed (s : State) (a n : Nat) : State := s.parts.foldl (fun s x => s.landedIn x.1 a n) s

/-! Kicks (17 R533). -/

/-- A kick of a ring: KICK rises, and the next item is checked. -/
def State.kick (s : State) (p r producer : Nat) : State :=
  match s.part? p with
  | none => s
  | some y =>
    if 63 < r then s
    else
      match s.ring? y r with
      | none => s
      | some x => (s.setDword (x.entry + 56) (BitVec.ofNat 64 (max x.kick producer))).checkRing p r

/-- The kick that a SEND's payload holds. -/
def State.kickOf (s : State) (payload : List Byte) : State :=
  if num payload 0 1 = 1 then s.kick (num payload 2 1) (num payload 1 1) (num payload 8 8) else s

/-! Execution (17 R532, steps 5 and 6). -/

/-- Writes completion entry n of a ring and notifies the host. -/
def State.completeItem (s : State) (p : Nat) (j : Job) (status : Nat) : State :=
  match s.part? p with
  | none => s
  | some y =>
    let e := y.ringEntry j.ring
    let d0 := s.dword e
    let x : Ring := ⟨e, field d0 56 52, field d0 47 0, field (s.dword (e + 8)) 47 0, 0, 0⟩
    let s := s.writeHome (x.completion j.item) (bytesOf 8 (j.item * 256 + status) ++ bytesOf 8 0)
    let n := mget 0 y.done j.ring + 1
    let s := s.modPart p (fun y => { y with done := mput y.done j.ring n })
    s.notifyPart p 0x11 j.ring (BitVec.ofNat 64 n)

/-- Executes the oldest accepted command of a partition when its OP satisfies a condition. -/
def State.runJob (s : State) (p : Nat) (mine : Nat → Bool) (run : State → Job → State × Nat) : State :=
  match s.part? p with
  | none => s
  | some y =>
    match y.jobs with
    | [] => s
    | j :: js =>
      if !mine j.op then s
      else
        let r := run (s.modPart p (fun y => { y with jobs := js })) j
        r.1.completeItem p j r.2

/-- SUBMIT (15 R475; 17 R532). -/
def execSubmit (part : Nat) (s : State) : Host.Outcome State Fault Refusal :=
  finish (s.runJob part (fun op => op == 1) (fun s j =>
    let r := s.submit part j.arg
    (r.1, if r.2 then 1 else 2)))
/-- NOP (17 R532). -/
def execNop (part : Nat) (s : State) : Host.Outcome State Fault Refusal :=
  finish (s.runJob part (fun op => op == 0) (fun s _ => (s, 1)))
/-- UNKNOWN_RING_OP (17 R531, R532). -/
def execUnknownRingOp (part : Nat) (s : State) : Host.Outcome State Fault Refusal :=
  finish (s.runJob part (fun op => decide (2 ≤ op)) (fun s _ => (s, 3)))

end Sys2Proof.Machine
end

