-- ==== Sys2Proof/Machine/Board.lean ====
section
/-! DEFINITION. The service mailboxes, memory errors and page retirement, boot, recovery, attestation, supply
and the board controller's bus (spec 13 R442; 14 R468 to R470; 17 R535 to R542).
-/

namespace Sys2Proof.Machine

/-! Mailboxes (13 R442). -/

/-- The address of the slot that a die's service cores take next. -/
def Die.slotAddr (d : Die) : Nat := d.mbxBase.toNat + d.mbxTail.toNat % 64 * 64

/-- The reply to a slot and the advance of MBXTAIL. The reply's other bytes stay as the host filled them. -/
def State.reply (s : State) (d : Nat) (status : Nat) (data : Nat → Byte) : State :=
  let a := (s.die d).slotAddr
  let s := (s.writeHome (a + 16) (bytesOf 1 status)).writeHome (a + 24) ((List.range 40).map data)
  s.modDie d (fun x => { x with mbxTail := x.mbxTail + 1 })

/-- Whether a page of a context's tables maps a frame: a valid, resident leaf whose frames hold it. -/
def State.mapsFrame (s : State) (ctx frame : Nat) : Bool :=
  (s.physRanges ctx 0 (2 ^ 48)).any (fun r => rangesMeet r.1 r.2 (frame * 4096) 4096)

/-- Whether a frame is still mapped by a context that is not free (14 R470). -/
def State.frameInUse (s : State) (frame : Nat) : Bool :=
  s.ctxs.any (fun x => x.2.state != .free && s.mapsFrame x.1 frame)

/-- OP 0x0001: retires the page, unless it is in use. -/
def State.retirePage (s : State) (d : Nat) : State :=
  let frame := (s.dword ((s.die d).slotAddr + 8)).toNat / 4096
  if s.frameInUse frame then s.reply d 1 (fun _ => 0)
  else { s with dev := { s.dev with retired := insertNat frame s.dev.retired } }.reply d 0 (fun _ => 0)

/-- OP 0x0002. -/
def State.firmwareVersion (s : State) (d : Nat) : State := s.reply d 0 Config.firmwareVersion

/-- OP 0x0003: the corrected errors are counted in it (14 R468). -/
def State.dieTelemetry (s : State) (d : Nat) : State :=
  s.reply d 0 (fun i => Config.telemetryByte s.tick d (s.die d).corrected i)

/-- Any other OP. -/
def State.unknownOp (s : State) (d : Nat) : State := s.reply d 0xFF (fun _ => 0)

/-- The OP of the next slot, when the host has filled one. -/
def State.nextOp (s : State) (d : Nat) : Option Nat :=
  let x := s.die d
  if x.mbxHead = x.mbxTail then none else some (ofBytes (s.readHome x.slotAddr 2))

/-- Serves the next slot of a die when its OP satisfies a condition. A die under reset serves none. -/
def State.serve (s : State) (d : Nat) (mine : Nat → Bool) (k : Nat → State → State) : State :=
  match s.nextOp d with
  | none => s
  | some op =>
    if !mine op || s.dieAway d then s
    else k op (s.touch (s.die d).slotAddr 64)

/-- What an OP does. -/
def State.mailboxOp (d op : Nat) (s : State) : State :=
  match op with
  | 1 => s.retirePage d
  | 2 => s.firmwareVersion d
  | 3 => s.dieTelemetry d
  | _ => s.unknownOp d

/-- MAILBOX_TAKE: the next slot, by its OP. -/
def execMailboxTake (die : Nat) (s : State) : Host.Outcome State Fault Refusal :=
  finish (s.serve die (fun _ => true) (State.mailboxOp die))
def execRetirePage (die : Nat) (s : State) : Host.Outcome State Fault Refusal :=
  finish (s.serve die (fun op => op == 1) (fun _ s => s.retirePage die))
def execReadFirmwareVersion (die : Nat) (s : State) : Host.Outcome State Fault Refusal :=
  finish (s.serve die (fun op => op == 2) (fun _ s => s.firmwareVersion die))
def execReadDieTelemetry (die : Nat) (s : State) : Host.Outcome State Fault Refusal :=
  finish (s.serve die (fun op => op == 3) (fun _ s => s.dieTelemetry die))
def execMailboxUnknownOp (die : Nat) (s : State) : Host.Outcome State Fault Refusal :=
  finish (s.serve die (fun op => op == 0 || decide (3 < op)) (fun _ s => s.unknownOp die))

/-! Memory errors (14 R468, R469). -/

/-- A frame's corrected errors in the second that ends now. -/
def State.recentErrors (s : State) (frame : Nat) : Nat :=
  (s.dev.errors.filter (fun e => e.1 == frame && decide (s.time < e.2 + 1000 * cyclesPerMs))).length

/-- The report of a frame with four corrected errors within 1 s, to every partition (14 R468). -/
def State.reportFrame (s : State) (addr : Nat) : State :=
  let e : FaultEntry :=
    { va := (Config.freeWord s.tick 0).toNat, ctx := 0xFFFF, core := (Config.freeWord s.tick 1).toNat % 1024,
      kind := 5, acc := (Config.freeWord s.tick 2).toNat % 8, pa := addr, page := 0 }
  s.parts.foldl (fun s x => s.fqPost x.1 e) s

/-- A corrected error is counted; the fourth of a frame within 1 s is reported, and the frame's count
starts again. -/
def State.correctedError (s : State) (addr : Nat) : State :=
  let s := s.modDie (homeDie addr) (fun x => { x with corrected := x.corrected + 1 })
  let f := addr / 4096
  let s := { s with dev := { s.dev with errors := s.dev.errors ++ [(f, s.time)] } }
  if s.recentErrors f < 4 then s
  else
    ({ s with dev := { s.dev with errors := s.dev.errors.filter (fun e => e.1 != f) } }).reportFrame (f * 4096)

/-- An error of the memory's transfer at an address. -/
def State.memoryErrorAt (s : State) (addr : Nat) (corrected : Bool) : State :=
  if memoryEnd ≤ addr then s
  else if corrected then s.correctedError addr
  else { s with dev := { s.dev with badTransfers := insertNat (addr / 32) s.dev.badTransfers } }

/-! Boot and recovery (17 R535, R536). -/

/-- A verified image runs (17 R519, R535): its SVN, copy and digest, PHASE 0x02. -/
def State.runImage (s : State) (image : List Byte) (copyB : Bool) : State :=
  { s with dev := { s.dev with
      svn := Config.imageSvn image, digest := BitVec.ofNat 256 (sha256 (Config.imageBody image)), copyB := copyB,
      phase := 0x02 } }

/-- The running image has trained memory and written zeros to it (17 R535): PHASE 0x03, or 0x04 with the link up. -/
def State.memoryReady (s : State) : State :=
  { s with
    mem := []
    dev := { s.dev with badTransfers := [], phase := if s.dev.up then 0x04 else 0x03 } }

/-- The machine when power comes on: as after reset. -/
def State.poweredOn (s : State) : State :=
  { State.reset with tick := s.tick, agenda := s.agenda, cur := s.cur, bad := s.bad }

/-- The boot ROM: image A, else image B, else recovery. -/
def State.boot (s : State) : State :=
  if imagePasses (Config.flashImage false) then s.runImage (Config.flashImage false) false
  else if imagePasses (Config.flashImage true) then s.runImage (Config.flashImage true) true
  else { s with dev := { s.dev with phase := 0xE0 } }

/-- POWER_ON: with power off, the machine starts from reset and boots; a machine whose ROM runs boots; one whose image
runs goes on to the zeroing of memory. -/
def State.powerOn (s : State) : State :=
  if !s.powered then s.poweredOn.boot
  else if s.dev.phase = 0x01 then s.boot
  else if s.dev.phase = 0x02 then s.memoryReady
  else s

def execPowerOn (s : State) : Host.Outcome State Fault Refusal := finish s.powerOn

/-- MAIN_POWER_OFF: no state is kept (17 R542). -/
def State.powerOff (s : State) : State := { s.poweredOn with powered := false }

def execMainPowerOff (s : State) : Host.Outcome State Fault Refusal := finish s.powerOff

/-- LINK_UP: the link comes up with its partner; memory that is ready makes the device ready (17 R535). -/
def State.linkUp (s : State) : State :=
  if !s.powered || s.dev.phase == 0x01 || s.dev.phase == 0x02 ||
      s.dieAway 0 then s
  else { s with dev := { s.dev with up := true, phase := if s.dev.phase = 0x03 then 0x04 else s.dev.phase } }

def execLinkUp (s : State) : Host.Outcome State Fault Refusal := finish s.linkUp

/-- The bytes that recovery accepts for an image: space 0 below 64 MiB (17 R536). -/
def State.recoveryImage (s : State) : List Byte := s.readHome 0 (64 * 2 ^ 20)

/-- RECOVERY_GO: in recovery, the image at physical 0 is verified and runs when it passes (17 R536). -/
def State.recoveryGo (s : State) : State :=
  if s.dev.phase ≠ 0xE0 then s
  else if imagePasses s.recoveryImage then s.runImage s.recoveryImage s.dev.copyB
  else s

def execRecoveryGo (s : State) : Host.Outcome State Fault Refusal := finish s.recoveryGo

/-! Attestation (17 R537, R538). -/

/-- The reference clock's count since power-on: one for twelve fabric cycles (17 R539). -/
def State.refCount (s : State) : Nat := s.time / 12

/-- Bytes 0 to 127 of a report. -/
def State.reportBody (s : State) : List Byte :=
  bytesOf 4 0x54415644 ++ bytesOf 2 1 ++ bytesOf 2 Config.rev.toNat ++ bytesOf 4 s.dev.svn.toNat ++ bytesOf 4 0 ++
    bigEndian 32 s.dev.digest.toNat ++ bytesOf 32 s.dev.nonce.toNat ++ bytesOf 8 s.dev.partmap.toNat ++
    bytesOf 8 s.refCount ++ bytesOf 32 0

/-- ATTESTATION_GO: the report at ATTADDR, and the notification. It ends in this step, so BUSY is never met. -/
def State.attest (s : State) : State :=
  let body := s.reportBody
  let sig := signReport body
  let s := s.writeHome s.dev.attAddr.toNat (body ++ bigEndian 32 sig.1 ++ bigEndian 32 sig.2)
  s.notifyAll 0x15 0 (s.dev.attAddr.setWidth 64)

def execAttestationGo (s : State) : Host.Outcome State Fault Refusal := finish s.attest

/-! Supply (17 R540). -/

/-- The cores of a cluster with one more stretch event, saturating (01 R59). -/
def State.countStretch (s : State) (n : Nat) : State :=
  ((List.range 64).map (64 * n + ·)).foldl
    (fun s c => s.modCore c (fun k => { k with stretch := min (k.stretch + 1) 0xFFFF })) s

/-- SUPPLY_SAG: a stretch starts. -/
def State.supplySag (s : State) (n : Nat) : State :=
  let k := s.cluster n
  if 16 ≤ n then s
  else
    let t := { s with clusters := mput s.clusters n { k with stretched := true, calm := 0, low := true } }
    if k.stretched then t else t.countStretch n

def execSupplySag (cluster : Nat) (s : State) : Host.Outcome State Fault Refusal := finish (s.supplySag cluster)

/-- STRETCH_END: after 64 stretched cycles at or above 427 mV. -/
def State.stretchEnd (s : State) (n : Nat) : State :=
  let k := s.cluster n
  if k.stretched && decide (64 ≤ k.calm) then
    { s with clusters := mput s.clusters n { k with stretched := false, calm := 0 } }
  else s

def execStretchEnd (cluster : Nat) (s : State) : Host.Outcome State Fault Refusal := finish (s.stretchEnd cluster)

/-! The board controller's bus (17 R542). -/

/-- An answer to a word command: zero before PHASE 0x02, nothing with power off. -/
def State.smbusWord (s : State) (x : Nat) : State :=
  if !s.powered then s else s.emit (.smbusWord (if s.dev.phase < 2 then 0 else x % 65536))

/-- The energy of the four dies. -/
def State.totalEnergy (s : State) : DWord := (List.range 4).foldl (fun n d => n + (s.die d).energy) 0

def execSmbusReadPhase (s : State) : Host.Outcome State Fault Refusal :=
  finish (s.smbusWord (s.dev.phase + if s.dev.up then 256 else 0))
def execSmbusReadPower (s : State) : Host.Outcome State Fault Refusal := finish (s.smbusWord s.dev.power)
def execSmbusReadTemperature (s : State) : Host.Outcome State Fault Refusal := finish (s.smbusWord s.dev.temperature)
/-- The block command gets no answer before PHASE 0x02. -/
def execSmbusReadEnergy (s : State) : Host.Outcome State Fault Refusal :=
  finish (if !s.powered || s.dev.phase < 2 then s else s.emit (.smbusBlock s.totalEnergy))
/-- A command other than 0x01 to 0x04. -/
def execSmbusCommandNotListed (command : Nat) (s : State) : Host.Outcome State Fault Refusal :=
  finish (if s.powered && (command == 0 || decide (4 < command)) then s.emit .smbusNack else s)

end Sys2Proof.Machine
end

