-- ==== Sys2Proof/Machine/Registers.lean ====
section
/-! DEFINITION. The privileged register space: what each address reads and what a write of it does (spec 13
R430 to R442; 14 R457; 15 R487; 16 R497, R505, R511; 17 R519, R521, R529, R537, R541).
-/

namespace Sys2Proof.Machine

/-- What a privileged address names (13 R432). -/
inductive RegPlace where
  | device (off : Nat)
  | control (part off : Nat)
  | descriptor (part ctx word : Nat)
  | nothing
  deriving DecidableEq, Repr

/-- The place of an address: only existing partitions have blocks. -/
def State.regPlace (s : State) (addr : Nat) : RegPlace :=
  if addr % 8 ≠ 0 then .nothing
  else if addr < 0x1000 then .device addr
  else if addr < 0x00100000 || 0x00200000 ≤ addr then .nothing
  else
    let p := (addr - 0x00100000) / 0x10000
    let off := (addr - 0x00100000) % 0x10000
    if (s.part? p).isNone then .nothing
    else if off < 0x100 then .control p off
    else if 0x4000 ≤ off && off < 0x8000 then .descriptor p ((off - 0x4000) / 0x40) ((off - 0x4000) % 0x40 / 8)
    else .nothing

/-- A flag as a number. -/
def flag (b : Bool) (n : Nat) : Nat := if b then 2 ^ n else 0

/-! Reads. -/

/-- Register i of a 32-byte value kept with its first byte most significant (17 R537). -/
def keyWord (x i : Nat) : Nat := ofBytes (((bigEndian 32 x).drop (8 * i)).take 8)

/-- A register of the device block (13 R436; 16 R511; 17 R519, R537, R541). -/
def State.readDevice (s : State) (off : Nat) : DWord :=
  let d := s.dev
  let mbx := s.die ((off - 0x100) / 0x20)
  BitVec.ofNat 64 (match off with
    | 0x000 => Config.rev.toNat * 2 ^ 32 + 0x31585644
    | 0x008 => d.partmap.toNat
    | 0x010 => flag d.err 0
    | 0x018 => d.resetReg.word.toNat
    | 0x200 => Config.mac.toNat
    | 0x208 => d.wport.toNat * 2 ^ 32 + d.ip4.toNat
    | 0x210 => d.ip6h.toNat
    | 0x218 => d.ip6l.toNat
    | 0x220 => d.connBase.toNat
    | 0x228 => d.cnum
    | 0x230 => flag d.up 0
    | 0x238 => d.svn.toNat * 2 ^ 16 + flag d.copyB 8 + d.phase
    | 0x2E0 => d.attAddr.toNat
    | 0x2E8 => flag d.attBusy 63
    | _ =>
      if 0x100 ≤ off && off < 0x180 then
        match off % 0x20 with
        | 0x00 => mbx.mbxBase.toNat
        | 0x08 => mbx.mbxHead.toNat
        | 0x10 => mbx.mbxTail.toNat
        | _ => 0
      else if 0x280 ≤ off && off < 0x2A0 then keyWord identityPoint.1 ((off - 0x280) / 8)
      else if 0x2A0 ≤ off && off < 0x2C0 then keyWord identityPoint.2 ((off - 0x2A0) / 8)
      else if 0x2C0 ≤ off && off < 0x2E0 then bits d.nonce.toNat (8 * (off - 0x2C0)) 64
      else if 0x300 ≤ off && off < 0x320 then (s.die ((off - 0x300) / 8)).energy.toNat
      else 0)

/-- The live gangs of a partition. -/
def State.partGangs (s : State) (p : Nat) : Nat :=
  (s.cores.map (fun k => (k.2.slots.filter (fun g => g.2.part == p)).length)).sum +
  (s.spilled.map (fun x => (x.items.slots.filter (fun g => g.2.part == p)).length)).sum

/-- The contexts of a partition that are not free. -/
def State.liveCtxs (s : State) (p : Nat) : Nat := (s.ctxs.filter (fun x => x.1 / 256 == p && x.2.state != .free)).length

/-- A partition control register. -/
def State.readControl (s : State) (p : Nat) (x : Partition) (off : Nat) : DWord :=
  BitVec.ofNat 64 (match off with
    | 0x00 => x.weight * 2 ^ 16 + x.prio * 2 ^ 8 + flag x.stop 5 + flag x.frz 4 + flag x.en 0
    | 0x08 => flag (s.stopped p) 32 + s.liveCtxs p * 2 ^ 16 + min (s.partGangs p) 0xFFFF
    | 0x10 => x.ebudget
    | 0x18 => s.usedOf x % 2 ^ 32 * 2 ^ 32 + s.windowNow % 2 ^ 16 * 2 ^ 16
    | 0x20 => x.qbanks
    | 0x28 => x.stopdl
    | 0x30 => x.seals.length
    | 0x40 => x.sdBase.toNat
    | 0x48 => x.sdLen.toNat
    | 0x50 => flag x.sdBusy 63 + flag x.sdAllCtx 16 + x.sdCtx * 2 ^ 8 + flag x.sdPurge 2
    | 0x58 => flag x.sdRefused 8 + x.sdCode
    | 0x60 => x.fqBase.toNat
    | 0x68 => x.fqHead.toNat
    | 0x70 => x.fqTail.toNat
    | 0x80 => s.admOf x
    | 0x88 => x.qtBase.toNat
    | 0x90 => flag x.qBusy 63 + x.qCode * 2 ^ 24 + x.qNum
    | 0xA0 => flag x.xBusy 63 + flag x.xRefused 62 + x.xCode * 2 ^ 24 + x.inCtx * 2 ^ 16 + x.outCtx * 2 ^ 8 +
        flag x.haveIn 3 + flag x.haveOut 2
    | 0xA8 => x.swAddr.toNat
    | 0xB0 => x.hsBase.toNat
    | 0xC0 => x.crtBase.toNat
    | 0xC8 => flag x.nen 12 + x.nconn
    | _ => 0)

/-- A word of a context descriptor (13 R439). -/
def State.readDescriptor (s : State) (ctx word : Nat) : DWord :=
  let x := s.ctx ctx
  match word with
  | 0 => BitVec.ofNat 64 (x.err * 2 ^ 16 + flag x.rtrap 4 + flag x.sys 3 + CtxState.code x.state)
  | 1 => x.ptBase
  | 2 => x.ttBase
  | 3 => x.pb
  | 4 => BitVec.ofNat 64 (x.psLog * 2 ^ 32 + x.hwm)
  | 5 => x.wdog
  | 6 => x.frec
  | _ => BitVec.ofNat 64 (min (s.liveGangs ctx) 0xFFFF)

/-- Whether a party may read a place: a system context the device block and its own partition's
(13 R430). -/
def Party.reads (who : Party) (r : RegPlace) : Bool :=
  match who, r with
  | .system p, .control q _ => p == q
  | .system p, .descriptor q _ _ => p == q
  | _, _ => true

/-- What a party reads at a privileged address; zero outside its reach (13 R430, R432). -/
def State.privRead (s : State) (who : Party) (addr : Nat) : DWord :=
  let r := s.regPlace addr
  if !s.powered || !Machine.Party.reads who r then 0
  else
    match r with
    | .device off => s.readDevice off
    | .control p off => (match s.part? p with
      | some x => s.readControl p x off
      | none => 0)
    | .descriptor p c w => s.readDescriptor (ctxKey p c) w
    | .nothing => 0

/-! Connections (17 R521). -/

/-- A connection ends as failed: its lane accesses in flight end their contexts with status 0x05
(17 R528). -/
def State.failOps (s : State) (c : Nat) : State :=
  let k := s.conn c
  let ops := k.unacked ++ k.reads.filter (fun x => !k.unacked.contains x)
  let s := { s with conns := mput s.conns c { k with unacked := [], reads := [], held := [] } }
  ops.foldl State.refuseOp s

/-- Sets STATE of a connection, in its entry too. -/
def State.setConnState (s : State) (c st : Nat) : State :=
  let s := { s with conns := mput s.conns c { s.conn c with state := st } }
  match s.connEntry? c with
  | some e => s.setDword e (BitVec.ofNat 64 (field (s.dword e) 61 0 + st * 2 ^ 62))
  | none => s

/-- CONNECTION_CLOSE: STATE 0, and what is in flight ends as though the connection had failed. -/
def State.connClose (s : State) (c : Nat) : State :=
  let s := { s with dev := { s.dev with cnum := c % 4096 } }
  if s.dev.connBase = 0 then s else (s.failOps (c % 4096)).setConnState (c % 4096) 0

/-- A connection as its entry describes it, with nothing sent or received (17 R521). -/
def State.readEntry (s : State) (e : Nat) : Conn :=
  let d (i : Nat) : DWord := s.dword (e + 8 * i)
  let v4 := field (d 0) 60 60 == 1
  { Conn.reset with
    host := field (d 0) 61 61 == 0
    peer := some ⟨v4, if v4 then field (d 0) 31 0 else (d 1).toNat * 2 ^ 64 + (d 2).toNat, field (d 0) 47 32⟩
    winBase := field (d 3) 47 0
    inBase := field (d 4) 47 0
    inLen := field (d 5) 48 0 }

/-- CONNECTION_OPEN: the entry is read, the PSNs are 0 and STATE 1. What an earlier opening left in flight
ends as at a close. -/
def State.connOpenCmd (s : State) (c : Nat) : State :=
  let s := { s with dev := { s.dev with cnum := c % 4096 } }
  match s.connEntry? (c % 4096) with
  | none => s
  | some e =>
    let s := (s.failOps (c % 4096)).touch e 64
    (s.setConn (c % 4096) (s.readEntry e)).setConnState (c % 4096) 1

def execConnectionOpen (conn : Nat) (s : State) : Host.Outcome State Fault Refusal := finish (s.connOpenCmd conn)
def execConnectionClose (conn : Nat) (s : State) : Host.Outcome State Fault Refusal := finish (s.connClose conn)

/-! Writes. -/

/-- Changes the device block. -/
def State.modDev (s : State) (f : Device → Device) : State := { s with dev := f s.dev }

/-- A write of MBXHEAD: one beyond MBXTAIL + 64 drops the slots between (13 R442). The difference is one modulo 2^64, so
a write below MBXTAIL takes MBXTAIL along (DEDUCED, log entry 68). -/
def Die.setHead (d : Die) (val : DWord) : Die :=
  { d with mbxHead := val, mbxTail := if 64 < (val - d.mbxTail).toNat then val else d.mbxTail }

/-- A write of RESET (16 R511): a request while BUSY is refused whole; with KIND 0 the fields alone are written. -/
def State.writeReset (s : State) (val : DWord) : State :=
  let kind := field val 13 12
  let r := s.dev.resetReg
  if r.busy && kind != 0 then s.resetRequest kind (field val 9 0)
  else
    let s := s.modDev (fun d => { d with resetReg := { r with
      refused := r.refused && field val 62 62 == 0, kind := kind, target := field val 9 0 } })
    s.resetRequest kind (field val 9 0)

/-- A 64-bit part of a 256-bit value, written. -/
def setQuarter (x : BitVec 256) (i : Nat) (val : DWord) : BitVec 256 :=
  let n := x.toNat
  BitVec.ofNat 256 (n - bits n (64 * i) 64 * 2 ^ (64 * i) + val.toNat * 2 ^ (64 * i))

/-- A host write of a link register (17 R519). -/
def State.writeLink (s : State) (off : Nat) (val : DWord) : State :=
  match off with
  | 0x208 => s.modDev (fun d => { d with wport := BitVec.ofNat 16 (field val 47 32), ip4 := BitVec.ofNat 32 (field val 31 0) })
  | 0x210 => s.modDev (fun d => { d with ip6h := val })
  | 0x218 => s.modDev (fun d => { d with ip6l := val })
  | 0x220 => s.modDev (fun d => { d with connBase := BitVec.ofNat 48 (field val 47 0) })
  | 0x228 =>
    match field val 17 16 with
    | 1 => s.connOpenCmd (field val 11 0)
    | 2 => s.connClose (field val 11 0)
    | _ => s.modDev (fun d => { d with cnum := field val 11 0 })
  | 0x240 => if field val 0 0 = 1 then s.recoveryGo else s
  | _ => s

/-- A host write of an attestation register (17 R537). -/
def State.writeAttestation (s : State) (off : Nat) (val : DWord) : State :=
  if off < 0x2E0 then s.modDev (fun d => { d with nonce := setQuarter d.nonce ((off - 0x2C0) / 8) val })
  else
    match off with
    | 0x2E0 => s.modDev (fun d => { d with attAddr := BitVec.ofNat 48 (field val 47 0) })
    | 0x2E8 => if field val 0 0 = 1 && !s.dev.attBusy then s.attest else s
    | _ => s

/-- A host write of a mailbox register (13 R442). -/
def State.writeMailbox (s : State) (off : Nat) (val : DWord) : State :=
  match off % 0x20 with
  | 0x00 => s.modDie ((off - 0x100) / 0x20) (fun d => { d with mbxBase := val })
  | 0x08 => s.modDie ((off - 0x100) / 0x20) (fun d => d.setHead val)
  | _ => s

/-- A service core's write of the device block: MBXTAIL alone (13 R436). -/
def State.writeTail (s : State) (off : Nat) (val : DWord) : State :=
  if 0x100 ≤ off && off < 0x180 && off % 0x20 = 0x10 then
    s.modDie ((off - 0x100) / 0x20) (fun d => { d with mbxTail := val })
  else s

/-- A host write of the device block. -/
def State.writeDevice (s : State) (off : Nat) (val : DWord) : State :=
  if off < 0x100 then
    match off with
    | 0x008 => s.partmapWrite val
    | 0x010 => s.modDev (fun d => { d with err := d.err && field val 0 0 == 0 })
    | 0x018 => s.writeReset val
    | _ => s
  else if off < 0x180 then s.writeMailbox off val
  else if off < 0x2C0 then s.writeLink off val
  else if off < 0x300 then s.writeAttestation off val
  else s

/-- A write of the register with PRIO, WEIGHT, STOP, FRZ and EN. A write that sets STOP with STOPDL 0 leaves
FRZ set (16 R499). -/
def State.writeRun (s : State) (who : Party) (p : Nat) (x : Partition) (val : DWord) : State :=
  let stop := field val 5 5 == 1
  let frz := field val 4 4 == 1
  let s := if mayH who then s.modPart p (fun x => { x with
      weight := max 1 (field val 23 16), prio := field val 10 8, en := field val 0 0 == 1 }) else s
  let s := if stop then s.setStop p else s
  let s := if frz then s.freeze p else s
  s.clearStop p (!stop) (!frz && !(stop && !x.stop && x.stopdl == 0))

/-- A write of a 48-bit or 49-bit register field. -/
def lowBits (val : DWord) (n : Nat) : DWord := BitVec.ofNat 64 (bits val.toNat 0 n)

/-- A write of a partition control register by a party of its writers. -/
def State.writeControl (s : State) (who : Party) (p : Nat) (x : Partition) (off : Nat) (val : DWord) : State :=
  let h (f : Partition → Partition) : State := if mayH who then s.modPart p f else s
  let hs (f : Partition → Partition) : State := if mayHS who then s.modPart p f else s
  let hsp (f : Partition → Partition) : State := if mayHSP p who then s.modPart p f else s
  match off with
  | 0x00 => if mayHS who then s.writeRun who p x val else s
  | 0x10 => h (fun x => { x with ebudget := field val 31 0 })
  | 0x20 => if mayH who then s.qbanksWrite p val else s
  | 0x28 => hs (fun x => { x with stopdl := field val 31 0 })
  | 0x40 => hsp (fun x => { x with sdBase := lowBits val 48 })
  | 0x48 => hsp (fun x => { x with sdLen := lowBits val 49 })
  | 0x50 => if mayHSP p who then s.sdWrite p val else s
  | 0x58 => hsp (fun x => { x with sdRefused := x.sdRefused && field val 8 8 == 0 })
  | 0x60 => h (fun x => { x with fqBase := lowBits val 48 })
  | 0x68 => if who = .service then (s.modPart p (fun x => { x with fqHead := val })).fqDrain p 256 else s
  | 0x70 => if mayH who then (s.modPart p (fun x => { x with fqTail := val })).fqDrain p 256 else s
  | 0x78 =>
    if !mayHSP p who then s
    else if field val 63 63 = 1 then s.resumeEnd (ctxKey p (field val 7 0))
    else s.retryCtx (ctxKey p (field val 7 0))
  | 0x88 => h (fun x => { x with qtBase := lowBits val 48 })
  | 0x90 => if mayH who then s.queueWrite p val else s
  | 0x98 => if mayHSP p who && field val 8 8 == 1 then s.kill (ctxKey p (field val 7 0)) else s
  | 0xA0 => if mayHS who then s.exWrite p val else s
  | 0xA8 => hs (fun x => { x with swAddr := lowBits val 48 })
  | 0xB0 => hs (fun x => { x with hsBase := lowBits val 48 })
  | 0xC0 => h (fun x => { x with crtBase := lowBits val 48 })
  | 0xC8 => h (fun x => { x with nen := field val 12 12 == 1, nconn := field val 11 0 })
  | _ => s

/-- The least watchdog limit (01 R60). -/
def wdogLimit (val : DWord) : DWord := if val.toNat < 0x400 then 0x400 else val

/-- A write of a word of a context descriptor: fields other than STATE, RTRAP, HWM and WDOG only while the
context is free; STATE after the other fields (13 R439, R440). On a live context HWM stays at least 4 KiB (01 R63). -/
def State.writeDescriptor (s : State) (who : Party) (p ctx word : Nat) (val : DWord) : State :=
  let key := ctxKey p ctx
  let free := (s.ctx key).state == .free
  let host := mayH who && free
  match word with
  | 0 =>
    let s := s.modCtx key (fun x => { x with
      rtrap := if mayHP p who then field val 4 4 == 1 else x.rtrap
      sys := if host then field val 3 3 == 1 else x.sys })
    if mayHS who then s.stateWrite key (field val 1 0) else s
  | 1 => if mayHS who && free then s.modCtx key (fun x => { x with ptBase := lowBits val 48 }) else s
  | 2 => if host then s.modCtx key (fun x => { x with ttBase := lowBits val 48 }) else s
  | 3 => if host then s.modCtx key (fun x => { x with pb := lowBits val 48 }) else s
  | 4 => s.modCtx key (fun x => { x with
      psLog := if host then field val 37 32 else x.psLog
      hwm := if mayHSP p who then (if free then field val 31 0 else max (field val 31 0) 4096) else x.hwm })
  | 5 => if mayHP p who then s.modCtx key (fun x => { x with wdog := wdogLimit val }) else s
  | 6 => if host then s.modCtx key (fun x => { x with frec := lowBits val 48 }) else s
  | _ => s

/-- A write of a privileged address by a party; outside its reach, and at an address that names no register,
it has no effect (13 R430, R432). With main power off nothing on the module runs (17 R542). -/
def State.privWrite (s : State) (who : Party) (addr : Nat) (val : DWord) : State :=
  if !s.powered then s else
  match s.regPlace addr with
  | .device off => if mayH who then s.writeDevice off val else if mayHS who then s.writeTail off val else s
  | .control p off => (match s.part? p with
    | some x => s.writeControl who p x off val
    | none => s)
  | .descriptor p c w => s.writeDescriptor who p c w val
  | .nothing => s

/-- PRIVILEGED_REGISTER_WRITE (13 R431). -/
def execPrivilegedRegisterWrite (who : Party) (addr val : DWord) (s : State) :
    Host.Outcome State Fault Refusal :=
  finish (s.privWrite who addr.toNat val)

end Sys2Proof.Machine
end

