-- ==== Sys2Proof/Machine/System.lean ====
section
/-! DEFINITION. Traps that programs make, returns from handlers, special and privileged registers, INVPG and
trampolines (spec 09 R389 to R395; 01 R53 to R60; 10 R396 to R411; 14 R456).
-/

namespace Sys2Proof.Machine

/-! TRAP, TRAMP and the undefined word. -/

/-- TRAP: UTRAP in each participating lane; without one the lanes advance (09 R389). -/
def execTrap (o : TrapOp) (s : State) : Host.Outcome State Fault Refusal :=
  finish (s.issue [] (fun g =>
    let p := g.parts s.cur false
    if p = 0 then s.completeIssue else s.trapAll g p .utrap (BitVec.ofNat 64 o.code)))

/-- UNDEFINED_WORD: EMU in every active lane (06 R241). -/
def execUndefinedWord (s : State) : Host.Outcome State Fault Refusal := finish (s.issue [] (fun g => s.trapEmu g))

/-- TRAMP: the emulation handler's trampoline vector in each participating lane; the other active lanes go
on (09 R392, 10 R411). The identifier stands in the word, which the window holds. -/
def State.tramp (s : State) : State :=
  s.issue [] (fun g =>
    let p := g.parts s.cur false
    if p = 0 then s.completeIssue
    else
      let rest := s.cur.active &&& ~~~p
      let h := g.setPcs (lanesOf rest) s.cur.next
      let h := if rest = 0 then h else h.regroup s.cur.stream (slicesOf (h.streamAt s.cur.stream).slices)
      s.enterHandler s.cur.core s.cur.slot h s.cur
        { kind := 2, delivered := .emu, deferred := false, after := s.cur.next, emu := some (emuWindow s.cur p) }
        ((lanesOf p).map (fun l => .plain l .emu 0)))

def execTramp (_o : TrampOp) (s : State) : Host.Outcome State Fault Refusal := finish s.tramp

/-! TRET and EMRET (09 R390, R391). -/

/-- A return: defined when every participating lane is in a handler of its kind, else undefined (06
R241). -/
def State.handlerReturn (s : State) (kind : HandlerFrame → Bool) (dest : HandlerFrame → VAddr)
    (write : Gang → Nat → HandlerFrame → Gang) : State :=
  s.issue [] (fun g =>
    let p := g.parts s.cur false
    if (lanesOf s.cur.active).all (fun l => (g.lane l).inHandler kind) then
      s.putGang (g.leave (s.stopping g.part) s.cur p dest write)
    else s.trapEmu g)

/-- Where TRET sends a lane: past its TRAP, or to the instruction that trapped. -/
def HandlerFrame.tretTo (f : HandlerFrame) : VAddr := if f.cause = .utrap then f.after else f.resume

def execTret (s : State) : Host.Outcome State Fault Refusal :=
  finish (s.handlerReturn (fun f => f.kind == 0) HandlerFrame.tretTo (fun g _ _ => g))

/-- Whether a word carries a W bit that is set: bit 1 of format A, F3[1] of CVT. -/
def wBitSet (w : Nat) : Bool := bits w 1 1 == 1 && (formatClass w == 0 || bits w 26 6 == 0x10)

/-- What EMRET.w writes in a lane: w0's low word to the decoded destination, with its latch entry. -/
def Gang.emretWrite (g : Gang) (tick : Nat) (honour : Bool) (l : Nat) (f : HandlerFrame) : Gang :=
  match f.emu with
  | none => g
  | some e =>
    let x : DWord := (loWord f.w0).setWidth 64
    if e.dst = 124 then g.writeLane tick .none false false l x
    else if e.dst < 120 then
      if e.dst < g.vregs then g.writeLane tick (.reg e.dst) false (honour && wBitSet e.word) l x
      else g.writeLane tick .none false false l x
    else g

/-- Where EMRET sends a lane. -/
def EmretMode.target (m : EmretMode) (f : HandlerFrame) : VAddr :=
  match m with
  | .reexecute => f.resume
  | _ => f.after

def execEmret (o : EmretOp) (s : State) : Host.Outcome State Fault Refusal :=
  finish (s.handlerReturn (fun f => f.kind != 0) (EmretMode.target o.mode)
    (fun g l f => if o.mode = .write then g.emretWrite s.tick o.honourW l f else g))

/-! Special registers (01 R53 to R60; 09 R393; 10 R400, R407). -/

/-- What a special register is: its width, whether each lane has its own value, and its numbers. -/
structure SrInfo where
  wide : Bool
  lane : Bool
  deriving DecidableEq, Repr

/-- The listed numbers (01 R53). -/
def srInfo (n : Nat) : Option SrInfo :=
  match n with
  | 0x00 => some ⟨false, true⟩
  | 0x01 => some ⟨false, true⟩
  | 0x02 => some ⟨false, false⟩
  | 0x03 => some ⟨false, false⟩
  | 0x04 => some ⟨true, false⟩
  | 0x05 => some ⟨false, false⟩
  | 0x08 => some ⟨true, false⟩
  | 0x09 => some ⟨true, false⟩
  | 0x0A => some ⟨true, false⟩
  | 0x0B => some ⟨true, false⟩
  | 0x0C => some ⟨true, false⟩
  | 0x0D => some ⟨true, false⟩
  | 0x11 => some ⟨true, true⟩
  | 0x12 => some ⟨true, true⟩
  | 0x20 => some ⟨false, true⟩
  | 0x21 => some ⟨true, true⟩
  | 0x22 => some ⟨true, true⟩
  | _ =>
    if n = 0x10 || (0x13 ≤ n && n ≤ 0x1B) then some ⟨false, false⟩
    else if 0x1C ≤ n && n ≤ 0x1F then some ⟨true, true⟩
    else none

/-- The innermost handler frame of a lane. -/
def Gang.frame (g : Gang) (l : Nat) : Option HandlerFrame := (g.lane l).handlers.head?

/-- The emulation window of a lane's handler; none outside one and in a trap handler (01 R54). -/
def Gang.window (g : Gang) (l : Nat) : Option EmuWindow := (g.frame l).bind (fun f => f.emu)

/-- An ew. register of a window. -/
def EmuWindow.read (e : EmuWindow) (n : Nat) : Nat :=
  match n with
  | 0x10 => e.word
  | 0x11 => e.pc.toNat
  | 0x12 => e.hpc.toNat
  | 0x13 => e.hints.getD 0 0
  | 0x14 => e.hints.getD 1 0
  | 0x15 => e.hints.getD 2 0
  | 0x16 => e.hints.getD 3 0
  | 0x17 => e.dst
  | 0x18 => e.a
  | 0x19 => e.b
  | 0x1A => e.fmt
  | _ => e.mask.toNat

/-- w0 to w3 of a frame with an emulation window. -/
def HandlerFrame.readW (f : HandlerFrame) (n : Nat) : DWord :=
  if f.emu.isNone then 0
  else
    match n with
    | 0x1C => f.w0
    | 0x1D => f.w1
    | 0x1E => f.w2
    | _ => f.w3

/-- A tw. register of a frame at a level. -/
def HandlerFrame.readTw (f : HandlerFrame) (level n : Nat) : DWord :=
  match n with
  | 0x20 => BitVec.ofNat 64 (twCause f.kind level f.deferred (causeCode f.delivered) (causeCode f.cause))
  | 0x21 => f.pc.setWidth 64
  | _ => f.addr

/-- sr.energy of a core in a partition (01 R59). -/
def State.energyWord (s : State) (c part : Nat) : DWord :=
  let used := match s.part? part with
    | some x => s.usedOf x
    | none => 0
  BitVec.ofNat 64 (used % 2 ^ 32 * 2 ^ 32 + s.windowNow % 2 ^ 16 * 2 ^ 16 + (s.core c).stretch)

/-- sr.core of a gang (01 R56). -/
def Gang.coreWord (g : Gang) (c : Nat) : DWord :=
  BitVec.ofNat 64 (g.bank * 2 ^ 16 + (if g.promotion.isSome then 2 ^ 15 else 0) + g.slot * 2 ^ 10 + c)

/-- A special register as a lane reads it. -/
def State.srRead (s : State) (c : Nat) (g : Gang) (n l : Nat) : DWord :=
  match n with
  | 0x00 => BitVec.ofNat 64 l
  | 0x01 => BitVec.ofNat 64 (l / 4)
  | 0x02 => BitVec.ofNat 64 g.index
  | 0x03 => BitVec.ofNat 64 g.team
  | 0x04 => g.coreWord c
  | 0x05 => g.seq.setWidth 64
  | 0x08 => BitVec.ofNat 64 (s.clockOf c)
  | 0x09 => g.fpflags.setWidth 64
  | 0x0A => BitVec.ofNat 64 g.bankstall
  | 0x0B => BitVec.ofNat 64 g.replay
  | 0x0C => s.energyWord c g.part
  | 0x0D => (s.ctx g.ctxKey).wdog
  | _ =>
    if n < 0x1C then (match g.window l with
      | some e => BitVec.ofNat 64 (e.read n)
      | none => 0)
    else if n < 0x20 then (match g.frame l with
      | some f => f.readW n
      | none => 0)
    else match g.frame l with
      | some f => f.readTw (g.lane l).level n
      | none => 0

/-- Whether a register field names an even pair, where a wide register needs one (09 R393). -/
def pairField (wide : Bool) (n : Nat) : Bool := !wide || n % 2 == 0

/-- SRD. A number that R53 does not list, or an odd pair, is undefined at execution. -/
def execSrd (o : SrdOp) (s : State) : Host.Outcome State Fault Refusal :=
  finish (match srInfo o.n with
    | none => s.issue [] (fun g => s.trapEmu g)
    | some i =>
      s.issue (useDst (if i.wide then 2 else 1) o.d) (fun g =>
        if (match o.d with
            | .reg r => pairField i.wide r
            | .none => true) then
          let p := g.parts s.cur false
          let val (l : Nat) : DWord := s.srRead s.cur.core g o.n (if i.lane then l else lowest p)
          s.putGang ((g.writeVec s.tick s.cur p o.d i.wide false val).advance s.cur)
        else s.trapEmu g))

/-- A write of w0 to w3 in a lane's emulation handler (01 R53, R54). -/
def Gang.writeW (g : Gang) (n l : Nat) (x : DWord) : Gang :=
  g.modLane l (fun y =>
    match y.handlers with
    | f :: fs =>
      if f.emu.isNone then y
      else
        let f := match n with
          | 0x1C => { f with w0 := x }
          | 0x1D => { f with w1 := x }
          | 0x1E => { f with w2 := x }
          | _ => { f with w3 := x }
        { y with handlers := f :: fs }
    | [] => y)

/-- The effect of SWR: the value of the lowest participating lane for a register of the gang or the context;
each lane's own for a lane register; none for a read-only one (00 R6). -/
def State.srWrite (s : State) (g : Gang) (p : LaneMask) (n : Nat) (v : Nat → DWord) : State :=
  if p = 0 then s
  else
    let x := v (lowest p)
    match n with
    | 0x09 => s.onGang (fun g => { g with fpflags := x.setWidth 5 })
    | 0x0A => s.onGang (fun g => { g with bankstall := (loWord x).toNat })
    | 0x0B => s.onGang (fun g => { g with replay := (loWord x).toNat })
    | 0x0D => s.modCtx g.ctxKey (fun y => { y with wdog := wdogLimit x })
    | _ =>
      if 0x1C ≤ n && n ≤ 0x1F then s.onGang (fun g => (lanesOf p).foldl (fun g l => g.writeW n l (v l)) g)
      else s

/-- SWR. -/
def execSwr (o : SwrOp) (s : State) : Host.Outcome State Fault Refusal :=
  finish (match srInfo o.n with
    | none => s.issue [] (fun g => s.trapEmu g)
    | some i =>
      s.issue (useSrc (if i.wide then 2 else 1) o.v) (fun g =>
        if (match o.v with
            | .reg r => pairField i.wide r
            | .lane => !i.wide
            | _ => true) then
          (s.srWrite g (g.parts s.cur false) o.n (fun l => g.src64 l o.v)).completeIssue
        else s.trapEmu g))

/-! Privileged instructions (09 R394, R395). -/

/-- Whether a gang's context has the system flag. -/
def State.isSystem (s : State) (g : Gang) : Bool := (s.ctx g.ctxKey).sys

/-- PSRD. The address that ALIGN and PERM give is log entry 21's and 20's (DEDUCED, DESIGN CHOICE). -/
def execPsrd (o : SS) (s : State) : Host.Outcome State Fault Refusal :=
  finish (s.perIssue [] (fun g p =>
    let a := g.sreg o.a
    if a.toNat % 8 ≠ 0 then s.trapAll g p .align a
    else if !s.isSystem g then s.trapAll g p .perm (s.freeAddr 0)
    else s.finishScalar o.d (s.privRead (.system g.part) a.toNat)))

/-- PSWR. See PSRD for the addresses of its causes. -/
def execPswr (o : SS) (s : State) : Host.Outcome State Fault Refusal :=
  finish (s.perIssue [] (fun g p =>
    let a := g.sreg o.a
    if a.toNat % 8 ≠ 0 then s.trapAll g p .align a
    else if !s.isSystem g then s.trapAll g p .perm (s.freeAddr 0)
    else (s.privWrite (.system g.part) a.toNat (g.sreg o.d)).completeIssue))

/-- The cores that a sweep of a scope reaches from a core. -/
def scopeCores (sc : Scope) (c d : Nat) : Bool :=
  match sc with
  | .gang => c == d
  | .team => c == d
  | .clus => c / 64 == d / 64
  | .die => c / 256 == d / 256
  | _ => true

/-- The dies whose fetch agents it reaches. -/
def scopeDies (sc : Scope) (c d : Nat) : Bool :=
  match sc with
  | .gang => false
  | .team => false
  | .clus => false
  | .die => dieOfCore c == d
  | _ => true

/-- INVPG: ALIGN, then the privilege, then the range; a sweep for every context of the partition. Its causes give the
base, or a misaligned length (DEDUCED, log entry 21), and PERM for want of privilege a free address (log entry 20). -/
def execInvpg (o : InvpgOp) (s : State) : Host.Outcome State Fault Refusal :=
  finish (s.perIssue [] (fun g p =>
    let base := g.sreg o.a
    let len := g.sreg (o.a + 1)
    if base.toNat % 4096 ≠ 0 then s.trapAll g p .align base
    else if len.toNat % 4096 ≠ 0 then s.trapAll g p .align len
    else if !s.isSystem g then s.trapAll g p .perm (s.freeAddr 0)
    else if 2 ^ 48 < base.toNat + len.toNat then s.trapAll g p .perm base
    else
      (s.sweepOn g.part base.toNat len.toNat (fun ctx => ctx / 256 == g.part)
        (scopeCores o.scope s.cur.core) (scopeDies o.scope s.cur.core)).completeIssue))

end Sys2Proof.Machine
end

