-- ==== Sys2Proof/Machine/Link.lean ====
section
/-! DEFINITION. The receiving side of the Wilent transport, its timeouts, and the answers to requests for the
device's addresses (spec 17 R518 to R528, R533, R536).
-/

namespace Sys2Proof.Machine

/-! Which datagrams are taken (17 R518, R520, R522). -/

/-- The IPv6 address. -/
def Device.ip6 (d : Device) : Nat := d.ip6h.toNat * 2 ^ 64 + d.ip6l.toNat

/-- Whether an address of a family is the device's: an IPv4 address of zero means that it has none. -/
def Device.owns (d : Device) (v4 : Bool) (addr : Nat) : Bool :=
  if v4 then addr == d.ip4.toNat && d.ip4 != 0 else addr == d.ip6

/-- Whether frames are received: the link is up. -/
def State.hears (s : State) : Bool := s.powered && s.dev.up

/-- The bytes of a frame that carries n bytes after a UDP or ICMP header: 18 of Ethernet, its check sequence included,
an IP header and 8 (PRESUMED, assumption log 78: the spec names the frame, not what it counts). -/
def frameBytes (v4 : Bool) (n : Nat) : Nat := 26 + (if v4 then 20 else 40) + n

/-- Whether a frame is short enough to be accepted (17 R517). -/
def frameFits (v4 : Bool) (n : Nat) : Bool := decide (frameBytes v4 n ≤ 9216)

/-- Whether a connection takes a datagram: it is open and the source is its remote endpoint; connection 0
without a table takes any source. -/
def State.takes (s : State) (m : Datagram) : Bool :=
  s.hears && frameFits m.toV4 (32 + m.payload.length) && m.sumsOk &&
  m.toPort == s.dev.wport.toNat && s.dev.owns m.toV4 m.toAddr && m.src.v4 == m.toV4 &&
  m.ver == 1 && s.connOpen m.conn &&
  (s.dev.connBase == 0 || (s.conn m.conn).peer == some m.src)

/-! Acknowledgements (17 R520, R522, R528). -/

/-- Whether a PSN lies before another. -/
def psnBefore (a b : Nat) : Bool := (b + 2 ^ 32 - 1 - a % 2 ^ 32) % 2 ^ 32 < 2 ^ 31

/-- The operations that SACK shows missing: those below the highest one received whose bit is clear. -/
def Conn.missing (k : Conn) (ackPsn sack : Nat) : List SentOp :=
  let top := sack.log2 + 1
  if sack = 0 then []
  else k.unacked.filter (fun x =>
    let i := (x.psn + 2 ^ 32 - ackPsn) % 2 ^ 32
    decide (i ≤ top) && (i == 0 || !sack.testBit (i - 1)))

/-- The acknowledgement that an ACK or an operation carries: what is below ACKPSN is done, what SACK shows
missing is sent again. -/
def State.acked (s : State) (m : Datagram) : State :=
  let k := s.conn m.conn
  let left := k.unacked.filter (fun x => !psnBefore x.psn m.ackPsn)
  let moved : Bool := decide (left.length < k.unacked.length)
  let k' := { k with
    unacked := left
    expiries := if moved then 0 else k.expiries
    timer := if moved then s.time else k.timer }
  let s := { s with conns := mput s.conns m.conn k' }
  (k'.missing m.ackPsn m.sack).foldl (fun (s : State) x => s.sendTo k' (k'.frameOf m.conn x)) s

/-- WLT_ACK: a non-zero STATUS is that of the last operation acknowledged. -/
def State.wltAck (s : State) (m : Datagram) : State :=
  if !s.takes m then s
  else
    let refused := if m.status = 0 then none else
      (s.conn m.conn).unacked.find? (fun x => x.psn == (m.ackPsn + 2 ^ 32 - 1) % 2 ^ 32)
    let s := s.acked m
    match refused with
    | some x => s.refuseOp x
    | none => s

def execWltAck (m : Datagram) (s : State) : Host.Outcome State Fault Refusal := finish (s.wltAck m)

/-! Performing operations (17 R522, R524, R533, R536). -/

/-- The STATUS of a WRITE or READ: denied, a bad address or length, or done. -/
def State.opStatus (s : State) (k : Conn) (m : Datagram) : Nat :=
  let space := bits m.addr 60 4
  let a := bits m.addr 0 48
  let recovery := s.dev.phase == 0xE0
  if 2 ≤ space || (space == 1 && !k.host) ||
      (space == 0 && !k.host && !(decide (k.inBase ≤ a) && decide (a + m.len ≤ k.inBase + k.inLen))) ||
      (recovery && (if space = 0 then decide (64 * 2 ^ 20 < a + m.len) else decide (0x1000 ≤ a))) then 1
  else if bits m.addr 48 12 ≠ 0 || m.len = 0 || 8192 < m.len then 2
  else if space = 1 then (if a % 8 = 0 && m.len = 8 then 0 else 2)
  else if memoryEnd < a + m.len then 2 else 0

/-- Bytes at their home for a READ: those of a transfer with an uncorrectable error have no stated value. -/
def State.linkHome (s : State) (a n : Nat) : List Byte :=
  let bs := s.readHome a n
  (List.range n).map (fun i =>
    if s.dev.badTransfers.contains ((a + i) / 32) then Config.freeByte s.tick (a + i) else bs.getD i 0)

/-- The machine before an operation of space 0 on its bytes: it waits while one of them is homed on a die under reset
(16 R512). -/
def State.touchSpan (s : State) (m : Datagram) : State :=
  let a := bits m.addr 0 48
  if bits m.addr 60 4 = 0 then (s.touch a 1).touch (a + m.len - 1) 1 else s

/-- A WRITE that is not denied: its bytes land at their homes, and the queue units check what they touch;
or the privileged write of the host. DESIGN CHOICE (assumption log 24): it lands in a sealed range too, for R524 lists
the refusals and no seal among them. -/
def State.landWrite (s : State) (m : Datagram) : State :=
  let a := bits m.addr 0 48
  if bits m.addr 60 4 = 0 then
    (((s.touchSpan m).rdcsDrop (meetsRanges [(a, m.len)])).writeHome a m.payload).landed a m.len
  else s.privWrite .host a (BitVec.ofNat 64 (ofBytes m.payload))

/-- What a READ that is not denied returns. -/
def State.readValue (s : State) (m : Datagram) : List Byte :=
  let a := bits m.addr 0 48
  if bits m.addr 60 4 = 0 then s.linkHome a m.len else bytesOf 8 (s.privRead .host a).toNat

/-- A READ of space 0 takes the values at the homes; words that are dirty in a cache stay there. -/
def State.performRead (s : State) (k : Conn) (m : Datagram) : State :=
  let st := s.opStatus k m
  let s := if st = 0 then s.touchSpan m else s
  s.sendReply m.conn 3 st m.len m.addr (if st = 0 then s.readValue m else [])

/-- A WRITE with its acknowledgement; its payload is as long as LEN says. -/
def State.performWrite (s : State) (k : Conn) (m : Datagram) : State :=
  let st := match s.opStatus k m with
    | 0 => if m.payload.length = m.len then 0 else 2
    | n => n
  (if st = 0 then s.landWrite m else s).sendReply m.conn 5 st 0 0 []

/-- A SEND with its acknowledgement: on a host connection its 16 bytes can be a kick. Recovery takes none. -/
def State.performSend (s : State) (k : Conn) (m : Datagram) : State :=
  if s.dev.phase = 0xE0 then s.sendReply m.conn 5 1 0 0 []
  else if m.len = 16 && m.payload.length = 16 then
    (if k.host then s.kickOf m.payload else s).sendReply m.conn 5 0 0 0 []
  else s.sendReply m.conn 5 2 0 0 []

/-- Performs the operation at RXPSN, which the mirror records first. -/
def State.perform (s : State) (op : Nat) (m : Datagram) : State :=
  let k := s.conn m.conn
  let s := s.setConn m.conn { k with rxPsn := (k.rxPsn + 1) % 2 ^ 32 }
  match op with
  | 1 => s.performWrite k m
  | 2 => s.performRead k m
  | _ => s.performSend k m

/-- Performs held operations while the next one is among them. -/
def State.performHeld (s : State) (c : Nat) : Nat → State
  | 0 => s
  | n + 1 =>
    let k := s.conn c
    match k.held.find? (fun x => x.1 == k.rxPsn) with
    | some x =>
      let s := { s with conns := mput s.conns c { k with held := k.held.filter (fun y => y.1 != x.1) } }
      (s.perform x.2.1 x.2.2).performHeld c n
    | none => s

/-- A received WRITE, READ or SEND: performed in PSN order, held up to 32 ahead, acknowledged again when
below RXPSN. -/
def State.receive (s : State) (op : Nat) (m : Datagram) : State :=
  if !s.takes m then s
  else
    let s := s.acked m
    let k := s.conn m.conn
    let k := if s.dev.connBase = 0 then { k with peer := some m.src } else k
    let s := { s with conns := mput s.conns m.conn k }
    let ahead := (m.psn + 2 ^ 32 - k.rxPsn) % 2 ^ 32
    if ahead = 0 then (s.perform op m).performHeld m.conn 32
    else if ahead ≤ 32 then
      let held := if k.held.any (fun x => x.1 == m.psn) then k.held else k.held ++ [(m.psn, op, m)]
      ({ s with conns := mput s.conns m.conn { k with held := held } }).sendReply m.conn 5 0 0 0 []
    else if psnBefore m.psn k.rxPsn then s.sendReply m.conn 5 0 0 0 []
    else s

def execWltWrite (m : Datagram) (s : State) : Host.Outcome State Fault Refusal := finish (s.receive 1 m)
def execWltRead (m : Datagram) (s : State) : Host.Outcome State Fault Refusal := finish (s.receive 2 m)
def execWltSendKick (m : Datagram) (s : State) : Host.Outcome State Fault Refusal := finish (s.receive 4 m)

/-! Replies to reads of system pages (17 R528). -/

/-- A reply with the bytes of a READ. -/
def LinkReply.arrive (bs : List Byte) : LinkReply → LinkReply
  | .awaited got => .held (got ++ bs)
  | r => r

/-- Streams of a gang that await no reply any more go on. -/
def Gang.wakeLinks (g : Gang) : Gang :=
  let waits (l : Nat) : Bool := match (g.lane l).link with
    | .awaited _ => true
    | _ => false
  let wake (st : Stream) : Stream :=
    if st.wait = .link && !(slicesLanes st.slices).any waits then { st with wait := .run } else st
  { g with streams := g.streams.map wake }

/-- A core where a reply reaches its requester, when it is still there. -/
def Core.deliver (k : Core) (w : Requester) (bs : List Byte) : Core :=
  if w.slot < 32 then
    match mfind? k.slots w.slot with
    | some g =>
      if g.ctxKey = w.ctx && g.arrival = w.arrival then
        let h := g.modLane w.lane (fun x => { x with link := LinkReply.arrive bs x.link })
        { k with slots := mput k.slots w.slot h.wakeLinks }
      else k
    | none => k
  else
    { k with copies := mmapVals (fun i x =>
        if w.isCopy w.core i x then { x with links := mmod x.links w.lane (LinkReply.arrive bs) } else x) k.copies }

/-- A reply reaches its requester on its core, or where a spill took it. -/
def State.deliver (s : State) (w : Requester) (bs : List Byte) : State :=
  let s := s.modCore w.core (fun k => k.deliver w bs)
  { s with spilled := s.spilled.map (fun x =>
      if x.core = w.core && x.ctx = w.ctx then { x with items := x.items.deliver w bs } else x) }

/-- WLT_READRESP: the oldest READ of its address and length has its reply. -/
def State.wltReadresp (s : State) (m : Datagram) : State :=
  if !s.takes m then s
  else
    let s := s.acked m
    let k := s.conn m.conn
    match k.reads.find? (fun x => x.addr == m.addr && x.len == m.len) with
    | none => s
    | some x =>
      if m.status = 0 && m.payload.length ≠ m.len then s
      else
        let s := { s with conns := mput s.conns m.conn { k with reads := k.reads.erase x } }
        if m.status ≠ 0 then s.refuseOp x
        else match x.who with
          | some w => s.deliver w m.payload
          | none => s

def execWltReadresp (m : Datagram) (s : State) : Host.Outcome State Fault Refusal := finish (s.wltReadresp m)

/-! Timeouts (17 R522). -/

/-- A connection that fails: STATE 2, and what is in flight ends. -/
def State.connFail (s : State) (c : Nat) : State := (s.failOps c).setConnState c 2

/-- The timeout after a number of expiries, in fabric cycles: 50 µs, doubled up to 6.4 ms. -/
def timeoutAfter (expiries : Nat) : Nat := 60000 * 2 ^ min expiries 7

/-- Whether a connection's timeout has passed. -/
def State.timeoutDue (s : State) (k : Conn) : Bool :=
  !k.unacked.isEmpty && decide (k.timer + timeoutAfter k.expiries ≤ s.time)

/-- WLT_RETRANSMIT_TIMEOUT: everything not yet acknowledged is sent again; the expiry after 16
retransmissions without progress fails the connection. -/
def State.timeout (s : State) (c : Nat) : State :=
  let k := s.conn c
  if !s.timeoutDue k || !s.connOpen c || !s.hears then s
  else if 16 ≤ k.expiries then s.connFail c
  else
    let k' := { k with expiries := k.expiries + 1, timer := s.time }
    let s := { s with conns := mput s.conns c k' }
    k'.unacked.foldl (fun (s : State) x => s.sendTo k' (k'.frameOf c x)) s

def execWltRetransmitTimeout (conn : Nat) (s : State) : Host.Outcome State Fault Refusal := finish (s.timeout conn)

/-! Requests for the device's addresses (17 R518). -/

def execArpRequest (m : ArpRequest) (s : State) : Host.Outcome State Fault Refusal :=
  finish (if s.hears && s.dev.owns true m.targetIp then
    s.emit (.arpReply m.senderMac m.senderIp Config.mac s.dev.ip4) else s)

def execNeighbourSolicitation (m : Solicitation) (s : State) : Host.Outcome State Fault Refusal :=
  finish (if s.hears && s.dev.owns false m.targetIp then
    s.emit (.advertisement m.senderMac m.senderIp Config.mac s.dev.ip6h s.dev.ip6l) else s)

def execIcmpEchoRequest (m : EchoRequest) (s : State) : Host.Outcome State Fault Refusal :=
  finish (if s.hears && frameFits m.v4 m.payload.length && s.dev.owns m.v4 m.targetIp then
    s.emit (.echoReply m.v4 m.senderIp m.ident m.seq m.payload) else s)

end Sys2Proof.Machine
end

