-- ==== Sys2Proof/Machine/Agenda.lean ====
section
/-! DEFINITION. What a step does: the head of the agenda, or when it is empty the default order of one fabric
cycle (log entry 1).
-/

namespace Sys2Proof.Machine

/-! The default order: every event that the device itself makes and that may act, then time. -/

/-- Whether a gang's wait on absent pages is retried now: at least every 100 µs, and once a service core has seen an
outstanding page of its context made resident (14 R462). -/
def State.retryDue (s : State) (g : Gang) : Bool :=
  g.streams.any (fun st => st.wait == .nres) &&
    (s.time % cyclesPer100us == 0 ||
      ((s.part? g.part).map (fun x => x.fqOut)).any (fun es => es.any (fun e => e.ctx == g.ctx && s.fqMet g.part e)))

/-- The events of a core's engines, waits and issue slot; the issue slot comes once per core cycle. -/
def State.coreMoves (s : State) (c : Nat) (k : Core) : List Move :=
  let e (i : Instr) : Move := .event i
  k.copies.flatMap (fun x => [e (.deferredFault c .copy x.1), e (.copyComplete c x.1)]) ++
  k.sparse.flatMap (fun x =>
    [e (.deferredFault c .sparse x.1), e (if x.2.isImport then .spimportComplete c x.1 else .spdenseComplete c x.1)]) ++
  (if k.mx.isEmpty then [] else [e (.mmaExecute c), e (.acvtExecute c)]) ++
  k.slots.flatMap (fun x =>
    e (.wdog c x.1) ::
      ((if s.retryDue x.2 then [.retry c x.1] else []) ++
        [e (.lightFault c x.1), e (.bwaitWake c x.1), e (.promotion c x.1), e (.promotionTimeout c x.1)])) ++
  (if k.slots.isEmpty then [] else
    [e (.matrixLeaseGrant c), e (.leaseIdleEnd c), e (.fetchFill c)] ++
    (if (s.cluster (c / 64)).phase = 0 then [Move.core c] else []))

/-- A partition's queue command in progress, made. -/
def State.runQueue (s : State) (p : Nat) : State :=
  match (s.part? p).map (fun x => (x.qBusy, x.qOp, x.qNum)) with
  | some (true, 1, q) => s.queueCreate p q
  | some (true, 2, q) => s.queueDestroy p q
  | _ => s

/-- A partition's commands in progress, made: the queue command, then the exchange, spill or fill. -/
def State.runCommands (s : State) (p : Nat) : State :=
  let t := s.runQueue p
  if ((t.part? p).map (fun x => x.xBusy)).getD false then t.exRun p else t

/-- The events of a partition's rings, launches, commands and deadlines. -/
def Partition.moves (x : Partition) (p : Nat) : List Move :=
  let e (i : Instr) : Move := .event i
  (if x.jobs.isEmpty then [] else [e (.submit p), e (.nop p), e (.unknownRingOp p)]) ++
  (if x.launches.isEmpty then [] else [e (.launchComplete p)]) ++
  (if x.qBusy || x.xBusy then [.command p] else []) ++
  (if x.stop then [e (.stopdlExpire p)] else [])

/-- The parts that have given no response for 10 ms (16 R511). -/
def State.unanswered (s : State) : List (Nat × Nat × Nat) :=
  s.dev.silent.filter (fun x => decide (x.2.2 + 10 * cyclesPerMs ≤ s.time))

/-- The events of one fabric cycle. A die's decision comes once in it (15 R480), after the cores have placed what they
can, so that it recalls no team that its core can place (R482; log entry 39). -/
def State.cycleMoves (s : State) : List Move :=
  let e (i : Instr) : Move := .event i
  (if s.dev.phase == 0x01 || s.dev.phase == 0x02 then [e .powerOn] else []) ++
  (if s.time % cyclesPerMs = 0 && !s.parts.isEmpty then [e .energyWindowStart] else []) ++
  (if s.dev.resetReg.busy then [e .resetComplete] else []) ++
  s.unanswered.map (fun x => .unanswered x.1 x.2.1) ++
  ((List.range 4).filter (fun d => (s.nextOp d).isSome)).map (fun d => e (.mailboxTake d)) ++
  (s.conns.filter (fun k => s.timeoutDue k.2)).map (fun k => e (.wltRetransmitTimeout k.1)) ++
  (s.clusters.filter (fun k => k.2.stretched)).map (fun k => e (.stretchEnd k.1)) ++
  (if s.time % cyclesPer10us = 0 && !s.parts.isEmpty then [e .ringRecheck, e .dispatchHoldTimeout] else []) ++
  s.parts.flatMap (fun x => x.2.moves x.1) ++
  (s.cores.filter (fun x => !x.2.prefetch.isEmpty)).map (fun x => e (.teamPlacement x.1)) ++
  (if s.launches.isEmpty then [] else (List.range 4).map (fun d => e (.dispatchDecision d))) ++
  s.cores.flatMap (fun x => s.coreMoves x.1 x.2)

/-! The step. -/

/-- What a move does on a device with power. -/
def State.runMove (s : State) : Move → Plan
  | .core c => s.coreCycle c
  | .split c n => { s with split := some n }.coreCycle c
  | .event i => .run i s
  | .elapse n => .done (s.elapse n)
  | .energy k u => .done (s.addEnergy k u)
  | .dieEnergy d u => .done (s.addDieEnergy d u)
  | .sensors p t => .done { s with dev := { s.dev with power := p, temperature := t } }
  | .supply k low => .done (s.setSupply k low)
  | .memoryError a corrected => .done (s.memoryErrorAt a corrected)
  | .silence k t =>
    .done (if s.dev.silent.any (fun x => x.1 == k && x.2.1 == t) then s
      else { s with dev := { s.dev with silent := s.dev.silent ++ [(k, t, s.time)] } })
  | .response k t => .done (s.heard k t)
  | .retry c slot => .done (s.nresRetry c slot)
  | .command p => .done (s.runCommands p)
  | .unanswered k t => .done (s.deviceReset 3 (Machine.PartKind.ofCode k) t)

/-- What a move does: with main power off nothing runs until power comes on (17 R542). -/
def State.planMove (s : State) (m : Move) : Plan :=
  if s.powered || m == .event .powerOn then s.runMove m else .done s

/-- The next move, taken off the agenda: its head; of an empty agenda, the events of a fabric cycle and then the
cycle itself, put on it first. -/
def State.pop (s : State) : Move × State :=
  let s := { s with tick := s.tick + 1, split := none }
  match s.agenda with
  | m :: ms => (m, { s with agenda := ms })
  | [] =>
    match s.cycleMoves with
    | m :: ms => (m, { s with agenda := ms ++ [.elapse 1] })
    | [] => (.elapse 1, s)

/-- A move that met memory homed on a die under reset has done nothing, and waits (16 R512): the device's own moves
come again in the next cycle, and another goes to the end of the agenda, behind a cycle (DESIGN CHOICE, log
entry 49). -/
def State.putBack (s : State) (m : Move) : State :=
  let again := s.cycleMoves
  if again.contains m then s
  else if s.agenda.isEmpty then { s with agenda := again ++ [.elapse 1, m] }
  else { s with agenda := s.agenda ++ [m] }

end Sys2Proof.Machine
end

