-- ==== Sys2Proof/Machine/Alu.lean ====
section
/-! DEFINITION. The integer instructions (spec 07 R269 to R275).
-/

namespace Sys2Proof.Machine

/-! Results (07 R270 to R273). -/

/-- A number clamped to the range of a signed 32-bit register. -/
def clamp32 (x : Int) : Word :=
  BitVec.ofInt 32 (if x < -(2 ^ 31) then -(2 ^ 31) else if 2 ^ 31 - 1 < x then 2 ^ 31 - 1 else x)

/-- Bits [63:32] of a signed product. -/
def mulHigh (a b : Word) : Word := BitVec.ofInt 32 (a.toInt * b.toInt / 2 ^ 32)

/-- Bits [63:32] of an unsigned product. -/
def mulHighU (a b : Word) : Word := BitVec.ofNat 32 (a.toNat * b.toNat / 2 ^ 32)

/-- The shifts take their count from the whole of b (07 R272). -/
def shlW (a b : Word) : Word := if 32 ≤ b.toNat then 0 else a <<< b.toNat

/-- See shlW. -/
def shrW (a b : Word) : Word := if 32 ≤ b.toNat then 0 else a >>> b.toNat

/-- See shlW: copies of bit 31 for a count of 32 or more. -/
def sarW (a b : Word) : Word := a.sshiftRight (min b.toNat 31)

/-- A left rotation by the count modulo 32. -/
def rotW (a b : Word) : Word := a.rotateLeft (b.toNat % 32)

/-- ISHRR: a rounding right shift, ties toward plus infinity. Every count of 32 or more gives 0. -/
def ishrrW (a b : Word) : Word :=
  let s := b.toNat
  if s = 0 then a
  else if 32 ≤ s then 0
  else BitVec.ofInt 32 ((a.toInt + 2 ^ (s - 1)) / 2 ^ s)

/-- The position and the width of a bit field (07 R273). -/
def fieldPos (b : Word) : Nat := bits b.toNat 0 5

/-- See fieldPos. -/
def fieldWidth (b : Word) : Nat := min (bits b.toNat 8 6) (32 - fieldPos b)

/-- BFX.u. -/
def bfxUW (a b : Word) : Word := BitVec.ofNat 32 (bits a.toNat (fieldPos b) (fieldWidth b))

/-- BFX: the field sign-extended from its highest bit; 0 for an empty field. -/
def bfxW (a b : Word) : Word :=
  if fieldWidth b = 0 then 0
  else BitVec.ofInt 32 (signed (fieldWidth b) (bits a.toNat (fieldPos b) (fieldWidth b)))

/-- BFI. -/
def bfiW (a b c : Word) : Word :=
  let mask : Word := BitVec.ofNat 32 (2 ^ fieldWidth b - 1)
  (c &&& ~~~(mask <<< fieldPos b)) ||| ((a &&& mask) <<< fieldPos b)

/-- The number of leading zero bits. -/
def clzW (a : Word) : Word := BitVec.ofNat 32 (32 - bitLen a.toNat)

/-- The number of one bits of the low n bits. -/
def popCount (a n : Nat) : Nat := ((List.range n).map (fun i => bits a i 1)).foldl (· + ·) 0

/-- The word with its bits in the opposite order. -/
def brevW (a : Word) : Word := a.reverse

/-- The quotient truncated toward zero (07 R271). -/
def divW (a b : Word) : Word := BitVec.ofInt 32 (a.toInt.tdiv b.toInt)

/-- The remainder with the sign of the dividend. -/
def remW (a b : Word) : Word := BitVec.ofInt 32 (a.toInt.tmod b.toInt)

/-! Shapes. -/

/-- A 32-bit instruction with a third source (07 R269). -/
def State.alu3 (s : State) (o : RRR) (f : Word → Word → Word → Word) : State :=
  let c := third o.d s.cur.hints
  s.vector (useDst 1 o.d ++ useSrc 1 o.a ++ useSrc 1 o.b ++ useSrc 1 c) o.d false o.w o.g
    (fun g _ l => ((f (g.src l o.a) (g.src l o.b) (g.src l c)).setWidth 64, 0))

/-- A 64-bit instruction over two pairs. -/
def State.alu64 (s : State) (o : RRR) (f : DWord → DWord → DWord) : State :=
  s.vector (useDst 2 o.d ++ useSrc 2 o.a ++ useSrc 2 o.b) o.d true o.w o.g
    (fun g _ l => (f (g.src64 l o.a) (g.src64 l o.b), 0))

/-- A 64-bit instruction over a pair and a signed 32-bit register. -/
def State.alu64x32 (s : State) (o : RRR) (f : DWord → DWord → DWord) : State :=
  s.vector (useDst 2 o.d ++ useSrc 2 o.a ++ useSrc 1 o.b) o.d true o.w o.g
    (fun g _ l => (f (g.src64 l o.a) ((g.src l o.b).signExtend 64), 0))

/-- A division: DVZ in each participating lane whose divisor is zero (07 R271). -/
def State.divide (s : State) (o : RRR) (f : Word → Word → Word) : State :=
  let regs := useDst 1 o.d ++ useSrc 1 o.a ++ useSrc 1 o.b
  s.issue regs (fun g =>
    let zero := (lanesOf (g.parts s.cur o.g)).filter (fun l => g.src l o.b == 0)
    if zero.isEmpty then s.alu2 o f else s.trap g (zero.map (fun l => .plain l .dvz 0)))

/-- An immediate form (07 R274): the immediate stands in place of b. -/
def State.aluImm (s : State) (o : RRI) (f : Word → Word → Word) : State :=
  let b : Word := BitVec.ofInt 32 ((wideImm s.cur.hints).getD o.imm)
  s.vector (useDst 1 o.d ++ useSrc 1 o.a) o.d false false false
    (fun g _ l => ((f (g.src l o.a) b).setWidth 64, 0))

/-- A 32-bit comparison into a predicate (07 R275). -/
def State.iset (s : State) (o : PRR) (f : Word → Word → Bool) : State :=
  s.toPred (useSrc 1 o.a ++ useSrc 1 o.b) o.p o.g (fun g _ l => (f (g.src l o.a) (g.src l o.b), 0))

/-- A 64-bit comparison into a predicate. -/
def State.iset64 (s : State) (o : PRR) (f : DWord → DWord → Bool) : State :=
  s.toPred (useSrc 2 o.a ++ useSrc 2 o.b) o.p o.g (fun g _ l => (f (g.src64 l o.a) (g.src64 l o.b), 0))

/-! The instructions. -/

def execIadd (o : RRR) (s : State) : Host.Outcome State Fault Refusal := finish (s.alu2 o (· + ·))
def execIsub (o : RRR) (s : State) : Host.Outcome State Fault Refusal := finish (s.alu2 o (· - ·))
def execImul (o : RRR) (s : State) : Host.Outcome State Fault Refusal := finish (s.alu2 o (· * ·))
def execImulh (o : RRR) (s : State) : Host.Outcome State Fault Refusal := finish (s.alu2 o mulHigh)
def execImulhU (o : RRR) (s : State) : Host.Outcome State Fault Refusal := finish (s.alu2 o mulHighU)
def execImad (o : RRR) (s : State) : Host.Outcome State Fault Refusal :=
  finish (s.alu3 o (fun a b c => a * b + c))
def execImin (o : RRR) (s : State) : Host.Outcome State Fault Refusal :=
  finish (s.alu2 o (fun a b => if a.toInt ≤ b.toInt then a else b))
def execImax (o : RRR) (s : State) : Host.Outcome State Fault Refusal :=
  finish (s.alu2 o (fun a b => if a.toInt ≤ b.toInt then b else a))
def execIminU (o : RRR) (s : State) : Host.Outcome State Fault Refusal :=
  finish (s.alu2 o (fun a b => if a.toNat ≤ b.toNat then a else b))
def execImaxU (o : RRR) (s : State) : Host.Outcome State Fault Refusal :=
  finish (s.alu2 o (fun a b => if a.toNat ≤ b.toNat then b else a))
def execIabs (o : RR) (s : State) : Host.Outcome State Fault Refusal :=
  finish (s.alu1 o (fun a => if a.toInt < 0 then -a else a))
def execIneg (o : RR) (s : State) : Host.Outcome State Fault Refusal := finish (s.alu1 o (fun a => -a))
def execIaddSat (o : RRR) (s : State) : Host.Outcome State Fault Refusal :=
  finish (s.alu2 o (fun a b => clamp32 (a.toInt + b.toInt)))
def execIsubSat (o : RRR) (s : State) : Host.Outcome State Fault Refusal :=
  finish (s.alu2 o (fun a b => clamp32 (a.toInt - b.toInt)))
def execIdiv (o : RRR) (s : State) : Host.Outcome State Fault Refusal := finish (s.divide o divW)
def execIrem (o : RRR) (s : State) : Host.Outcome State Fault Refusal := finish (s.divide o remW)
def execIdivU (o : RRR) (s : State) : Host.Outcome State Fault Refusal := finish (s.divide o (· / ·))
def execIremU (o : RRR) (s : State) : Host.Outcome State Fault Refusal := finish (s.divide o (· % ·))
def execIadd64 (o : RRR) (s : State) : Host.Outcome State Fault Refusal := finish (s.alu64 o (· + ·))
def execIsub64 (o : RRR) (s : State) : Host.Outcome State Fault Refusal := finish (s.alu64 o (· - ·))
def execImul64 (o : RRR) (s : State) : Host.Outcome State Fault Refusal := finish (s.alu64x32 o (· * ·))

/-- The third source of IMAD.64 is a pair (07 R269). -/
def execImad64 (o : RRR) (s : State) : Host.Outcome State Fault Refusal :=
  let c := third o.d s.cur.hints
  finish (s.vector (useDst 2 o.d ++ useSrc 2 o.a ++ useSrc 1 o.b ++ useSrc 2 c) o.d true o.w o.g
    (fun g _ l => (g.src64 l o.a * (g.src l o.b).signExtend 64 + g.src64 l c, 0)))

def execImin64 (o : RRR) (s : State) : Host.Outcome State Fault Refusal :=
  finish (s.alu64 o (fun a b => if a.toInt ≤ b.toInt then a else b))
def execImax64 (o : RRR) (s : State) : Host.Outcome State Fault Refusal :=
  finish (s.alu64 o (fun a b => if a.toInt ≤ b.toInt then b else a))
def execLea (o : RRR) (s : State) : Host.Outcome State Fault Refusal := finish (s.alu64x32 o (· + ·))
def execAnd (o : RRR) (s : State) : Host.Outcome State Fault Refusal := finish (s.alu2 o (· &&& ·))
def execOr (o : RRR) (s : State) : Host.Outcome State Fault Refusal := finish (s.alu2 o (· ||| ·))
def execXor (o : RRR) (s : State) : Host.Outcome State Fault Refusal := finish (s.alu2 o (· ^^^ ·))
def execShl (o : RRR) (s : State) : Host.Outcome State Fault Refusal := finish (s.alu2 o shlW)
def execShr (o : RRR) (s : State) : Host.Outcome State Fault Refusal := finish (s.alu2 o shrW)
def execSar (o : RRR) (s : State) : Host.Outcome State Fault Refusal := finish (s.alu2 o sarW)
def execRot (o : RRR) (s : State) : Host.Outcome State Fault Refusal := finish (s.alu2 o rotW)
def execIshrr (o : RRR) (s : State) : Host.Outcome State Fault Refusal := finish (s.alu2 o ishrrW)
def execBfx (o : RRR) (s : State) : Host.Outcome State Fault Refusal := finish (s.alu2 o bfxW)
def execBfxU (o : RRR) (s : State) : Host.Outcome State Fault Refusal := finish (s.alu2 o bfxUW)
def execBfi (o : RRR) (s : State) : Host.Outcome State Fault Refusal := finish (s.alu3 o bfiW)
def execClz (o : RR) (s : State) : Host.Outcome State Fault Refusal := finish (s.alu1 o clzW)
def execPopc (o : RR) (s : State) : Host.Outcome State Fault Refusal :=
  finish (s.alu1 o (fun a => BitVec.ofNat 32 (popCount a.toNat 32)))
def execBrev (o : RR) (s : State) : Host.Outcome State Fault Refusal := finish (s.alu1 o brevW)
def execIaddImm (o : RRI) (s : State) : Host.Outcome State Fault Refusal := finish (s.aluImm o (· + ·))
def execImulImm (o : RRI) (s : State) : Host.Outcome State Fault Refusal := finish (s.aluImm o (· * ·))
def execAndImm (o : RRI) (s : State) : Host.Outcome State Fault Refusal := finish (s.aluImm o (· &&& ·))
def execOrImm (o : RRI) (s : State) : Host.Outcome State Fault Refusal := finish (s.aluImm o (· ||| ·))
def execXorImm (o : RRI) (s : State) : Host.Outcome State Fault Refusal := finish (s.aluImm o (· ^^^ ·))
def execShlImm (o : RRI) (s : State) : Host.Outcome State Fault Refusal := finish (s.aluImm o shlW)
def execShrImm (o : RRI) (s : State) : Host.Outcome State Fault Refusal := finish (s.aluImm o shrW)
def execSarImm (o : RRI) (s : State) : Host.Outcome State Fault Refusal := finish (s.aluImm o sarW)
def execIsetEq (o : PRR) (s : State) : Host.Outcome State Fault Refusal := finish (s.iset o (· == ·))
def execIsetNe (o : PRR) (s : State) : Host.Outcome State Fault Refusal := finish (s.iset o (· != ·))
def execIsetLt (o : PRR) (s : State) : Host.Outcome State Fault Refusal :=
  finish (s.iset o (fun a b => decide (a.toInt < b.toInt)))
def execIsetLe (o : PRR) (s : State) : Host.Outcome State Fault Refusal :=
  finish (s.iset o (fun a b => decide (a.toInt ≤ b.toInt)))
def execIsetLtU (o : PRR) (s : State) : Host.Outcome State Fault Refusal :=
  finish (s.iset o (fun a b => decide (a.toNat < b.toNat)))
def execIsetLeU (o : PRR) (s : State) : Host.Outcome State Fault Refusal :=
  finish (s.iset o (fun a b => decide (a.toNat ≤ b.toNat)))
def execIsetEq64 (o : PRR) (s : State) : Host.Outcome State Fault Refusal := finish (s.iset64 o (· == ·))
def execIsetLt64 (o : PRR) (s : State) : Host.Outcome State Fault Refusal :=
  finish (s.iset64 o (fun a b => decide (a.toInt < b.toInt)))

end Sys2Proof.Machine
end

