-- ==== Sys2Proof/Machine/Convert.lean ====
section
/-! DEFINITION. CVT, QUANT, DQUANT and TRCHK (spec 07 R282 to R288; 02 R78, R90, R104, R105).
-/

namespace Sys2Proof.Machine

/-! CVT (07 R282 to R284). -/

/-- An integer type: its width and whether it is signed. -/
structure IntType where
  width : Nat
  isSigned : Bool
  deriving DecidableEq, Repr

/-- The integer type of a narrow code. -/
def Narrow.intType : Narrow → IntType
  | .i8 => ⟨8, true⟩
  | .u8 => ⟨8, false⟩
  | .i16 => ⟨16, true⟩
  | .u16 => ⟨16, false⟩

/-- The integer type of the same width and the other signedness (07 R283). -/
def IntType.flip (t : IntType) : IntType := { t with isSigned := !t.isSigned }

/-- A type of CVT with its narrow code resolved: an integer type or a binary format. -/
def cvtType (t : NumType) (n : IntType) : IntType ⊕ FpFmt :=
  match t with
  | .i32 => .inl ⟨32, true⟩
  | .u32 => .inl ⟨32, false⟩
  | .i64 => .inl ⟨64, true⟩
  | .u64 => .inl ⟨64, false⟩
  | .f32 => .inr fp32
  | .bf16 => .inr bf16
  | .f16 => .inr fp16
  | .narrow => .inl n

/-- The target of a CVT. -/
def CvtOp.targetType (o : CvtOp) : IntType ⊕ FpFmt := cvtType o.target (Narrow.intType o.narrow)

/-- The source of a CVT: with both codes narrow, the other signedness of the target's width. -/
def CvtOp.sourceType (o : CvtOp) : IntType ⊕ FpFmt :=
  let n := Narrow.intType o.narrow
  cvtType o.source (if o.target = .narrow then n.flip else n)

/-- The least and the greatest value of an integer type. -/
def IntType.lo (t : IntType) : Int := if t.isSigned then -(2 ^ (t.width - 1)) else 0

/-- See IntType.lo. -/
def IntType.hi (t : IntType) : Int := if t.isSigned then 2 ^ (t.width - 1) - 1 else 2 ^ t.width - 1

/-- The value of the low bits of a source. -/
def IntType.read (t : IntType) (x : Nat) : Int :=
  if t.isSigned then signed t.width (bits x 0 t.width) else (bits x 0 t.width : Nat)

/-- The value in the type of the low bits of a number. -/
def IntType.wrap (t : IntType) (x : Int) : Int := t.read (x % 2 ^ 64).toNat

/-- The width of a format in bits. -/
def FpFmt.width (f : FpFmt) : Nat := 1 + f.ebits + f.mbits

/-- A conversion (02 R78; 07 R284): the value as a 64-bit register image of two's complement, with its
flags. -/
def convert (r : Rounding) (sat : Bool) (dst src : IntType ⊕ FpFmt) (x : Nat) : DWord × Flags :=
  match src, dst with
  | .inl t, .inl u =>
    let v := t.read x
    if sat then
      let c := if v < u.lo then u.lo else if u.hi < v then u.hi else v
      (BitVec.ofInt 64 c, if c = v then 0 else fOF)
    else (BitVec.ofInt 64 (u.wrap v), 0)
  | .inl t, .inr f =>
    let y := f.ofInt r (t.read x)
    (BitVec.ofNat 64 y.1, y.2)
  | .inr f, .inl u =>
    let y := f.toInt r u.lo u.hi (bits x 0 f.width)
    (BitVec.ofInt 64 y.1, y.2)
  | .inr f, .inr h =>
    let y := f.convert h r (bits x 0 f.width)
    (BitVec.ofNat 64 y.1, y.2)

/-- Whether a type uses an even pair. -/
def NumType.isPair : NumType → Bool
  | .i64 => true
  | .u64 => true
  | _ => false

/-- The registers of a type's width. -/
def NumType.regs (t : NumType) : Nat := if NumType.isPair t then 2 else 1

def execCvt (o : CvtOp) (s : State) : Host.Outcome State Fault Refusal :=
  finish (s.vector (useDst (NumType.regs o.target) o.d ++ useSrc (NumType.regs o.source) o.a) o.d
    (NumType.isPair o.target) o.w o.g
    (fun g _ l =>
      let x := if NumType.isPair o.source then (g.src64 l o.a).toNat else (g.src l o.a).toNat
      convert (roundingOf s.cur.hints) o.sat (CvtOp.targetType o) (CvtOp.sourceType o) x))

/-! QUANT (07 R285, R286; 02 R104). -/

/-- What QUANT computes over a gang: each lane's element, and OFF and BMAX of the block. -/
structure QuantBlock where
  elem : Nat → Option Int × Bool × Flags
  off : Nat
  bmax : Nat

/-- The largest |n| over some lanes whose element is no NaR. -/
def maxAbs (ls : List Nat) (f : Nat → Option Int) : Nat :=
  ls.foldl (fun m l => match f l with
    | some n => max m n.natAbs
    | none => m) 0

/-- The block of participating lanes p with values x under a scale base; 255 makes every element NaR. -/
def quantBlock (nmax sb : Nat) (p : LaneMask) (x : Nat → QVal) : QuantBlock :=
  if sb = 255 then ⟨fun _ => (none, false, fNV), 0, 0⟩
  else
    let ls := lanesOf p
    let o := quantOffset nmax sb (ls.map x)
    let f (l : Nat) : Option Int × Bool × Flags := quantElem nmax ((sb : Int) + (o : Int) - 127) (x l)
    ⟨f, o, maxAbs ls (fun l => (f l).1)⟩

/-- The result word of a lane (07 R286). -/
def quantWord (rn8 : Bool) (q : QuantBlock) (l : Nat) : Nat :=
  let e := q.elem l
  q.bmax * 2 ^ 20 + q.off * 2 ^ 16 + (if e.1.isNone then 2 ^ 13 else 0) + (if e.2.1 then 2 ^ 12 else 0) +
    (if rn8 then rn8Code e.1 else rn12Code e.1)

/-- QUANT of a format from a source format. -/
def State.quant (s : State) (o : RRR) (rn8 : Bool) (src : FpFmt) : State :=
  s.vector (useDst 1 o.d ++ useSrc 1 o.a ++ useSrc 1 o.b) o.d false o.w o.g
    (fun g p l =>
      let sb := bits (g.src (lowest p) o.b).toNat 0 8
      let q := quantBlock (if rn8 then 83 else 1559) sb p
        (fun k => src.read (bits (g.src k o.a).toNat 0 src.width))
      (BitVec.ofNat 64 (quantWord rn8 q l), (q.elem l).2.2))

def execQuantRn8F32 (o : RRR) (s : State) : Host.Outcome State Fault Refusal := finish (s.quant o true fp32)
def execQuantRn8Bf16 (o : RRR) (s : State) : Host.Outcome State Fault Refusal := finish (s.quant o true bf16)
def execQuantRn12F32 (o : RRR) (s : State) : Host.Outcome State Fault Refusal := finish (s.quant o false fp32)
def execQuantRn12Bf16 (o : RRR) (s : State) : Host.Outcome State Fault Refusal := finish (s.quant o false bf16)

/-! DQUANT (07 R287; 02 R105). -/

/-- The element of a word in the layout of 07 R286. -/
def dquantElem (rn8 : Bool) (a : Nat) : Option Int :=
  if rn8 then rn8Read (bits a 0 8) else rn12Read (bits a 0 12)

/-- A decoded element: the scale base 255 decodes as NaR. -/
def dquantOf (rn8 : Bool) (a b : Nat) : DWord × Flags :=
  let sb := bits b 0 8
  let n := if sb = 255 then none else dquantElem rn8 a
  let y := if bits b 8 1 = 1 then decodeFp n sb (bits a 16 4) else decodeInt n
  (y.1.setWidth 64, y.2)

/-- DQUANT of a format. -/
def State.dquant (s : State) (o : RRR) (rn8 : Bool) : State :=
  s.vector (useDst 1 o.d ++ useSrc 1 o.a ++ useSrc 1 o.b) o.d false o.w o.g
    (fun g _ l => dquantOf rn8 (g.src l o.a).toNat (g.src l o.b).toNat)

def execDquantRn8 (o : RRR) (s : State) : Host.Outcome State Fault Refusal := finish (s.dquant o true)
def execDquantRn12 (o : RRR) (s : State) : Host.Outcome State Fault Refusal := finish (s.dquant o false)

/-! TRCHK (07 R288). -/

def execTrchk (o : RRR) (s : State) : Host.Outcome State Fault Refusal :=
  finish (s.alu2 o (fun a b => crcRun b (bytesOf 4 a.toNat)))

end Sys2Proof.Machine
end

