-- ==== Sys2Proof/Machine/Cross.lean ====
section
/-! DEFINITION. The cross-lane instructions (spec 07 R289 to R296; 02 R77).
-/

namespace Sys2Proof.Machine

/-- The value that SHFL gives a lane from a source lane, when there is one that participates. -/
def Gang.shuffled (g : Gang) (p : LaneMask) (a : Src) (l : Nat) (j : Option Nat) : DWord :=
  let from_ := match j with
    | some k => if k < 32 && p.getLsbD k then k else l
    | none => l
  (g.src from_ a).setWidth 64

/-- SHFL with the source lane that a lane's index gives (07 R290). -/
def State.shfl (s : State) (o : RRR) (pick : Nat → Nat → Option Nat) : State :=
  s.vector (useDst 1 o.d ++ useSrc 1 o.a ++ useSrc 1 o.b) o.d false o.w o.g
    (fun g p l => (g.shuffled p o.a l (pick l (g.src l o.b).toNat), 0))

def execShflIdx (o : RRR) (s : State) : Host.Outcome State Fault Refusal :=
  finish (s.shfl o (fun _ b => some (b % 32)))
def execShflUp (o : RRR) (s : State) : Host.Outcome State Fault Refusal :=
  finish (s.shfl o (fun l b => if b ≤ l then some (l - b) else none))
def execShflDown (o : RRR) (s : State) : Host.Outcome State Fault Refusal :=
  finish (s.shfl o (fun l b => some (l + b)))
def execShflXor (o : RRR) (s : State) : Host.Outcome State Fault Refusal :=
  finish (s.shfl o (fun l b => some (l ^^^ (b % 32))))

/-- A cross-lane instruction of one source whose result is computed from the participating lanes. -/
def State.cross1 (s : State) (o : RR) (f : Gang → LaneMask → Nat → DWord × Flags) : State :=
  s.vector (useDst 1 o.d ++ useSrc 1 o.a) o.d false o.w o.g f

/-- The participating lanes whose source satisfies a condition. -/
def Gang.lanesWhere (g : Gang) (p : LaneMask) (a : Src) (f : Word → Bool) : LaneMask :=
  maskWhere (fun k => p.getLsbD k && f (g.src k a))

def execMatchLanes (o : RR) (s : State) : Host.Outcome State Fault Refusal :=
  finish (s.cross1 o (fun g p l => ((g.lanesWhere p o.a (fun x => x == g.src l o.a)).setWidth 64, 0)))
def execVoteBallot (o : RR) (s : State) : Host.Outcome State Fault Refusal :=
  finish (s.cross1 o (fun g p _ => ((g.lanesWhere p o.a (fun x => x != 0)).setWidth 64, 0)))
def execVoteAny (o : PR) (s : State) : Host.Outcome State Fault Refusal :=
  finish (s.toPred (useSrc 1 o.a) o.p o.g (fun g p _ => (g.lanesWhere p o.a (fun x => x != 0) != 0, 0)))
def execVoteAll (o : PR) (s : State) : Host.Outcome State Fault Refusal :=
  finish (s.toPred (useSrc 1 o.a) o.p o.g (fun g p _ => (g.lanesWhere p o.a (fun x => x != 0) == p, 0)))

/-- PPFX (07 R295): a count of 64 or more takes the whole pair. -/
def execPpfx (o : RRR) (s : State) : Host.Outcome State Fault Refusal :=
  finish (s.vector (useDst 1 o.d ++ useSrc 2 o.a ++ useSrc 1 o.b) o.d false o.w o.g
    (fun g _ l => (BitVec.ofNat 64 (popCount (g.src64 l o.a).toNat (min (g.src l o.b).toNat 64)), 0)))

/-- ISECT (07 R296): the (l + 1)-th lowest one bit of the lowest participating lane's A & B. -/
def execIsect (o : RRR) (s : State) : Host.Outcome State Fault Refusal :=
  finish (s.vector (useDst 1 o.d ++ useSrc 2 o.a ++ useSrc 2 o.b) o.d false o.w o.g
    (fun g p l =>
      let m := (g.src64 (lowest p) o.a &&& g.src64 (lowest p) o.b).toNat
      (BitVec.ofNat 64 (((below 64 (bitAt m))[l]?).getD 0xFFFFFFFF), 0)))

/-! Prefix sums and reductions. -/

/-- A node's operation on codes with the events of the nodes below it. -/
def nodeOp (f : Nat → Nat → Nat × Flags) (x y : Nat × Flags) : Nat × Flags :=
  let z := f x.1 y.1
  (z.1, x.2 ||| y.2 ||| z.2)

/-- The lanes' values, with an identity where a lane does not participate. -/
def Gang.identified (g : Gang) (p : LaneMask) (a : Src) (identity : Nat) : List (Nat × Flags) :=
  (List.range 32).map (fun k => (if p.getLsbD k then (g.src k a).toNat else identity, 0))

/-- One level of the prefix tree at distance d (07 R293): the lower lane is the left operand. -/
def prefixLevel (f : Nat → Nat → Nat × Flags) (xs : List (Nat × Flags)) (d : Nat) : List (Nat × Flags) :=
  (List.range xs.length).map (fun k =>
    let x := xs.getD k (0, 0)
    if d ≤ k then nodeOp f (xs.getD (k - d) (0, 0)) x else x)

/-- The inclusive prefix values (07 R293), each with the events of the nodes it is computed from. -/
def prefixTree (f : Nat → Nat → Nat × Flags) (xs : List (Nat × Flags)) : List (Nat × Flags) :=
  [1, 2, 4, 8, 16].foldl (prefixLevel f) xs

/-- One level of the reduction tree (02 R77). -/
def pairLevel (f : Nat → Nat → Nat × Flags) : List (Nat × Flags) → List (Nat × Flags)
  | x :: y :: zs => nodeOp f x y :: pairLevel f zs
  | xs => xs

/-- The reduction of 32 values with the events of every node (02 R77). -/
def reduceTree (f : Nat → Nat → Nat × Flags) (xs : List (Nat × Flags)) : Nat × Flags :=
  (pairLevel f (pairLevel f (pairLevel f (pairLevel f (pairLevel f xs))))).headD (0, 0)

/-- LPFX. -/
def State.lpfx (s : State) (o : RR) (identity : Nat) (f : Nat → Nat → Nat × Flags) : State :=
  s.cross1 o (fun g p l =>
    let y := (prefixTree f (g.identified p o.a identity)).getD l (0, 0)
    (BitVec.ofNat 64 y.1, y.2))

/-- LRED. -/
def State.lred (s : State) (o : RR) (identity : Nat) (f : Nat → Nat → Nat × Flags) : State :=
  s.cross1 o (fun g p _ =>
    let y := reduceTree f (g.identified p o.a identity)
    (BitVec.ofNat 64 y.1, y.2))

/-- An integer operation of a node. -/
def intNode (f : Word → Word → Word) (x y : Nat) : Nat × Flags :=
  ((f (BitVec.ofNat 32 x) (BitVec.ofNat 32 y)).toNat, 0)

/-- -0.0, the identity of an FP32 sum. -/
def negZero : Nat := 0x80000000

def execLpfxAddI32 (o : RR) (s : State) : Host.Outcome State Fault Refusal :=
  finish (s.lpfx o 0 (intNode (· + ·)))
def execLpfxAddF32 (o : RR) (s : State) : Host.Outcome State Fault Refusal :=
  finish (s.lpfx o negZero (fp32.add (roundingOf s.cur.hints)))
def execLredAddI32 (o : RR) (s : State) : Host.Outcome State Fault Refusal :=
  finish (s.lred o 0 (intNode (· + ·)))
def execLredAddF32 (o : RR) (s : State) : Host.Outcome State Fault Refusal :=
  finish (s.lred o negZero (fp32.add (roundingOf s.cur.hints)))
def execLredMinF32 (o : RR) (s : State) : Host.Outcome State Fault Refusal :=
  finish (s.lred o fp32.qnan (fp32.pick false))
def execLredMaxF32 (o : RR) (s : State) : Host.Outcome State Fault Refusal :=
  finish (s.lred o fp32.qnan (fp32.pick true))
def execLredMulF32 (o : RR) (s : State) : Host.Outcome State Fault Refusal :=
  finish (s.lred o 0x3F800000 (fp32.mul (roundingOf s.cur.hints)))
def execLredMinI32 (o : RR) (s : State) : Host.Outcome State Fault Refusal :=
  finish (s.lred o 0x7FFFFFFF (intNode (fun a b => if a.toInt ≤ b.toInt then a else b)))
def execLredMaxI32 (o : RR) (s : State) : Host.Outcome State Fault Refusal :=
  finish (s.lred o 0x80000000 (intNode (fun a b => if a.toInt ≤ b.toInt then b else a)))
def execLredAnd (o : RR) (s : State) : Host.Outcome State Fault Refusal :=
  finish (s.lred o 0xFFFFFFFF (intNode (· &&& ·)))
def execLredOr (o : RR) (s : State) : Host.Outcome State Fault Refusal :=
  finish (s.lred o 0 (intNode (· ||| ·)))
def execLredXor (o : RR) (s : State) : Host.Outcome State Fault Refusal :=
  finish (s.lred o 0 (intNode (· ^^^ ·)))

end Sys2Proof.Machine
end

