-- ==== Sys2Proof/Machine/Float.lean ====
section
/-! DEFINITION. The floating-point instructions (spec 07 R276 to R281; 02 R71 to R76).
-/

namespace Sys2Proof.Machine

/-! Shapes. -/

/-- The rounding mode of the issue (02 R72; 06 R226). -/
def State.mode (s : State) : Rounding := roundingOf s.cur.hints

/-- An operation on the two halves of a register, each on its own (02 R75). -/
def packed (f : FpFmt → Nat → Nat → Nat × Flags) (fmt : FpFmt) (a b : Word) : DWord × Flags :=
  let lo := f fmt (bits a.toNat 0 16) (bits b.toNat 0 16)
  let hi := f fmt (bits a.toNat 16 16) (bits b.toNat 16 16)
  (BitVec.ofNat 64 (lo.1 + hi.1 * 65536), lo.2 ||| hi.2)

/-- A 32-bit operation of two sources with flags. -/
def State.float2 (s : State) (o : RRR) (f : Word → Word → DWord × Flags) : State :=
  s.vector (useDst 1 o.d ++ useSrc 1 o.a ++ useSrc 1 o.b) o.d false o.w o.g
    (fun g _ l => f (g.src l o.a) (g.src l o.b))

/-- A 32-bit operation of three sources with flags. -/
def State.float3 (s : State) (o : RRR) (f : Word → Word → Word → DWord × Flags) : State :=
  let c := third o.d s.cur.hints
  s.vector (useDst 1 o.d ++ useSrc 1 o.a ++ useSrc 1 o.b ++ useSrc 1 c) o.d false o.w o.g
    (fun g _ l => f (g.src l o.a) (g.src l o.b) (g.src l c))

/-- A result code with its flags as a register value. -/
def codeOf (x : Nat × Flags) : DWord × Flags := (BitVec.ofNat 64 x.1, x.2)

/-- An FP32 operation of two sources. -/
def State.fp2 (s : State) (o : RRR) (f : Nat → Nat → Nat × Flags) : State :=
  s.float2 o (fun a b => codeOf (f a.toNat b.toNat))

/-- An FP32 operation of one source. -/
def State.fp1 (s : State) (o : RR) (f : Nat → Nat × Flags) : State :=
  s.vector (useDst 1 o.d ++ useSrc 1 o.a) o.d false o.w o.g
    (fun g _ l => codeOf (f (g.src l o.a).toNat))

/-- A packed FFMA: each half of c with the halves of a and b (07 R281). -/
def packedFma (fmt : FpFmt) (r : Rounding) (a b c : Word) : DWord × Flags :=
  let half (x : Word) (i : Nat) : Nat := bits x.toNat (16 * i) 16
  let lo := fmt.fma r (half a 0) (half b 0) (half c 0)
  let hi := fmt.fma r (half a 1) (half b 1) (half c 1)
  (BitVec.ofNat 64 (lo.1 + hi.1 * 65536), lo.2 ||| hi.2)

/-- A comparison of FP32 operands into a predicate (07 R280). -/
def State.fset (s : State) (o : PRR) (rel : FpRel) : State :=
  s.toPred (useSrc 1 o.a ++ useSrc 1 o.b) o.p o.g
    (fun g _ l => fp32.compare rel (g.src l o.a).toNat (g.src l o.b).toNat)

/-! The instructions. -/

def execFaddF32 (o : RRR) (s : State) : Host.Outcome State Fault Refusal := finish (s.fp2 o (fp32.add s.mode))
def execFsubF32 (o : RRR) (s : State) : Host.Outcome State Fault Refusal := finish (s.fp2 o (fp32.sub s.mode))
def execFmulF32 (o : RRR) (s : State) : Host.Outcome State Fault Refusal := finish (s.fp2 o (fp32.mul s.mode))
def execFfmaF32 (o : RRR) (s : State) : Host.Outcome State Fault Refusal :=
  finish (s.float3 o (fun a b c => codeOf (fp32.fma s.mode a.toNat b.toNat c.toNat)))
def execFdivF32 (o : RRR) (s : State) : Host.Outcome State Fault Refusal := finish (s.fp2 o (fp32.div s.mode))
def execFminF32 (o : RRR) (s : State) : Host.Outcome State Fault Refusal := finish (s.fp2 o (fp32.pick false))
def execFmaxF32 (o : RRR) (s : State) : Host.Outcome State Fault Refusal := finish (s.fp2 o (fp32.pick true))
def execFclassF32 (o : RR) (s : State) : Host.Outcome State Fault Refusal :=
  finish (s.fp1 o (fun a => (fp32.classMask a, 0)))
def execFrcpF32 (o : RR) (s : State) : Host.Outcome State Fault Refusal := finish (s.fp1 o (fp32.recip s.mode))
def execFrsqF32 (o : RR) (s : State) : Host.Outcome State Fault Refusal := finish (s.fp1 o (fp32.rsqrt s.mode))
def execFsqrtF32 (o : RR) (s : State) : Host.Outcome State Fault Refusal := finish (s.fp1 o (fp32.sqrt s.mode))
def execFexp2F32 (o : RR) (s : State) : Host.Outcome State Fault Refusal := finish (s.fp1 o (fp32.exp2 s.mode))
def execFlog2F32 (o : RR) (s : State) : Host.Outcome State Fault Refusal := finish (s.fp1 o (fp32.log2 s.mode))

def execFaddBf16x2 (o : RRR) (s : State) : Host.Outcome State Fault Refusal :=
  finish (s.float2 o (packed (fun f => f.add s.mode) bf16))
def execFsubBf16x2 (o : RRR) (s : State) : Host.Outcome State Fault Refusal :=
  finish (s.float2 o (packed (fun f => f.sub s.mode) bf16))
def execFmulBf16x2 (o : RRR) (s : State) : Host.Outcome State Fault Refusal :=
  finish (s.float2 o (packed (fun f => f.mul s.mode) bf16))
def execFfmaBf16x2 (o : RRR) (s : State) : Host.Outcome State Fault Refusal :=
  finish (s.float3 o (packedFma bf16 s.mode))
def execFminBf16x2 (o : RRR) (s : State) : Host.Outcome State Fault Refusal :=
  finish (s.float2 o (packed (fun f => f.pick false) bf16))
def execFmaxBf16x2 (o : RRR) (s : State) : Host.Outcome State Fault Refusal :=
  finish (s.float2 o (packed (fun f => f.pick true) bf16))
def execFaddF16x2 (o : RRR) (s : State) : Host.Outcome State Fault Refusal :=
  finish (s.float2 o (packed (fun f => f.add s.mode) fp16))
def execFsubF16x2 (o : RRR) (s : State) : Host.Outcome State Fault Refusal :=
  finish (s.float2 o (packed (fun f => f.sub s.mode) fp16))
def execFmulF16x2 (o : RRR) (s : State) : Host.Outcome State Fault Refusal :=
  finish (s.float2 o (packed (fun f => f.mul s.mode) fp16))
def execFfmaF16x2 (o : RRR) (s : State) : Host.Outcome State Fault Refusal :=
  finish (s.float3 o (packedFma fp16 s.mode))
def execFminF16x2 (o : RRR) (s : State) : Host.Outcome State Fault Refusal :=
  finish (s.float2 o (packed (fun f => f.pick false) fp16))
def execFmaxF16x2 (o : RRR) (s : State) : Host.Outcome State Fault Refusal :=
  finish (s.float2 o (packed (fun f => f.pick true) fp16))

def execFsetEq (o : PRR) (s : State) : Host.Outcome State Fault Refusal := finish (s.fset o .eq)
def execFsetNe (o : PRR) (s : State) : Host.Outcome State Fault Refusal := finish (s.fset o .ne)
def execFsetLt (o : PRR) (s : State) : Host.Outcome State Fault Refusal := finish (s.fset o .lt)
def execFsetLe (o : PRR) (s : State) : Host.Outcome State Fault Refusal := finish (s.fset o .le)
def execFsetGt (o : PRR) (s : State) : Host.Outcome State Fault Refusal := finish (s.fset o .gt)
def execFsetGe (o : PRR) (s : State) : Host.Outcome State Fault Refusal := finish (s.fset o .ge)
def execFsetUn (o : PRR) (s : State) : Host.Outcome State Fault Refusal := finish (s.fset o .un)
def execFsetOrd (o : PRR) (s : State) : Host.Outcome State Fault Refusal := finish (s.fset o .ord)

end Sys2Proof.Machine
end

