-- ==== Sys2Proof/Machine/Move.lean ====
section
/-! DEFINITION. The predicate, move and scalar instructions but for the scalar loads and stores (spec 07
R297 to R302).
-/

namespace Sys2Proof.Machine

/-! Moves (07 R297, R298, R300). -/

def execMov (o : RR) (s : State) : Host.Outcome State Fault Refusal := finish (s.alu1 o (fun a => a))

/-- Whether SEL's selector holds in a lane: a third source that is not zero, the hinted predicate, or
p0 (07 R298). -/
def Gang.selects (g : Gang) (hs : List Hint) (l : Nat) : Bool :=
  match thirdSource hs with
  | some c => g.src l c != 0
  | none =>
    match guardHint hs with
    | some (n, neg) => g.predAt n l != neg
    | none => g.predAt 0 l

/-- SEL: every active lane participates. -/
def execSel (o : SelOp) (s : State) : Host.Outcome State Fault Refusal :=
  let regs := useDst 1 o.d ++ useSrc 1 o.a ++ useSrc 1 o.b ++
    (match thirdSource s.cur.hints with
     | some c => useSrc 1 c
     | none => [])
  finish (s.issue regs (fun g =>
    let h := g.writeVec s.tick s.cur s.cur.active o.d false o.w
      (fun l => (if g.selects s.cur.hints l then g.src l o.a else g.src l o.b).setWidth 64)
    s.putGang (h.advance s.cur)))

def execMovs (o : RS) (s : State) : Host.Outcome State Fault Refusal :=
  finish (s.vector (useDst 1 o.d) o.d false o.w o.g (fun g _ _ => ((loWord (g.sreg o.s)).setWidth 64, 0)))

/-- MOVS.get: written once, and only when some lane participates. -/
def execMovsGet (o : SRR) (s : State) : Host.Outcome State Fault Refusal :=
  finish (s.issue (useSrc 1 o.a ++ useSrc 1 o.b) (fun g =>
    let p := g.parts s.cur o.g
    let k := (g.src (lowest p) o.b).toNat % 32
    let h := if p = 0 then g else g.setSreg o.s ((g.src k o.a).setWidth 64)
    s.putGang (h.advance s.cur)))

def execMovi (o : RI) (s : State) : Host.Outcome State Fault Refusal :=
  let imm : Word := BitVec.ofInt 32 ((wideImm s.cur.hints).getD o.imm)
  finish (s.vector (useDst 1 o.d) o.d false false false (fun _ _ _ => (imm.setWidth 64, 0)))

/-! Predicates (07 R299). -/

/-- A predicate operation on two predicates. -/
def State.pset (s : State) (o : PPP) (f : Bool → Bool → Bool) : State :=
  s.toPred [] o.d o.g (fun g _ l => (f (g.predAt o.a l) (g.predAt o.b l), 0))

def execPsetAnd (o : PPP) (s : State) : Host.Outcome State Fault Refusal := finish (s.pset o (· && ·))
def execPsetOr (o : PPP) (s : State) : Host.Outcome State Fault Refusal := finish (s.pset o (· || ·))
def execPsetXor (o : PPP) (s : State) : Host.Outcome State Fault Refusal := finish (s.pset o (· != ·))
def execPsetAndn (o : PPP) (s : State) : Host.Outcome State Fault Refusal :=
  finish (s.pset o (fun a b => a && !b))

/-- The eight predicates of a lane, p0 lowest. -/
def Gang.predWord (g : Gang) (l : Nat) : Nat :=
  (List.range 8).foldl (fun m i => if g.predAt i l then m + 2 ^ i else m) 0

def execPmov (o : RW) (s : State) : Host.Outcome State Fault Refusal :=
  finish (s.vector (useDst 1 o.d) o.d false o.w o.g (fun g _ l => (BitVec.ofNat 64 (g.predWord l), 0)))
def execPmovTov (o : RP) (s : State) : Host.Outcome State Fault Refusal :=
  finish (s.vector (useDst 1 o.d) o.d false o.w o.g (fun g _ l => (if g.predAt o.p l then 1 else 0, 0)))
def execPmovFromv (o : PR) (s : State) : Host.Outcome State Fault Refusal :=
  finish (s.toPred (useSrc 1 o.a) o.p o.g (fun g _ l => ((g.src l o.a).getLsbD o.p, 0)))

/-! Scalars (07 R301, R302). -/

/-- The second source y of a scalar instruction. -/
def Gang.scalarY (g : Gang) (hs : List Hint) : SOperand → DWord
  | .reg n => g.sreg n
  | .imm n => BitVec.ofInt 64 ((wideImm hs).getD n)

/-- A scalar instruction: once per issue, on the gang's scalars. -/
def State.scalar (s : State) (o : SSS) (f : DWord → DWord → DWord) : State :=
  s.issue [] (fun g =>
    s.putGang ((g.setSreg o.d (f (g.sreg o.a) (g.scalarY s.cur.hints o.y))).advance s.cur))

/-- A scalar comparison. -/
def State.sset (s : State) (o : SSS) (f : DWord → DWord → Bool) : State :=
  s.scalar o (fun a b => if f a b then 1 else 0)

def execSadd (o : SSS) (s : State) : Host.Outcome State Fault Refusal := finish (s.scalar o (· + ·))
def execSsub (o : SSS) (s : State) : Host.Outcome State Fault Refusal := finish (s.scalar o (· - ·))
def execSmul (o : SSS) (s : State) : Host.Outcome State Fault Refusal := finish (s.scalar o (· * ·))
def execSand (o : SSS) (s : State) : Host.Outcome State Fault Refusal := finish (s.scalar o (· &&& ·))
def execSor (o : SSS) (s : State) : Host.Outcome State Fault Refusal := finish (s.scalar o (· ||| ·))
def execSxor (o : SSS) (s : State) : Host.Outcome State Fault Refusal := finish (s.scalar o (· ^^^ ·))
def execSshl (o : SSS) (s : State) : Host.Outcome State Fault Refusal :=
  finish (s.scalar o (fun a b => if 64 ≤ b.toNat then 0 else a <<< b.toNat))
def execSshr (o : SSS) (s : State) : Host.Outcome State Fault Refusal :=
  finish (s.scalar o (fun a b => if 64 ≤ b.toNat then 0 else a >>> b.toNat))
def execSsetEq (o : SSS) (s : State) : Host.Outcome State Fault Refusal := finish (s.sset o (· == ·))
def execSsetNe (o : SSS) (s : State) : Host.Outcome State Fault Refusal := finish (s.sset o (· != ·))
def execSsetLt (o : SSS) (s : State) : Host.Outcome State Fault Refusal :=
  finish (s.sset o (fun a b => decide (a.toInt < b.toInt)))
def execSsetLe (o : SSS) (s : State) : Host.Outcome State Fault Refusal :=
  finish (s.sset o (fun a b => decide (a.toInt ≤ b.toInt)))
def execSsetLtU (o : SSS) (s : State) : Host.Outcome State Fault Refusal :=
  finish (s.sset o (fun a b => decide (a.toNat < b.toNat)))
def execSsetLeU (o : SSS) (s : State) : Host.Outcome State Fault Refusal :=
  finish (s.sset o (fun a b => decide (a.toNat ≤ b.toNat)))

/-- SMOV has y alone. -/
def execSmov (o : SMovOp) (s : State) : Host.Outcome State Fault Refusal :=
  finish (s.scalar ⟨o.d, 0, o.y⟩ (fun _ y => y))

end Sys2Proof.Machine
end

