-- ==== Sys2Proof/Machine/Dispatch.lean ====
section
/-! DEFINITION. One arm per constructor of Instr: its meaning, or its rejection by name. -/

namespace Sys2Proof.Machine

def exec (i : Instr) (s : State) : Host.Outcome State Fault Refusal :=
  match i with
  | .iadd o => Sys2Proof.Machine.execIadd o s
  | .isub o => Sys2Proof.Machine.execIsub o s
  | .imul o => Sys2Proof.Machine.execImul o s
  | .imulh o => Sys2Proof.Machine.execImulh o s
  | .imad o => Sys2Proof.Machine.execImad o s
  | .imin o => Sys2Proof.Machine.execImin o s
  | .imax o => Sys2Proof.Machine.execImax o s
  | .iabs o => Sys2Proof.Machine.execIabs o s
  | .iaddSat o => Sys2Proof.Machine.execIaddSat o s
  | .isubSat o => Sys2Proof.Machine.execIsubSat o s
  | .imulhU o => Sys2Proof.Machine.execImulhU o s
  | .iminU o => Sys2Proof.Machine.execIminU o s
  | .imaxU o => Sys2Proof.Machine.execImaxU o s
  | .ineg o => Sys2Proof.Machine.execIneg o s
  | .idiv o => Sys2Proof.Machine.execIdiv o s
  | .irem o => Sys2Proof.Machine.execIrem o s
  | .iadd64 o => Sys2Proof.Machine.execIadd64 o s
  | .isub64 o => Sys2Proof.Machine.execIsub64 o s
  | .imul64 o => Sys2Proof.Machine.execImul64 o s
  | .imad64 o => Sys2Proof.Machine.execImad64 o s
  | .imin64 o => Sys2Proof.Machine.execImin64 o s
  | .imax64 o => Sys2Proof.Machine.execImax64 o s
  | .idivU o => Sys2Proof.Machine.execIdivU o s
  | .iremU o => Sys2Proof.Machine.execIremU o s
  | .and o => Sys2Proof.Machine.execAnd o s
  | .or o => Sys2Proof.Machine.execOr o s
  | .xor o => Sys2Proof.Machine.execXor o s
  | .shl o => Sys2Proof.Machine.execShl o s
  | .shr o => Sys2Proof.Machine.execShr o s
  | .sar o => Sys2Proof.Machine.execSar o s
  | .rot o => Sys2Proof.Machine.execRot o s
  | .ishrr o => Sys2Proof.Machine.execIshrr o s
  | .bfx o => Sys2Proof.Machine.execBfx o s
  | .bfxU o => Sys2Proof.Machine.execBfxU o s
  | .bfi o => Sys2Proof.Machine.execBfi o s
  | .clz o => Sys2Proof.Machine.execClz o s
  | .popc o => Sys2Proof.Machine.execPopc o s
  | .brev o => Sys2Proof.Machine.execBrev o s
  | .lea o => Sys2Proof.Machine.execLea o s
  | .iaddImm o => Sys2Proof.Machine.execIaddImm o s
  | .imulImm o => Sys2Proof.Machine.execImulImm o s
  | .andImm o => Sys2Proof.Machine.execAndImm o s
  | .orImm o => Sys2Proof.Machine.execOrImm o s
  | .xorImm o => Sys2Proof.Machine.execXorImm o s
  | .shlImm o => Sys2Proof.Machine.execShlImm o s
  | .shrImm o => Sys2Proof.Machine.execShrImm o s
  | .sarImm o => Sys2Proof.Machine.execSarImm o s
  | .isetEq o => Sys2Proof.Machine.execIsetEq o s
  | .isetNe o => Sys2Proof.Machine.execIsetNe o s
  | .isetLt o => Sys2Proof.Machine.execIsetLt o s
  | .isetLe o => Sys2Proof.Machine.execIsetLe o s
  | .isetLtU o => Sys2Proof.Machine.execIsetLtU o s
  | .isetLeU o => Sys2Proof.Machine.execIsetLeU o s
  | .isetEq64 o => Sys2Proof.Machine.execIsetEq64 o s
  | .isetLt64 o => Sys2Proof.Machine.execIsetLt64 o s
  | .faddF32 o => Sys2Proof.Machine.execFaddF32 o s
  | .fsubF32 o => Sys2Proof.Machine.execFsubF32 o s
  | .fmulF32 o => Sys2Proof.Machine.execFmulF32 o s
  | .ffmaF32 o => Sys2Proof.Machine.execFfmaF32 o s
  | .fdivF32 o => Sys2Proof.Machine.execFdivF32 o s
  | .fminF32 o => Sys2Proof.Machine.execFminF32 o s
  | .fmaxF32 o => Sys2Proof.Machine.execFmaxF32 o s
  | .fclassF32 o => Sys2Proof.Machine.execFclassF32 o s
  | .frcpF32 o => Sys2Proof.Machine.execFrcpF32 o s
  | .frsqF32 o => Sys2Proof.Machine.execFrsqF32 o s
  | .fsqrtF32 o => Sys2Proof.Machine.execFsqrtF32 o s
  | .fexp2F32 o => Sys2Proof.Machine.execFexp2F32 o s
  | .flog2F32 o => Sys2Proof.Machine.execFlog2F32 o s
  | .faddBf16x2 o => Sys2Proof.Machine.execFaddBf16x2 o s
  | .fsubBf16x2 o => Sys2Proof.Machine.execFsubBf16x2 o s
  | .fmulBf16x2 o => Sys2Proof.Machine.execFmulBf16x2 o s
  | .ffmaBf16x2 o => Sys2Proof.Machine.execFfmaBf16x2 o s
  | .fminBf16x2 o => Sys2Proof.Machine.execFminBf16x2 o s
  | .fmaxBf16x2 o => Sys2Proof.Machine.execFmaxBf16x2 o s
  | .faddF16x2 o => Sys2Proof.Machine.execFaddF16x2 o s
  | .fsubF16x2 o => Sys2Proof.Machine.execFsubF16x2 o s
  | .fmulF16x2 o => Sys2Proof.Machine.execFmulF16x2 o s
  | .ffmaF16x2 o => Sys2Proof.Machine.execFfmaF16x2 o s
  | .fminF16x2 o => Sys2Proof.Machine.execFminF16x2 o s
  | .fmaxF16x2 o => Sys2Proof.Machine.execFmaxF16x2 o s
  | .fsetEq o => Sys2Proof.Machine.execFsetEq o s
  | .fsetNe o => Sys2Proof.Machine.execFsetNe o s
  | .fsetLt o => Sys2Proof.Machine.execFsetLt o s
  | .fsetLe o => Sys2Proof.Machine.execFsetLe o s
  | .fsetGt o => Sys2Proof.Machine.execFsetGt o s
  | .fsetGe o => Sys2Proof.Machine.execFsetGe o s
  | .fsetUn o => Sys2Proof.Machine.execFsetUn o s
  | .fsetOrd o => Sys2Proof.Machine.execFsetOrd o s
  | .cvt o => Sys2Proof.Machine.execCvt o s
  | .quantRn8F32 o => Sys2Proof.Machine.execQuantRn8F32 o s
  | .quantRn8Bf16 o => Sys2Proof.Machine.execQuantRn8Bf16 o s
  | .quantRn12F32 o => Sys2Proof.Machine.execQuantRn12F32 o s
  | .quantRn12Bf16 o => Sys2Proof.Machine.execQuantRn12Bf16 o s
  | .dquantRn8 o => Sys2Proof.Machine.execDquantRn8 o s
  | .dquantRn12 o => Sys2Proof.Machine.execDquantRn12 o s
  | .trchk o => Sys2Proof.Machine.execTrchk o s
  | .shflIdx o => Sys2Proof.Machine.execShflIdx o s
  | .shflUp o => Sys2Proof.Machine.execShflUp o s
  | .shflDown o => Sys2Proof.Machine.execShflDown o s
  | .shflXor o => Sys2Proof.Machine.execShflXor o s
  | .matchLanes o => Sys2Proof.Machine.execMatchLanes o s
  | .voteBallot o => Sys2Proof.Machine.execVoteBallot o s
  | .ppfx o => Sys2Proof.Machine.execPpfx o s
  | .isect o => Sys2Proof.Machine.execIsect o s
  | .voteAny o => Sys2Proof.Machine.execVoteAny o s
  | .voteAll o => Sys2Proof.Machine.execVoteAll o s
  | .lpfxAddI32 o => Sys2Proof.Machine.execLpfxAddI32 o s
  | .lpfxAddF32 o => Sys2Proof.Machine.execLpfxAddF32 o s
  | .lredAddI32 o => Sys2Proof.Machine.execLredAddI32 o s
  | .lredAddF32 o => Sys2Proof.Machine.execLredAddF32 o s
  | .lredMinF32 o => Sys2Proof.Machine.execLredMinF32 o s
  | .lredMaxF32 o => Sys2Proof.Machine.execLredMaxF32 o s
  | .lredMulF32 o => Sys2Proof.Machine.execLredMulF32 o s
  | .lredMinI32 o => Sys2Proof.Machine.execLredMinI32 o s
  | .lredMaxI32 o => Sys2Proof.Machine.execLredMaxI32 o s
  | .lredAnd o => Sys2Proof.Machine.execLredAnd o s
  | .lredOr o => Sys2Proof.Machine.execLredOr o s
  | .lredXor o => Sys2Proof.Machine.execLredXor o s
  | .mov o => Sys2Proof.Machine.execMov o s
  | .sel o => Sys2Proof.Machine.execSel o s
  | .movs o => Sys2Proof.Machine.execMovs o s
  | .movsGet o => Sys2Proof.Machine.execMovsGet o s
  | .psetAnd o => Sys2Proof.Machine.execPsetAnd o s
  | .psetOr o => Sys2Proof.Machine.execPsetOr o s
  | .psetXor o => Sys2Proof.Machine.execPsetXor o s
  | .psetAndn o => Sys2Proof.Machine.execPsetAndn o s
  | .pmov o => Sys2Proof.Machine.execPmov o s
  | .pmovTov o => Sys2Proof.Machine.execPmovTov o s
  | .pmovFromv o => Sys2Proof.Machine.execPmovFromv o s
  | .movi o => Sys2Proof.Machine.execMovi o s
  | .sadd o => Sys2Proof.Machine.execSadd o s
  | .ssub o => Sys2Proof.Machine.execSsub o s
  | .smul o => Sys2Proof.Machine.execSmul o s
  | .sand o => Sys2Proof.Machine.execSand o s
  | .sor o => Sys2Proof.Machine.execSor o s
  | .sxor o => Sys2Proof.Machine.execSxor o s
  | .sshl o => Sys2Proof.Machine.execSshl o s
  | .sshr o => Sys2Proof.Machine.execSshr o s
  | .ssetEq o => Sys2Proof.Machine.execSsetEq o s
  | .ssetNe o => Sys2Proof.Machine.execSsetNe o s
  | .ssetLt o => Sys2Proof.Machine.execSsetLt o s
  | .ssetLe o => Sys2Proof.Machine.execSsetLe o s
  | .ssetLtU o => Sys2Proof.Machine.execSsetLtU o s
  | .ssetLeU o => Sys2Proof.Machine.execSsetLeU o s
  | .smov o => Sys2Proof.Machine.execSmov o s
  | .sldg o => Sys2Proof.Machine.execSldg o s
  | .sstg o => Sys2Proof.Machine.execSstg o s
  | .ldg o => Sys2Proof.Machine.execLdg o s
  | .ldl o => Sys2Proof.Machine.execLdl o s
  | .lds o => Sys2Proof.Machine.execLds o s
  | .ldw o => Sys2Proof.Machine.execLdw o s
  | .stg o => Sys2Proof.Machine.execStg o s
  | .stl o => Sys2Proof.Machine.execStl o s
  | .sts o => Sys2Proof.Machine.execSts o s
  | .stw o => Sys2Proof.Machine.execStw o s
  | .atom o => Sys2Proof.Machine.execAtom o s
  | .red o => Sys2Proof.Machine.execRed o s
  | .atoms o => Sys2Proof.Machine.execAtoms o s
  | .reds o => Sys2Proof.Machine.execReds o s
  | .cflush o => Sys2Proof.Machine.execCflush o s
  | .cinv o => Sys2Proof.Machine.execCinv o s
  | .cpref o => Sys2Proof.Machine.execCpref o s
  | .seal o => Sys2Proof.Machine.execSeal o s
  | .unseal o => Sys2Proof.Machine.execUnseal o s
  | .bsig o => Sys2Proof.Machine.execBsig o s
  | .bwait o => Sys2Proof.Machine.execBwait o s
  | .brd o => Sys2Proof.Machine.execBrd o s
  | .bind o => Sys2Proof.Machine.execBind o s
  | .unbind o => Sys2Proof.Machine.execUnbind o s
  | .fence o => Sys2Proof.Machine.execFence o s
  | .take o => Sys2Proof.Machine.execTake o s
  | .give o => Sys2Proof.Machine.execGive o s
  | .ownq o => Sys2Proof.Machine.execOwnq o s
  | .cpy o => Sys2Proof.Machine.execCpy o s
  | .cpys o => Sys2Proof.Machine.execCpys o s
  | .cpym o => Sys2Proof.Machine.execCpym o s
  | .cpyw o => Sys2Proof.Machine.execCpyw o s
  | .cpyb o => Sys2Proof.Machine.execCpyb o s
  | .mmaA33 o => Sys2Proof.Machine.execMmaA33 o s
  | .mmaA48 o => Sys2Proof.Machine.execMmaA48 o s
  | .mmazA33 o => Sys2Proof.Machine.execMmazA33 o s
  | .mmazA48 o => Sys2Proof.Machine.execMmazA48 o s
  | .mlease o => Sys2Proof.Machine.execMlease o s
  | .macq o => Sys2Proof.Machine.execMacq o s
  | .acvt o => Sys2Proof.Machine.execAcvt o s
  | .ald o => Sys2Proof.Machine.execAld o s
  | .ast o => Sys2Proof.Machine.execAst o s
  | .tdef o => Sys2Proof.Machine.execTdef o s
  | .tdrop o => Sys2Proof.Machine.execTdrop o s
  | .tqry o => Sys2Proof.Machine.execTqry o s
  | .tgathI32 o => Sys2Proof.Machine.execTgathI32 o s
  | .tgathF32 o => Sys2Proof.Machine.execTgathF32 o s
  | .spld o => Sys2Proof.Machine.execSpld o s
  | .spst o => Sys2Proof.Machine.execSpst o s
  | .spnext o => Sys2Proof.Machine.execSpnext o s
  | .spleaf o => Sys2Proof.Machine.execSpleaf o s
  | .spdense o => Sys2Proof.Machine.execSpdense o s
  | .spimport o => Sys2Proof.Machine.execSpimport o s
  | .enq o => Sys2Proof.Machine.execEnq o s
  | .deq o => Sys2Proof.Machine.execDeq o s
  | .qstat o => Sys2Proof.Machine.execQstat o s
  | .preq o => Sys2Proof.Machine.execPreq o s
  | .br o => Sys2Proof.Machine.execBr o s
  | .brpAny o => Sys2Proof.Machine.execBrpAny o s
  | .brpAll o => Sys2Proof.Machine.execBrpAll o s
  | .brpLane o => Sys2Proof.Machine.execBrpLane o s
  | .call o => Sys2Proof.Machine.execCall o s
  | .ret o => Sys2Proof.Machine.execRet o s
  | .jmpi o => Sys2Proof.Machine.execJmpi o s
  | .regang o => Sys2Proof.Machine.execRegang o s
  | .trap o => Sys2Proof.Machine.execTrap o s
  | .emret o => Sys2Proof.Machine.execEmret o s
  | .srd o => Sys2Proof.Machine.execSrd o s
  | .swr o => Sys2Proof.Machine.execSwr o s
  | .psrd o => Sys2Proof.Machine.execPsrd o s
  | .pswr o => Sys2Proof.Machine.execPswr o s
  | .invpg o => Sys2Proof.Machine.execInvpg o s
  | .tramp o => Sys2Proof.Machine.execTramp o s
  | .deferredFault core unit index => Sys2Proof.Machine.execDeferredFault core unit index s
  | .copyComplete core index => Sys2Proof.Machine.execCopyComplete core index s
  | .mmaExecute core => Sys2Proof.Machine.execMmaExecute core s
  | .acvtExecute core => Sys2Proof.Machine.execAcvtExecute core s
  | .spdenseComplete core index => Sys2Proof.Machine.execSpdenseComplete core index s
  | .spimportComplete core index => Sys2Proof.Machine.execSpimportComplete core index s
  | .bwaitWake core slot => Sys2Proof.Machine.execBwaitWake core slot s
  | .wdog core slot => Sys2Proof.Machine.execWdog core slot s
  | .matrixLeaseGrant core => Sys2Proof.Machine.execMatrixLeaseGrant core s
  | .leaseIdleEnd core => Sys2Proof.Machine.execLeaseIdleEnd core s
  | .promotion core slot => Sys2Proof.Machine.execPromotion core slot s
  | .promotionTimeout core slot => Sys2Proof.Machine.execPromotionTimeout core slot s
  | .launchComplete part => Sys2Proof.Machine.execLaunchComplete part s
  | .dispatchDecision die => Sys2Proof.Machine.execDispatchDecision die s
  | .teamPlacement core => Sys2Proof.Machine.execTeamPlacement core s
  | .wideTeamPlacement part => Sys2Proof.Machine.execWideTeamPlacement part s
  | .coresidentPlacement part => Sys2Proof.Machine.execCoresidentPlacement part s
  | .lightFault core slot => Sys2Proof.Machine.execLightFault core slot s
  | .fetchFill core => Sys2Proof.Machine.execFetchFill core s
  | .stopdlExpire part => Sys2Proof.Machine.execStopdlExpire part s
  | .mailboxTake die => Sys2Proof.Machine.execMailboxTake die s
  | .wltRetransmitTimeout conn => Sys2Proof.Machine.execWltRetransmitTimeout conn s
  | .submit part => Sys2Proof.Machine.execSubmit part s
  | .nop part => Sys2Proof.Machine.execNop part s
  | .unknownRingOp part => Sys2Proof.Machine.execUnknownRingOp part s
  | .stretchEnd cluster => Sys2Proof.Machine.execStretchEnd cluster s
  | .prefetchRequest core => Sys2Proof.Machine.execPrefetchRequest core s
  | .nresRetry core slot => Sys2Proof.Machine.execNresRetry core slot s
  | .partmapWrite val => Sys2Proof.Machine.execPartmapWrite val s
  | .qbanksWrite part val => Sys2Proof.Machine.execQbanksWrite part val s
  | .stop who part => Sys2Proof.Machine.execStop who part s
  | .frz who part => Sys2Proof.Machine.execFrz who part s
  | .partitionResume who part => Sys2Proof.Machine.execPartitionResume who part s
  | .contextCreate who part ctx => Sys2Proof.Machine.execContextCreate who part ctx s
  | .contextFree who part ctx => Sys2Proof.Machine.execContextFree who part ctx s
  | .shootdown who part val => Sys2Proof.Machine.execShootdown who part val s
  | .shootdownPurge who part val => Sys2Proof.Machine.execShootdownPurge who part val s
  | .resume who part ctx => Sys2Proof.Machine.execResume who part ctx s
  | .resumeEnd who part ctx => Sys2Proof.Machine.execResumeEnd who part ctx s
  | .queueCreate part q => Sys2Proof.Machine.execQueueCreate part q s
  | .queueDestroy part q => Sys2Proof.Machine.execQueueDestroy part q s
  | .kill who part ctx => Sys2Proof.Machine.execKill who part ctx s
  | .exchange who part val => Sys2Proof.Machine.execExchange who part val s
  | .spill who part val => Sys2Proof.Machine.execSpill who part val s
  | .fill who part val => Sys2Proof.Machine.execFill who part val s
  | .resetCore target => Sys2Proof.Machine.execResetCore target s
  | .resetCluster target => Sys2Proof.Machine.execResetCluster target s
  | .resetDie target => Sys2Proof.Machine.execResetDie target s
  | .uncorrectableStateError kind target => Sys2Proof.Machine.execUncorrectableStateError kind target s
  | .unresponsiveTimeout kind target => Sys2Proof.Machine.execUnresponsiveTimeout kind target s
  | .retirePage die => Sys2Proof.Machine.execRetirePage die s
  | .readFirmwareVersion die => Sys2Proof.Machine.execReadFirmwareVersion die s
  | .readDieTelemetry die => Sys2Proof.Machine.execReadDieTelemetry die s
  | .mailboxUnknownOp die => Sys2Proof.Machine.execMailboxUnknownOp die s
  | .connectionOpen conn => Sys2Proof.Machine.execConnectionOpen conn s
  | .connectionClose conn => Sys2Proof.Machine.execConnectionClose conn s
  | .wltWrite m => Sys2Proof.Machine.execWltWrite m s
  | .wltRead m => Sys2Proof.Machine.execWltRead m s
  | .wltReadresp m => Sys2Proof.Machine.execWltReadresp m s
  | .wltAck m => Sys2Proof.Machine.execWltAck m s
  | .wltSendKick m => Sys2Proof.Machine.execWltSendKick m s
  | .arpRequest m => Sys2Proof.Machine.execArpRequest m s
  | .neighbourSolicitation m => Sys2Proof.Machine.execNeighbourSolicitation m s
  | .icmpEchoRequest m => Sys2Proof.Machine.execIcmpEchoRequest m s
  | .supplySag cluster => Sys2Proof.Machine.execSupplySag cluster s
  | .privilegedRegisterWrite who addr val => Sys2Proof.Machine.execPrivilegedRegisterWrite who addr val s
  | .smbusCommandNotListed command => Sys2Proof.Machine.execSmbusCommandNotListed command s
  | .mrel => Sys2Proof.Machine.execMrel s
  | .exit => Sys2Proof.Machine.execExit s
  | .yield => Sys2Proof.Machine.execYield s
  | .ppt => Sys2Proof.Machine.execPpt s
  | .tret => Sys2Proof.Machine.execTret s
  | .undefinedWord => Sys2Proof.Machine.execUndefinedWord s
  | .dispatchHoldTimeout => Sys2Proof.Machine.execDispatchHoldTimeout s
  | .energyWindowStart => Sys2Proof.Machine.execEnergyWindowStart s
  | .resetComplete => Sys2Proof.Machine.execResetComplete s
  | .ringRecheck => Sys2Proof.Machine.execRingRecheck s
  | .attestationGo => Sys2Proof.Machine.execAttestationGo s
  | .recoveryGo => Sys2Proof.Machine.execRecoveryGo s
  | .powerOn => Sys2Proof.Machine.execPowerOn s
  | .mainPowerOff => Sys2Proof.Machine.execMainPowerOff s
  | .smbusReadPhase => Sys2Proof.Machine.execSmbusReadPhase s
  | .smbusReadPower => Sys2Proof.Machine.execSmbusReadPower s
  | .smbusReadTemperature => Sys2Proof.Machine.execSmbusReadTemperature s
  | .smbusReadEnergy => Sys2Proof.Machine.execSmbusReadEnergy s
  | .linkUp => Sys2Proof.Machine.execLinkUp s

end Sys2Proof.Machine
end

