-- ==== Sys2Proof/Machine/Step.lean ====
section
/-! DEFINITION. One step of the machine, and the placing of an instruction where the next step runs it.
-/

namespace Sys2Proof.Machine

/-- The outcome of a plan. -/
def Plan.outcome : Plan → Host.Outcome State Fault Refusal
  | .run i t => exec i t
  | .done t => finish t

/-- One step: the next move. A core's move runs the instruction that the core issues; an event's move runs the
event. A move that met memory homed on a die under reset is as if not made, and waits (16 R512). -/
def step (s : State) : Host.Outcome State Fault Refusal :=
  match (s.pop.2.planMove s.pop.1).outcome with
  | .next t => if t.waits then .next (s.pop.2.putBack s.pop.1) else .next t
  | .fault f => .fault f
  | .refused r => .refused r

/-- The machine with an instruction stored where the next step fetches. Every instruction is one word of 32
bits, so the bits above it are no part of it. -/
def State.withFetchWord (s : State) (_nbits w : Nat) : State := s.placeWord (w % 2 ^ 32)

end Sys2Proof.Machine
end

