-- ==== Sys2Proof/Safety.lean ====
section
/-! DEFINITION. What the claims speak of: a safe step, the canonical form of memory, and what an instruction of a
gang leaves unchanged.
-/

namespace Sys2Proof.Machine

/-- The next step does not stop with a fault. -/
def State.Safe (s : State) : Prop := ∀ f, step s ≠ .fault f

/-- A machine whose memory has the canonical form. -/
def State.MemOk (s : State) : Prop := Memory.wf s.mem = true

/-- A gang issues on a machine that has met no missing memory. -/
def State.Issues (s : State) (g : Gang) : Prop := s.issuer = some g ∧ s.bad = none

/-- Whether a W-suppressed result still has to reach a register of a lane (01 R49, R50). -/
def Gang.pendingOn (g : Gang) (l r : Nat) : Bool :=
  (g.lane l).hist.any (fun e => e.pending.any (fun p => p.1 == r))

/-- A lane executes the issued instruction and its guard holds (07 R251). -/
def Gang.takesPart (g : Gang) (is : Issue) (gbit : Bool) (l : Nat) : Prop := (g.parts is gbit).getLsbD l = true

/-- A gang's launch, place and counters alone: everything that its lanes, registers, streams and promotion hold is
taken off. -/
def Gang.standing (g : Gang) : Gang :=
  { g with
    lanes := [], v := [], s := [], preds := [], fpflags := 0, streams := [], done := 0, promotion := none, held := [],
    spent := [], tree := 0, lastChurn := 0, lastSlices := 0, yielded := false, liveness := none, frozen := false }

/-- What no instruction on registers changes of a gang: where it runs and what it was launched with. -/
def Gang.Stays (g h : Gang) : Prop := h.standing = g.standing

/-- Every byte of memory reads as before. -/
def SameMemory (s t : State) : Prop := ∀ a, memRead t.mem a = memRead s.mem a

/-- The registers that a destination of one or two registers names. -/
def Dst.covers (d : Dst) (wide : Bool) (r : Nat) : Prop := r ∈ useDst (if wide then 2 else 1) d

/-- An instruction that computes one vector result in each participating lane (07 R251 to R253; 01 R47 to R50).
It completes. A participating lane has the result in its destination, or for a W-suppressed write the result
or the old value, and in latch L0; every active lane goes to the next word. No other register changes but one
whose suppressed result is still to be written; no predicate, no scalar, no byte of memory changes; the sticky
flags gain those of the operation alone; and the machine changes in this gang alone. -/
def VectorResult (s : State) (g : Gang) (i : Instr) (d : Dst) (wide w gbit : Bool) (f : Nat → DWord) (fl : Flags) : Prop :=
  ∃ h, exec i s = .next (s.putGang h) ∧
    (∀ l, g.takesPart s.cur gbit l →
      (h.lane l).latch 0 = entryVal wide (f l) ∧
      ∀ r x, (r, x) ∈ destWords d wide (f l) → h.reg r l = x ∨ (w = true ∧ h.reg r l = g.reg r l)) ∧
    (∀ l r, l < 32 → (g.takesPart s.cur gbit l → ¬ Dst.covers d wide r) → g.pendingOn l r = false → h.reg r l = g.reg r l) ∧
    (∀ l, s.cur.active.getLsbD l = true → (h.lane l).pc = s.cur.next) ∧
    h.preds = g.preds ∧ h.s = g.s ∧ h.fpflags = g.fpflags ||| fl ∧ g.Stays h ∧ SameMemory s (s.putGang h)

/-- An instruction that computes one predicate in each participating lane (07 R251, R254). It completes; the
predicate holds the result there; no other predicate bit, no register but one whose suppressed result is still to
be written, no scalar and no byte of memory changes. -/
def PredicateResult (s : State) (g : Gang) (i : Instr) (p : Nat) (gbit : Bool) (f : Nat → Bool) (fl : Flags) : Prop :=
  ∃ h, exec i s = .next (s.putGang h) ∧
    (∀ l n, h.predAt n l = if (g.parts s.cur gbit).getLsbD l && n == p then f l else g.predAt n l) ∧
    (∀ l r, l < 32 → g.pendingOn l r = false → h.reg r l = g.reg r l) ∧
    (∀ l, s.cur.active.getLsbD l = true → (h.lane l).pc = s.cur.next) ∧
    h.s = g.s ∧ h.fpflags = g.fpflags ||| fl ∧ g.Stays h ∧ SameMemory s (s.putGang h)

/-- An instruction that computes one scalar once per issue (07 R301). It completes; the scalar holds the result;
no other scalar, no predicate, no register but one whose suppressed result is still to be written and no byte of
memory changes. -/
def ScalarResult (s : State) (g : Gang) (i : Instr) (d : Nat) (x : DWord) : Prop :=
  ∃ h, exec i s = .next (s.putGang h) ∧
    (∀ n, h.sreg n = if n = d then x else g.sreg n) ∧
    (∀ l r, l < 32 → g.pendingOn l r = false → h.reg r l = g.reg r l) ∧
    (∀ l, s.cur.active.getLsbD l = true → (h.lane l).pc = s.cur.next) ∧
    h.preds = g.preds ∧ h.fpflags = g.fpflags ∧ g.Stays h ∧ SameMemory s (s.putGang h)

/-- A branch (07 R258 to R262): it completes, every active lane goes where the branch sends it, and no register
but one whose suppressed result is still to be written, no predicate, no scalar and no byte of memory changes. -/
def BranchResult (s : State) (g : Gang) (i : Instr) (pc : Nat → VAddr) : Prop :=
  ∃ h, exec i s = .next (s.putGang h) ∧
    (∀ l, s.cur.active.getLsbD l = true → (h.lane l).pc = pc l) ∧
    (∀ l r, l < 32 → g.pendingOn l r = false → h.reg r l = g.reg r l) ∧
    h.preds = g.preds ∧ h.s = g.s ∧ h.fpflags = g.fpflags ∧ g.Stays h ∧ SameMemory s (s.putGang h)

/-! Forms of vector instructions: over every state in which a gang issues and every register named lies below
.vregs (01 R42). -/

/-- A 32-bit result of two sources, without flags. -/
def TwoSources (s : State) (g : Gang) (i : Instr) (o : RRR) (f : Word → Word → Word) : Prop :=
  s.Issues g → g.regsOk (useDst 1 o.d ++ useSrc 1 o.a ++ useSrc 1 o.b) = true →
    VectorResult s g i o.d false o.w o.g (fun l => (f (g.src l o.a) (g.src l o.b)).setWidth 64) 0

/-- A 32-bit result of two sources in the participating lanes, with the flags of each. -/
def TwoSourcesFlags (s : State) (g : Gang) (i : Instr) (o : RRR) (f : Word → Word → Nat × Flags) : Prop :=
  s.Issues g → g.regsOk (useDst 1 o.d ++ useSrc 1 o.a ++ useSrc 1 o.b) = true →
    VectorResult s g i o.d false o.w o.g (fun l => BitVec.ofNat 64 (f (g.src l o.a) (g.src l o.b)).1)
      (flagsOf (g.parts s.cur o.g) (fun l => (f (g.src l o.a) (g.src l o.b)).2))

/-- A 32-bit result of one source, without flags. -/
def OneSource (s : State) (g : Gang) (i : Instr) (o : RR) (f : Word → Word) : Prop :=
  s.Issues g → g.regsOk (useDst 1 o.d ++ useSrc 1 o.a) = true →
    VectorResult s g i o.d false o.w o.g (fun l => (f (g.src l o.a)).setWidth 64) 0

/-- A 32-bit result of one source, with flags. -/
def OneSourceFlags (s : State) (g : Gang) (i : Instr) (o : RR) (f : Word → Nat × Flags) : Prop :=
  s.Issues g → g.regsOk (useDst 1 o.d ++ useSrc 1 o.a) = true →
    VectorResult s g i o.d false o.w o.g (fun l => BitVec.ofNat 64 (f (g.src l o.a)).1)
      (flagsOf (g.parts s.cur o.g) (fun l => (f (g.src l o.a)).2))

/-- A 32-bit result of one source over the participating lanes, whose value a function of the lane gives. -/
def CrossLane (s : State) (g : Gang) (i : Instr) (o : RR) (f : Nat → Word) : Prop :=
  s.Issues g → g.regsOk (useDst 1 o.d ++ useSrc 1 o.a) = true →
    VectorResult s g i o.d false o.w o.g (fun l => (f l).setWidth 64) 0

/-- A 32-bit result of three sources, the third from D or a hint (06 R226), without flags. -/
def ThreeSources (s : State) (g : Gang) (i : Instr) (o : RRR) (f : Word → Word → Word → Word) : Prop :=
  s.Issues g →
    g.regsOk (useDst 1 o.d ++ useSrc 1 o.a ++ useSrc 1 o.b ++ useSrc 1 (third o.d s.cur.hints)) = true →
    VectorResult s g i o.d false o.w o.g
      (fun l => (f (g.src l o.a) (g.src l o.b) (g.src l (third o.d s.cur.hints))).setWidth 64) 0

/-- A 32-bit result of three sources, with flags. -/
def ThreeSourcesFlags (s : State) (g : Gang) (i : Instr) (o : RRR) (f : Word → Word → Word → Nat × Flags) : Prop :=
  s.Issues g →
    g.regsOk (useDst 1 o.d ++ useSrc 1 o.a ++ useSrc 1 o.b ++ useSrc 1 (third o.d s.cur.hints)) = true →
    VectorResult s g i o.d false o.w o.g
      (fun l => BitVec.ofNat 64 (f (g.src l o.a) (g.src l o.b) (g.src l (third o.d s.cur.hints))).1)
      (flagsOf (g.parts s.cur o.g) (fun l => (f (g.src l o.a) (g.src l o.b) (g.src l (third o.d s.cur.hints))).2))

/-- A 64-bit result of two pairs. -/
def TwoPairs (s : State) (g : Gang) (i : Instr) (o : RRR) (f : DWord → DWord → DWord) : Prop :=
  s.Issues g → g.regsOk (useDst 2 o.d ++ useSrc 2 o.a ++ useSrc 2 o.b) = true →
    VectorResult s g i o.d true o.w o.g (fun l => f (g.src64 l o.a) (g.src64 l o.b)) 0

/-- A 64-bit result of a pair and a 32-bit register. -/
def PairAndWord (s : State) (g : Gang) (i : Instr) (o : RRR) (f : DWord → Word → DWord) : Prop :=
  s.Issues g → g.regsOk (useDst 2 o.d ++ useSrc 2 o.a ++ useSrc 1 o.b) = true →
    VectorResult s g i o.d true o.w o.g (fun l => f (g.src64 l o.a) (g.src l o.b)) 0

/-- An immediate form: the immediate, or the value of a wide-immediate hint, stands for b (07 R274). -/
def WithImmediate (s : State) (g : Gang) (i : Instr) (o : RRI) (f : Word → Word → Word) : Prop :=
  s.Issues g → g.regsOk (useDst 1 o.d ++ useSrc 1 o.a) = true →
    VectorResult s g i o.d false false false
      (fun l => (f (g.src l o.a) (BitVec.ofInt 32 ((wideImm s.cur.hints).getD o.imm))).setWidth 64) 0

/-- A predicate of two 32-bit sources. -/
def Compares (s : State) (g : Gang) (i : Instr) (o : PRR) (f : Word → Word → Bool) : Prop :=
  s.Issues g → g.regsOk (useSrc 1 o.a ++ useSrc 1 o.b) = true →
    PredicateResult s g i o.p o.g (fun l => f (g.src l o.a) (g.src l o.b)) 0

/-- A predicate of two 32-bit sources, with flags. -/
def ComparesFlags (s : State) (g : Gang) (i : Instr) (o : PRR) (f : Word → Word → Bool × Flags) : Prop :=
  s.Issues g → g.regsOk (useSrc 1 o.a ++ useSrc 1 o.b) = true →
    PredicateResult s g i o.p o.g (fun l => (f (g.src l o.a) (g.src l o.b)).1)
      (flagsOf (g.parts s.cur o.g) (fun l => (f (g.src l o.a) (g.src l o.b)).2))

/-- A predicate of two pairs. -/
def ComparesPairs (s : State) (g : Gang) (i : Instr) (o : PRR) (f : DWord → DWord → Bool) : Prop :=
  s.Issues g → g.regsOk (useSrc 2 o.a ++ useSrc 2 o.b) = true →
    PredicateResult s g i o.p o.g (fun l => f (g.src64 l o.a) (g.src64 l o.b)) 0

/-- An operation on the two halves of a register, each on its own (02 R75). -/
def eachHalf (f : Nat → Nat → Nat × Flags) (a b : Word) : Nat × Flags :=
  ((f (a.toNat % 65536) (b.toNat % 65536)).1 + (f (a.toNat / 65536) (b.toNat / 65536)).1 * 65536,
    (f (a.toNat % 65536) (b.toNat % 65536)).2 ||| (f (a.toNat / 65536) (b.toNat / 65536)).2)

/-- See eachHalf, for three operands. -/
def eachHalf3 (f : Nat → Nat → Nat → Nat × Flags) (a b c : Word) : Nat × Flags :=
  ((f (a.toNat % 65536) (b.toNat % 65536) (c.toNat % 65536)).1 +
      (f (a.toNat / 65536) (b.toNat / 65536) (c.toNat / 65536)).1 * 65536,
    (f (a.toNat % 65536) (b.toNat % 65536) (c.toNat % 65536)).2 |||
      (f (a.toNat / 65536) (b.toNat / 65536) (c.toNat / 65536)).2)

/-- The number that a finite value stands for; 0 for the others. -/
def FpVal.rat : FpVal → Rat
  | .fin s m e => (if s then -1 else 1) * (m : Rat) * (2 : Rat) ^ e
  | _ => 0

/-- The numbers with a significand of the format's width, and with its smallest exponent unless tiny ones count too
(02 R71). -/
def FpFmt.Grid (f : FpFmt) (tinyToo : Bool) (y : Real) : Prop :=
  ∃ n q : Int, |n| ≤ 2 ^ (f.mbits + 1) ∧ (tinyToo = false → f.qmin ≤ q) ∧ y = n * (2 : Real) ^ q

/-- y is x rounded once into a set of numbers, as IEEE 754-2019 defines the four modes (02 R72): to nearest with ties
to the even multiple of the spacing, towards zero, up, down. -/
def RoundsIn (r : Rounding) (grid : Real → Prop) (x y : Real) : Prop :=
  grid y ∧ match r with
  | .rne => ∀ z, grid z → |x - y| ≤ |x - z| ∧ (z ≠ y → |x - z| = |x - y| → ∃ n : Int, y = 2 * n * |z - y|)
  | .rtz => 0 ≤ x * y ∧ |y| ≤ |x| ∧ ∀ z, grid z → |z| ≤ |x| → |z| ≤ |y|
  | .rup => x ≤ y ∧ ∀ z, grid z → x ≤ z → y ≤ z
  | .rdn => y ≤ x ∧ ∀ z, grid z → z ≤ x → z ≤ y

/-- A code and its flags are the exact non-zero number x rounded once (02 R72, R76; 07 R277): y is x rounded with the
exponent unbounded above, t with it unbounded below too. Beyond the largest finite number the result overflows; else the
code stands for y, with NX when that is not x, and UF when t is tiny besides. -/
def FpFmt.RoundsTo (f : FpFmt) (r : Rounding) (x : Real) (c : Nat × Flags) : Prop :=
  ∃ (s : Bool) (y t : Real), (s = true ↔ x < 0) ∧ RoundsIn r (f.Grid false) x y ∧ RoundsIn r (f.Grid true) x t ∧
    let top : Real := (2 ^ (f.mbits + 1) - 1) * (2 : Real) ^ f.qmax
    (top < |y| → c = (if r = .rne ∨ r = (if s then .rdn else .rup) then f.inf s else f.huge s, fOF ||| fNX)) ∧
    (|y| ≤ top → (∃ m e, f.read c.1 = .fin s m e) ∧ ((f.read c.1).rat : Real) = y ∧
      (y = x → c.2 = 0) ∧ (y ≠ x → |t| < (2 : Real) ^ (f.qmin + f.mbits) → c.2 = fNX ||| fUF) ∧
      (y ≠ x → (2 : Real) ^ (f.qmin + f.mbits) ≤ |t| → c.2 = fNX))

/-- Reading a code by the fields of its format (02 R71). -/
def FpFmt.ReadsFields (f : FpFmt) : Prop :=
  ∀ x : Nat,
    let frac := x % 2 ^ f.mbits
    let ex := x / 2 ^ f.mbits % 2 ^ f.ebits
    let s := decide (x / 2 ^ (f.ebits + f.mbits) % 2 = 1)
    let last : Int := 1 - ((2 ^ (f.ebits - 1) - 1 : Nat) : Int) - f.mbits
    (ex = 2 ^ f.ebits - 1 → frac = 0 → f.read x = .inf s) ∧
    (ex = 2 ^ f.ebits - 1 → frac ≠ 0 → f.read x = .nan (decide (frac < 2 ^ (f.mbits - 1)))) ∧
    (ex = 0 → f.read x = .fin s frac last) ∧
    (ex ≠ 0 → ex ≠ 2 ^ f.ebits - 1 → f.read x = .fin s (2 ^ f.mbits + frac) (last + ex - 1))

/-- The flag of NaN operands of which some are signalling (02 R73). -/
def nvIf (signalling : Bool) : Flags := if signalling then fNV else 0

/-- FADD, FSUB, FMUL, FDIV and FFMA of NaNs and infinities (02 R72, R73; 07 R277): a NaN gives the canonical quiet NaN,
with NV for a signalling one; infinities as IEEE 754-2019 has them; 0 times infinity is invalid whatever is added. -/
def FpFmt.ArithmeticSpecials (f : FpFmt) (r : Rounding) : Prop :=
  (∀ a b, (f.read a).isNan = true ∨ (f.read b).isNan = true →
    let y := (f.qnan, nvIf ((f.read a).isSnan || (f.read b).isSnan))
    f.add r a b = y ∧ f.sub r a b = y ∧ f.mul r a b = y ∧ f.div r a b = y) ∧
  (∀ a b s t, f.read a = .inf s → f.read b = .inf t →
    f.add r a b = (if s = t then (f.inf s, 0) else (f.qnan, fNV)) ∧
    f.sub r a b = (if s = t then (f.qnan, fNV) else (f.inf s, 0)) ∧
    f.mul r a b = (f.inf (s != t), 0) ∧ f.div r a b = (f.qnan, fNV)) ∧
  (∀ a b s t m e, f.read a = .inf s → f.read b = .fin t m e →
    f.add r a b = (f.inf s, 0) ∧ f.add r b a = (f.inf s, 0) ∧
    f.sub r a b = (f.inf s, 0) ∧ f.sub r b a = (f.inf (!s), 0) ∧
    f.mul r a b = (if m = 0 then (f.qnan, fNV) else (f.inf (s != t), 0)) ∧ f.mul r b a = f.mul r a b ∧
    f.div r a b = (f.inf (s != t), 0) ∧ f.div r b a = (f.signBit (s != t), 0)) ∧
  ∀ a b c,
    let x := f.read a
    let y := f.read b
    let z := f.read c
    let infTimesZero := fun (v w : FpVal) => ∃ s t e, v = .inf s ∧ w = .fin t 0 e
    let invalid := infTimesZero x y ∨ infTimesZero y x
    (invalid → f.fma r a b c = (f.qnan, fNV)) ∧
    (¬invalid → x.isNan = true ∨ y.isNan = true ∨ z.isNan = true →
      f.fma r a b c = (f.qnan, nvIf (x.isSnan || y.isSnan || z.isSnan))) ∧
    (¬invalid → ((∃ s, x = .inf s) ∧ y.isNan = false) ∨ ((∃ s, y = .inf s) ∧ x.isNan = false) →
      (∀ t, z = .inf t → f.fma r a b c = if t = (x.sign != y.sign) then (f.inf t, 0) else (f.qnan, fNV)) ∧
      ∀ t m e, z = .fin t m e → f.fma r a b c = (f.inf (x.sign != y.sign), 0)) ∧
    ∀ s t u m n e e', x = .fin s m e → y = .fin t n e' → z = .inf u → f.fma r a b c = (f.inf u, 0)

/-- FMIN and FMAX of NaNs and infinities (02 R74). -/
def FpFmt.PickSpecials (f : FpFmt) : Prop :=
  ∀ (larger : Bool) (a b : Nat),
    let x := f.read a
    let y := f.read b
    let nv := nvIf (x.isSnan || y.isSnan)
    (x.isNan = true → y.isNan = true → f.pick larger a b = (f.qnan, nv)) ∧
    (x.isNan = true → y.isNan = false → f.pick larger a b = (b, nv)) ∧
    (x.isNan = false → y.isNan = true → f.pick larger a b = (a, nv)) ∧
    ∀ s, x = .inf s → y.isNan = false → y ≠ x →
      f.pick larger a b = (if larger = s then b else a, 0) ∧ f.pick larger b a = f.pick larger a b

/-- The functions of one operand at NaNs, at numbers below 0 and at powers of two (07 R278): a NaN gives the canonical
quiet NaN, with NV for a signalling one; where the exact result of a power of two is a number of the format it is
delivered without a flag. -/
def FpFmt.FunctionSpecials (f : FpFmt) (r : Rounding) : Prop :=
  (∀ a b, f.read a = .nan b →
    let y := (f.qnan, nvIf b)
    f.recip r a = y ∧ f.rsqrt r a = y ∧ f.sqrt r a = y ∧ f.exp2 r a = y ∧ f.log2 r a = y) ∧
  (∀ a m e, f.read a = .fin true m e → m ≠ 0 → f.log2 r a = (f.qnan, fNV)) ∧
  ∀ (a : Nat) (k : Int), (f.read a).rat = (2 : Rat) ^ k →
    let gives := fun (c : Nat × Flags) (x : Rat) => (∃ s m e, f.read c.1 = .fin s m e) ∧ (f.read c.1).rat = x ∧ c.2 = 0
    (-(f.bias : Int) ≤ k → gives (f.recip r a) ((2 : Rat) ^ (-k))) ∧
    (k % 2 = 0 → gives (f.sqrt r a) ((2 : Rat) ^ (k / 2)) ∧ gives (f.rsqrt r a) ((2 : Rat) ^ (-(k / 2)))) ∧
    gives (f.log2 r a) k

/-- FEXP2 and FLOG2 of finite inputs are numbers rounded once, with their flags, that lie within 2^-700 of the exact
ones, FEXP2's relative to it (07 R277, R278). That no rounding boundary lies between the two is log entry 9. -/
def FpFmt.ExponentialsRound (f : FpFmt) (r : Rounding) : Prop :=
  ∀ (a : Nat) (s : Bool) (m : Nat) (e : Int), f.read a = .fin s m e →
    let x : Real := ((f.read a).rat : Real)
    (∃ z : Real, |z - (2 : Real) ^ x| ≤ (2 : Real) ^ (-700 : Int) * (2 : Real) ^ x ∧ f.RoundsTo r z (f.exp2 r a)) ∧
    (0 < x → x ≠ 1 → ∃ z : Real, |z - Real.logb 2 x| ≤ (2 : Real) ^ (-700 : Int) ∧ f.RoundsTo r z (f.log2 r a))

/-- An integer is a number rounded to one. -/
def RoundsToInt (r : Rounding) (x : Real) (n : Int) : Prop := RoundsIn r (fun z => ∃ k : Int, z = k) x n

/-- The value of an integer type in a register (07 R282, R284). -/
def IntType.value (t : IntType) (x : Nat) : Int :=
  if t.isSigned then (BitVec.ofNat t.width x).toInt else (x % 2 ^ t.width : Nat)

/-- The integer types of CVT. -/
def IntType.ofCvt (t : IntType) : Prop := t.width = 8 ∨ t.width = 16 ∨ t.width = 32 ∨ t.width = 64

/-- Whether a number lies in a type. -/
def IntType.has (t : IntType) (v : Int) : Prop :=
  if t.isSigned then -2 ^ (t.width - 1) ≤ v ∧ v < 2 ^ (t.width - 1) else 0 ≤ v ∧ v < 2 ^ t.width

/-- What a conversion delivers (02 R78; 07 R284). Between integers the low bits, or with .sat the nearest number of the
target, with OF when that is another; of an integer the number rounded once; of a floating-point number its rounding to
an integer when the target has it, else the end of the range on its side with NV, and 0 with NV for a NaN; between
formats the number rounded once, a zero, an infinity or the canonical NaN for the same. -/
def ConvertDelivers (r : Rounding) (sat : Bool) : Prop :=
  (∀ (t u : IntType) (x : Nat), t.ofCvt → u.ofCvt →
    let v := t.value x
    let y := convert r sat (.inl u) (.inl t) x
    ∃ w, u.has w ∧ y.1 = BitVec.ofInt 64 w ∧
      (sat = false → w % 2 ^ u.width = v % 2 ^ u.width ∧ y.2 = 0) ∧
      (sat = true → (u.has v → w = v ∧ y.2 = 0) ∧
        (¬ u.has v → y.2 = fOF ∧ ∀ z, u.has z → |v - w| ≤ |v - z|))) ∧
  ∀ f : FpFmt, f = fp32 ∨ f = bf16 ∨ f = fp16 → ∀ x : Nat,
    let a := x % 2 ^ (1 + f.ebits + f.mbits)
    let number : Real := ((f.read a).rat : Real)
    (∀ t : IntType, t.ofCvt →
      let y := convert r sat (.inr f) (.inl t) x
      (t.value x = 0 → y = (0, 0)) ∧ (t.value x ≠ 0 → f.RoundsTo r (t.value x) (y.1.toNat, y.2))) ∧
    (∀ u : IntType, u.ofCvt →
      let y := convert r sat (.inl u) (.inr f) x
      let ends := fun (negative : Bool) => ∃ w, u.has w ∧ y = (BitVec.ofInt 64 w, fNV) ∧
        ∀ z, u.has z → if negative then w ≤ z else z ≤ w
      (∀ b, f.read a = .nan b → y = (0, fNV)) ∧ (∀ s, f.read a = .inf s → ends s) ∧
      ∀ s m e, f.read a = .fin s m e → ∃ n, RoundsToInt r number n ∧
        (u.has n → y = (BitVec.ofInt 64 n, if (n : Real) = number then 0 else fNX)) ∧ (¬ u.has n → ends (decide (n < 0)))) ∧
    ∀ h : FpFmt, h = fp32 ∨ h = bf16 ∨ h = fp16 →
      let y := convert r sat (.inr h) (.inr f) x
      (∀ b, f.read a = .nan b → y = (BitVec.ofNat 64 h.qnan, nvIf b)) ∧
      (∀ s, f.read a = .inf s → y = (BitVec.ofNat 64 (h.inf s), 0)) ∧
      ∀ s m e, f.read a = .fin s m e → (m = 0 → y = (BitVec.ofNat 64 (h.signBit s), 0)) ∧
        (m ≠ 0 → h.RoundsTo r number (y.1.toNat, y.2))

/-- The residues of an integer in the fields of an RN8 or RN12 code (02 R79, R82). -/
def residueCode (rn8 : Bool) (n : Int) : Int :=
  if rn8 then n % 3 * 64 + n % 7 * 8 + n % 8 else n % 13 * 256 + n % 15 * 16 + n % 16

/-- What quantising the values of the participating lanes delivers (02 R104; 07 R286): the least offset in 0 to 15 at
which every value that is no NaN fits, or 15; of each element the integer nearest to the value in units of
2^(sb + OFF - 127), ties to even, the largest one of its sign for a value beyond, or NaR; its flags; the largest
magnitude; and the fields of the result word, whose code holds the element's residues. -/
def QuantDelivers (rn8 : Bool) : Prop :=
  ∀ (sb : Nat) (p : LaneMask) (x : Nat → FpVal),
    let top : Int := if rn8 then 83 else 1559
    let q := quantBlock top.toNat sb p x
    let part := fun (l : Nat) => l < 32 ∧ p.getLsbD l = true
    let scaled := fun (o l : Nat) => ((x l).rat : Real) / (2 : Real) ^ ((sb : Int) + o - 127)
    let beyond := fun (o l : Nat) => (∃ s, x l = .inf s) ∨
      (∃ s m e, x l = .fin s m e) ∧ ∀ n, RoundsToInt .rne (scaled o l) n → top < |n|
    let fits := fun (o : Nat) => ∀ l, part l → ¬ beyond o l
    let word := fun (l : Nat) => quantWord rn8 q l
    (sb = 255 → q.off = 0 ∧ q.bmax = 0 ∧ ∀ l, q.elem l = (none, false, fNV)) ∧
    (sb < 255 →
      (q.off ≤ 15 ∧ (∀ o, o < q.off → ¬ fits o) ∧ (q.off < 15 → fits q.off)) ∧
      ∀ l, (∀ b, x l = .nan b → q.elem l = (none, false, fNV)) ∧
        (beyond q.off l → q.elem l = (some (if (x l).sign then -top else top), true, fOF ||| fNX)) ∧
        (¬ beyond q.off l → ∀ s m e, x l = .fin s m e → ∃ n, RoundsToInt .rne (scaled q.off l) n ∧
          q.elem l = (some n, false, if (n : Real) = scaled q.off l then 0 else if n = 0 then fUF ||| fNX else fNX))) ∧
    (∀ l n, part l → (q.elem l).1 = some n → n.natAbs ≤ q.bmax) ∧
    (q.bmax = 0 ∨ ∃ l n, part l ∧ (q.elem l).1 = some n ∧ n.natAbs = q.bmax) ∧
    ∀ l, word l / 2 ^ 20 = q.bmax ∧ word l / 2 ^ 16 % 16 = q.off ∧
      word l / 2 ^ 13 % 8 = (if (q.elem l).1 = none then 1 else 0) ∧
      word l / 2 ^ 12 % 2 = (if (q.elem l).2.1 then 1 else 0) ∧
      ((word l % 2 ^ 12 : Nat) : Int) = match (q.elem l).1 with
        | none => if rn8 then 0xC0 else 0xF00
        | some n => residueCode rn8 n

/-- What decoding an element delivers (02 R80, R82, R105; 07 R287): the integer of the format whose residues the code
holds, as INT32, or as FP32 times 2^(sb + OFF - 127), rounded once; NaR for any other code and under the scale base 255. -/
def DquantDelivers (rn8 : Bool) : Prop :=
  ∀ a b : Nat,
    let sb := b % 256
    let half : Int := if rn8 then 84 else 1560
    let holds := fun (n : Int) => -half ≤ n ∧ n < half ∧ ((a % (if rn8 then 256 else 4096) : Nat) : Int) = residueCode rn8 n
    let y := dquantOf rn8 a b
    (sb = 255 ∨ (∀ n, ¬ holds n) → y = (if b / 256 % 2 = 1 then 0x7FC00000 else 0x80000000, fNV)) ∧
    ∀ n, sb ≠ 255 → holds n →
      (b / 256 % 2 = 0 → y = ((BitVec.ofInt 32 n).setWidth 64, 0)) ∧
      (b / 256 % 2 = 1 → n = 0 → y = (0, 0)) ∧
      (b / 256 % 2 = 1 → n ≠ 0 →
        fp32.RoundsTo .rne (n * (2 : Real) ^ ((sb : Int) + (a / 2 ^ 16 % 16 : Nat) - 127)) (y.1.toNat, y.2))

/-- The participating lanes below a bound, in ascending order. -/
def participants (p : LaneMask) (n : Nat) : List Nat := (List.range n).filter (fun k => p.getLsbD k)

/-- A move whose sources name no vector register: over every state in which a gang issues. -/
def Moves (s : State) (g : Gang) (i : Instr) (d : Dst) (w gbit : Bool) (f : Nat → Word) : Prop :=
  s.Issues g → g.regsOk (useDst 1 d) = true → VectorResult s g i d false w gbit (fun l => (f l).setWidth 64) 0

/-- A predicate computed from predicates. -/
def PredicateMoves (s : State) (g : Gang) (i : Instr) (p : Nat) (gbit : Bool) (f : Nat → Bool) : Prop :=
  s.Issues g → PredicateResult s g i p gbit f 0

/-- A scalar instruction: s[SD] gets an operation of s[SA] and y (07 R301). -/
def ScalarOp (s : State) (g : Gang) (i : Instr) (o : SSS) (f : DWord → DWord → DWord) : Prop :=
  s.Issues g → ScalarResult s g i o.d (f (g.sreg o.a) (g.scalarY s.cur.hints o.y))

/-! Memory accesses (spec 08 R304 to R328). -/

/-- The instruction completes: a next state, in which the issuing gang is there, every active lane is past the
instruction, and more holds. -/
def Completes (s : State) (i : Instr) (more : State → Gang → Prop) : Prop :=
  ∃ t h, exec i s = .next t ∧ t.issuer = some h ∧
    (∀ l, s.cur.active.getLsbD l = true → (h.lane l).pc = s.cur.next) ∧ more t h

/-- The outcomes of the checks of the participating lanes that are still to do (08 R307, R308). -/
def State.laneChecks (s : State) (g : Gang) (sp : LaneSpace) (a : Src) (off : Int) (n : Nat) (kind : AccKind) :
    List (Nat × Check) :=
  (s.checkLanes (lanesOf (g.todo s.cur)) (fun s l => s.checkLane g sp (g.address sp a off l) n kind l)).2

/-- The byte offset of a load or store: the scaled field, or a wide-immediate hint. -/
def State.offsetOf (s : State) (off n : Nat) : Int := (wideImm s.cur.hints).getD ((off * n : Nat) : Int)

/-- A place of n bytes in a scratchpad, or aligned in the module's memory and on no system page. -/
def Place.inMemory (n : Nat) : Place → Prop
  | .page va l => l.sysp = false ∧ l.pa + (va - l.va) + n ≤ memoryEnd ∧ (l.pa + (va - l.va)) % n = 0
  | .bank _ _ => True

/-- Every check passes, at such a place. -/
def Passes (n : Nat) (cs : List (Nat × Check)) : Prop := ∀ x ∈ cs, ∃ p, x.2 = .ok p ∧ Place.inMemory n p

/-- Where byte i of a place is: (0, physical address), or (core + 1, scratchpad offset). -/
def Place.loc (i : Nat) : Place → Nat × Nat
  | .page va l => (0, l.pa + (va - l.va) + i)
  | .bank c off => (c + 1, off + i)

/-- A byte as core c sees it: through its L1, or in a scratchpad. -/
def State.viewByte (s : State) (c : Nat) (x : Nat × Nat) : Byte :=
  if x.1 = 0 then s.l1Byte c x.2 else (s.core (x.1 - 1)).sbyte x.2

/-- The bytes of a place as core c sees them. -/
def State.viewBytes (s : State) (c n : Nat) (p : Place) : List Byte :=
  (List.range n).map (fun i => s.viewByte c (Place.loc i p))

/-- Core c's L1 holds every byte of a place on a page. -/
def State.l1Has (s : State) (c n : Nat) (p : Place) : Prop :=
  ∀ i, i < n → (Place.loc i p).1 = 0 →
    let a := (Place.loc i p).2
    (setByte? (mget [] (s.core c).l1 (l1Set (a / 256))) (a / 256) (a % 256)).isSome = true

/-- Core c's L1 has a block over the 8-byte word of every byte of a place on a page. -/
def State.l1Covers (s : State) (c n : Nat) (p : Place) : Prop :=
  ∀ i, i < n → (Place.loc i p).1 = 0 →
    let a := (Place.loc i p).2
    ∃ b ∈ mget [] (s.core c).l1 (l1Set (a / 256)),
      b.holds (a / 256) (a % 256 / 8 * 2) = true ∧ b.holds (a / 256) (a % 256 / 4) = true

/-- The set of core c's L1 that a frame maps to and, for a frame homed on another die, that of its die's remote-data
cache (03 R139). -/
def State.setsOf (s : State) (c frame : Nat) : List (List Block) :=
  mget [] (s.core c).l1 (l1Set frame) ::
    if homeDie (frame * 256) = dieOfCore c then [] else [mget [] (s.die (dieOfCore c)).rdc (rdcSet frame)]

/-- These sets hold no block of the frame, and no more blocks than a set has tags. -/
def State.FrameAbsent (s : State) (c frame : Nat) : Prop :=
  ∀ bs ∈ s.setsOf c frame, bs.length ≤ 16 ∧ ∀ b ∈ bs, b.frame ≠ frame

/-- These sets hold no dirty byte. -/
def State.SetsClean (s : State) (c frame : Nat) : Prop :=
  ∀ bs ∈ s.setsOf c frame, ∀ b ∈ bs, b.dirty allBytes = []

/-- A cache as the device keeps it (03 R138 to R145): each set holds at most 16 blocks, of frames of that set; each
byte lies in a word of its block; no word is in two blocks. -/
def CacheOk (setOf : Nat → Nat) (m : Map (List Block)) : Prop :=
  mapSorted m = true ∧ ∀ x ∈ m, x.2.length ≤ 16 ∧
    (∀ b ∈ x.2, setOf b.frame = x.1 ∧ mapSorted b.bytes = true ∧
      ∀ y ∈ b.bytes, y.1 < 256 ∧ b.first ≤ y.1 / 4 ∧ y.1 / 4 ≤ b.last) ∧
    x.2.Pairwise (fun b d => ∀ w, b.holds d.frame w = true → d.holds d.frame w = false)

/-- The caches of a core and of its die are so, and the die's remote-data cache holds only frames homed elsewhere. -/
def State.CachesOk (s : State) (c : Nat) : Prop :=
  CacheOk l1Set (s.core c).l1 ∧ CacheOk rdcSet (s.die (dieOfCore c)).rdc ∧
    ∀ x ∈ (s.die (dieOfCore c)).rdc, ∀ b ∈ x.2, homeDie (b.frame * 256) ≠ dieOfCore c

/-- Core c's L1 and the remote-data caches hold no dirty byte. -/
def State.NoDirty (s : State) (c : Nat) : Prop :=
  cacheDirty allBytes (s.core c).l1 = [] ∧ ∀ d, cacheDirty allBytes (s.die d).rdc = []

/-- No die is under reset (16 R511). -/
def State.DiesUp (s : State) : Prop := ∀ d, s.dieAway d = false

/-- Every byte of a condition that is dirty in core c's L1 in s is at its home in t with its value, when that home is
the core's die or the write-back reaches all homes (05 R183): of caches and a memory as the device keeps them, with no
die under reset. -/
def DirtyHome (s t : State) (c : Nat) (all : Prop) (p : Nat → Prop) : Prop :=
  s.MemOk → s.CachesOk c → s.DiesUp → ∀ a x, p a → (all ∨ homeDie a = dieOfCore c) →
    setByte? (mget [] (s.core c).l1 (l1Set (a / 256))) (a / 256) (a % 256) = some ⟨x, true⟩ → memRead t.mem a = x

/-- The effect of a release on an object, of which the team has one binding entry: no byte of the bound range is
dirty in the core's L1 (05 R187). -/
def Released (s t : State) (c : Nat) (team : TeamPart) (obj : ObjLoc) (sc : Scope) : Prop :=
  ∀ b, (s.core c).boundTo team obj = [b] → scopeLevel team.wide (widerScope sc b.scope) ≠ 0 →
    cacheDirty (meetsRanges (s.physRanges (Machine.ctxKey team.part team.ctx) b.base b.len)) (t.core c).l1 = []

/-- The effect of an acquire on an object, of which the team has one binding entry: the core's L1 holds no byte of the
bound range outside sealed words (05 R188, R193). -/
def Acquired (s t : State) (c : Nat) (team : TeamPart) (obj : ObjLoc) (sc : Scope) : Prop :=
  ∀ b, (s.core c).boundTo team obj = [b] → scopeLevel team.wide (widerScope sc b.scope) ≠ 0 →
    ∀ a, meetsRanges (s.physRanges (Machine.ctxKey team.part team.ctx) b.base b.len) a = true →
      s.sealedWord team.part a = false → ∀ x ∈ (t.core c).l1, setByte? x.2 (a / 256) (a % 256) = none

/-- The machine after the issuing core's copies of a place's word went to its home (05 R188, R197). -/
def State.homed (s : State) (p : Place) : State :=
  match p with
  | .page _ _ => s.toHome s.cur.core p.pa
  | .bank _ _ => s

/-- The bytes of a place at its home or bank. -/
def State.placeBytes (s : State) (n : Nat) (p : Place) : List Byte :=
  match p with
  | .page _ _ => s.readHome p.pa n
  | .bank c off => (s.core c).sbytes off n

/-- A byte at its home, or in a scratchpad. -/
def State.homeByte (s : State) (x : Nat × Nat) : Byte :=
  if x.1 = 0 then memRead s.mem x.2 else (s.core (x.1 - 1)).sbyte x.2

/-- A place whose word no seal of the core's partition covers: its copies leave the caches before an access at the
home (03 R151). -/
def State.Unsealed (s : State) (c : Nat) : Place → Prop
  | .page va l => s.sealedFor c (l.pa + (va - l.va)) = false
  | .bank _ _ => True

/-- Nothing keeps an ordered access on some objects from performing: a release waits for no write and no sparse lane
(04 R166, 05 R184), and the walk of no bound range meets a memory error (14 R469). -/
def State.Unhindered (s : State) (g : Gang) (os : List ObjLoc) (sc : Scope) (release : Bool) : Prop :=
  (release = true → s.mustWait g os sc = false) ∧ s.objsError g os sc = none

/-- Of memory and the scratchpads, only the n bytes of a place differ. -/
def OnlyAt (s t : State) (n : Nat) (p : Place) : Prop :=
  (∀ a, (∀ i, i < n → Place.loc i p ≠ (0, a)) → memRead t.mem a = memRead s.mem a) ∧
  ∀ c a, (∀ i, i < n → Place.loc i p ≠ (c + 1, a)) → (t.core c).sbyte a = (s.core c).sbyte a

/-- What a plain load leaves (08 R309, R315): the value of each lane's bytes in its destination registers and in
L0; no other register but one with a suppressed result, no predicate, scalar, flag or byte of a scratchpad changes, and
no byte of memory where that is due. -/
def LoadResult (s : State) (g : Gang) (i : Instr) (cs : List (Nat × Check)) (d : Dst) (mode : LoadMode) (keeps : Prop) :
    Prop :=
  let n := LoadMode.bytes mode
  Completes s i (fun t h =>
    (∀ l p, (l, Check.ok p) ∈ cs →
      let v := LoadMode.value mode (s.viewBytes s.cur.core n p)
      (h.lane l).latch 0 = entryVal (regsOf n != 1) v.1 ∧
      ∀ r x, (r, x) ∈ (quadWords d v.1 v.2).take (regsOf n) → h.reg r l = x) ∧
    (∀ l r, l < 32 → ((∃ p, (l, Check.ok p) ∈ cs) → r ∉ useDst (regsOf n) d) → g.pendingOn l r = false →
      h.reg r l = g.reg r l) ∧
    h.preds = g.preds ∧ h.s = g.s ∧ h.fpflags = g.fpflags ∧ (keeps → SameMemory s t) ∧
    ∀ c, (t.core c).scratch = (s.core c).scratch)

/-- A load of one lane put its bytes into its destination and L0, and no other register but one with a suppressed
result, no predicate, scalar or flag changed (08 R309). -/
def Gang.Loaded (g h : Gang) (l : Nat) (d : Dst) (n : Nat) (v : DWord × DWord) : Prop :=
  (h.lane l).latch 0 = entryVal (regsOf n != 1) v.1 ∧
  (∀ r x, (r, x) ∈ (quadWords d v.1 v.2).take (regsOf n) → h.reg r l = x) ∧
  (∀ k r, k < 32 → (k = l → r ∉ useDst (regsOf n) d) → g.pendingOn k r = false → h.reg r k = g.reg r k) ∧
  h.preds = g.preds ∧ h.s = g.s ∧ h.fpflags = g.fpflags

/-- What a plain store leaves (08 R311, R316): at each byte stored to, the byte of the highest lane that stores to
it, as the issuing core sees it; every other byte of memory and of every scratchpad as before; no register but one
with a suppressed result, no predicate, scalar or flag changes. -/
def StoreResult (s : State) (g : Gang) (i : Instr) (cs : List (Nat × Check)) (n : Nat) (v : Src) : Prop :=
  Completes s i (fun t h =>
    (∀ l p k, (l, Check.ok p) ∈ cs → k < n →
      (∀ l' p' k', (l', Check.ok p') ∈ cs → k' < n → Place.loc k' p' = Place.loc k p → l' ≤ l) →
      t.viewByte s.cur.core (Place.loc k p) = (g.storeBytes n l v).getD k 0) ∧
    (∀ x, (∀ l p k, (l, Check.ok p) ∈ cs → k < n → Place.loc k p ≠ x) →
      t.viewByte s.cur.core x = s.viewByte s.cur.core x) ∧
    SameMemory s t ∧
    (∀ l r, l < 32 → g.pendingOn l r = false → h.reg r l = g.reg r l) ∧
    h.preds = g.preds ∧ h.s = g.s ∧ h.fpflags = g.fpflags)

/-! Entering a handler (spec 10 R402 to R406). -/

/-- The handler of an entry kind of a gang: the trap entry, the emulation entry, its trampoline vector. -/
def Gang.handlerAddress (g : Gang) (kind : Nat) : VAddr :=
  BitVec.ofNat 48 (g.code + (if kind = 0 then g.trapEntry else g.emuEntry) + if kind = 2 then 4 else 0)

/-- The kernel has a handler for an entry kind, and the lanes are nested less than twice. -/
def Gang.handles (g : Gang) (kind : Nat) (m : LaneMask) : Prop :=
  (if kind = 0 then g.trapEntry else g.emuEntry) ≠ 0xFFFFFFFF ∧ ∀ l, m.getLsbD l = true → (g.lane l).level < 2

/-- The instruction takes the lanes of a mask into a handler: the frame of each lane holds the cause, the address,
where it came from and its latch history; it stands at the handler with an empty history. The other lanes stay
where they are; no register but one with a suppressed result, no predicate, scalar, flag or byte of memory
changes. -/
def EntersHandler (s : State) (g : Gang) (i : Instr) (m : LaneMask) (kind : Nat) (d : Cause) (addr : Nat → DWord) :
    Prop :=
  ∃ t h, exec i s = .next t ∧ t.issuer = some h ∧
    (∀ l, m.getLsbD l = true → (h.lane l).pc = g.handlerAddress kind ∧ (h.lane l).hist = [] ∧
      ∃ f, (h.lane l).handlers = f :: (g.lane l).handlers ∧ f.kind = kind ∧ f.cause = d ∧ f.delivered = d ∧
        f.deferred = false ∧ f.pc = (g.lane l).pc ∧ f.resume = (g.lane l).pc ∧ f.after = s.cur.next ∧
        f.addr = addr l ∧ f.hist.map (fun e => e.val) = (g.lane l).hist.map (fun e => e.val)) ∧
    (∀ l, m.getLsbD l = false → (h.lane l).pc = (g.lane l).pc ∧ (h.lane l).handlers = (g.lane l).handlers) ∧
    (∀ l r, l < 32 → g.pendingOn l r = false → h.reg r l = g.reg r l) ∧
    h.preds = g.preds ∧ h.s = g.s ∧ h.fpflags = g.fpflags ∧ SameMemory s t

/-! Streams, handlers, engines and events (spec 01, 09, 10, 13 to 17). -/

/-- What an instruction without a register result leaves of its gang. -/
def Gang.Keeps (g h : Gang) : Prop :=
  (∀ l r, l < 32 → g.pendingOn l r = false → h.reg r l = g.reg r l) ∧ h.preds = g.preds ∧ h.s = g.s ∧
    h.fpflags = g.fpflags ∧ g.Stays h

/-- The event or instruction completes, and more holds of the state after it. -/
def State.Leads (s : State) (i : Instr) (more : State → Prop) : Prop := ∃ t, exec i s = .next t ∧ more t

/-- The active lanes lie in the issuing stream, and no other stream that waits at REGANG shares a slice with
it. -/
def Gang.WaitersApart (g : Gang) (is : Issue) : Prop :=
  (∀ l, is.active.getLsbD l = true → bitAt (g.streamAt is.stream).slices (l / 4) = true) ∧
    ∀ j, j ≠ is.stream → ∀ t pc c n, (g.streamAt j).wait = .regang t pc c n →
      ∀ k, bitAt (g.streamAt j).slices k = true → bitAt (g.streamAt is.stream).slices k = false

/-- What a step makes of a move's outcome: a next state that met memory homed on a die under reset is not taken, and the
move goes back on the agenda of the state before (16 R512). -/
def State.madeOr (u : State) (m : Move) (o : Host.Outcome State Fault Refusal) : Host.Outcome State Fault Refusal :=
  match o with
  | .next t => if t.waits then .next (u.putBack m) else .next t
  | x => x

/-- No gang waits to be told: no partition asks for notifications. -/
def State.Quiet (s : State) : Prop := ∀ x ∈ s.parts, x.2.nen = false

/-- No transfer of memory is in error and no frame is retired (14 R469): no walk meets a memory error. -/
def State.NoErrors (s : State) : Prop := s.dev.badTransfers = [] ∧ s.dev.retired = []

/-- Every cache of the machine is empty. -/
def State.NoCached (s : State) : Prop := (∀ c, (s.core c).l1 = []) ∧ ∀ d, (s.die d).rdc = []

/-- No copy of any core has landed and waits for its granules or its signal. -/
def State.NoneLanded (s : State) : Prop := ∀ x ∈ s.cores, ∀ y ∈ x.2.copies, y.2.landed = false

/-- Two ranges given as base and length do not meet. -/
def Apart (a n b m : Nat) : Prop := a + n ≤ b ∨ b + m ≤ a

/-- Each part of a core has a live gang there, or has ended. -/
def State.PartsHeld (s : State) : Prop := ∀ y ∈ s.cores, ∀ t ∈ y.2.parts, t.ended = true ∨ y.2.partLive t = true

/-- The bytes of a piece of a copy's source at their home. -/
def State.pieceAt (s : State) (ctx : Nat) (p : Nat × Nat × Nat) : List Byte :=
  match s.engineAccess ctx p.1 p.2.2 .load with
  | .ok pa _ => s.readHome pa p.2.2
  | _ => []

/-- Every piece lies on a resident page of the module that permits the access. -/
def State.PiecesReady (s : State) (ctx : Nat) (kind : AccKind) (ps : List (Nat × Nat × Nat)) : Prop :=
  ∀ p ∈ ps, p.1 < 2 ^ 48 ∧ ∃ pa l, s.engineAccess ctx p.1 p.2.2 kind = .ok pa l ∧ l.sysp = false

/-- A copy with its object in a scratchpad has moved its bytes (09 R366, R367). Each granule that it names counts one
less and at zero belongs to the owner that the copy names. When all are handed the object holds the length more and the
operation is gone; else it waits, landed, for the others. -/
def CopyEnds (s t : State) (c n oc ooff : Nat) (x : CopyOp) : Prop :=
  let count := fun (m : Nat × Nat × Owner) => ((s.core m.1).granule m.2.1).inflight
  let more := x.names.filter (fun m => decide (1 < count m))
  (∀ m ∈ x.names, ((t.core m.1).granule m.2.1).inflight = count m - 1 ∧
    ((t.core m.1).granule m.2.1).owner = if count m ≤ 1 then m.2.2 else ((s.core m.1).granule m.2.1).owner) ∧
  (more = [] → (t.core oc).sbytes ooff 8 = bytesOf 8 (ofBytes ((s.core oc).sbytes ooff 8) + x.length) ∧
    mfind? (t.core c).copies n = none) ∧
  (more ≠ [] → (t.core oc).sbytes ooff 8 = (s.core oc).sbytes ooff 8 ∧
    ∃ y, mfind? (t.core c).copies n = some y ∧ y.landed = true ∧ y.names = more ∧ y.length = x.length ∧ y.obj = x.obj)

/-- A node of a region as a step reads it at its home, on pages whose A bits are set. -/
def State.NodeAt (s : State) (r : Region) (va n : Nat) (b : List Byte) : Prop :=
  s.unitRead r.ctx va n = .ok b ∧ ∀ p ∈ pagePieces va n, s.engineTouch r.ctx p.1 false = s

/-- The descent for a key to the leaf beside which its leaf stands (04 R159, R162, R168), through nodes at new
addresses: from a node of a level, with the bounds of the keys under it, to that leaf's address and bytes, or to none
under an empty root. -/
def State.LeafFor (s : State) (r : Region) (sh : Shard) (key : Nat) (res : Option (Nat × List Byte)) :
    Nat → Nat → Nat → Nat → List Nat → Prop
  | 0, va, lo, hi, seen => ∃ b, s.NodeAt r va r.unit b ∧ va ∉ seen ∧ leafOk b lo hi = true ∧ res = some (va, b)
  | n + 1, va, lo, hi, seen => ∃ b, s.NodeAt r va 256 b ∧ va ∉ seen ∧ interiorOk b sh (va == sh.root) (n + 1) = true ∧
      let es := nodeEntries b
      let j := childAt es (leafKey key)
      let x := es.getD j (0, 0)
      (x.2 = noUnit ∧ res = none) ∨
      (x.2 ≠ noUnit ∧ s.LeafFor r sh key res n (r.unitVa x.2) (if j = 0 then lo else max lo x.1)
        (match es[j + 1]? with
          | some y => min hi y.1
          | none => hi) (va :: seen))

/-- The leaf for a key in a region of one shard (04 R154, R156), whose root reads as given. -/
def State.LeafOf (s : State) (r : Region) (key : Nat) (root : List Byte) (res : Option (Nat × List Byte)) : Prop :=
  teShards r.e = 1 ∧ s.NodeAt r (teBase r.e) 256 root ∧
    ∃ n, s.LeafFor r ⟨teBase r.e, 0, num root 0 4⟩ key res (n + 1) (teBase r.e) 0 (2 ^ 64) []

/-- The partitions for which a die decides once p can send: p, and each other that can (15 R480). -/
def State.rivals (s : State) (p d : Nat) : List (Nat × Partition) :=
  s.parts.filter (fun y => dispatchDie y.1 y.2 == d && (y.1 == p || (s.nextSend y.1).2.isSome))

/-- A die that decides now picks p among them, in decision k of its turn; no other that cannot send makes an offer
(15 R480, R485). -/
def State.Picks (s : State) (p d k : Nat) : Prop :=
  (s.die d).decided ≠ some s.time ∧ s.coreUp (256 * d) = true ∧ (s.die d).pick (s.rivals p d) = some (p, k) ∧
    ∀ y ∈ s.parts, dispatchDie y.1 y.2 = d → y.1 ≠ p → (s.nextSend y.1).2 = none → (s.nextSend y.1).1 = s

/-- The items of a core lie where its hardware has places for them (01 R66; 03 R110 to R122; 09 R360, R373). -/
structure Core.Positioned (k : Core) : Prop where
  slots : ∀ x ∈ k.slots, x.1 < 32 ∧ x.2.slot = x.1 ∧ x.2.rows + x.2.vregs ≤ 2048
  granules : ∀ t ∈ k.parts, t.granule0 + t.granules ≤ 128
  tiles : ∀ t ∈ k.parts, t.tile0 + t.tiles ≤ 4
  cream : ∀ t ∈ k.parts, t.bank < 2 ∧ t.cream0 + t.creams ≤ 32
  copies : ∀ x ∈ k.copies, x.1 < 32
  mx : k.mx.length ≤ 8

/-- What the event of an operation on connection c needs of its table entry: in memory, and apart from a range. -/
def State.EntryClear (s : State) (c a n : Nat) : Prop :=
  ∀ e, s.connEntry? c = some e → e + 64 ≤ memoryEnd ∧ Apart e 64 a n

end Sys2Proof.Machine
end

