-- ==== Sys2Proof/Certificates/Slice0/Obligations.lean ====
section
/-! DEFINITION. The statements for the provers. -/

section
open Sys2Proof Sys2Proof.Machine

/-! Integer instructions (spec 07 R269 to R275). -/

/-- R270, R274: sums, differences, products, smaller and larger, bitwise operations, saturation, of two registers; one
source, and IMAD; the immediate forms. -/
def Obligations.IntegerResults : Prop :=
  (∀ (s : State) (g : Gang) (o : RRR),
      TwoSources s g (.iadd o) o (fun a b => BitVec.ofInt 32 (a.toInt + b.toInt)) ∧
      TwoSources s g (.isub o) o (fun a b => BitVec.ofInt 32 (a.toInt - b.toInt)) ∧
      TwoSources s g (.imul o) o (fun a b => BitVec.ofInt 32 (a.toInt * b.toInt)) ∧
      TwoSources s g (.imulh o) o (fun a b => BitVec.ofInt 32 (a.toInt * b.toInt / 2 ^ 32)) ∧
      TwoSources s g (.imulhU o) o (fun a b => BitVec.ofNat 32 (a.toNat * b.toNat / 2 ^ 32)) ∧
      TwoSources s g (.imin o) o (fun a b => BitVec.ofInt 32 (min a.toInt b.toInt)) ∧
      TwoSources s g (.imax o) o (fun a b => BitVec.ofInt 32 (max a.toInt b.toInt)) ∧
      TwoSources s g (.iminU o) o (fun a b => BitVec.ofNat 32 (min a.toNat b.toNat)) ∧
      TwoSources s g (.imaxU o) o (fun a b => BitVec.ofNat 32 (max a.toNat b.toNat)) ∧
      TwoSources s g (.iaddSat o) o (fun a b => BitVec.ofInt 32 (max (-2 ^ 31) (min (2 ^ 31 - 1) (a.toInt + b.toInt)))) ∧
      TwoSources s g (.isubSat o) o (fun a b => BitVec.ofInt 32 (max (-2 ^ 31) (min (2 ^ 31 - 1) (a.toInt - b.toInt)))) ∧
      TwoSources s g (.and o) o (fun a b => a &&& b) ∧
      TwoSources s g (.or o) o (fun a b => a ||| b) ∧
      TwoSources s g (.xor o) o (fun a b => a ^^^ b)) ∧
  ((∀ (s : State) (g : Gang) (o : RR),
      OneSource s g (.iabs o) o (fun a => BitVec.ofInt 32 |a.toInt|) ∧
      OneSource s g (.ineg o) o (fun a => BitVec.ofInt 32 (-a.toInt)) ∧
      OneSource s g (.clz o) o (fun a => if a = 0 then 32 else BitVec.ofNat 32 (31 - a.toNat.log2)) ∧
      OneSource s g (.popc o) o (fun a => BitVec.ofNat 32 ((List.range 32).countP (fun k => a.getLsbD k))) ∧
      OneSource s g (.brev o) o (fun a => BitVec.ofFnLE (fun (k : Fin 32) => a.getLsbD (31 - k)))) ∧
    ∀ (s : State) (g : Gang) (o : RRR),
      ThreeSources s g (.imad o) o (fun a b c => BitVec.ofInt 32 (a.toInt * b.toInt + c.toInt))) ∧
  ∀ (s : State) (g : Gang) (o : RRI),
    WithImmediate s g (.iaddImm o) o (fun a b => BitVec.ofInt 32 (a.toInt + b.toInt)) ∧
    WithImmediate s g (.imulImm o) o (fun a b => BitVec.ofInt 32 (a.toInt * b.toInt)) ∧
    WithImmediate s g (.andImm o) o (fun a b => a &&& b) ∧
    WithImmediate s g (.orImm o) o (fun a b => a ||| b) ∧
    WithImmediate s g (.xorImm o) o (fun a b => a ^^^ b) ∧
    WithImmediate s g (.shlImm o) o (fun a b => BitVec.ofNat 32 (a.toNat * 2 ^ b.toNat)) ∧
    WithImmediate s g (.shrImm o) o (fun a b => BitVec.ofNat 32 (a.toNat / 2 ^ b.toNat)) ∧
    WithImmediate s g (.sarImm o) o (fun a b => BitVec.ofInt 32 (a.toInt / 2 ^ b.toNat))

/-- R272, R273: shifts, rotation and the rounding shift, for every count; bit fields, whose pos is b[4:0] and whose width
is the smaller of b[13:8] and 32 - pos. -/
def Obligations.ShiftAndFieldResults : Prop :=
  (∀ (s : State) (g : Gang) (o : RRR),
      TwoSources s g (.shl o) o (fun a b => BitVec.ofNat 32 (a.toNat * 2 ^ b.toNat)) ∧
      TwoSources s g (.shr o) o (fun a b => BitVec.ofNat 32 (a.toNat / 2 ^ b.toNat)) ∧
      TwoSources s g (.sar o) o (fun a b => BitVec.ofInt 32 (a.toInt / 2 ^ b.toNat)) ∧
      TwoSources s g (.rot o) o
        (fun a b => BitVec.ofNat 32 (a.toNat * 2 ^ (b.toNat % 32) + a.toNat / 2 ^ (32 - b.toNat % 32))) ∧
      TwoSources s g (.ishrr o) o
        (fun a b => if b.toNat = 0 then a else BitVec.ofInt 32 ((a.toInt + 2 ^ (b.toNat - 1)) / 2 ^ b.toNat))) ∧
  ∀ (s : State) (g : Gang) (o : RRR),
    let pos := fun (b : Word) => b.toNat % 32
    let width := fun (b : Word) => min (b.toNat / 256 % 64) (32 - b.toNat % 32)
    TwoSources s g (.bfxU o) o (fun a b => BitVec.ofNat 32 (a.toNat / 2 ^ pos b % 2 ^ width b)) ∧
    TwoSources s g (.bfx o) o (fun a b => ((a >>> pos b).setWidth (width b)).signExtend 32) ∧
    ThreeSources s g (.bfi o) o (fun a b c =>
      let mask : Word := BitVec.ofNat 32 (2 ^ width b - 1)
      (c &&& ~~~(mask <<< pos b)) ||| ((a &&& mask) <<< pos b))

/-- R270: the 64-bit instructions. The third source of IMAD.64 is the pair at D or the hinted one (R269). -/
def Obligations.Integer64Results : Prop :=
  ∀ (s : State) (g : Gang) (o : RRR),
    TwoPairs s g (.iadd64 o) o (fun a b => BitVec.ofInt 64 (a.toInt + b.toInt)) ∧
    TwoPairs s g (.isub64 o) o (fun a b => BitVec.ofInt 64 (a.toInt - b.toInt)) ∧
    TwoPairs s g (.imin64 o) o (fun a b => BitVec.ofInt 64 (min a.toInt b.toInt)) ∧
    TwoPairs s g (.imax64 o) o (fun a b => BitVec.ofInt 64 (max a.toInt b.toInt)) ∧
    PairAndWord s g (.imul64 o) o (fun a b => BitVec.ofInt 64 (a.toInt * b.toInt)) ∧
    PairAndWord s g (.lea o) o (fun a b => BitVec.ofInt 64 (a.toInt + b.toInt)) ∧
    (s.Issues g → g.regsOk (useDst 2 o.d ++ useSrc 2 o.a ++ useSrc 1 o.b ++ useSrc 2 (third o.d s.cur.hints)) = true →
      VectorResult s g (.imad64 o) o.d true o.w o.g (fun l =>
        BitVec.ofInt 64 ((g.src64 l o.a).toInt * (g.src l o.b).toInt +
          (g.src64 l (third o.d s.cur.hints)).toInt)) 0)

/-- R271: a division in whose participating lanes no divisor is zero. -/
def Obligations.DivisionResults : Prop :=
  ∀ (s : State) (g : Gang) (o : RRR), (∀ l, g.takesPart s.cur o.g l → g.src l o.b ≠ 0) →
    TwoSources s g (.idiv o) o (fun a b => BitVec.ofInt 32 (a.toInt.tdiv b.toInt)) ∧
    TwoSources s g (.irem o) o (fun a b => BitVec.ofInt 32 (a.toInt - a.toInt.tdiv b.toInt * b.toInt)) ∧
    TwoSources s g (.idivU o) o (fun a b => BitVec.ofNat 32 (a.toNat / b.toNat)) ∧
    TwoSources s g (.iremU o) o (fun a b => BitVec.ofNat 32 (a.toNat - a.toNat / b.toNat * b.toNat))

/-- R275: the comparisons of registers and pairs into a predicate. -/
def Obligations.IntegerComparisons : Prop :=
  ∀ (s : State) (g : Gang) (o : PRR),
    Compares s g (.isetEq o) o (fun a b => decide (a.toNat = b.toNat)) ∧
    Compares s g (.isetNe o) o (fun a b => decide (a.toNat ≠ b.toNat)) ∧
    Compares s g (.isetLt o) o (fun a b => decide (a.toInt < b.toInt)) ∧
    Compares s g (.isetLe o) o (fun a b => decide (a.toInt ≤ b.toInt)) ∧
    Compares s g (.isetLtU o) o (fun a b => decide (a.toNat < b.toNat)) ∧
    Compares s g (.isetLeU o) o (fun a b => decide (a.toNat ≤ b.toNat)) ∧
    ComparesPairs s g (.isetEq64 o) o (fun a b => decide (a.toNat = b.toNat)) ∧
    ComparesPairs s g (.isetLt64 o) o (fun a b => decide (a.toInt < b.toInt))


/-! Floating point, conversion and cross-lane instructions (spec 07 R276 to R296). -/

/-- R276, R277: the FP32 instructions, each with the model's operation of its name on the codes; what each operation gives
on finite operands is ExactUnlessInexact, and on special ones Fp32SpecialInputs. -/
def Obligations.Fp32Results : Prop :=
  (∀ (s : State) (g : Gang) (o : RRR),
    let r := roundingOf s.cur.hints
    TwoSourcesFlags s g (.faddF32 o) o (fun a b => fp32.add r a.toNat b.toNat) ∧
    TwoSourcesFlags s g (.fsubF32 o) o (fun a b => fp32.sub r a.toNat b.toNat) ∧
    TwoSourcesFlags s g (.fmulF32 o) o (fun a b => fp32.mul r a.toNat b.toNat) ∧
    TwoSourcesFlags s g (.fdivF32 o) o (fun a b => fp32.div r a.toNat b.toNat) ∧
    TwoSourcesFlags s g (.fminF32 o) o (fun a b => fp32.pick false a.toNat b.toNat) ∧
    TwoSourcesFlags s g (.fmaxF32 o) o (fun a b => fp32.pick true a.toNat b.toNat) ∧
    ThreeSourcesFlags s g (.ffmaF32 o) o (fun a b c => fp32.fma r a.toNat b.toNat c.toNat)) ∧
  ∀ (s : State) (g : Gang) (o : RR),
    let r := roundingOf s.cur.hints
    OneSourceFlags s g (.fclassF32 o) o (fun a => (fp32.classMask a.toNat, 0)) ∧
    OneSourceFlags s g (.frcpF32 o) o (fun a => fp32.recip r a.toNat) ∧
    OneSourceFlags s g (.frsqF32 o) o (fun a => fp32.rsqrt r a.toNat) ∧
    OneSourceFlags s g (.fsqrtF32 o) o (fun a => fp32.sqrt r a.toNat) ∧
    OneSourceFlags s g (.fexp2F32 o) o (fun a => fp32.exp2 r a.toNat) ∧
    OneSourceFlags s g (.flog2F32 o) o (fun a => fp32.log2 r a.toNat)

/-- R281, R75: the packed forms do on each half what the .f32 forms do on a register; what each operation gives on finite
operands of its format is ExactUnlessInexact. -/
def Obligations.PackedResults : Prop :=
  ∀ (s : State) (g : Gang) (o : RRR),
    let r := roundingOf s.cur.hints
    TwoSourcesFlags s g (.faddBf16x2 o) o (eachHalf (bf16.add r)) ∧
    TwoSourcesFlags s g (.fsubBf16x2 o) o (eachHalf (bf16.sub r)) ∧
    TwoSourcesFlags s g (.fmulBf16x2 o) o (eachHalf (bf16.mul r)) ∧
    TwoSourcesFlags s g (.fminBf16x2 o) o (eachHalf (bf16.pick false)) ∧
    TwoSourcesFlags s g (.fmaxBf16x2 o) o (eachHalf (bf16.pick true)) ∧
    ThreeSourcesFlags s g (.ffmaBf16x2 o) o (eachHalf3 (bf16.fma r)) ∧
    TwoSourcesFlags s g (.faddF16x2 o) o (eachHalf (fp16.add r)) ∧
    TwoSourcesFlags s g (.fsubF16x2 o) o (eachHalf (fp16.sub r)) ∧
    TwoSourcesFlags s g (.fmulF16x2 o) o (eachHalf (fp16.mul r)) ∧
    TwoSourcesFlags s g (.fminF16x2 o) o (eachHalf (fp16.pick false)) ∧
    TwoSourcesFlags s g (.fmaxF16x2 o) o (eachHalf (fp16.pick true)) ∧
    ThreeSourcesFlags s g (.ffmaF16x2 o) o (eachHalf3 (fp16.fma r))

/-- R280: the comparisons by the numbers that the operands stand for. A quiet comparison sets NV for a signalling
NaN, an ordering one for any NaN. -/
def Obligations.Fp32Comparisons : Prop :=
  ∀ (s : State) (g : Gang) (o : PRR),
    let quiet := fun (a b : Word) =>
      if (fp32.read a.toNat).isSnan || (fp32.read b.toNat).isSnan then fNV else 0
    let signal := fun (a b : Word) =>
      if (fp32.read a.toNat).isNan || (fp32.read b.toNat).isNan then fNV else 0
    ComparesFlags s g (.fsetEq o) o
      (fun a b => ((fp32.compare .eq a.toNat b.toNat).1, quiet a b)) ∧
    ComparesFlags s g (.fsetNe o) o
      (fun a b => (!(fp32.compare .eq a.toNat b.toNat).1, quiet a b)) ∧
    ComparesFlags s g (.fsetLt o) o (fun a b => ((fp32.read a.toNat).lt (fp32.read b.toNat), signal a b)) ∧
    ComparesFlags s g (.fsetLe o) o
      (fun a b => ((fp32.read a.toNat).lt (fp32.read b.toNat) || (fp32.compare .eq a.toNat b.toNat).1, signal a b)) ∧
    ComparesFlags s g (.fsetGt o) o (fun a b => ((fp32.read b.toNat).lt (fp32.read a.toNat), signal a b)) ∧
    ComparesFlags s g (.fsetGe o) o
      (fun a b => ((fp32.read b.toNat).lt (fp32.read a.toNat) || (fp32.compare .eq a.toNat b.toNat).1, signal a b)) ∧
    ComparesFlags s g (.fsetUn o) o
      (fun a b => ((fp32.read a.toNat).isNan || (fp32.read b.toNat).isNan, quiet a b)) ∧
    ComparesFlags s g (.fsetOrd o) o
      (fun a b => (!(fp32.read a.toNat).isNan && !(fp32.read b.toNat).isNan, quiet a b))

/-- R280: on numbers the relations .eq and .lt are those of the rational numbers: -0 equals +0. -/
def Obligations.ComparisonFollowsNumbers : Prop :=
  ∀ (a b : Nat) (s t : Bool) (m n : Nat) (e f : Int),
    fp32.read a = .fin s m e → fp32.read b = .fin t n f →
    ((fp32.compare .lt a b).1 = true ↔ (fp32.read a).rat < (fp32.read b).rat) ∧
    ((fp32.compare .eq a b).1 = true ↔ (fp32.read a).rat = (fp32.read b).rat)

/-- R72, R74, R76, R277: in each format, a rounding that does not set NX delivers the exact number; on finite operands
sums, differences, products, quotients, fused products, square roots and reciprocals are the exact real number rounded
once, with its flags, or the zero or the special result of R72 where that number is zero or has none; FMIN and FMAX
deliver the smaller and the larger operand, -0 below +0. -/
def Obligations.ExactUnlessInexact : Prop :=
  (∀ (f : FpFmt) (r : Rounding) (s : Bool) (m : Nat) (e : Int),
    f = fp32 ∨ f = bf16 ∨ f = fp16 → m ≠ 0 → (f.round r s m e false).2 &&& fNX = 0 →
    (f.read (f.round r s m e false).1).rat = (if s then -1 else 1) * (m : Rat) * (2 : Rat) ^ e) ∧
  ∀ (f : FpFmt) (r : Rounding) (a b c : Nat) (sa sb sc : Bool) (ma mb mc : Nat) (ea eb ec : Int),
    f = fp32 ∨ f = bf16 ∨ f = fp16 → f.read a = .fin sa ma ea → f.read b = .fin sb mb eb → f.read c = .fin sc mc ec →
    let x : Real := ((f.read a).rat : Real)
    let y : Real := ((f.read b).rat : Real)
    let z : Real := ((f.read c).rat : Real)
    let zero := fun (s : Bool) => (f.signBit s, (0 : Flags))
    let cancels := fun (s t : Bool) => zero (if s = t then s else decide (r = .rdn))
    (x + y ≠ 0 → f.RoundsTo r (x + y) (f.add r a b)) ∧ (x + y = 0 → f.add r a b = cancels sa sb) ∧
    (x - y ≠ 0 → f.RoundsTo r (x - y) (f.sub r a b)) ∧ (x - y = 0 → f.sub r a b = cancels sa (!sb)) ∧
    (x * y ≠ 0 → f.RoundsTo r (x * y) (f.mul r a b)) ∧ (x * y = 0 → f.mul r a b = zero (sa != sb)) ∧
    (x * y + z ≠ 0 → f.RoundsTo r (x * y + z) (f.fma r a b c)) ∧
    (x * y + z = 0 → f.fma r a b c = cancels (sa != sb) sc) ∧
    (y ≠ 0 → x ≠ 0 → f.RoundsTo r (x / y) (f.div r a b)) ∧ (y ≠ 0 → x = 0 → f.div r a b = zero (sa != sb)) ∧
    (y = 0 → x ≠ 0 → f.div r a b = (f.inf (sa != sb), fDZ)) ∧ (y = 0 → x = 0 → f.div r a b = (f.qnan, fNV)) ∧
    (0 < x → f.RoundsTo r (Real.sqrt x) (f.sqrt r a)) ∧ (x < 0 → f.sqrt r a = (f.qnan, fNV)) ∧
    (x ≠ 0 → f.RoundsTo r (1 / x) (f.recip r a)) ∧
    (0 < x → f.RoundsTo r (1 / Real.sqrt x) (f.rsqrt r a)) ∧ (x < 0 → f.rsqrt r a = (f.qnan, fNV)) ∧
    let picks := fun (larger : Bool) (d : Nat) (lim : Real) => f.pick larger a b = (d, 0) → (d = a ∨ d = b) ∧
      ((f.read d).rat : Real) = lim ∧ (x = 0 → y = 0 → (f.read d).sign = if larger then sa && sb else sa || sb)
    (∃ d, f.pick false a b = (d, 0)) ∧ (∃ d, f.pick true a b = (d, 0)) ∧
    (∀ d, picks false d (min x y)) ∧ ∀ d, picks true d (max x y)

/-- R71 to R74, R277, R278: what a code of each format stands for; sums, differences, products, quotients, fused
products, FMIN and FMAX of NaNs and infinities in each format; of FP32, the special inputs of the functions of one
operand, with NaNs, numbers below 0 and powers of two, and FEXP2 and FLOG2 of every other finite input: a number within
2^-700 of the exact one, rounded once. That it rounds as the exact one does is UNVERIFIED (assumption log 9). -/
def Obligations.Fp32SpecialInputs : Prop :=
  (∀ (f : FpFmt) (r : Rounding), f = fp32 ∨ f = bf16 ∨ f = fp16 →
    f.ReadsFields ∧ f.ArithmeticSpecials r ∧ f.PickSpecials) ∧
  ∀ r : Rounding,
    fp32.FunctionSpecials r ∧ fp32.ExponentialsRound r ∧
    fp32.recip r 0x00000000 = (0x7F800000, fDZ) ∧ fp32.recip r 0x80000000 = (0xFF800000, fDZ) ∧
    fp32.recip r 0x7F800000 = (0x00000000, 0) ∧ fp32.recip r 0xFF800000 = (0x80000000, 0) ∧
    fp32.rsqrt r 0x00000000 = (0x7F800000, fDZ) ∧ fp32.rsqrt r 0x80000000 = (0xFF800000, fDZ) ∧
    fp32.rsqrt r 0x7F800000 = (0x00000000, 0) ∧ fp32.rsqrt r 0xFF800000 = (0x7FC00000, fNV) ∧
    fp32.sqrt r 0x00000000 = (0x00000000, 0) ∧ fp32.sqrt r 0x80000000 = (0x80000000, 0) ∧
    fp32.sqrt r 0x7F800000 = (0x7F800000, 0) ∧ fp32.sqrt r 0xFF800000 = (0x7FC00000, fNV) ∧
    fp32.exp2 r 0x00000000 = (0x3F800000, 0) ∧ fp32.exp2 r 0x80000000 = (0x3F800000, 0) ∧
    fp32.exp2 r 0x7F800000 = (0x7F800000, 0) ∧ fp32.exp2 r 0xFF800000 = (0x00000000, 0) ∧
    fp32.log2 r 0x00000000 = (0xFF800000, fDZ) ∧ fp32.log2 r 0x80000000 = (0xFF800000, fDZ) ∧
    fp32.log2 r 0x7F800000 = (0x7F800000, 0) ∧ fp32.log2 r 0xFF800000 = (0x7FC00000, fNV) ∧
    ∀ c, fp32.fma r 0x00000000 0x7F800000 c = (0x7FC00000, fNV)

/-- R78, R79, R82, R104, R105, R282 to R288: conversions, quantisation, decoding and the tile CRC: the instructions by
the model's operations, and what those deliver: numbers rounded once, saturation, results out of range, the block's
offset, each quantised element with its flags, residues and word, and the number of a decoded one. -/
def Obligations.ConversionResults : Prop :=
  ((∀ (r : Rounding) (sat : Bool), ConvertDelivers r sat) ∧ ∀ rn8 : Bool, QuantDelivers rn8 ∧ DquantDelivers rn8) ∧
  (∀ (s : State) (g : Gang) (o : CvtOp), s.Issues g →
    g.regsOk (useDst (NumType.regs o.target) o.d ++ useSrc (NumType.regs o.source) o.a) = true →
    let y := fun l => convert (roundingOf s.cur.hints) o.sat (CvtOp.targetType o) (CvtOp.sourceType o)
      (if NumType.isPair o.source then (g.src64 l o.a).toNat else (g.src l o.a).toNat)
    VectorResult s g (.cvt o) o.d (NumType.isPair o.target) o.w o.g (fun l => (y l).1)
      (flagsOf (g.parts s.cur o.g) (fun l => (y l).2))) ∧
  ∀ (s : State) (g : Gang) (o : RRR),
    let p := g.parts s.cur o.g
    let sb := (g.src (lowest p) o.b).toNat % 256
    let quant := fun (rn8 : Bool) (i : Instr) (f : FpFmt) =>
      s.Issues g → g.regsOk (useDst 1 o.d ++ useSrc 1 o.a ++ useSrc 1 o.b) = true →
        let q := quantBlock (if rn8 then 83 else 1559) sb p
          (fun k => f.read ((g.src k o.a).toNat % 2 ^ (1 + f.ebits + f.mbits)))
        VectorResult s g i o.d false o.w o.g (fun l => BitVec.ofNat 64 (quantWord rn8 q l))
          (flagsOf p (fun l => (q.elem l).2.2))
    quant true (.quantRn8F32 o) fp32 ∧ quant true (.quantRn8Bf16 o) bf16 ∧
    quant false (.quantRn12F32 o) fp32 ∧ quant false (.quantRn12Bf16 o) bf16 ∧
    TwoSourcesFlags s g (.dquantRn8 o) o
      (fun a b => ((dquantOf true a.toNat b.toNat).1.toNat, (dquantOf true a.toNat b.toNat).2)) ∧
    TwoSourcesFlags s g (.dquantRn12 o) o
      (fun a b => ((dquantOf false a.toNat b.toNat).1.toNat, (dquantOf false a.toNat b.toNat).2)) ∧
    TwoSources s g (.trchk o) o (fun a b => crcRun b
      [a.setWidth 8, (a >>> 8).setWidth 8, (a >>> 16).setWidth 8, (a >>> 24).setWidth 8])

/-- R290 to R292, R295, R296: shuffles, MATCH, votes, population prefix and intersection. -/
def Obligations.CrossLaneResults : Prop :=
  (∀ (s : State) (g : Gang) (o : RRR),
    let p := g.parts s.cur o.g
    let shuffle := fun (i : Instr) (pick : Nat → Nat → Int) =>
      s.Issues g → g.regsOk (useDst 1 o.d ++ useSrc 1 o.a ++ useSrc 1 o.b) = true →
        VectorResult s g i o.d false o.w o.g (fun l =>
          let j := pick l (g.src l o.b).toNat
          (g.src (if 0 ≤ j ∧ j < 32 ∧ p.getLsbD j.toNat = true then j.toNat else l) o.a).setWidth 64) 0
    shuffle (.shflIdx o) (fun _ b => b % 32) ∧ shuffle (.shflUp o) (fun l b => l - b) ∧
    shuffle (.shflDown o) (fun l b => l + b) ∧ shuffle (.shflXor o) (fun l b => (l ^^^ b % 32 : Nat)) ∧
    (s.Issues g → g.regsOk (useDst 1 o.d ++ useSrc 2 o.a ++ useSrc 1 o.b) = true →
      VectorResult s g (.ppfx o) o.d false o.w o.g (fun l => BitVec.ofNat 64
        ((List.range (min 64 (g.src l o.b).toNat)).countP (fun k => (g.src64 l o.a).getLsbD k))) 0) ∧
    (s.Issues g → g.regsOk (useDst 1 o.d ++ useSrc 2 o.a ++ useSrc 2 o.b) = true →
      VectorResult s g (.isect o) o.d false o.w o.g (fun l => BitVec.ofNat 64
        (((List.range 64).filter (fun k =>
          (g.src64 (lowest p) o.a).getLsbD k && (g.src64 (lowest p) o.b).getLsbD k)).getD l 0xFFFFFFFF)) 0)) ∧
  (∀ (s : State) (g : Gang) (o : RR),
    let p := g.parts s.cur o.g
    CrossLane s g (.matchLanes o) o
      (fun l => maskWhere (fun k => p.getLsbD k && g.src k o.a == g.src l o.a)) ∧
    CrossLane s g (.voteBallot o) o (fun _ => maskWhere (fun k => p.getLsbD k && g.src k o.a != 0))) ∧
  ∀ (s : State) (g : Gang) (o : PR),
    let p := g.parts s.cur o.g
    (s.Issues g → g.regsOk (useSrc 1 o.a) = true →
      PredicateResult s g (.voteAny o) o.p o.g
        (fun _ => (participants p 32).any (fun k => g.src k o.a != 0)) 0) ∧
    (s.Issues g → g.regsOk (useSrc 1 o.a) = true →
      PredicateResult s g (.voteAll o) o.p o.g
        (fun _ => (participants p 32).all (fun k => g.src k o.a != 0)) 0)

/-- R293, R294, R77: prefix sums and reductions over the participating lanes: the integer ones, and the FP32 ones by
the fixed trees with the identities substituted. -/
def Obligations.LaneReductions : Prop :=
  (∀ (s : State) (g : Gang) (o : RR),
      let p := g.parts s.cur o.g
      let reduce := fun (n : Nat) (z : Word) (f : Word → Word → Word) =>
        (participants p n).foldl (fun x k => f x (g.src k o.a)) z
      CrossLane s g (.lpfxAddI32 o) o (fun l => reduce (l + 1) 0 (· + ·)) ∧
      CrossLane s g (.lredAddI32 o) o (fun _ => reduce 32 0 (· + ·)) ∧
      CrossLane s g (.lredMinI32 o) o (fun _ => reduce 32 0x7FFFFFFF (fun a b => if a.toInt ≤ b.toInt then a else b)) ∧
      CrossLane s g (.lredMaxI32 o) o (fun _ => reduce 32 0x80000000 (fun a b => if a.toInt ≤ b.toInt then b else a)) ∧
      CrossLane s g (.lredAnd o) o (fun _ => reduce 32 0xFFFFFFFF (· &&& ·)) ∧
      CrossLane s g (.lredOr o) o (fun _ => reduce 32 0 (· ||| ·)) ∧
      CrossLane s g (.lredXor o) o (fun _ => reduce 32 0 (· ^^^ ·))) ∧
  ∀ (s : State) (g : Gang) (o : RR),
    let p := g.parts s.cur o.g
    let r := roundingOf s.cur.hints
    let leaves := fun (z : Nat) =>
      (List.range 32).map (fun k => (if p.getLsbD k then (g.src k o.a).toNat else z, (0 : Flags)))
    let reduce := fun (i : Instr) (z : Nat) (f : Nat → Nat → Nat × Flags) =>
      s.Issues g → g.regsOk (useDst 1 o.d ++ useSrc 1 o.a) = true →
        VectorResult s g i o.d false o.w o.g (fun _ => BitVec.ofNat 64 (reduceTree f (leaves z)).1)
          (flagsOf p (fun _ => (reduceTree f (leaves z)).2))
    (s.Issues g → g.regsOk (useDst 1 o.d ++ useSrc 1 o.a) = true →
      let y := prefixTree (fp32.add r) (leaves 0x80000000)
      VectorResult s g (.lpfxAddF32 o) o.d false o.w o.g (fun l => BitVec.ofNat 64 (y.getD l (0, 0)).1)
        (flagsOf p (fun l => (y.getD l (0, 0)).2))) ∧
    reduce (.lredAddF32 o) 0x80000000 (fp32.add r) ∧ reduce (.lredMulF32 o) 0x3F800000 (fp32.mul r) ∧
    reduce (.lredMinF32 o) 0x7FC00000 (fp32.pick false) ∧ reduce (.lredMaxF32 o) 0x7FC00000 (fp32.pick true)

/-! Moves, predicates, scalars and branches (spec 07 R258 to R268, R297 to R301). -/

/-- R297 to R301: moves between vector registers, scalars, immediates and predicates (SEL takes every active lane),
operations on predicates, and the scalar instructions, 64 bits wide, whose y is s[SB], the immediate or a hinted
immediate. -/
def Obligations.MoveAndScalarResults : Prop :=
  ((∀ (s : State) (g : Gang) (o : RR), OneSource s g (.mov o) o (fun a => a)) ∧
    (∀ (s : State) (g : Gang) (o : RS), Moves s g (.movs o) o.d o.w o.g (fun _ => (g.sreg o.s).setWidth 32)) ∧
    (∀ (s : State) (g : Gang) (o : RI),
      Moves s g (.movi o) o.d false false (fun _ => BitVec.ofInt 32 ((wideImm s.cur.hints).getD o.imm))) ∧
    (∀ (s : State) (g : Gang) (o : RW),
      Moves s g (.pmov o) o.d o.w o.g
        (fun l => BitVec.ofFnLE (fun (k : Fin 32) => decide (k.val < 8) && g.predAt k.val l))) ∧
    (∀ (s : State) (g : Gang) (o : RP), Moves s g (.pmovTov o) o.d o.w o.g (fun l => if g.predAt o.p l then 1 else 0)) ∧
    (∀ (s : State) (g : Gang) (o : SRR), s.Issues g → g.regsOk (useSrc 1 o.a ++ useSrc 1 o.b) = true →
      let p := g.parts s.cur o.g
      let k := (g.src (lowest p) o.b).toNat % 32
      ScalarResult s g (.movsGet o) o.s (if p = 0 then g.sreg o.s else (g.src k o.a).setWidth 64)) ∧
    ∀ (s : State) (g : Gang) (o : SelOp), s.Issues g →
      g.regsOk (useDst 1 o.d ++ useSrc 1 o.a ++ useSrc 1 o.b ++ ((thirdSource s.cur.hints).map (useSrc 1)).getD []) = true →
      ∃ h, exec (.sel o) s = .next (s.putGang h) ∧
        (∀ l, s.cur.active.getLsbD l = true →
          let x := if (match thirdSource s.cur.hints, guardHint s.cur.hints with
              | some c, _ => g.src l c != 0
              | none, some (n, neg) => g.predAt n l != neg
              | none, none => g.predAt 0 l) then g.src l o.a else g.src l o.b
          (h.lane l).latch 0 = x.setWidth 64 ∧ (h.lane l).pc = s.cur.next ∧
          ∀ r, o.d = .reg r → h.reg r l = x ∨ (o.w = true ∧ h.reg r l = g.reg r l)) ∧
        (∀ l r, l < 32 → (s.cur.active.getLsbD l = true → ¬ Dst.covers o.d false r) → g.pendingOn l r = false →
          h.reg r l = g.reg r l) ∧
        h.preds = g.preds ∧ h.s = g.s ∧ h.fpflags = g.fpflags ∧ g.Stays h ∧ SameMemory s (s.putGang h)) ∧
  ((∀ (s : State) (g : Gang) (o : PPP),
      PredicateMoves s g (.psetAnd o) o.d o.g (fun l => g.predAt o.a l && g.predAt o.b l) ∧
      PredicateMoves s g (.psetOr o) o.d o.g (fun l => g.predAt o.a l || g.predAt o.b l) ∧
      PredicateMoves s g (.psetXor o) o.d o.g (fun l => g.predAt o.a l ^^ g.predAt o.b l) ∧
      PredicateMoves s g (.psetAndn o) o.d o.g (fun l => g.predAt o.a l && !g.predAt o.b l)) ∧
    ∀ (s : State) (g : Gang) (o : PR), s.Issues g → g.regsOk (useSrc 1 o.a) = true →
      PredicateResult s g (.pmovFromv o) o.p o.g (fun l => (g.src l o.a).getLsbD o.p) 0) ∧
  (∀ (s : State) (g : Gang) (o : SSS),
    let test := fun (b : Bool) => if b then (1 : DWord) else 0
    ScalarOp s g (.sadd o) o (fun a y => BitVec.ofNat 64 (a.toNat + y.toNat)) ∧
    ScalarOp s g (.ssub o) o (fun a y => BitVec.ofInt 64 ((a.toNat : Int) - y.toNat)) ∧
    ScalarOp s g (.smul o) o (fun a y => BitVec.ofNat 64 (a.toNat * y.toNat)) ∧
    ScalarOp s g (.sand o) o (fun a y => a &&& y) ∧
    ScalarOp s g (.sor o) o (fun a y => a ||| y) ∧
    ScalarOp s g (.sxor o) o (fun a y => a ^^^ y) ∧
    ScalarOp s g (.sshl o) o (fun a y => BitVec.ofNat 64 (a.toNat * 2 ^ y.toNat)) ∧
    ScalarOp s g (.sshr o) o (fun a y => BitVec.ofNat 64 (a.toNat / 2 ^ y.toNat)) ∧
    ScalarOp s g (.ssetEq o) o (fun a y => test (decide (a.toNat = y.toNat))) ∧
    ScalarOp s g (.ssetNe o) o (fun a y => test (decide (a.toNat ≠ y.toNat))) ∧
    ScalarOp s g (.ssetLt o) o (fun a y => test (decide (a.toInt < y.toInt))) ∧
    ScalarOp s g (.ssetLe o) o (fun a y => test (decide (a.toInt ≤ y.toInt))) ∧
    ScalarOp s g (.ssetLtU o) o (fun a y => test (decide (a.toNat < y.toNat))) ∧
    ScalarOp s g (.ssetLeU o) o (fun a y => test (decide (a.toNat ≤ y.toNat)))) ∧
  ∀ (s : State) (g : Gang) (o : SMovOp), s.Issues g →
    ScalarResult s g (.smov o) o.d (g.scalarY s.cur.hints o.y)

/-- R259 to R262: the branches (BRP.any and BRP.all decide once for the participating lanes); CALL, which also writes
the address of the next word to the link pair of each participating lane and makes no latch entry; RET and JMPI,
which send each participating lane to the address that its pair, latch or zero gives, when every such address is a
multiple of 4 below 2^48. -/
def Obligations.BranchResults : Prop :=
  (∀ (s : State) (g : Gang), s.Issues g →
      let p := g.parts s.cur false
      let branch := fun (i : Instr) (disp : Int) (taken : Nat → Bool) =>
        BranchResult s g i (fun l => if p.getLsbD l && taken l then
          BitVec.ofInt 48 ((s.cur.hpc.toNat : Int) +
            4 * (match farDisp s.cur.hints with
              | some h => signed 42 (h * 2 ^ 20 + (disp % 2 ^ 20).toNat)
              | none => disp))
          else s.cur.next)
      (∀ o : BrOp, branch (.br o) o.disp (fun _ => true)) ∧
      (∀ o : BrpOp, branch (.brpAny o) o.disp (fun _ => (participants p 32).any (fun k => g.predAt o.p k)) ∧
        branch (.brpAll o) o.disp (fun _ => (participants p 32).all (fun k => g.predAt o.p k)) ∧
        branch (.brpLane o) o.disp (fun l => g.predAt o.p l))) ∧
  (∀ (s : State) (g : Gang) (o : CallOp), s.Issues g → g.regsOk [2 * o.k, 2 * o.k + 1] = true →
      let p := g.parts s.cur false
      ∃ h, exec (.call o) s = .next (s.putGang h) ∧
        (∀ l, s.cur.active.getLsbD l = true →
          (h.lane l).pc = if p.getLsbD l then s.cur.target o.disp else s.cur.next) ∧
        (∀ l, p.getLsbD l = true → h.reg (2 * o.k) l = BitVec.ofNat 32 s.cur.next.toNat ∧
          h.reg (2 * o.k + 1) l = BitVec.ofNat 32 (s.cur.next.toNat / 2 ^ 32)) ∧
        (∀ l r, l < 32 → (p.getLsbD l = true → r ≠ 2 * o.k ∧ r ≠ 2 * o.k + 1) → g.pendingOn l r = false →
          h.reg r l = g.reg r l) ∧
        (∀ l n, (h.lane l).latch n = (g.lane l).latch n) ∧
        h.preds = g.preds ∧ h.s = g.s ∧ h.fpflags = g.fpflags ∧ g.Stays h ∧ SameMemory s (s.putGang h)) ∧
  ∀ (s : State) (g : Gang) (o : JumpOp), s.Issues g → g.regsOk (useSrc 2 o.v) = true →
    (∀ l, g.takesPart s.cur false l →
      (g.src64 l o.v).toNat % 4 = 0 ∧ (g.src64 l o.v).toNat < 2 ^ 48) →
    let to_ := fun l => if (g.parts s.cur false).getLsbD l then BitVec.ofNat 48 (g.src64 l o.v).toNat else s.cur.next
    BranchResult s g (.ret o) to_ ∧ BranchResult s g (.jmpi o) to_


/-! Traps (spec 07 R255, R262, R271; 09 R389; 10 R396 to R411). -/

/-- R271: a division by zero in some participating lane takes those lanes into the trap handler with DVZ. -/
def Obligations.DivisionByZeroTraps : Prop :=
  ∀ (s : State) (g : Gang) (o : RRR), s.Issues g →
    g.regsOk (useDst 1 o.d ++ useSrc 1 o.a ++ useSrc 1 o.b) = true →
    let m := g.parts s.cur o.g &&& maskWhere (fun l => g.src l o.b == 0)
    m ≠ 0 → g.handles 0 m →
    EntersHandler s g (.idiv o) m 0 .dvz (fun _ => 0) ∧ EntersHandler s g (.irem o) m 0 .dvz (fun _ => 0) ∧
    EntersHandler s g (.idivU o) m 0 .dvz (fun _ => 0) ∧ EntersHandler s g (.iremU o) m 0 .dvz (fun _ => 0)

/-- R389, R402, R403: TRAP takes the participating lanes into the trap handler with UTRAP and its code. -/
def Obligations.TrapInstruction : Prop :=
  ∀ (s : State) (g : Gang) (o : TrapOp), s.Issues g →
    let m := g.parts s.cur false
    m ≠ 0 → g.handles 0 m → EntersHandler s g (.trap o) m 0 .utrap (fun _ => BitVec.ofNat 64 o.code)

/-- R42, R241, R407: an undefined word, and an instruction that names a register at or above .vregs, do nothing but take
every active lane into the emulation handler with EMU. -/
def Obligations.EmulationEntries : Prop :=
  (∀ (s : State) (g : Gang), s.Issues g → s.cur.active ≠ 0 → g.handles 1 s.cur.active →
      EntersHandler s g .undefinedWord s.cur.active 1 .emu (fun _ => 0)) ∧
  ∀ (s : State) (g : Gang), s.Issues g → s.cur.active ≠ 0 → g.handles 1 s.cur.active →
    (∀ o : RRR, g.regsOk (useDst 1 o.d ++ useSrc 1 o.a ++ useSrc 1 o.b) = false →
      EntersHandler s g (.iadd o) s.cur.active 1 .emu (fun _ => 0) ∧
      EntersHandler s g (.idiv o) s.cur.active 1 .emu (fun _ => 0) ∧
      EntersHandler s g (.faddF32 o) s.cur.active 1 .emu (fun _ => 0)) ∧
    (∀ o : PRR, g.regsOk (useSrc 1 o.a ++ useSrc 1 o.b) = false →
      EntersHandler s g (.isetLt o) s.cur.active 1 .emu (fun _ => 0)) ∧
    (∀ o : LdgOp, g.regsOk (useDst (regsOf (LoadMode.bytes o.mode)) o.d ++ useSrc 2 o.a) = false →
      EntersHandler s g (.ldg o) s.cur.active 1 .emu (fun _ => 0)) ∧
    (∀ o : CallOp, g.regsOk [2 * o.k, 2 * o.k + 1] = false →
      EntersHandler s g (.call o) s.cur.active 1 .emu (fun _ => 0))

/-- R262, R305, R306: RET and JMPI take the lanes whose target is not a multiple of 4 into the handler with ALIGN, and
those whose target is at or above 2^48 with PERM; a plain access at an address that is not a multiple of its size traps
with ALIGN; tw.addr holds the target or the exact address sum. That a target which is both traps with ALIGN is the
model's reading (assumption log 25). -/
def Obligations.AlignmentTraps : Prop :=
  (∀ (s : State) (g : Gang) (o : JumpOp), s.Issues g → g.regsOk (useSrc 2 o.v) = true →
      let p := g.parts s.cur false
      let target := fun (l : Nat) => (g.src64 l o.v).toNat
      let traps := fun (m : LaneMask) (cause : Cause) => m ≠ 0 → g.handles 0 m →
        EntersHandler s g (.ret o) m 0 cause (fun l => g.src64 l o.v) ∧
        EntersHandler s g (.jmpi o) m 0 cause (fun l => g.src64 l o.v)
      ((∀ l, p.getLsbD l = true → target l % 4 = 0 → target l < 2 ^ 48) →
        traps (p &&& maskWhere (fun l => target l % 4 != 0)) .align) ∧
      ((∀ l, p.getLsbD l = true → target l % 4 = 0) →
        traps (p &&& maskWhere (fun l => decide (2 ^ 48 ≤ target l))) .perm)) ∧
  ∀ (s : State) (g : Gang), s.Issues g →
    let m := g.todo s.cur
    m ≠ 0 → g.handles 0 m →
    (∀ o : LdgOp, let n := LoadMode.bytes o.mode
      let sum := fun l => g.address .global o.a (s.offsetOf o.off n) l
      g.regsOk (useDst (regsOf n) o.d ++ useSrc 2 o.a) = true →
      (∀ l, m.getLsbD l = true → sum l % n ≠ 0) →
      EntersHandler s g (.ldg o) m 0 .align (fun l => BitVec.ofInt 64 (sum l))) ∧
    (∀ o : LdsOp, let n := LoadMode.bytes o.mode
      let sum := fun l => g.address .scratch o.a (s.offsetOf o.off n) l
      g.regsOk (useDst (regsOf n) o.d ++ useSrc 1 o.a) = true →
      (∀ l, m.getLsbD l = true → sum l % n ≠ 0) →
      EntersHandler s g (.lds o) m 0 .align (fun l => BitVec.ofInt 64 (sum l)) ∧
      EntersHandler s g (.ldw o) m 0 .align (fun l => BitVec.ofInt 64 (sum l))) ∧
    (∀ z v a off, let n := StoreSize.bytes z
      let sum := fun l => g.address .global a (s.offsetOf off n) l
      g.regsOk (useSrc (regsOf n) v ++ useSrc 2 a) = true →
      (∀ l, m.getLsbD l = true → sum l % n ≠ 0) →
      EntersHandler s g (.stg ⟨.plain z, v, a, off⟩) m 0 .align (fun l => BitVec.ofInt 64 (sum l))) ∧
    (∀ z v a off, let n := StoreSize.bytes z
      let sum := fun l => g.address .scratch a (s.offsetOf off n) l
      g.regsOk (useSrc (regsOf n) v ++ useSrc 1 a) = true →
      (∀ l, m.getLsbD l = true → sum l % n ≠ 0) →
      EntersHandler s g (.sts ⟨.plain z, v, a, off⟩) m 0 .align (fun l => BitVec.ofInt 64 (sum l)) ∧
      EntersHandler s g (.stw ⟨.plain z, v, a, off⟩) m 0 .align (fun l => BitVec.ofInt 64 (sum l)))

/-! Loads, stores and atomics (spec 07 R303; 08 R304 to R328). -/

/-- R308, R309, R315, R316: a load or store whose checks pass in every lane completes, in each space and order. -/
def Obligations.AccessesComplete : Prop :=
  ∀ (s : State) (g : Gang), s.Issues g →
    let load := fun (i : Instr) (sp : LaneSpace) (mode : LoadMode) (d : Dst) (a : Src) (off : Nat) =>
      let n := LoadMode.bytes mode
      g.regsOk (useDst (regsOf n) d ++ useSrc sp.width a) = true →
      let cs := s.laneChecks g sp a (s.offsetOf off n) n (LoadMode.kind mode)
      (∀ sc, LoadMode.scope? mode = some sc → s.Unhindered g (objsOf ((oksOf cs).map (·.2))) sc false) →
      Passes n cs → Completes s i (fun _ _ => True)
    let store := fun (i : Instr) (sp : LaneSpace) (mode : StoreMode) (v a : Src) (off : Nat) =>
      let n := StoreMode.bytes mode
      g.regsOk (useSrc (regsOf n) v ++ useSrc sp.width a) = true →
      let cs := s.laneChecks g sp a (s.offsetOf off n) n .store
      (∀ sc, StoreMode.scope? mode = some sc → s.Unhindered g (objsOf ((oksOf cs).map (·.2))) sc true) →
      Passes n cs → Completes s i (fun _ _ => True)
    (∀ o, load (.ldg o) .global o.mode o.d o.a o.off) ∧ (∀ o, load (.ldl o) .priv (.plain o.size) o.d o.a o.off) ∧
    (∀ o, load (.lds o) .scratch o.mode o.d o.a o.off) ∧ (∀ o, load (.ldw o) .window o.mode o.d o.a o.off) ∧
    (∀ o, store (.stg o) .global o.mode o.v o.a o.off) ∧ (∀ o, store (.stl o) .priv (.plain o.size) o.v o.a o.off) ∧
    (∀ o, store (.sts o) .scratch o.mode o.v o.a o.off) ∧ (∀ o, store (.stw o) .window o.mode o.v o.a o.off)

/-- R141 to R145, R187, R188, R309, R315: what a load reads. A plain load reads the bytes that the L1 holds, or those of
a scratchpad; of one lane, with no block of their frame in the L1 and in the remote-data cache between, those at the
home, and the L1 holds them afterwards. An ordered load of one lane reads the bytes at the home or bank, after the
core's copies of the word went there, and acquires its object; that the object of a 4-byte access is its aligned 8-byte
word is the model's reading (assumption log 22). -/
def Obligations.PlainLoadResults : Prop :=
  ∀ (s : State) (g : Gang), s.Issues g →
    let c := s.cur.core
    let load := fun (i : Instr) (sp : LaneSpace) (z : LoadSize) (d : Dst) (a : Src) (off : Nat) =>
      let n := LoadSize.bytes z
      let cs := s.laneChecks g sp a (s.offsetOf off n) n .load
      g.regsOk (useDst (regsOf n) d ++ useSrc sp.width a) = true → Passes n cs →
      ((∀ l p, (l, Check.ok p) ∈ cs → s.l1Has c n p) → LoadResult s g i cs d (.plain z) True) ∧
      ∀ l va lf, cs = [(l, .ok (.page va lf))] → s.FrameAbsent c ((lf.pa + (va - lf.va)) / 256) →
        let keeps := s.SetsClean c ((lf.pa + (va - lf.va)) / 256)
        LoadResult s g i cs d (.plain z) keeps ∧
        Completes s i (fun t h => t.l1Has c n (.page va lf) ∧ g.Loaded h l d n
          (LoadMode.value (.plain z) (s.placeBytes n (.page va lf))))
    let ordered := fun (i : Instr) (sp : LaneSpace) (wide : Bool) (sc : Scope) (d : Dst) (a : Src) (off : Nat) =>
      let n := if wide then 8 else 4
      ∀ team l p, (s.core c).partOf g = some team →
      g.regsOk (useDst (regsOf n) d ++ useSrc sp.width a) = true →
      s.laneChecks g sp a (s.offsetOf off n) n .loadHome = [(l, .ok p)] → Place.inMemory n p →
      s.Unhindered g [p.obj] sc false →
      let u := s.homed p
      Completes s i (fun t h =>
        g.Loaded h l d n (BitVec.ofNat 64 (ofBytes (u.placeBytes n p)), 0) ∧
        (∀ k, (t.core k).scratch = (s.core k).scratch) ∧ Acquired u t c team p.obj sc)
    (∀ (z : LoadSize) (d : Dst) (a : Src) (off : Nat) (nf : Bool),
      load (.ldg ⟨.plain z, d, a, off, nf⟩) .global z d a off ∧ load (.ldl ⟨z, d, a, off⟩) .priv z d a off ∧
      load (.lds ⟨.plain z, d, a, off⟩) .scratch z d a off ∧ load (.ldw ⟨.plain z, d, a, off⟩) .window z d a off) ∧
    ∀ (wide : Bool) (sc : Scope) (d : Dst) (a : Src) (off : Nat) (nf : Bool),
      ordered (.ldg ⟨.ordered wide sc, d, a, off, nf⟩) .global wide sc d a off ∧
      ordered (.lds ⟨.ordered wide sc, d, a, off⟩) .scratch wide sc d a off ∧
      ordered (.ldw ⟨.ordered wide sc, d, a, off⟩) .window wide sc d a off

/-- R145, R187, R311, R316: what a store writes. A plain store puts its bytes into the L1 or a scratchpad: at words that
blocks of the L1 cover, or, of one lane, where no block of the frame is, with the frame's other bytes as before. An
ordered store releases its objects and writes at the home or bank, after the core's copies of each word went there: at
each byte the highest lane's, and no other byte beside what those copies and the release write back. That the object of
a 4-byte access is its aligned 8-byte word is the model's reading (assumption log 22). -/
def Obligations.PlainStoreResults : Prop :=
  ∀ (s : State) (g : Gang), s.Issues g →
    let c := s.cur.core
    let frame := fun (h : Gang) => (∀ l r, l < 32 → g.pendingOn l r = false → h.reg r l = g.reg r l) ∧
      h.preds = g.preds ∧ h.s = g.s ∧ h.fpflags = g.fpflags
    let store := fun (i : Instr) (sp : LaneSpace) (z : StoreSize) (v a : Src) (off : Nat) =>
      let n := StoreSize.bytes z
      let cs := s.laneChecks g sp a (s.offsetOf off n) n .store
      g.regsOk (useSrc (regsOf n) v ++ useSrc sp.width a) = true → Passes n cs →
      ((∀ l p, (l, Check.ok p) ∈ cs → s.l1Covers c n p) → StoreResult s g i cs n v) ∧
      ∀ l va lf, cs = [(l, .ok (.page va lf))] →
        let pa := lf.pa + (va - lf.va)
        s.FrameAbsent c (pa / 256) →
        Completes s i (fun t h => frame h ∧ (s.SetsClean c (pa / 256) → SameMemory s t) ∧
          (∀ k, k < n → t.l1Byte c (pa + k) = (g.storeBytes n l v).getD k 0) ∧
          (s.SetsClean c (pa / 256) → ∀ x, x / 256 = pa / 256 → (x < pa ∨ pa + n ≤ x) →
            t.l1Byte c x = s.belowL1 (dieOfCore c) x) ∧
          ∀ k, (t.core k).scratch = (s.core k).scratch)
    let ordered := fun (i : Instr) (sp : LaneSpace) (wide : Bool) (sc : Scope) (v a : Src) (off : Nat) =>
      let n := if wide then 8 else 4
      let cs := s.laneChecks g sp a (s.offsetOf off n) n .store
      ∀ team, (s.core c).partOf g = some team → g.regsOk (useSrc (regsOf n) v ++ useSrc sp.width a) = true →
      Passes n cs → s.Unhindered g (objsOf ((oksOf cs).map (·.2))) sc true → s.MemOk →
      Completes s i (fun t h => frame h ∧
        ((∀ l p, (l, Check.ok p) ∈ cs → s.Unsealed c p) → ∀ l p k, (l, Check.ok p) ∈ cs → k < n →
          (∀ l' p' k', (l', Check.ok p') ∈ cs → k' < n → Place.loc k' p' = Place.loc k p → l' ≤ l) →
          t.homeByte (Place.loc k p) = (g.storeBytes n l v).getD k 0) ∧
        (s.NoDirty c → s.dev.badTransfers = [] → ∀ x,
          (∀ l p k, (l, Check.ok p) ∈ cs → k < n → Place.loc k p ≠ x) → t.homeByte x = s.homeByte x) ∧
        (∀ o, cs ≠ [] → (∀ l p, (l, Check.ok p) ∈ cs → p.obj = o) → Released s t c team o sc) ∧
        ∀ l p, cs = [(l, .ok p)] → t.placeBytes n p = g.storeBytes n l v ∧
          (s.dev.badTransfers = [] → OnlyAt ((s.releaseObj c team p.obj sc).homed p) t n p))
    (∀ (z : StoreSize) (v a : Src) (off : Nat),
      store (.stg ⟨.plain z, v, a, off⟩) .global z v a off ∧ store (.stl ⟨z, v, a, off⟩) .priv z v a off ∧
      store (.sts ⟨.plain z, v, a, off⟩) .scratch z v a off ∧ store (.stw ⟨.plain z, v, a, off⟩) .window z v a off) ∧
    ∀ (wide : Bool) (sc : Scope) (v a : Src) (off : Nat),
      ordered (.stg ⟨.ordered wide sc, v, a, off⟩) .global wide sc v a off ∧
      ordered (.sts ⟨.ordered wide sc, v, a, off⟩) .scratch wide sc v a off ∧
      ordered (.stw ⟨.ordered wide sc, v, a, off⟩) .window wide sc v a off

/-- R301, R303: SLDG and SSTG move one doubleword between a scalar and memory at s[SA] + 8 * X, once per issue: from or
to the bytes that the L1 holds or covers, or, where no block of the frame is, from the home or to a new block. -/
def Obligations.ScalarMemoryResults : Prop :=
  ∀ (s : State) (g : Gang) (o : SMemOp), s.Issues g →
    let c := s.cur.core
    let m := s.cur.active &&& ~~~g.done
    let check := fun (kind : AccKind) =>
      (s.checkGlobal g (lowest m) ((g.sreg o.a).toNat + 8 * o.x) 8 kind).2
    let frame := fun (h : Gang) => (∀ l r, l < 32 → g.pendingOn l r = false → h.reg r l = g.reg r l) ∧
      h.preds = g.preds ∧ h.fpflags = g.fpflags
    m ≠ 0 →
    (∀ p, check .load = .ok p → Place.inMemory 8 p →
      let loads := fun (bs : List Byte) (keeps : Prop) => Completes s (.sldg o) (fun t h => frame h ∧
        (∀ n, h.sreg n = if n = o.d then BitVec.ofNat 64 (ofBytes bs) else g.sreg n) ∧ (keeps → SameMemory s t))
      (s.l1Has c 8 p → loads (s.viewBytes c 8 p) True) ∧
      (s.FrameAbsent c (p.pa / 256) → loads (s.placeBytes 8 p) (s.SetsClean c (p.pa / 256)))) ∧
    (∀ p, check .store = .ok p → Place.inMemory 8 p →
      let stores := fun (others : Nat × Nat → Prop) (keeps : Prop) => Completes s (.sstg o) (fun t h => frame h ∧
        h.s = g.s ∧ (keeps → SameMemory s t) ∧
        (∀ k, k < 8 → t.viewByte c (Place.loc k p) = (bytesOf 8 (g.sreg o.d).toNat).getD k 0) ∧
        ∀ x, others x → (∀ k, k < 8 → Place.loc k p ≠ x) → t.viewByte c x = s.viewByte c x)
      (s.l1Covers c 8 p → stores (fun _ => True) True) ∧
      (s.FrameAbsent c (p.pa / 256) →
        stores (fun x => x.1 = 0 ∧ x.2 / 256 = p.pa / 256 ∧ s.SetsClean c (p.pa / 256)) (s.SetsClean c (p.pa / 256))))

/-- R186 to R188, R197, R198, R321 to R325: the atomics of lanes that name one place, in ascending lane order, each
applied to what the lane before left, at the bank or at the home after the core's copies of the word went there; ATOM and
ATOMS put each old value into the lane's destination; a release comes first and an acquire last. The new value is that of
R323. A packed pair that spans two words of a scratchpad is added half by half, both in one move or, where the schedule
parts the move, the low half first and the high half when the instruction issues again. That the object of a 4-byte
access is its aligned 8-byte word is the model's reading (assumption log 22). -/
def Obligations.AtomicResults : Prop :=
  ∀ (s : State) (g : Gang) (team : TeamPart) (sc : Scope) (order : Order) (fn : AtomicFn) (ty : AtomicType) (a : Src),
    s.Issues g → (s.core s.cur.core).partOf g = some team →
    let c := s.cur.core
    let whole := ∀ l, (g.lane l).half = none
    let free := fun (os : List ObjLoc) => order = .relaxed ∨ s.Unhindered g os sc (order == .rel)
    let n := AtomicType.bytes ty
    let new := fun (old x cmp : Nat) =>
      let v := fun (y : Nat) =>
        if ty = .i32 ∨ ty = .i64 then (BitVec.ofNat (8 * n) y).toInt else ((BitVec.ofNat (8 * n) y).toNat : Int)
      match ty, fn with
      | .f32, .add => (fp32.add .rne old x).1
      | .f32, .min => (fp32.pick false old x).1
      | .f32, .max => (fp32.pick true old x).1
      | .bf16x2, _ => (eachHalf (bf16.add .rne) (BitVec.ofNat 32 old) (BitVec.ofNat 32 x)).1
      | .f16x2, _ => (eachHalf (fp16.add .rne) (BitVec.ofNat 32 old) (BitVec.ofNat 32 x)).1
      | _, .add => (old + x) % 2 ^ (8 * n)
      | _, .min => if v old ≤ v x then old else x
      | _, .max => if v old ≤ v x then x else old
      | _, .and => old &&& x
      | _, .or => old ||| x
      | _, .xor => old ^^^ x
      | _, .exch => x
      | _, .cas => if old = cmp then x else old
    let u := if order = .rel then fun p => (s.releaseObj c team (Place.obj p) sc).homed p else s.homed
    let atomic := fun (i : Instr) (sp : LaneSpace) (v : Src) (d : Option Dst) =>
      i.wf = true → g.regsOk (useSrc (atomicRegs fn ty) v ++ useSrc sp.width a) = true →
      ∀ (ls : List Nat) (p : Place), ls ≠ [] → (∀ l ∈ ls, g.address sp a 0 l % 4 = 0) →
        s.laneChecks g sp a 0 (if (AtomicType.half? ty).isSome then 2 else n) .atomic = ls.map (fun l => (l, .ok p)) →
        Place.inMemory n p → s.split = none → whole → free [p.obj] →
        let after := fun (ks : List Nat) => ks.foldl
          (fun x k => new x (g.atomicData fn ty v k).1 (g.atomicData fn ty v k).2) (ofBytes ((u p).placeBytes n p))
        Completes s i (fun t h =>
          (s.MemOk → (order = .acq → s.Unsealed c p) → t.placeBytes n p = bytesOf n (after ls)) ∧
          (∀ before l more, ls = before ++ l :: more → ∀ r x, (∃ d', d = some d' ∧
            (r, x) ∈ (quadWords d' (BitVec.ofNat 64 (after before)) 0).take (regsOf n)) → h.reg r l = x) ∧
          (∀ k r, k < 32 → (∀ d', d = some d' → k ∈ ls → r ∉ useDst (regsOf n) d') → g.pendingOn k r = false →
            h.reg r k = g.reg r k) ∧
          h.preds = g.preds ∧ h.s = g.s ∧ h.fpflags = g.fpflags ∧
          (order ≠ .acq → s.MemOk → s.dev.badTransfers = [] → OnlyAt (u p) t n p) ∧
          (order = .rel → Released s t c team p.obj sc) ∧
          (order = .acq → s.NoDirty c → Acquired t t c team p.obj sc))
    let spans := fun (i : Instr) (sp : LaneSpace) (v : Src) => i.wf = true → ∀ (f : FpFmt) (l k off k' off' : Nat),
      AtomicType.half? ty = some f → g.regsOk (useSrc 1 v ++ useSrc 1 a) = true → lanesOf (g.todo s.cur) = [l] →
      let sum := g.address sp a 0 l
      sum % 4 = 2 → (s.checkLane g sp sum 2 .atomic l).2 = .ok (.bank k off) →
      (s.checkLane g sp (sum + 2) 2 .atomic l).2 = .ok (.bank k' off') → (k = k' → off + 2 ≤ off') →
      (∀ os, free os) →
      let x := (g.src l v).toNat
      let frame := fun (h : Gang) => h.preds = g.preds ∧ h.s = g.s ∧ h.fpflags = g.fpflags
      let low := (s.core k).sbytes off 2
      let high := (s.core k').sbytes off' 2
      let low' := bytesOf 2 (f.add .rne (ofBytes low) (x % 65536)).1
      let high' := bytesOf 2 (f.add .rne (ofBytes high) (x / 65536)).1
      (whole → s.split = none → Completes s i (fun t h => frame h ∧
        (t.core k).sbytes off 2 = low' ∧ (t.core k').sbytes off' 2 = high')) ∧
      (whole → s.split = some 1 → ∃ t h, exec i s = .next t ∧ t.issuer = some h ∧ frame h ∧
        (t.core k).sbytes off 2 = low' ∧ (t.core k').sbytes off' 2 = high ∧
        (h.lane l).pc = (g.lane l).pc ∧ (h.lane l).half = some ⟨ofBytes low, Place.obj (.bank k off), some k', off'⟩) ∧
      ∀ y, (g.lane l).half = some y → y.core = some k' → y.addr = off' → s.split = none →
        Completes s i (fun t h => frame h ∧ (t.core k).sbytes off 2 = low ∧ (t.core k').sbytes off' 2 = high' ∧
          (h.lane l).half = none)
    (∀ v : Src, atomic (.red ⟨fn, ty, v, a, sc, order⟩) .global v none) ∧
    (∀ v : Src, ∀ w : Bool, atomic (.reds ⟨fn, ty, v, a, sc, order, w⟩) (bankSpace w) v none ∧
      spans (.reds ⟨fn, ty, v, a, sc, order, w⟩) (bankSpace w) v) ∧
    (∀ d : Dst, atomic (.atom ⟨fn, ty, d, a, sc, order⟩) .global (asSrc d) (some d)) ∧
    (∀ d : Dst, ∀ w : Bool, atomic (.atoms ⟨fn, ty, d, a, sc, order, w⟩) (bankSpace w) (asSrc d) (some d) ∧
      spans (.atoms ⟨fn, ty, d, a, sc, order, w⟩) (bankSpace w) (asSrc d))


/-! Cache control, page requests and sealing (spec 08 R329 to R335). -/

/-- R329, R331, R332: after CFLUSH of the participating lanes' ranges the core's L1 holds no dirty byte of them, and after
CINV no byte of them outside the sealed ranges; at .dev and .sys the die's remote-data cache neither; and each dirty
byte of them that homes on the core's die, at .dev and .sys each dirty byte, is at its home. CPREF completes with no
cause whatever its ranges are, and PREQ whatever its addresses are; PREQ of one lane for a readable page that is not
resident leaves its request outstanding, and posts nothing for a resident one. -/
def Obligations.CacheControlResults : Prop :=
  (∀ (s : State) (g : Gang) (o : RangeOp), s.Issues g → g.regsOk (useSrc 2 o.len ++ useSrc 2 o.base) = true →
      let ls := lanesOf (g.todo s.cur)
      let base := fun (l : Nat) => (g.src64 l o.base).toNat
      let len := fun (l : Nat) => (g.src64 l o.len).toNat
      (∀ l ∈ ls, base l + len l ≤ 2 ^ 48 ∧ s.walkError g.ctxKey (base l) (len l) = none) →
      let c := s.cur.core
      let rs := ls.flatMap (fun l => s.physRanges g.ctxKey (base l) (len l))
      let wide := o.scope = .dev ∨ o.scope = .sys
      let frame := fun (h : Gang) =>
        (∀ k r, k < 32 → g.pendingOn k r = false → h.reg r k = g.reg r k) ∧
        h.preds = g.preds ∧ h.s = g.s ∧ h.fpflags = g.fpflags ∧ g.Stays h
      Completes s (.cflush o) (fun t h => frame h ∧ cacheDirty (meetsRanges rs) (t.core c).l1 = [] ∧
        (wide → cacheDirty (meetsRanges rs) (t.die (dieOfCore c)).rdc = []) ∧
        DirtyHome s t c wide (fun a => meetsRanges rs a = true)) ∧
      Completes s (.cinv o) (fun t h => frame h ∧ (∀ a, meetsRanges rs a = true → s.sealedWord g.part a = false →
        (∀ x ∈ (t.core c).l1, setByte? x.2 (a / 256) (a % 256) = none) ∧
        (wide → ∀ x ∈ (t.die (dieOfCore c)).rdc, setByte? x.2 (a / 256) (a % 256) = none)) ∧
        DirtyHome s t c wide (fun a => meetsRanges rs a = true ∧ s.sealedWord g.part a = false))) ∧
  ∀ (s : State) (g : Gang), s.Issues g →
    let frame := fun (h : Gang) =>
      (∀ k r, k < 32 → g.pendingOn k r = false → h.reg r k = g.reg r k) ∧
      h.preds = g.preds ∧ h.s = g.s ∧ h.fpflags = g.fpflags ∧ g.Stays h
    (∀ o : CprefOp, g.regsOk (useSrc 2 o.len ++ useSrc 2 o.base) = true →
      Completes s (.cpref o) (fun _ h => frame h)) ∧
    (∀ (o : PreqOp) (x : Partition), g.regsOk (useSrc 2 o.a) = true → s.part? g.part = some x →
      field x.fqBase 47 0 + 8192 ≤ memoryEnd →
      (∀ l, g.takesPart s.cur false l → s.requestError g (g.src64 l o.a).toNat = none) →
      Completes s (.preq o) (fun _ h => frame h)) ∧
    (∀ (o : PreqOp) (l : Nat) (x : Partition), g.regsOk (useSrc 2 o.a) = true →
      lanesOf (g.parts s.cur false) = [l] → (g.src64 l o.a).toNat < 2 ^ 48 → s.part? g.part = some x →
      ∀ leaf es, s.walk g.ctxKey (g.src64 l o.a).toNat = .leaf leaf es → leaf.r = true → leaf.sysp = false →
      (leaf.res = true → Completes s (.preq o) (fun t h => frame h ∧ SameMemory s t)) ∧
      (leaf.res = false → field x.fqBase 47 0 + 8192 ≤ memoryEnd →
        Completes s (.preq o) (fun t h => frame h ∧
          ∃ y, t.part? g.part = some y ∧ ∃ e ∈ y.fqOut, e.ctx = g.ctx ∧ e.page = leaf.va ∧ e.kind ≠ 2)))

/-- R333 to R335: SEAL writes 3 for a range it refuses, 2 for one that meets a sealed range of its context, 1 when
all 16 entries are taken, else 0 and enters the range with the frames of its resident pages, once no engine write that
can meet it is in flight, until which it waits; UNSEAL writes 3 for a range it refuses, 4 for one that is not sealed as named, else 0 and
takes that entry out. -/
def Obligations.SealResults : Prop :=
  ∀ (s : State) (g : Gang) (o : SS) (x : Partition), s.Issues g → g.parts s.cur false ≠ 0 →
    s.part? g.part = some x →
    let base := (g.sreg o.a).toNat
    let len := (g.sreg (o.a + 1)).toNat
    let bad := base % 256 ≠ 0 ∨ len % 256 ≠ 0 ∨ len < 256 ∨ 2 ^ 40 < len ∨ 2 ^ 48 < base + len
    let hit := ∃ y ∈ x.seals, y.ctx = g.ctx ∧ base < y.base + y.len ∧ y.base < base + len
    let named := fun (y : Seal) => y.ctx = g.ctx ∧ y.base = base ∧ y.len = len
    let answers := fun (i : Instr) (v : DWord) (seals : List Seal) =>
      Completes s i (fun t h => (∀ n, h.sreg n = if n = o.d then v else g.sreg n) ∧
        t.part? g.part = some { x with seals := seals } ∧
        (∀ k r, k < 32 → g.pendingOn k r = false → h.reg r k = g.reg r k) ∧ h.preds = g.preds ∧ h.fpflags = g.fpflags)
    (bad → answers (.seal o) 3 x.seals) ∧
    (¬bad → hit → answers (.seal o) 2 x.seals) ∧
    (¬bad → ¬hit → 16 ≤ x.seals.length → answers (.seal o) 1 x.seals) ∧
    let frames := s.physRanges g.ctxKey base len
    (¬bad → ¬hit → x.seals.length < 16 → s.walkError g.ctxKey base len = none →
      (s.engineWrites ⟨g.ctxKey, base, len, frames⟩ = false →
        answers (.seal o) 0 (x.seals ++ [⟨g.ctx, base, len, frames⟩])) ∧
      (s.engineWrites ⟨g.ctxKey, base, len, frames⟩ = true → exec (.seal o) s = .next s)) ∧
    (bad → answers (.unseal o) 3 x.seals) ∧
    (¬bad → (∀ y ∈ x.seals, ¬ named y) → answers (.unseal o) 4 x.seals) ∧
    ∀ before y after, ¬bad → x.seals = before ++ y :: after → named y → (∀ z ∈ before, ¬ named z) → y ∉ before ++ after →
      s.walkError g.ctxKey base len = none → answers (.unseal o) 0 (before ++ after)

/-! Barriers, bindings, fences and ownership (spec 08 R336 to R352). -/

/-- R186 to R188, R336 to R341, of lanes on one object, in a scratchpad or in memory: BSIG adds each lane's number to it,
after the release of a .rel form; BRD reads it, and of BWAIT each lane whose target it has reached goes on and each other
one blocks there: all after the core's copies of its word went home; the .acq forms acquire it. -/
def Obligations.BarrierResults : Prop :=
  ∀ (s : State) (g : Gang) (team : TeamPart) (obj : Src) (sp : Space) (sc : Scope) (ordered : Bool) (ls : List Nat)
      (p : Place), s.Issues g → (s.core s.cur.core).partOf g = some team →
    ls ≠ [] → g.regsOk (useSrc (Space.lane sp).width obj) = true → Place.inMemory 8 p →
    let c := s.cur.core
    let checks := fun (kind : AccKind) => s.laneChecks g (Space.lane sp) obj 0 8 kind = ls.map (fun l => (l, .ok p))
    let frame := fun (h : Gang) => h.preds = g.preds ∧ h.s = g.s ∧ h.fpflags = g.fpflags
    let u := s.homed p
    let v := ofBytes (u.placeBytes 8 p)
    let free := fun (release : Bool) => ordered = true → s.Unhindered g [p.obj] sc release
    let reads := fun (t : State) => (ordered = false → SameMemory u t) ∧
      (∀ k a, (t.core k).sbyte a = (s.core k).sbyte a)
    (∀ n : Src, g.regsOk (useSrc 2 n) = true → checks .signal → free true → s.MemOk →
      let w := (if ordered then s.releaseObj c team p.obj sc else s).homed p
      Completes s (.bsig ⟨n, obj, sc, ordered, sp⟩) (fun t h => frame h ∧
        t.placeBytes 8 p = bytesOf 8 (ls.foldl (fun x l => x + (g.src64 l n).toNat) (ofBytes (w.placeBytes 8 p))) ∧
        (ordered = true → Released s t c team p.obj sc) ∧ (s.dev.badTransfers = [] → OnlyAt w t 8 p) ∧
        ∀ k r, k < 32 → g.pendingOn k r = false → h.reg r k = g.reg r k)) ∧
    (∀ d : Dst, g.regsOk (useDst 2 d) = true → checks .observe → free false →
      Completes s (.brd ⟨d, obj, sc, ordered, sp⟩) (fun t h => frame h ∧ reads t ∧
        (∀ l ∈ ls, (h.lane l).latch 0 = BitVec.ofNat 64 v ∧
          ∀ r, d = .reg r → h.reg r l = BitVec.ofNat 32 v ∧ h.reg (r + 1) l = BitVec.ofNat 32 (v / 2 ^ 32)) ∧
        (ordered = true → Acquired u t c team p.obj sc) ∧
        ∀ k r, k < 32 → (k ∈ ls → r ∉ useDst 2 d) → g.pendingOn k r = false → h.reg r k = g.reg r k)) ∧
    (∀ n : Src, g.regsOk (useSrc 2 n) = true → checks .observe → free false → g.parts s.cur false = g.todo s.cur →
      let met := fun (l : Nat) => (g.src64 l n).toNat ≤ v
      let regs := fun (h : Gang) => ∀ k r, k < 32 → g.pendingOn k r = false → h.reg r k = g.reg r k
      ((∀ l ∈ ls, met l) → Completes s (.bwait ⟨n, obj, sc, ordered, sp⟩) (fun t h => frame h ∧ reads t ∧ regs h ∧
        (ordered = true → Acquired u t c team p.obj sc))) ∧
      ∃ t h, exec (.bwait ⟨n, obj, sc, ordered, sp⟩) s = .next t ∧ t.issuer = some h ∧ frame h ∧ reads t ∧ regs h ∧
        (∀ l ∈ ls, met l → (h.lane l).pc = s.cur.next) ∧
        ∀ l ∈ ls, ¬ met l → (h.lane l).pc = (g.lane l).pc ∧ (h.lane l).wait = some ⟨p.obj,
          (g.address (Space.lane sp) obj 0 l).toNat, g.src64 l n, ordered, sc, s.cur.next,
          (s.core c).boundTo team p.obj, false, 0, (s.ctx g.ctxKey).wdog.toNat⟩)

/-- R343 to R346: BIND enters a valid range and object under the team's index on the core, and UNBIND clears it; an
index at or above .binds traps with PERM; that tw.addr is then 0 is the model's reading (assumption log 21). -/
def Obligations.BindingResults : Prop :=
  ∀ (s : State) (g : Gang) (team : TeamPart), s.Issues g → g.parts s.cur false ≠ 0 →
    (s.core s.cur.core).partOf g = some team → s.cur.core ∈ team.cores →
    let key := fun (i : Nat) => 64 * team.bank + team.bind0 + i
    let frame := fun (t : State) (h : Gang) => h.preds = g.preds ∧ h.s = g.s ∧ h.fpflags = g.fpflags ∧ SameMemory s t ∧
      ∀ k r, k < 32 → g.pendingOn k r = false → h.reg r k = g.reg r k
    (∀ (o : BindOp) (loc : ObjLoc), o.index < team.binds →
      let base := (g.sreg o.s).toNat
      let len := (g.sreg (o.s + 1)).toNat
      let obj := (g.sreg (o.s + 2)).toNat
      base % 8 = 0 → len % 8 = 0 → obj % 8 = 0 → 8 ≤ len → len ≤ 2 ^ 47 → base + len ≤ 2 ^ 48 →
      s.bindObject g o.space obj = .ok loc →
      Completes s (.bind o) (fun t h => frame t h ∧
        mfind? (t.core s.cur.core).binds (key o.index) = some ⟨base, len, loc, o.scope⟩)) ∧
    (∀ o : UnbindOp, o.index < team.binds →
      Completes s (.unbind o) (fun t h => frame t h ∧ mfind? (t.core s.cur.core).binds (key o.index) = none)) ∧
    (g.handles 0 (g.parts s.cur false) →
      (∀ o : BindOp, team.binds ≤ o.index →
        EntersHandler s g (.bind o) (g.parts s.cur false) 0 .perm (fun _ => 0)) ∧
      ∀ o : UnbindOp, team.binds ≤ o.index →
        EntersHandler s g (.unbind o) (g.parts s.cur false) 0 .perm (fun _ => 0))

/-- R347, R192: FENCE completes; a release leaves no dirty byte in the core's L1 at a scope that reaches beyond the
core, and an acquire no byte there outside the sealed ranges; each byte that was dirty and homes on the core's die, at
.dev and .sys each dirty byte, is at its home afterwards. -/
def Obligations.FenceResults : Prop :=
  ∀ (s : State) (g : Gang) (o : FenceOp) (team : TeamPart), s.Issues g → g.parts s.cur false ≠ 0 →
    (s.core s.cur.core).partOf g = some team → (o.kind = .acq ∨ s.mustWait g [] o.scope = false) →
    Completes s (.fence o) (fun t h =>
      let reaches := scopeLevel team.wide o.scope ≠ 0
      let wide := o.scope = .dev ∨ o.scope = .sys
      (reaches → o.kind = .rel → cacheDirty allBytes (t.core s.cur.core).l1 = []) ∧
      (reaches → o.kind ≠ .rel → ∀ a, s.sealedWord g.part a = false →
        ∀ x ∈ (t.core s.cur.core).l1, setByte? x.2 (a / 256) (a % 256) = none) ∧
      (reaches → DirtyHome s t s.cur.core wide (fun a =>
        o.kind = .acq → s.sealedWord g.part a = false)) ∧
      h.preds = g.preds ∧ h.s = g.s ∧ h.fpflags = g.fpflags ∧ g.seq = h.seq ∧
      ∀ k r, k < 32 → g.pendingOn k r = false → h.reg r k = g.reg r k)

/-- R348 to R352. Of granules that the part has: TAKE makes threads the owner of each and answers 0, or answers the
first that is in flight with 1 and changes none; GIVE hands over a run that threads own, else traps with OWN; OWNQ
answers the owner, the poison mark and the operations in flight of the first. Of a tile that the part has: TAKE takes a
free token, answers 1 for a tile that the matrix unit works on and 2 for another gang's; GIVE frees the gang's own
token, else traps with OWN; OWNQ answers whose it is. A run that the part does not have traps with PERM and a tile that
it does not have with OWN; the addresses in tw.addr are the model's reading (assumption log 21). -/
def Obligations.OwnershipResults : Prop :=
  ∀ (s : State) (g : Gang) (team : TeamPart) (a : Src) (d : Dst), s.Issues g → g.parts s.cur false ≠ 0 →
    g.regsOk (useDst 1 d ++ useSrc 1 a) = true → (s.core s.cur.core).partOf g = some team →
    let p := g.parts s.cur false
    let k := s.core s.cur.core
    let v := (g.src (lowest p) a).toNat
    let frame := fun (t : State) (h : Gang) => h.preds = g.preds ∧ h.s = g.s ∧ h.fpflags = g.fpflags ∧ SameMemory s t
    let answer := fun (x : Nat) (i : Instr) (after : Core) => Completes s i (fun t h =>
      (∀ l, p.getLsbD l = true → (h.lane l).latch 0 = BitVec.ofNat 64 (x % 2 ^ 32) ∧
        ∀ r, d = .reg r → h.reg r l = BitVec.ofNat 32 x) ∧
      (∀ l r, l < 32 → (p.getLsbD l = true → r ∉ useDst 1 d) → g.pendingOn l r = false → h.reg r l = g.reg r l) ∧
      frame t h ∧ (t.core s.cur.core).granules = after.granules ∧ (t.core s.cur.core).tiles = after.tiles)
    let gives := fun (w : GiveTarget) (after : Core → Prop) => Completes s (.give ⟨a, w⟩) (fun t h =>
      after (t.core s.cur.core) ∧ frame t h ∧ ∀ l r, l < 32 → g.pendingOn l r = false → h.reg r l = g.reg r l)
    let traps := fun (i : Instr) (cause : Cause) (x : Nat) => g.handles 0 p →
      EntersHandler s g i p 0 cause (fun _ => BitVec.ofNat 64 x)
    let first := v % 128
    let count := v / 256 % 128 + 1
    (first + count ≤ team.granules →
      let granule := fun (m : Core) (i : Nat) => m.granule (team.granule0 + first + i)
      let busy := fun (i : Nat) => (granule k i).owner ≠ .threads ∧ (granule k i).inflight ≠ 0
      ((∀ i, i < count → ¬busy i) → ∃ m, answer 0 (.take ⟨d, a, false⟩) m ∧ m.tiles = k.tiles ∧
        (∀ i, i < count → granule m i = { granule k i with owner := .threads }) ∧
        ∀ j, (j < team.granule0 + first ∨ team.granule0 + first + count ≤ j) → m.granule j = k.granule j) ∧
      (∀ i, i < count → busy i → (∀ j, j < i → ¬busy j) → answer (i * 256 + 1) (.take ⟨d, a, false⟩) k) ∧
      answer ((granule k 0).owner.code + (if (granule k 0).poison then 4 else 0) + min (granule k 0).inflight 255 * 256)
        (.ownq ⟨d, a, false⟩) k ∧
      (∀ w, (∀ i, i < count → (granule k i).owner = .threads) → gives (.granules w) (fun m =>
        (∀ i, i < count → granule m i = { granule k i with owner := w }) ∧ m.tiles = k.tiles ∧
        ∀ j, (j < team.granule0 + first ∨ team.granule0 + first + count ≤ j) → m.granule j = k.granule j)) ∧
      ∀ w i, i < count → (granule k i).owner ≠ .threads → (∀ j, j < i → (granule k j).owner = .threads) →
        traps (.give ⟨a, .granules w⟩) .own ((first + i) * 4096)) ∧
    (team.granules < first + count → traps (.take ⟨d, a, false⟩) .perm (first * 4096) ∧
      traps (.ownq ⟨d, a, false⟩) .perm (first * 4096) ∧ ∀ w, traps (.give ⟨a, .granules w⟩) .perm (first * 4096)) ∧
    (v % 4 < team.tiles →
      let i := team.tile0 + v % 4
      let token := fun (x : Option Nat) => { k with tiles := mput k.tiles i { k.tile i with token := x } }
      let works := if k.tileBusy i then 4 else 0
      ((k.tile i).token = none →
        (k.tileBusy i = false → answer 0 (.take ⟨d, a, true⟩) (token (some g.slot))) ∧
        (k.tileBusy i = true → answer 1 (.take ⟨d, a, true⟩) k) ∧ answer works (.ownq ⟨d, a, true⟩) k) ∧
      (∀ h, (k.tile i).token = some h → answer (if h = g.slot then 0 else 2) (.take ⟨d, a, true⟩) k ∧
        answer ((if h = g.slot then 1 else 2) + works + h * 1024) (.ownq ⟨d, a, true⟩) k) ∧
      ((k.tile i).token = some g.slot → gives .tile (fun m => m.tiles = (token none).tiles ∧ m.granules = k.granules)) ∧
      ((k.tile i).token ≠ some g.slot → traps (.give ⟨a, .tile⟩) .own (v % 4))) ∧
    (team.tiles ≤ v % 4 → traps (.take ⟨d, a, true⟩) .own (v % 4) ∧ traps (.ownq ⟨d, a, true⟩) .own (v % 4) ∧
      traps (.give ⟨a, .tile⟩) .own (v % 4))


/-! The matrix unit (spec 02 R96 to R109; 09 R369 to R378). -/

/-- R369, R370: the lease table of MLEASE and MREL, the grant to the lowest requesting slot above the last holder's,
wrapping, and the end of an idle contested lease. -/
def Obligations.LeaseResults : Prop :=
  (∀ (s : State) (g : Gang), s.Issues g → g.parts s.cur false ≠ 0 →
    let le := (s.core s.cur.core).lease
    let contested := ∃ r ∈ le.requests, some r.1 ≠ le.holder
    let lease := fun (i : Instr) (p : Lease → Prop) => Completes s i (fun t h => p (t.core s.cur.core).lease ∧
      h.preds = g.preds ∧ h.s = g.s ∧ h.fpflags = g.fpflags ∧ SameMemory s t ∧
      ∀ l r, l < 32 → g.pendingOn l r = false → h.reg r l = g.reg r l)
    (∀ o : MleaseOp,
      (le.holder ≠ some g.slot → lease (.mlease o) (fun x =>
        x.holder = le.holder ∧ mfind? x.requests g.slot = some o.count)) ∧
      (le.holder = some g.slot → contested → lease (.mlease o) (fun x =>
        x.holder = none ∧ mfind? x.requests g.slot = some o.count)) ∧
      (le.holder = some g.slot → ¬contested → lease (.mlease o) (fun x =>
        x.holder = some g.slot ∧ x.remaining = o.count))) ∧
    lease .mrel (fun x => x.holder ≠ some g.slot ∧ mfind? x.requests g.slot = none ∧
      (le.holder ≠ some g.slot → x.holder = le.holder))) ∧
  ∀ (s : State) (c : Nat), s.bad = none →
    let le := (s.core c).lease
    (∀ slot, s.leasesRun c = true → le.holder = none → (∃ n, (slot, n) ∈ le.requests) → mapSorted le.requests = true →
      (∀ r ∈ le.requests, (r.1 + 31 - le.last) % 32 ≥ (slot + 31 - le.last) % 32 ∧ r.1 < 32) → le.last < 32 →
      ∃ t, exec (.matrixLeaseGrant c) s = .next t ∧ (t.core c).lease.holder = some slot ∧
        (t.core c).lease.remaining = mget 0 le.requests slot ∧ mfind? (t.core c).lease.requests slot = none ∧
        SameMemory s t) ∧
    (∀ slot, le.holder = some slot → (∃ r ∈ le.requests, some r.1 ≠ le.holder) → le.lastMma + 2048 ≤ s.clockOf c →
      ∃ t, exec (.leaseIdleEnd c) s = .next t ∧ (t.core c).lease.holder = none ∧ (t.core c).lease.last = slot ∧
        (t.core c).lease.requests = le.requests ∧ SameMemory s t)

/-- R371 to R373, R377: an MMA of a fully ganged gang that holds the lease, and an ACVT, whose checks pass and for
which the queue has a place, join the queue's end and leave their tile to it; any MMA of a gang that is parted or
has an inactive lane traps with CONV in every active lane. -/
def Obligations.MatrixIssue : Prop :=
  ∀ (s : State) (g : Gang) (team : TeamPart), s.Issues g → (s.core s.cur.core).partOf g = some team →
    let k := s.core s.cur.core
    let frame := fun (t : State) (h : Gang) => h.preds = g.preds ∧ h.s = g.s ∧ h.fpflags = g.fpflags ∧ SameMemory s t ∧
      ∀ l r, l < 32 → g.pendingOn l r = false → h.reg r l = g.reg r l
    (∀ o : MmaOp, let w := g.sreg o.a
      let queued := fun (i : Instr) (a48 reset : Bool) =>
        g.fullyGanged = true → s.cur.active = BitVec.allOnes 32 → mmaFails k team o w = [] →
        k.lease.holder = some g.slot → k.mxHere.length < 4 →
        Completes s i (fun t h => frame t h ∧ (t.core s.cur.core).mx = k.mx ++
          [.mma a48 reset (maFa w) (team.tile0 + o.tile) (team.at_ (maOff w)) (maSba w) (team.creamAt o.slot)
            (s.issuerOf g s.cur.active)] ∧
          (t.core s.cur.core).lease.holder = (if k.lease.remaining ≤ 1 then none else some g.slot) ∧
          (t.core s.cur.core).tiles = k.tiles)
      let traps := fun (i : Instr) =>
        (g.fullyGanged = false ∨ s.cur.active ≠ BitVec.allOnes 32) → s.cur.active ≠ 0 → g.handles 0 s.cur.active →
        EntersHandler s g i s.cur.active 0 .conv (fun _ => 0)
      queued (.mmaA33 o) false false ∧ queued (.mmaA48 o) true false ∧ queued (.mmazA33 o) false true ∧
      queued (.mmazA48 o) true true ∧ traps (.mmaA33 o) ∧ traps (.mmaA48 o) ∧ traps (.mmazA33 o) ∧ traps (.mmazA48 o)) ∧
    ∀ o : AcvtOp, let w := g.sreg o.s
      g.parts s.cur false ≠ 0 → k.tileMma (team.tile0 + o.tile) = false →
      acvtFails k team (s.ctx g.ctxKey).rtrap o w = [] → k.mxHere.length < 4 →
      Completes s (.acvt o) (fun t h => frame t h ∧ (t.core s.cur.core).mx = k.mx ++
        [.acvt o.target (team.tile0 + o.tile) (team.at_ (acDoff w)) (acShift w) (acSbn w)
          (s.issuerOf g (g.parts s.cur false))] ∧ (t.core s.cur.core).tiles = k.tiles)

/-- R373, R377: the unit executes the head of its queue: an MMA changes its tile alone, an ACVT writes its result
with the trailer and adds its flags to the gang that issued it. -/
def Obligations.MatrixExecution : Prop :=
  ∀ (s : State) (c : Nat) (rest : List MxOp), s.bad = none →
    let k := s.core c
    (∀ a48 reset fa tile off sba slot who, k.mx = .mma a48 reset fa tile off sba slot who :: rest →
      s.engineRuns c who.ctx = true →
      ∃ t, exec (.mmaExecute c) s = .next t ∧ (t.core c).mx = rest ∧
        (t.core c).tile tile = k.mmaTile (k.tile tile) a48 reset fa off sba slot ∧
        (∀ n, n ≠ tile → (t.core c).tile n = k.tile n) ∧ (t.core c).scratch = k.scratch) ∧
    ∀ target tile off shift sbn who, k.mx = .acvt target tile off shift sbn who :: rest →
      s.engineRuns c who.ctx = true →
      let result := (k.tile tile).result target shift sbn
      ∃ t, exec (.acvtExecute c) s = .next t ∧ (t.core c).mx = rest ∧
        (t.core c).sbytes off result.1.length = result.1 ∧
        (∀ a, a < off ∨ off + result.1.length ≤ a → (t.core c).sbyte a = k.sbyte a) ∧
        (t.core c).tiles = k.tiles ∧
        ∀ h, s.issuerGang who = some h → ∃ h', t.gang? who.core who.slot = some h' ∧
          h'.fpflags = h.fpflags ||| result.2

/-- R96, R97: adding an integer in the three channels adds it to the number they stand for, in the range of the
mode, whichever of its two codes a zero channel takes. -/
def Obligations.AccumulatorAddition : Prop :=
  ∀ (a48 free : Bool) (e : Elem) (x : Int), e.nar = false →
    e.c1 < 2 ^ accK a48 → e.c2 < 2 ^ accK a48 → e.c3 ≤ 2 ^ accK a48 →
    accRead a48 (accAdd a48 free e x) = accWrap a48 (accRead a48 e + x)

/-- R375, R378: MACQ reads a tile that no engine works on into a scalar; ALD reads and AST stores one element of a
tile whose token the gang holds. -/
def Obligations.AccumulatorAccess : Prop :=
  ∀ (s : State) (g : Gang) (team : TeamPart), s.Issues g → (s.core s.cur.core).partOf g = some team →
    let k := s.core s.cur.core
    let frame := fun (t : State) (h : Gang) => h.preds = g.preds ∧ h.fpflags = g.fpflags ∧ SameMemory s t
    let regs := fun (h : Gang) => ∀ l r, l < 32 → g.pendingOn l r = false → h.reg r l = g.reg r l
    (∀ o : MacqOp, g.parts s.cur false ≠ 0 → o.tile < team.tiles → k.tileBusy (team.tile0 + o.tile) = false →
      let tile := k.tile (team.tile0 + o.tile)
      Completes s (.macq o) (fun t h => frame t h ∧ regs h ∧ (∀ n, n ≠ o.d → h.sreg n = g.sreg n) ∧
        h.sreg o.d = match o.item with
          | 0 => BitVec.ofNat 64
              ((if tile.uncertain then 2 ^ 31 else 0) + (if tile.a48 then 2 ^ 16 else 0) + (tile.x % 1024).toNat)
          | 1 => BitVec.ofNat 64 tile.budget
          | _ => 0)) ∧
    (∀ (o : AldOp) (l : Nat), g.regsOk (useDst 2 o.d ++ useSrc 1 o.i) = true → lanesOf (g.todo s.cur) = [l] →
      let tile := k.tile (team.tile0 + o.tile)
      let n := (g.src l o.i).toNat
      o.tile < team.tiles → tile.token = some g.slot → n < 16384 → (mget Elem.zero tile.elems n).nar = false →
      let e := mget Elem.zero tile.elems n
      let w := e.c1 + e.c2 * 2 ^ accK tile.a48 + e.c3 * 2 ^ (2 * accK tile.a48)
      Completes s (.ald o) (fun t h => frame t h ∧ h.s = g.s ∧ (h.lane l).latch 0 = BitVec.ofNat 64 w ∧
        (∀ r, o.d = .reg r → h.reg r l = BitVec.ofNat 32 w ∧ h.reg (r + 1) l = BitVec.ofNat 32 (w / 2 ^ 32)) ∧
        ∀ j r, j < 32 → (j = l → r ∉ useDst 2 o.d) → g.pendingOn j r = false → h.reg r j = g.reg r j)) ∧
    ∀ (o : AstOp) (l : Nat), g.regsOk (useSrc 2 o.v ++ useSrc 1 o.i) = true → lanesOf (g.todo s.cur) = [l] →
      let tile := k.tile (team.tile0 + o.tile)
      let n := (g.src l o.i).toNat
      o.tile < team.tiles → tile.token = some g.slot → n < 16384 →
      Completes s (.ast o) (fun t h => frame t h ∧ h.s = g.s ∧ regs h ∧
        let tile' := (t.core s.cur.core).tile (team.tile0 + o.tile)
        mget Elem.zero tile'.elems n = elemOfWord tile.a48 (g.src64 l o.v) ∧
        (∀ m, m ≠ n → mget Elem.zero tile'.elems m = mget Elem.zero tile.elems m) ∧
        tile'.a48 = tile.a48 ∧ tile'.x = tile.x ∧ tile'.uncertain = tile.uncertain ∧
        ((elemOfWord tile.a48 (g.src64 l o.v)).nar = false → tile'.budget =
          max tile.budget (accRead tile.a48 (elemOfWord tile.a48 (g.src64 l o.v))).natAbs))

/-! Streams, handlers and registers (spec 01 R20 to R25, R53 to R60; 07 R263 to R268; 09 R389 to R395; 10 R396 to
R411; 16 R498). -/

/-- R23, R263 to R268: REGANG waits with its token while a live slice has not arrived, and sends every arrived slice past
it when all have, unless a stop holds a parted gang there; EXIT ends the participating lanes, and with the last live
lane the gang, whose lease and tokens are free; YIELD only gives up its turn in the herd engine; PPT empties the latch
histories and, while a stop is requested, stops the stream with its hints. -/
def Obligations.StreamControlResults : Prop :=
  ∀ (s : State) (g : Gang), s.Issues g →
    let p := g.parts s.cur false
    let i := s.cur.stream
    (∀ o : RegangOp, i < g.streams.length → (∀ l, (g.lane l).handlers = []) →
      let whole := ∀ j ∈ g.liveSlices, bitAt (g.streamAt i).slices j = true
      ((∃ j ∈ g.liveSlices, bitAt (g.streamAt i).slices j = false ∧
          ∀ st ∈ g.streams, st.waitsAt o.token = true → bitAt st.slices j = false) →
        ∃ h, exec (.regang o) s = .next (s.putGang h) ∧ g.Keeps h ∧
          (h.streamAt i).wait = .regang o.token s.cur.pc 0 (s.ctx g.ctxKey).wdog.toNat ∧
          ∀ l, (h.lane l).pc = (g.lane l).pc) ∧
      (g.liveSlices ≠ [] → s.stopping g.part = false ∨ whole →
        (∀ j ∈ g.liveSlices, bitAt (g.streamAt i).slices j = true ∨
          ∃ st ∈ g.streams, st.waitsAt o.token = true ∧ bitAt st.slices j = true) →
        ∃ h, exec (.regang o) s = .next (s.putGang h) ∧ g.Keeps h ∧
          (∀ j ∈ g.liveSlices, ∀ l ∈ g.sliceActive j, (h.lane l).pc = (g.lane l).pc + 4) ∧
          ((∃ a, ∀ j ∈ g.liveSlices, g.issuePoint j = some a ∧ g.sliceActive j = g.candidates j) →
            h.fullyGanged = true))) ∧
    ((∃ l, l < 32 ∧ (g.lane l).live = true ∧ p.getLsbD l = false) →
      ∃ t h, exec .exit s = .next t ∧ t.issuer = some h ∧ g.Keeps h ∧ SameMemory s t ∧
        (∀ l, l < 32 → (h.lane l).live = ((g.lane l).live && !p.getLsbD l)) ∧
        ((s.stopping g.part = true ∨ g.WaitersApart s.cur) →
          ∀ l, s.cur.active.getLsbD l = true → p.getLsbD l = false → (h.lane l).pc = s.cur.next)) ∧
    ((∀ l, l < 32 → (g.lane l).live = true → p.getLsbD l = true) →
      s.Leads .exit (fun t => t.gang? s.cur.core s.cur.slot = none ∧
        (t.core s.cur.core).lease.holder ≠ some s.cur.slot ∧
        ∀ n, ((t.core s.cur.core).tile n).token ≠ some s.cur.slot)) ∧
    (∃ h, exec .yield s = .next (s.putGang h) ∧ g.Keeps h ∧ h.yielded = g.promotion.isNone ∧
      ∀ l, s.cur.active.getLsbD l = true → (h.lane l).pc = s.cur.next) ∧
    ∃ h, exec .ppt s = .next (s.putGang h) ∧ g.Keeps h ∧
      (∀ l, s.cur.active.getLsbD l = true → (h.lane l).pc = s.cur.next ∧ (h.lane l).hist = []) ∧
      ((∀ x, s.part? g.part = some x → x.stop = false) → h.liveness = g.liveness) ∧
      ∀ x, s.part? g.part = some x → x.stop = true →
        (∀ st ∈ h.streams, (∃ k, k < 8 ∧ bitAt st.slices k = true ∧ bitAt (g.streamAt i).slices k = true) →
          st.wait = .stopped) ∧
        ∃ y, h.liveness = some y ∧ y.regs = (livenessOf s.cur.hints).regs ||| ((g.liveness.map (·.regs)).getD 0) ∧
          y.granules = (livenessOf s.cur.hints).granules ||| ((g.liveness.map (·.granules)).getD 0) ∧
          y.tiles = (livenessOf s.cur.hints).tiles ||| ((g.liveness.map (·.tiles)).getD 0)

/-- R390 to R392, R404, R407, R411: TRAMP takes the participating lanes to the trampoline vector with its word in the
window; TRET and EMRET take the participating lanes, each in a handler of its kind, out of it to where R390 and R391
say, with the saved latch history; EMRET.w writes w0 to the destination of the emulated word; a TRET of a lane that
is in no trap handler is undefined, for all the active lanes (DEDUCED, assumption log 61). -/
def Obligations.HandlerInstructionResults : Prop :=
  ∀ (s : State) (g : Gang), s.Issues g →
    let p := g.parts s.cur false
    (∀ o : TrampOp, p = 0 → Completes s (.tramp o) (fun t h => g.Keeps h ∧ SameMemory s t)) ∧
    (∀ o : TrampOp, p ≠ 0 → g.handles 2 p → s.Leads (.tramp o) (fun t => ∃ h, t.issuer = some h ∧
      (∀ l, p.getLsbD l = true → (h.lane l).pc = g.handlerAddress 2 ∧ (h.lane l).hist = [] ∧
        ∃ f e, (h.lane l).handlers = f :: (g.lane l).handlers ∧ f.kind = 2 ∧ f.cause = .emu ∧ f.delivered = .emu ∧
          f.pc = (g.lane l).pc ∧ f.after = s.cur.next ∧ f.emu = some e ∧ e.word = s.cur.word ∧ e.pc = s.cur.pc ∧
          e.hpc = s.cur.hpc ∧ e.mask = p) ∧
      (∀ l, s.cur.active.getLsbD l = true → p.getLsbD l = false →
        (h.lane l).pc = s.cur.next ∧ (h.lane l).handlers = (g.lane l).handlers) ∧
      (∀ l r, l < 32 → g.pendingOn l r = false → h.reg r l = g.reg r l) ∧
      h.preds = g.preds ∧ h.s = g.s ∧ h.fpflags = g.fpflags ∧ SameMemory s t)) ∧
    let heads := fun (kind : Nat → Bool) => ∀ l, s.cur.active.getLsbD l = true →
      ∃ f fs, (g.lane l).handlers = f :: fs ∧ kind f.kind = true
    let returns := fun (i : Instr) (dest : HandlerFrame → VAddr) (writes : Bool)
        (more : Gang → Nat → HandlerFrame → Prop) =>
      (s.stopping g.part = true ∨ g.WaitersApart s.cur) →
      ∃ h, exec i s = .next (s.putGang h) ∧
        (∀ l f fs, p.getLsbD l = true → (g.lane l).handlers = f :: fs →
          (h.lane l).pc = dest f ∧ (h.lane l).handlers = fs ∧ more h l f) ∧
        (∀ l, s.cur.active.getLsbD l = true → p.getLsbD l = false →
          (h.lane l).pc = s.cur.next ∧ (h.lane l).handlers = (g.lane l).handlers) ∧
        (∀ l r, l < 32 → g.pendingOn l r = false →
          (p.getLsbD l = true → ∀ f, (g.lane l).handlers.head? = some f →
            (∀ e ∈ f.hist, ∀ x ∈ e.pending, x.1 ≠ r) ∧
            (writes = true → ∀ e, f.emu = some e → e.dst ≠ r)) → h.reg r l = g.reg r l) ∧
        h.preds = g.preds ∧ h.s = g.s ∧ h.fpflags = g.fpflags ∧ g.Stays h
    let history := fun (h : Gang) (l : Nat) (f : HandlerFrame) =>
      (h.lane l).hist.map (fun e => e.val) = f.hist.map (fun e => e.val)
    (heads (fun k => k == 0) →
      returns .tret (fun f => if f.cause = .utrap then f.after else f.resume) false history) ∧
    (heads (fun k => k != 0) → ∀ w,
      returns (.emret ⟨.reexecute, w⟩) (fun f => f.resume) false history ∧
      returns (.emret ⟨.advance, w⟩) (fun f => f.after) false history ∧
      returns (.emret ⟨.write, w⟩) (fun f => f.after) true (fun h l f =>
        ∀ e, f.emu = some e → (e.dst < 120 ∨ e.dst = 124) →
          (h.lane l).latch 0 = (f.w0.setWidth 32).setWidth 64 ∧
          (e.dst < 120 → e.dst < g.vregs → (w = false ∨ wBitSet e.word = false) →
            h.reg e.dst l = f.w0.setWidth 32))) ∧
    (s.cur.active ≠ 0 → g.handles 1 s.cur.active →
      (∃ l, s.cur.active.getLsbD l = true ∧ ∀ f, (g.lane l).handlers.head? = some f → f.kind ≠ 0) →
      EntersHandler s g .tret s.cur.active 1 .emu (fun _ => 0))

/-- R53 to R60, R393 to R395, R430: SRD reads each special register, SWR writes those that are writable; PSRD reads a
privileged register and PSWR writes one as its partition's system context, INVPG sweeps the translations of a range on
the cores that its scope reaches; a misaligned operand traps with ALIGN, and a context without the system flag with
PERM, whose tw.addr the model leaves free. That ALIGN comes before PERM is DEDUCED (assumption log 60), and so are the
addresses that these give with ALIGN and INVPG with PERM for its range (log 21), the base
before the length (log 70). -/
def Obligations.RegisterInstructionResults : Prop :=
  ∀ (s : State) (g : Gang), s.Issues g →
    let p := g.parts s.cur false
    let c := s.cur.core
    (∀ (o : SrdOp) (info : SrInfo), srInfo o.n = some info →
      g.regsOk (useDst (if info.wide then 2 else 1) o.d) = true → (∀ r, o.d = .reg r → info.wide = true → r % 2 = 0) →
      VectorResult s g (.srd o) o.d info.wide false false (fun l =>
        if o.n = 0x00 then BitVec.ofNat 64 l
        else if o.n = 0x01 then BitVec.ofNat 64 (l / 4)
        else if o.n = 0x02 then BitVec.ofNat 64 g.index
        else if o.n = 0x03 then BitVec.ofNat 64 g.team
        else if o.n = 0x04 then
          BitVec.ofNat 64 (g.bank * 2 ^ 16 + (if g.promotion.isSome then 2 ^ 15 else 0) + g.slot * 2 ^ 10 + c)
        else if o.n = 0x05 then g.seq.setWidth 64
        else if o.n = 0x08 then BitVec.ofNat 64 (s.clockOf c)
        else if o.n = 0x09 then g.fpflags.setWidth 64
        else if o.n = 0x0A then BitVec.ofNat 64 g.bankstall
        else if o.n = 0x0B then BitVec.ofNat 64 g.replay
        else if o.n = 0x0D then (s.ctx g.ctxKey).wdog
        else if o.n = 0x0C then
          let used := match s.part? g.part with
            | some x => if x.window = s.time / cyclesPerMs then x.used else 0
            | none => 0
          BitVec.ofNat 64 (used % 2 ^ 32 * 2 ^ 32 + s.time / cyclesPerMs % 2 ^ 16 * 2 ^ 16 + (s.core c).stretch)
        else match (g.lane (if info.lane then l else lowest p)).handlers with
          | [] => 0
          | f :: fs =>
            if o.n = 0x20 then BitVec.ofNat 64 (f.kind * 2 ^ 24 + (fs.length + 1) * 2 ^ 22 +
              (if f.deferred then 2 ^ 21 else 0) + causeCode f.delivered * 2 ^ 8 + causeCode f.cause)
            else if o.n = 0x21 then f.pc.setWidth 64
            else if o.n = 0x22 then f.addr
            else match f.emu with
              | none => 0
              | some e =>
                if o.n = 0x1C then f.w0
                else if o.n = 0x1D then f.w1
                else if o.n = 0x1E then f.w2
                else if o.n = 0x1F then f.w3
                else BitVec.ofNat 64
                  (if o.n = 0x10 then e.word
                    else if o.n = 0x11 then e.pc.toNat
                    else if o.n = 0x12 then e.hpc.toNat
                    else if o.n < 0x17 then e.hints.getD (o.n - 0x13) 0
                    else if o.n = 0x17 then e.dst
                    else if o.n = 0x18 then e.a
                    else if o.n = 0x19 then e.b
                    else if o.n = 0x1A then e.fmt
                    else e.mask.toNat)) 0) ∧
    (∀ (o : SwrOp) (info : SrInfo), srInfo o.n = some info →
      g.regsOk (useSrc (if info.wide then 2 else 1) o.v) = true → (∀ r, o.v = .reg r → info.wide = true → r % 2 = 0) →
      (o.v = .lane → info.wide = false) → p ≠ 0 →
      let x := g.src64 (lowest p) o.v
      Completes s (.swr o) (fun t h =>
        h.fpflags = (if o.n = 0x09 then x.setWidth 5 else g.fpflags) ∧
        h.bankstall = (if o.n = 0x0A then x.toNat % 2 ^ 32 else g.bankstall) ∧
        h.replay = (if o.n = 0x0B then x.toNat % 2 ^ 32 else g.replay) ∧
        (t.ctx g.ctxKey).wdog =
          (if o.n = 0x0D then (if x.toNat < 0x400 then 0x400 else x) else (s.ctx g.ctxKey).wdog) ∧
        (0x1C ≤ o.n → o.n ≤ 0x1F → ∀ l f fs, p.getLsbD l = true → (g.lane l).handlers = f :: fs →
          f.emu.isSome = true →
          ∃ f', (h.lane l).handlers = f' :: fs ∧ HandlerFrame.readW f' o.n = g.src64 l o.v) ∧
        (∀ l r, l < 32 → g.pendingOn l r = false → h.reg r l = g.reg r l) ∧
        h.preds = g.preds ∧ h.s = g.s ∧ SameMemory s t)) ∧
    (∀ o : SS, p ≠ 0 →
      let a := g.sreg o.a
      let own := (s.ctx g.ctxKey).sys = true
      (a.toNat % 8 ≠ 0 → g.handles 0 p →
        EntersHandler s g (.psrd o) p 0 .align (fun _ => a) ∧ EntersHandler s g (.pswr o) p 0 .align (fun _ => a)) ∧
      (a.toNat % 8 = 0 → ¬own → g.handles 0 p →
        EntersHandler s g (.psrd o) p 0 .perm (fun _ => s.freeAddr 0) ∧
        EntersHandler s g (.pswr o) p 0 .perm (fun _ => s.freeAddr 0)) ∧
      (a.toNat % 8 = 0 → own →
        ScalarResult s g (.psrd o) o.d (s.privRead (.system g.part) a.toNat) ∧
        (s.regPlace a.toNat = .nothing → Completes s (.pswr o) (fun t h => g.Keeps h ∧ SameMemory s t)) ∧
        (∀ off, s.regPlace a.toNat = .device off →
          Completes s (.pswr o) (fun t h => g.Keeps h ∧ SameMemory s t ∧ t.dev = s.dev)) ∧
        ∀ x, s.powered = true → s.regPlace a.toNat = .control g.part 0x40 → s.part? g.part = some x →
          Completes s (.pswr o) (fun t h => g.Keeps h ∧ SameMemory s t ∧
            ∃ y, t.part? g.part = some y ∧ y.sdBase.toNat = (g.sreg o.d).toNat % 2 ^ 48))) ∧
    ∀ o : InvpgOp, p ≠ 0 →
      let base := g.sreg o.a
      let len := g.sreg (o.a + 1)
      let own := (s.ctx g.ctxKey).sys = true
      (base.toNat % 4096 ≠ 0 → g.handles 0 p → EntersHandler s g (.invpg o) p 0 .align (fun _ => base)) ∧
      (base.toNat % 4096 = 0 → len.toNat % 4096 = 0 → ¬own → g.handles 0 p →
        EntersHandler s g (.invpg o) p 0 .perm (fun _ => s.freeAddr 0)) ∧
      (base.toNat % 4096 = 0 → len.toNat % 4096 = 0 → own → base.toNat + len.toNat ≤ 2 ^ 48 → 0 < len.toNat →
        Completes s (.invpg o) (fun t h => g.Keeps h ∧ SameMemory s t ∧
          ∀ k, (k = c ∨ (o.scope = .clus ∧ k / 64 = c / 64) ∨ (o.scope = .die ∧ k / 256 = c / 256) ∨
              o.scope = .dev ∨ o.scope = .sys) →
            ∀ l ∈ (t.core k).tlb, l.ctx / 256 = g.part →
              l.va + l.size ≤ base.toNat ∨ base.toNat + len.toNat ≤ l.va))

/-! Engine operations (spec 09 R353 to R368, R379 to R388; 04 R153 to R180; 15 R487 to R489). -/

/-- R360, R364 to R367: each form of copy, issued with every check of R365 passed, waits while sixteen are in flight for
the contexts on the core (it leaves the state as it was: assumption log 17, DEDUCED) and else completes at once and leaves the operation in flight with its descriptor, its snapshot of the entry, its object and
the length that it will signal; it raises by one the in-flight count of each granule it names, those of its local range
and of the destination (over the whole span: log 26, DESIGN CHOICE), each to go to the owner that HAND or the form names,
and a cream copy makes its slot filling. A handle that is not current traps with STALE_TID. -/
def Obligations.CopyIssueResults : Prop :=
  ∀ (s : State) (g : Gang) (o : CpyOp) (team : TeamPart), s.Issues g → g.parts s.cur false ≠ 0 →
    (s.core s.cur.core).partOf g = some team →
    let p := g.parts s.cur false
    let c := s.cur.core
    let k := s.core c
    let dw := g.descriptor o.s
    let loff := (dwAt dw 3).toNat % 2 ^ 19
    let hand := if ((dwAt dw 3).toNat / 2 ^ 48) % 4 = 2 then Owner.matrixUnit else Owner.threads
    let granules := fun (t : TeamPart) (off n : Nat) => ((granulesOf off n).filter (· < t.granules)).map (t.granule0 + ·)
    let local_ := fun (sh : CopyShape) => (granules team loff sh.span).map (fun n => (c, n, hand))
    let issue := fun (i : Instr) (form : CopyForm) (more : CopyShape → CopyOp → State → Prop) =>
      let e := if form = .window then [] else s.ttEntry g.ctxKey (handleSlot (cdHandle dw))
      let sh := copyShape form e dw
      (16 ≤ k.copiesHere.length → exec i s = .next s) ∧
      (k.copiesHere.length < 16 → (∃ j, j < 16 ∧ mfind? k.copies (16 * team.bank + j) = none) →
        (form ≠ .window → s.entryError c g.ctxKey (handleSlot (cdHandle dw)) = none) →
        ((form ≠ .window → s.handleOk g.ctxKey (cdHandle dw) = true) → s.copyFails g team form dw sh = [] →
          ∀ loc, s.engineObject g (cdOsp dw) (cdOaddr dw) = .ok loc →
          Completes s i (fun t h => g.Keeps h ∧
            ∃ n x, mfind? k.copies n = none ∧ mfind? (t.core c).copies n = some x ∧ x.form = form ∧
              x.who = s.issuerOf g p ∧ x.dw = dw ∧ x.entry = e ∧ x.obj = ⟨loc, o.scope, none⟩ ∧ x.landed = false ∧
              x.length = sh.length ∧ (x.names.map (fun m => (m.1, m.2.1))).Nodup ∧
              (∀ m ∈ x.names, ((t.core m.1).granule m.2.1).inflight = ((s.core m.1).granule m.2.1).inflight + 1 ∧
                ((t.core m.1).granule m.2.1).owner = ((s.core m.1).granule m.2.1).owner) ∧ more sh x t)) ∧
        (form ≠ .window → s.handleOk g.ctxKey (cdHandle dw) = false → g.handles 0 p →
          EntersHandler s g i p 0 .staleTid (fun _ => BitVec.ofNat 64 (cdHandle dw))))
    issue (.cpy o) .load (fun sh x _ => x.names = local_ sh ∧ x.dsts = [(c, team.at_ loff)]) ∧
    issue (.cpys o) .store (fun sh x _ => x.names = local_ sh ∧ x.dsts = [] ∧ x.src = team.at_ loff) ∧
    issue (.cpym o) .multicast (fun sh x _ =>
      (∀ d, d ∈ x.dsts ↔ ∃ i u, i < 64 ∧ (dwAt dw 5).getLsbD i = true ∧ s.livePart (c / 64 * 64 + i) g.launch g.team = some u ∧
        d = (c / 64 * 64 + i, u.at_ loff)) ∧
      ∀ m, m ∈ x.names ↔ ∃ i u n, i < 64 ∧ (dwAt dw 5).getLsbD i = true ∧
        s.livePart (c / 64 * 64 + i) g.launch g.team = some u ∧ n ∈ granules u loff sh.span ∧
        m = (c / 64 * 64 + i, n, hand)) ∧
    issue (.cpyw o) .window (fun sh x _ =>
      let w := (dwAt dw 1).toNat % 2 ^ 25
      ∃ u, s.livePart (c / 64 * 64 + w / 2 ^ 19) g.launch g.team = some u ∧
        x.dsts = [(c / 64 * 64 + w / 2 ^ 19, u.at_ (w % 2 ^ 19))] ∧ x.src = team.at_ loff ∧
        (∀ n ∈ granules u (w % 2 ^ 19) sh.span, (c / 64 * 64 + w / 2 ^ 19, n, hand) ∈ x.names) ∧
        ∀ n ∈ granules team loff sh.span, ∃ y, (c, n, y) ∈ x.names) ∧
    issue (.cpyb o) .cream (fun _ x t => x.names = [] ∧ x.dsts = [] ∧
      x.slot = team.creamAt (cdLoff dw % 32) ∧ ((t.core c).creamSlot x.slot).state = .filling)

/-- R358, R359, R364 to R367, R385: an operation in flight ends. The bytes of a window copy, of a load or multicast, of
a store of one piece and of a cream copy arrive; each granule that the copy names is handed on when no other copy in
flight names it, and with all handed the object gains the length. A granule that a tile with a failed trailer check
landed in is poisoned, as is its cream slot. A deferred fault ends its operation: no granule leaves the owner it has, the
object gains nothing, and the issuing lane, whose wait ends, keeps the cause. A densify writes its elements and an import its
status word, and signals. Objects in a scratchpad, apart from what is written; where memory is claimed, with empty
caches. That an operation ends in one event is DESIGN CHOICE (assumption log 27), and that a fault of its object comes
before it lands DEDUCED (log 28). -/
def Obligations.EngineCompletionResults : Prop :=
  (∀ (s : State) (c n oc ooff : Nat) (x : CopyOp), s.bad = none → mfind? (s.core c).copies n = some x →
    s.engineRuns c x.who.ctx = true → x.landed = false → x.obj.loc = .bank oc ooff → s.NoneLanded →
    s.signalError c x.who x.obj = none → s.copyUnacked c n x = false →
    (x.names.map (fun m => (m.1, m.2.1))).Nodup →
    (∀ k ∈ x.slots, s.reaches (s.ttAddr k.1 k.2) 8 = true ∧ teState (s.ttEntry k.1 k.2) ≠ 2) →
    let base := (dwAt x.dw 3).toNat % 2 ^ 19
    let ctx := x.who.ctx
    let img := x.pieces.flatMap (s.pieceAt ctx)
    let tiled := (dwAt x.dw 3).getLsbD 50
    let good := tiled = false ∨ imageOk (teFmt x.entry) img = true
    (∀ d off, x.form = .window → x.dsts = [(d, off)] → (d = oc → Apart off x.length ooff 8) →
      s.Leads (.copyComplete c n) (fun t => CopyEnds s t c n oc ooff x ∧
        (t.core d).sbytes off x.length = (s.core x.who.core).sbytes x.src x.length ∧
        ∀ k ∈ granulesOf off x.length, ((t.core d).granule k).poison = false)) ∧
    (x.form = .load ∨ x.form = .multicast → x.held = [] → x.links = [] → s.PiecesReady ctx .load x.pieces →
      (x.dsts.map (fun d => d.1)).Nodup → x.pieces.Pairwise (fun a b => Apart a.2.1 a.2.2 b.2.1 b.2.2) →
      (∀ p ∈ x.pieces, base ≤ p.2.1 ∧ ∀ d ∈ x.dsts, d.1 = oc → Apart (d.2 + (p.2.1 - base)) p.2.2 ooff 8) →
      s.Leads (.copyComplete c n) (fun t => CopyEnds s t c n oc ooff x ∧ (s.NoCached → SameMemory s t) ∧
        ∀ d ∈ x.dsts,
          (∀ p ∈ x.pieces, (t.core d.1).sbytes (d.2 + (p.2.1 - base)) p.2.2 = s.pieceAt ctx p ∧
            (good → ∀ k ∈ granulesOf (d.2 + (p.2.1 - base)) p.2.2, ((t.core d.1).granule k).poison = false)) ∧
          (¬good → s.PartsHeld → ∀ k ∈ granulesOf d.2 x.length, ((t.core d.1).granule k).poison = true))) ∧
    (∀ va rel m pa l, x.form = .store → x.held = [] → x.pieces = [(va, rel, m)] → va < 2 ^ 48 → base ≤ rel →
      s.engineAccess ctx va m .store = .ok pa l → l.sysp = false → s.reaches pa m = true → s.MemOk → s.NoCached →
      s.NoErrors → (∀ k ∈ x.slots, Apart pa m (s.ttAddr k.1 k.2) 64) →
      s.Leads (.copyComplete c n) (fun t => CopyEnds s t c n oc ooff x ∧
        t.readHome pa m = (s.core x.who.core).sbytes (x.src + (rel - base)) m ∧
        ∀ a, (a < pa ∨ pa + m ≤ a) → memRead t.mem a = memRead s.mem a)) ∧
    (x.form = .cream → tiled = true → x.held = [] → x.links = [] → s.PiecesReady ctx .load x.pieces →
      (s.core c).creamRead x.slot = false →
      let rn8 := teFmt x.entry = 1
      let line := if rn8 then 128 else 192
      s.Leads (.copyComplete c n) (fun t => CopyEnds s t c n oc ooff x ∧ (s.NoCached → SameMemory s t) ∧
        let y := (t.core x.who.core).creamSlot x.slot
        (good → y.state = .valid) ∧ (¬good → y.state = .poisoned) ∧ (y.rn8 = true ↔ rn8) ∧ y.sb = teSb x.entry ∧
        y.trailer = img.drop (128 * line + 256) ∧
        ∀ j i, j < 128 →
          (i < line → mget 0 y.bytes (256 * j + i) = img.getD (line * j + i) 0) ∧
          (i < 2 → mget 0 y.bytes (256 * j + 192 + i) = img.getD (128 * line + 2 * j + i) 0))) ∧
    (∀ va rel m g cause, x.held = [] → x.pieces = [(va, rel, m)] → va < 2 ^ 48 →
      s.engineAccess ctx va m x.kind = .cause cause →
      (cause = .seal → s.engineAccess ctx va 1 .store = .cause .seal) →
      s.issuerGang x.who = some g → (g.lane x.who.lane).live = true →
      s.Leads (.deferredFault c .copy n) (fun t => mfind? (t.core c).copies n = none ∧
        (t.core oc).sbytes ooff 8 = (s.core oc).sbytes ooff 8 ∧
        (x.form = .cream → ((s.core c).cream.any (fun y => y.1 == x.slot)) = true →
          ((t.core c).creamSlot x.slot).state = .poisoned) ∧
        (∀ k ∈ x.names, let old := (s.core k.1).granule k.2.1
          ((t.core k.1).granule k.2.1).inflight = old.inflight - 1 ∧
          (old.landed = none → ((t.core k.1).granule k.2.1).owner = old.owner) ∧
          ∀ o, old.landed = some o → old.inflight ≤ 1 → ((t.core k.1).granule k.2.1).owner = o) ∧
        ∃ h, t.gang? x.who.core x.who.slot = some h ∧ (h.lane x.who.lane).wait = none ∧
          (h.lane x.who.lane).deferred = (g.lane x.who.lane).deferred ++ [⟨cause, BitVec.ofNat 64 va⟩]))) ∧
  ∀ (s : State) (c n oc ooff : Nat) (x : SparseOp), s.bad = none → mfind? (s.core c).sparse n = some x →
    s.engineRuns c x.who.ctx = true → x.obj.loc = .bank oc ooff → s.NoCached →
    (∀ k ∈ x.slots, s.reaches (s.ttAddr k.1 k.2) 8 = true) →
    s.NoErrors ∨ (x.finished = true ∧ s.signalError c x.who x.obj = none) →
    let size := fmtSize (teFmt x.entry)
    let ends := fun (i : Instr) (len : Nat) (more : State → Prop) => s.Leads i (fun t =>
      (t.core oc).sbytes ooff 8 = bytesOf 8 (ofBytes ((s.core oc).sbytes ooff 8) + len) ∧
      mfind? (t.core c).sparse n = none ∧ more t)
    let apart := fun (pa m : Nat) => ∀ k ∈ x.slots, Apart pa m (s.ttAddr k.1 k.2) 8
    (x.isImport = false → (x.finished = false → s.denseStop c x = none ∧ (s.denseAll c x (fun _ => true)).bad = none) →
      ends (.spdenseComplete c n) (denseBytes ⟨x.who.ctx, x.entry⟩ x.dw) (fun _ => True)) ∧
    (x.isImport = false → x.finished = false → x.elems = 1 → ∀ v va buf pa, s.denseElem x 0 = .ok (v, va, buf) →
      s.unitPieces x.who.ctx va size .store = .ok [(pa, size)] → s.reaches pa size = true → s.MemOk →
      s.dev.badTransfers = [] → apart pa size → (s.denseAll c x (fun _ => true)).bad = none →
      ends (.spdenseComplete c n) size (fun t => t.readHome pa size = bytesOf size v)) ∧
    (x.isImport = true → x.finished = true → ends (.spimportComplete c n) 8 (fun _ => True)) ∧
    (x.isImport = true → x.finished = false → ∀ pa code row, s.MemOk → s.dev.badTransfers = [] →
      (x.status = some (code * 2 ^ 56 + row) ∨
        x.status = none ∧ x.entry_ = none ∧ code = 0 ∧ row = (dwAt x.dw 0).toNat % 2 ^ 32 ∧ row ≤ x.row ∨
        x.status = none ∧ x.entry_ = none ∧ code = 1 ∧ row = x.row ∧ row < (dwAt x.dw 0).toNat % 2 ^ 32 ∧
          let a := (dwAt x.dw 1).toNat % 2 ^ 48 + 8 * row
          a + 16 ≤ 2 ^ 48 ∧ ∃ b, s.NodeAt ⟨x.who.ctx, x.entry⟩ a 16 b ∧ num b 8 8 < num b 0 8) →
      s.unitAccess x.who.ctx ((dwAt x.dw 4).toNat % 2 ^ 48) 8 .store = .ok pa →
      s.engineTouch x.who.ctx ((dwAt x.dw 4).toNat % 2 ^ 48) true = s → s.reaches pa 8 = true → apart pa 8 →
      ends (.spimportComplete c n) 8 (fun t => t.readHome pa 8 = bytesOf 8 (code * 2 ^ 56 + row)))

/-- R128, R131 to R133, R161, R379 to R382: TDEF refuses a description that breaks R131, or a region whose structures
break R161, with PERM, writes the entry of a free slot and answers its handle, and answers the state of a slot that is
not free; TDROP moves the slot on to its next generation; TQRY reads a doubleword of the entry; TGATH decodes the element
that an index names, here from bytes that the L1 holds, and traps with PERM beyond the tensor. A handle that is not
current traps with STALE_TID. The table is in memory and its entries read without error. -/
def Obligations.TensorResults : Prop :=
  ∀ (s : State) (g : Gang), s.Issues g →
    let p := g.parts s.cur false
    let c := s.cur.core
    let table := s.MemOk ∧ s.DiesUp ∧ field (s.ctx g.ctxKey).ttBase 47 0 + 262144 ≤ memoryEnd
    let frame := fun (h : Gang) => (∀ k r, k < 32 → g.pendingOn k r = false → h.reg r k = g.reg r k) ∧
      h.preds = g.preds ∧ h.fpflags = g.fpflags ∧ g.Stays h
    let scalar := fun (i : Instr) (d : Nat) (x : DWord) (more : State → Prop) =>
      Completes s i (fun t h => frame h ∧ (∀ n, h.sreg n = if n = d then x else g.sreg n) ∧ more t)
    (∀ o : SS, p ≠ 0 → table →
      let desc := (List.range 8).map (fun i => g.sreg (o.a + i))
      let slot := (g.sreg o.a).toNat / 2 ^ 52
      let old := s.ttEntry g.ctxKey slot
      let answers := fun (more : State → Prop) =>
        (teState old = 0 → scalar (.tdef o) o.d (BitVec.ofNat 64 (slot * 2 ^ 20 + teGen old)) (fun t =>
          t.ttEntry g.ctxKey slot = entryOf desc (teGen old) ∧ more t)) ∧
        (teState old ≠ 0 → scalar (.tdef o) o.d (BitVec.ofNat 64 (teState old * 2 ^ 56)) (fun t =>
          t.ttEntry g.ctxKey slot = old ∧ more t))
      let elsewhere := fun (t : State) => ∀ a, (a < s.ttAddr g.ctxKey slot ∨ s.ttAddr g.ctxKey slot + 64 ≤ a) →
        memRead t.mem a = memRead s.mem a
      (descOk desc = false → g.handles 0 p → EntersHandler s g (.tdef o) p 0 .perm (fun _ => 0)) ∧
      (descOk desc = true → teClass desc = 0 → s.entryError c g.ctxKey slot = none →
        answers (fun t => s.dev.badTransfers = [] → elsewhere t)) ∧
      (descOk desc = true → teClass desc = 1 →
        let u := s.beforeTdef c g.ctxKey desc
        (∀ rs, u.sparseValid g.ctxKey desc = .ok (true, rs) →
          let w := u.lightPieces g.ctxKey .load
            (rs.flatMap (fun r => (pagePieces r.1 r.2).map (fun x => (x.1, 0, x.2))))
          w.bad = none → w.entryError c g.ctxKey slot = none → w.ttEntry g.ctxKey slot = old →
          answers (fun t => s.NoCached → w = s → s.dev.badTransfers = [] → elsewhere t)) ∧
        (∀ rs, s.NoCached → u.sparseValid g.ctxKey desc = .ok (false, rs) → g.handles 0 p →
          EntersHandler s g (.tdef o) p 0 .perm (fun _ => 0)) ∧
        ∀ a, s.NoCached → u.sparseValid g.ctxKey desc = .error (.cause .perm a) → g.handles 0 p →
          EntersHandler s g (.tdef o) p 0 .perm (fun _ => BitVec.ofNat 64 a))) ∧
    (∀ o : SS, p ≠ 0 →
      let w := (g.sreg o.a).toNat % 2 ^ 32
      let slot := handleSlot w
      let old := s.ttEntry g.ctxKey slot
      s.entryError c g.ctxKey slot = none →
      (s.handleOk g.ctxKey w = false → g.handles 0 p →
        EntersHandler s g (.tdrop o) p 0 .staleTid (fun _ => BitVec.ofNat 64 w) ∧
        ∀ k, EntersHandler s g (.tqry ⟨o.d, o.a, k⟩) p 0 .staleTid (fun _ => BitVec.ofNat 64 w)) ∧
      (s.handleOk g.ctxKey w = true → table →
        scalar (.tdrop o) o.d 0 (fun t =>
          let e := t.ttEntry g.ctxKey slot
          teState e = (if s.slotInFlight g.ctxKey slot then 2 else 0) ∧ teGen e = (handleGen w + 1) % 2 ^ 20 ∧
            (s.dev.badTransfers = [] → ∀ k, 0 < k → dwAt e k = dwAt old k))) ∧
      (s.handleOk g.ctxKey w = true → ∀ k,
        scalar (.tqry ⟨o.d, o.a, k⟩) o.d (dwAt old k) (SameMemory s))) ∧
    ∀ (o : TgathOp), g.regsOk (useDst 1 o.d ++ useSrc 1 o.i) = true → g.todo s.cur ≠ 0 →
      let w := (g.sreg o.h).toNat % 2 ^ 32
      let e := s.ttEntry g.ctxKey (handleSlot w)
      s.entryError c g.ctxKey (handleSlot w) = none →
      (s.handleOk g.ctxKey w = false → g.handles 0 (g.todo s.cur) →
        EntersHandler s g (.tgathI32 o) (g.todo s.cur) 0 .staleTid (fun _ => BitVec.ofNat 64 w) ∧
        EntersHandler s g (.tgathF32 o) (g.todo s.cur) 0 .staleTid (fun _ => BitVec.ofNat 64 w)) ∧
      (s.handleOk g.ctxKey w = true → teClass e ≠ 0 ∨ isResidue (teFmt e) = false ∨
          (∀ l ∈ lanesOf (g.todo s.cur), teSpace e ≤ (g.src l o.i).toNat) → g.handles 0 (g.todo s.cur) →
        EntersHandler s g (.tgathI32 o) (g.todo s.cur) 0 .perm s.freeAddr ∧
        EntersHandler s g (.tgathF32 o) (g.todo s.cur) 0 .perm s.freeAddr) ∧
      ∀ (l : Nat) (lf : Leaf), lanesOf (g.todo s.cur) = [l] →
        let n := (g.src l o.i).toNat
        let pa := fun (a : Nat) => lf.pa + (a - lf.va)
        s.handleOk g.ctxKey w = true → teClass e = 0 → isResidue (teFmt e) = true → n < teSpace e →
        (g.lane l).lastPage = some lf → (g.lane l).link = .none → lf.sysp = false →
        (∀ a ∈ gatherAddrs e n, a < 2 ^ 48 ∧ lf.maps g.ctxKey a = true ∧ s.checkLeaf lf .load a 1 = .ok (pa a) lf ∧
          (setByte? (mget [] (s.core c).l1 (l1Set (pa a / 256))) (pa a / 256) (pa a % 256)).isSome = true) →
        let reads := fun (i : Instr) (fp : Bool) =>
          let v := gatherValue e n fp ((gatherAddrs e n).map (fun a => s.l1Byte c (pa a)))
          Completes s i (fun t h => (h.lane l).latch 0 = v.1.setWidth 64 ∧ (∀ r, o.d = .reg r → h.reg r l = v.1) ∧
            (∀ k r, k < 32 → (k = l → r ∉ useDst 1 o.d) → g.pendingOn k r = false → h.reg r k = g.reg r k) ∧
            h.preds = g.preds ∧ h.s = g.s ∧ h.fpflags = g.fpflags ||| v.2 ∧ SameMemory s t)
        reads (.tgathI32 o) false ∧ reads (.tgathF32 o) true

/-- R153 to R180, R383 to R385, in a region of one shard: SPLD's value of a key is that of the leaf that covers it, 0 when
none does; after a step that writes a key in its leaf, or under an empty root, a read gives what was written and the
leaf's other keys keep their values. Of one lane, SPLD, SPNEXT and SPLEAF put what the step answers into their
destination, and SPLEAF takes the leaf's words out of the L1; SPST's step is its only effect on memory, here that of a
changed leaf in full, and what stops it traps; a coordinate at or above its extent traps with PERM, whose tw.addr the
model leaves free. SPDENSE and SPIMPORT complete at issue and leave the operation in flight. Of a gang with no lane of
another stream that waits for a page in a sparse instruction. -/
def Obligations.SparseResults : Prop :=
  (∀ (s : State) (r : Region) (key : Nat) (root : List Byte), key < 2 ^ 64 →
    let reads := fun (x : Step Nat) (v : Nat) => (x []).map (fun y => y.1) = .ok v
    let after := fun (v k : Nat) => do
      writeKey s r key v
      readKey s r k
    (∀ x, s.LeafOf r key root x →
      reads (readKey s r key) (match x with
        | some y => if leafOf y.2 = leafKey key then leafValue r.size y.2 (key % 64) else 0
        | none => 0)) ∧
    (∀ va b, s.LeafOf r key root (some (va, b)) → leafOf b = leafKey key →
      let others := fun (v : Nat) => ∀ k, leafKey k = leafKey key → k ≠ key →
        reads (after v k) (leafValue r.size b (k % 64))
      (∀ v, 0 < v → v < 2 ^ (8 * r.size) → reads (after v key) v ∧ others v) ∧
      (leafMap b ≠ 2 ^ (key % 64) → reads (after 0 key) 0 ∧ others 0) ∧
      (nodeLevel root = 1 → nodeCount root = 0 → leafMap b = 2 ^ (key % 64) → reads (after 0 key) 0)) ∧
    (∀ v t, s.LeafOf r key root none → 0 < v → v < 2 ^ (8 * r.size) →
      (∀ u, u < num root 0 4 → r.unitVa u ≠ teBase r.e) → writeKey s r key v [] = .ok ((), t) →
      reads (after v key) v)) ∧
  (∀ (s : State) (g : Gang) (l hs : Nat), s.Issues g → lanesOf (g.todo s.cur) = [l] → g.treeWaits s.cur = false →
    let c := s.cur.core
    let w := (g.sreg hs).toNat % 2 ^ 32
    let r : Region := ⟨g.ctxKey, s.ttEntry g.ctxKey (handleSlot w)⟩
    let v := s.ttTouch c g.ctxKey (handleSlot w)
    s.entryError c g.ctxKey (handleSlot w) = none → s.handleOk g.ctxKey w = true → teClass r.e = 1 →
    let resultAnd := fun (i : Instr) (d : Dst) (n : Nat) (lo hi : DWord) (more : State → Prop) =>
      Completes s i (fun t h =>
        (h.lane l).latch 0 = entryVal (n != 1) lo ∧ (∀ k x, (k, x) ∈ (quadWords d lo hi).take n → h.reg k l = x) ∧
        (∀ j k, j < 32 → (j = l → k ∉ useDst n d) → g.pendingOn j k = false → h.reg k j = g.reg k j) ∧
        h.preds = g.preds ∧ h.s = g.s ∧ h.fpflags = g.fpflags ∧ more t)
    let result := fun (i : Instr) (d : Dst) (n : Nat) (u : State) (lo hi : DWord) =>
      u.bad = none → resultAnd i d n lo hi (fun _ => True)
    let traps := fun (i : Instr) (k : Cause) (a : DWord) => g.handles 0 (g.todo s.cur) →
      EntersHandler s g i (g.todo s.cur) 0 k (fun _ => a)
    let extended := fun (n : Nat) =>
      if teFmt r.e = 0x14 then (BitVec.ofInt 32 (BitVec.ofNat 8 n).toInt).setWidth 64
      else if teFmt r.e = 0x16 then (BitVec.ofInt 32 (BitVec.ofNat 16 n).toInt).setWidth 64
      else BitVec.ofNat 64 n
    let spld := fun (d : Dst) (x : Src) =>
      g.regsOk (coordRegs r x ++ useDst r.width d) = true → valueOk r d.pairOk = true →
      (g.laneKey r x l = none → traps (.spld ⟨d, x, hs⟩) .perm (s.freeAddr l)) ∧
      (∀ k n u, g.laneKey r x l = some k → v.runStep c r (readKey v r k) = .ok (n, u) →
        result (.spld ⟨d, x, hs⟩) d r.width u (extendValue (teFmt r.e) n) 0) ∧
      ∀ k root y, g.laneKey r x l = some k → v.LeafOf r k root y →
        resultAnd (.spld ⟨d, x, hs⟩) d r.width (extended (match y with
          | some z => if leafOf z.2 = leafKey k then leafValue r.size z.2 (k % 64) else 0
          | none => 0)) 0 (SameMemory s)
    let spst := fun (y x : Src) =>
      g.regsOk (coordRegs r x ++ useSrc r.width y) = true → valueOk r y.pairOk = true →
      let n := if r.size = 8 then (g.src64 l y).toNat else (g.src l y).toNat % 2 ^ (8 * r.size)
      (g.laneKey r x l = none → traps (.spst ⟨y, x, hs⟩) .perm (s.freeAddr l)) ∧
      (∀ k, g.laneKey r x l = some k →
        (∀ u, v.storeKey c r k n = .ok u → u.bad = none →
          Completes s (.spst ⟨y, x, hs⟩) (fun t h => g.Keeps h ∧ t.mem = u.mem)) ∧
        (∀ e cause a, v.storeKey c r k n = .error e →
          (e = .cause cause a ∧ cause ≠ .nres ∨ cause = .perm ∧ (e = .malformed a ∨ e = .split a) ∨
            cause = .pool ∧ e = .pool ∧ a = k) →
          traps (.spst ⟨y, x, hs⟩) cause (BitVec.ofNat 64 a)) ∧
        ∀ root va b pa, v.LeafOf r k root (some (va, b)) → leafOf b = leafKey k → 0 < n →
          v.unitPieces r.ctx va r.unit .store = .ok [(pa, r.unit)] → v.engineTouch r.ctx va true = v →
          v.regionSeal r = none → s.MemOk → s.NoCached → s.reaches pa r.unit = true → s.dev.badTransfers = [] →
          let m := leafMap b
          let vals := leafVals r.size b
          let j := bitsBelow m (k % 64)
          let held := m.testBit (k % 64)
          Completes s (.spst ⟨y, x, hs⟩) (fun t h => g.Keeps h ∧
            t.readHome pa r.unit = makeLeaf r.unit r.size (leafKey k) (if held then m else m + 2 ^ (k % 64))
              (vals.take j ++ [n] ++ vals.drop (if held then j + 1 else j)) ∧
            ∀ a, (a < pa ∨ pa + r.unit ≤ a) → memRead t.mem a = memRead s.mem a))
    let spnext := fun (d : Dst) (x : Src) =>
      g.regsOk (useSrc 2 x ++ useDst 4 d) = true → quadOk d = true →
      let k := (g.src64 l x).toNat
      (teSpace r.e ≤ k → result (.spnext ⟨d, x, hs⟩) d 4 v (BitVec.allOnes 64) 0) ∧
      (k < teSpace r.e → ∀ y u, v.runStep c r (nextKey v r k) = .ok (y, u) →
        result (.spnext ⟨d, x, hs⟩) d 4 u ((y.map (fun z => BitVec.ofNat 64 z.1)).getD (BitVec.allOnes 64))
          ((y.map (fun z => extendValue (teFmt r.e) z.2)).getD 0)) ∧
      (k < teSpace r.e → ∀ root, v.LeafOf r k root none →
        resultAnd (.spnext ⟨d, x, hs⟩) d 4 (BitVec.allOnes 64) 0 (SameMemory s)) ∧
      (k < teSpace r.e → ∀ root va b, v.LeafOf r k root (some (va, b)) → nodeLevel root = 1 → nodeCount root = 0 →
        let is := (List.range 64).filter (fun i => (leafMap b).testBit i && decide (k ≤ leafOf b + i))
        (is = [] → resultAnd (.spnext ⟨d, x, hs⟩) d 4 (BitVec.allOnes 64) 0 (SameMemory s)) ∧
        ∀ i, is.head? = some i → resultAnd (.spnext ⟨d, x, hs⟩) d 4 (BitVec.ofNat 64 (leafOf b + i))
          (extended (leafValue r.size b ((leafOf b + i) % 64))) (SameMemory s))
    let spleaf := fun (d : Dst) (x : Src) =>
      g.regsOk (coordRegs r x ++ useDst 4 d) = true → quadOk d = true →
      (g.laneKey r x l = none → traps (.spleaf ⟨d, x, hs⟩) .perm (s.freeAddr l)) ∧
      (∀ k y u, g.laneKey r x l = some k → v.runStep c r (findLeaf v r k) = .ok (y, u) →
        result (.spleaf ⟨d, x, hs⟩) d 4 u ((y.map (fun z => BitVec.ofNat 64 (leafMap z.2))).getD 0)
          ((y.map (fun z => BitVec.ofNat 64 (z.1 + 32))).getD 0)) ∧
      (∀ k root y, g.laneKey r x l = some k → v.LeafOf r k root y → (∀ va b, y = some (va, b) → leafOf b ≠ leafKey k) →
        resultAnd (.spleaf ⟨d, x, hs⟩) d 4 0 0 (SameMemory s)) ∧
      ∀ k root va b, g.laneKey r x l = some k → v.LeafOf r k root (some (va, b)) → leafOf b = leafKey k →
        resultAnd (.spleaf ⟨d, x, hs⟩) d 4 (BitVec.ofNat 64 (leafMap b)) (BitVec.ofNat 64 (va + 32)) (fun t =>
          (s.NoCached → SameMemory s t) ∧
          ∀ a, meetsRanges (v.physRanges r.ctx va r.unit) a = true → v.sealedWord g.part a = false →
            ∀ y ∈ (t.core c).l1, setByte? y.2 (a / 256) (a % 256) = none)
    (∀ d x, spld d x) ∧ (∀ y x, spst y x) ∧ (∀ d x, spnext d x) ∧ ∀ d x, spleaf d x) ∧
  ∀ (s : State) (g : Gang) (o : SpEngineOp), s.Issues g → g.parts s.cur false ≠ 0 → g.treeWaits s.cur = false →
    let p := g.parts s.cur false
    let k := s.core s.cur.core
    let dw := g.descriptor o.s
    let w := (g.sreg o.h).toNat % 2 ^ 32
    let r : Region := ⟨g.ctxKey, s.ttEntry g.ctxKey (handleSlot w)⟩
    let w2 := (dwAt dw 0).toNat % 2 ^ 32
    s.entryError s.cur.core g.ctxKey (handleSlot w) = none →
    let issue := fun (i : Instr) (isImport : Bool) (dst : List DWord) =>
      s.handleOk g.ctxKey w = true → sparseEngineFails isImport r dst dw = [] →
      ∀ loc, s.engineObject g (seOsp dw) (seOaddr dw) = .ok loc →
      Completes s i (fun t h => g.Keeps h ∧ SameMemory s t ∧ ∃ n x, mfind? k.sparse n = none ∧
        mfind? (t.core s.cur.core).sparse n = some x ∧ x.isImport = isImport ∧
        x.who = s.issuerOf g p ∧ x.dw = dw ∧ x.entry = r.e ∧ x.dst = dst ∧
        x.obj = ⟨loc, scopeOf (seScope dw), none⟩ ∧ x.row = 0 ∧ x.status = none ∧ x.finished = false)
    let stale := fun (i : Instr) (h : Nat) => s.handleOk g.ctxKey h = false → g.handles 0 p →
      EntersHandler s g i p 0 .staleTid (fun _ => BitVec.ofNat 64 h)
    issue (.spimport o) true [] ∧ stale (.spimport o) w ∧ stale (.spdense o) w ∧
    (s.handleOk g.ctxKey w = true → s.entryError s.cur.core g.ctxKey (handleSlot w2) = none →
      stale (.spdense o) w2 ∧
      (s.handleOk g.ctxKey w2 = true → issue (.spdense o) false (s.ttEntry g.ctxKey (handleSlot w2))))

/-- R386 to R388, R487 to R489: the lanes of ENQ, in ascending order, each append an item and read 0 while the queue has
room, then read 1; those of DEQ each take the oldest item and read 0, then read 1 with zeros; a lane that is alone adds 1
to the queue's object. QSTAT reads the capacity and the count. A queue that is not the context's traps with PERM, and an
object that does not permit the addition with its cause. The command register starts a command, BUSY until it ends with its
code, or with 4 when the register was written meanwhile (DEDUCED, assumption log 54); the create and destroy commands.
That a bad queue operand has the address 0, and that a create of a live queue answers 3 before its entry is checked, are
DEDUCED (assumption log 35). -/
def Obligations.QueueResults : Prop :=
  (∀ (s : State) (g : Gang), s.Issues g → g.parts s.cur false ≠ 0 →
    let p := g.parts s.cur false
    let ls := lanesOf p
    let c := s.cur.core
    let ready := fun (va : Nat) => va % 8 = 0 ∧ ∃ pa l, s.litAccess g.ctxKey va 8 .signal = .ok pa l
    let added := fun (t : State) (va : Nat) =>
      let v := s.engineTouch g.ctxKey va true
      ls.length = 1 → s.MemOk → ∀ pa, v.objPa g.ctxKey va .signal = some pa →
        t.readHome pa 8 = bytesOf 8 (ofBytes ((v.toHome c pa).readHome pa 8) + 1)
    let frame := fun (h : Gang) (d : List Nat) =>
      (∀ k r, k < 32 → (k ∈ ls → r ∉ d) → g.pendingOn k r = false → h.reg r k = g.reg r k) ∧
      h.preds = g.preds ∧ h.s = g.s ∧ h.fpflags = g.fpflags ∧ g.Stays h
    let traps := fun (i : Instr) (sq va : Nat) =>
      (s.queueOf g sq = none → g.handles 0 p → EntersHandler s g i p 0 .perm (fun _ => 0)) ∧
      ∀ key q cause, s.queueOf g sq = some (key, q) → s.litAccess g.ctxKey va 8 .signal = .cause cause → cause ≠ .nres →
        g.handles 0 p → EntersHandler s g i p 0 cause (fun _ => BitVec.ofNat 64 va)
    (∀ o : EnqOp, g.regsOk (useDst 1 o.d ++ useSrc 3 o.v) = true →
      (s.queueOf g o.q = none → traps (.enq o) o.q 0) ∧
      ∀ key q, s.queueOf g o.q = some (key, q) →
        let room := q.cap - q.items.length
        (0 < room → traps (.enq o) o.q q.iobj) ∧
        ((0 < room → ready q.iobj) → Completes s (.enq o) (fun t h =>
          (∀ i l, ls[i]? = some l → let x : Word := if i < room then 0 else 1
            (h.lane l).latch 0 = x.setWidth 64 ∧ ∀ r, o.d = .reg r → h.reg r l = x) ∧ frame h (useDst 1 o.d) ∧
          (0 < room → added t q.iobj ∧
            mfind? t.queues key = some { q with items := q.items ++ ((ls.take room).map (fun l => g.itemOf l o.v)) }) ∧
          (room = 0 → t.queues = s.queues ∧ SameMemory s t)))) ∧
    (∀ o : DeqOp, g.regsOk (useDst 4 o.d) = true →
      (s.queueOf g o.q = none → traps (.deq o) o.q 0) ∧
      ∀ key q, s.queueOf g o.q = some (key, q) →
        (q.items ≠ [] → traps (.deq o) o.q q.sobj) ∧
        ((q.items ≠ [] → ready q.sobj) → Completes s (.deq o) (fun t h =>
          (∀ i l r, ls[i]? = some l → o.d = .reg r →
            h.reg r l = (if i < q.items.length then 0 else 1) ∧
            ∀ k, k < 3 → h.reg (r + 1 + k) l = (q.items.getD i []).getD k 0) ∧ frame h (useDst 4 o.d) ∧
          (q.items ≠ [] → added t q.sobj ∧ mfind? t.queues key = some { q with items := q.items.drop ls.length }) ∧
          (q.items = [] → t.queues = s.queues ∧ SameMemory s t)))) ∧
    ∀ o : QstatOp,
      (s.queueOf g o.q = none → g.handles 0 p → EntersHandler s g (.qstat o) p 0 .perm (fun _ => 0)) ∧
      ∀ key q, s.queueOf g o.q = some (key, q) →
        ScalarResult s g (.qstat o) o.d (BitVec.ofNat 64 (q.cap * 2 ^ 32 + q.items.length))) ∧
  (∀ (s : State) (part : Nat) (x : Partition) (addr val : DWord), s.bad = none → s.powered = true →
    s.regPlace addr.toNat = .control part 0x90 → s.part? part = some x →
    let op := (val.toNat / 2 ^ 16) % 4
    s.Leads (.privilegedRegisterWrite .host addr val) (fun t => SameMemory s t ∧ t.queues = s.queues ∧
      (x.qBusy = true → t.part? part = some { x with qAgain := true }) ∧
      (x.qBusy = false → ∃ y, t.part? part = some y ∧ y.qNum = val.toNat % 4096 ∧ (y.qBusy = true ↔ op = 1 ∨ op = 2) ∧
        (y.qBusy = true → y.qOp = op) ∧ y.qAgain = x.qAgain ∧ y.qCode = x.qCode))) ∧
  ∀ (s : State) (part n : Nat) (x : Partition), s.bad = none → s.DiesUp → s.MemOk → s.part? part = some x → n < 4096 →
    field x.qtBase 47 0 + 131072 ≤ memoryEnd →
    let a := field x.qtBase 47 0 + 32 * n
    let e := (List.range 4).map (fun k => s.dword (a + 8 * k))
    let d0 := s.dword a
    let turn := fun (op : Nat) => x.qBusy = true → x.qOp = op ∧ x.qNum = n
    let codes := fun (op : Nat) (code : Nat) (more : State → Prop) => turn op →
      s.Leads (if op = 1 then .queueCreate part n else .queueDestroy part n) (fun t =>
        t.part? part = some { x with
          qNum := n, qCode := (if x.qAgain = true then 4 else code), qBusy := false, qOp := 0, qAgain := false } ∧ more t)
    (¬ turn 1 → exec (.queueCreate part n) s = .next s) ∧ (¬ turn 2 → exec (.queueDestroy part n) s = .next s) ∧
    (∀ q, s.queue? part n = some q →
      codes 1 3 (fun t => t.queues = s.queues ∧ SameMemory s t) ∧
      codes 2 0 (fun t => t.queue? part n = none ∧ field (t.dword a) 63 62 = 0)) ∧
    (s.queue? part n = none →
      codes 2 3 (fun t => t.queues = s.queues ∧ SameMemory s t) ∧
      let cap := field d0 44 32
      let covers := ∃ k, part ≤ k ∧ k < part + x.size ∧ k / 4 = field d0 13 12
      let valid := field d0 61 45 = 0 ∧ field d0 31 18 = 0 ∧ field d0 11 8 = 0 ∧ 1 ≤ cap ∧ cap ≤ 4096 ∧
        field d0 17 14 < x.qbanks ∧ covers ∧ field (dwAt e 1) 63 48 = 0 ∧ field (dwAt e 1) 2 0 = 0 ∧
        field (dwAt e 2) 63 48 = 0 ∧ field (dwAt e 2) 2 0 = 0 ∧ dwAt e 3 = 0
      let used := ((s.queues.filter (fun q => q.2.part == part && q.2.die == field d0 13 12 &&
        q.2.bank == field d0 17 14)).map (fun q => q.2.cap)).sum
      (¬ valid → codes 1 1 (fun t => t.queues = s.queues ∧ SameMemory s t)) ∧
      (valid → 4096 < used + cap → codes 1 2 (fun t => t.queues = s.queues ∧ SameMemory s t)) ∧
      (valid → used + cap ≤ 4096 → codes 1 0 (fun t => field (t.dword a) 63 62 = 1 ∧
        t.queue? part n = some {
          part := part, ctx := field d0 7 0, cap := cap, die := field d0 13 12, bank := field d0 17 14,
          iobj := field (dwAt e 1) 47 0, sobj := field (dwAt e 2) 47 0, items := [] })))

/-! Events of waiting gangs (spec 01 R36 to R40; 05 R206, R209; 08 R339; 14 R450, R451, R462; 15 R491, R492). -/

/-- R36 to R40, R185, R188, R206, R209, R339, R342, R450, R451, R460, R462, R491, R492: a blocked lane whose object has
reached its target goes on past the BWAIT, an acquire removing what was bound to the object when the BWAIT issued, and
any other stays; after a resume a lane reads its object again with its checks; a lane or stream past its limit traps with
WDOG; a light fault sets A and, for a write, D of the run head and its stream tries again, as one does whose page was
absent, and the requests that a retry meets are settled as it starts; a code fill installs the frame; a fully ganged gang
with a trigger, a held lock before a held laggard, is promoted in a free place or that of a gang of lower priority, the
most recent among equals, an older gang with the same laggard trigger first, but not under a stop, and demoted 4,096
cycles after its trigger last arose, with every trigger dropped. Which triggers stand, when they arise and that each
standing one is dropped at the limit are DEDUCED (assumption log 43). -/
def Obligations.WaitEventResults : Prop :=
  ∀ (s : State) (c slot : Nat) (g : Gang), s.bad = none → s.gang? c slot = some g →
    let after := fun (t : State) (more : Gang → Prop) => ∃ h, t.gang? c slot = some h ∧ g.Keeps h ∧ more h
    let quiet := ∀ l w, (g.lane l).wait = some w →
      w.again = false ∧ s.objError g.ctxKey w.obj = none ∧ s.wakeError c g w = none
    (s.wakes c g = true → quiet → s.NoDirty c → (∀ l w, (g.lane l).wait = some w → w.acq = true → g.promotion = none) →
      s.Leads (.bwaitWake c slot) (fun t => SameMemory s t ∧ after t (fun h =>
        ∀ l w v, l < 32 → (g.lane l).live = true → (g.lane l).wait = some w →
          (g.lane l).level = g.sliceLevel (l / 4) → (s.objRead c g.ctxKey w.obj).2 = some v →
          (w.target.toNat ≤ v → w.count ≤ w.limit → (h.lane l).pc = w.after ∧ (h.lane l).wait = none) ∧
          (v < w.target.toNat ∨ w.limit < w.count → (h.lane l).pc = (g.lane l).pc ∧ (h.lane l).wait = some w)))) ∧
    (∀ l w v team b, s.wakes c g = true → quiet → g.liveLanes = [l] → (g.lane l).wait = some w → w.acq = true →
      w.count ≤ w.limit → (s.core c).partOf g = some team → w.binds = [b] → g.promotion = none →
      let u := (s.objRead c g.ctxKey w.obj).1
      (s.objRead c g.ctxKey w.obj).2 = some v → w.target.toNat ≤ v → u.wakeError c g w = none →
      s.Leads (.bwaitWake c slot) (fun t => after t (fun h => (h.lane l).pc = w.after ∧ (h.lane l).wait = none) ∧
        (scopeLevel team.wide (widerScope w.scope b.scope) ≠ 0 →
          ∀ a, meetsRanges (u.physRanges (ctxKey team.part team.ctx) b.base b.len) a = true →
            u.sealedWord team.part a = false → ∀ x ∈ (t.core c).l1, setByte? x.2 (a / 256) (a % 256) = none))) ∧
    (s.wakes c g = true → g.handles 0 (BitVec.allOnes 32) →
      let traps := fun (h : Gang) (l : Nat) (k : Cause) (a : DWord) =>
        (h.lane l).pc = g.handlerAddress 0 ∧ (h.lane l).hist = [] ∧ (h.lane l).wait = none ∧
          ∃ f, (h.lane l).handlers = f :: (g.lane l).handlers ∧ f.kind = 0 ∧ f.cause = k ∧ f.delivered = k ∧
            f.deferred = false ∧ f.pc = (g.lane l).pc ∧ f.resume = (g.lane l).pc ∧ f.addr = a
      (∀ l w, g.lateLanes.head? = some l → (g.lane l).wait = some w →
        (∃ st ∈ g.streams, bitAt st.slices (l / 4) = true) →
        s.Leads (.wdog c slot) (fun t => SameMemory s t ∧
          after t (fun h => traps h l .wdog (BitVec.ofNat 64 w.addr)))) ∧
      (∀ st, g.lateLanes = [] → g.lateStream = some st →
        s.Leads (.wdog c slot) (fun t => SameMemory s t ∧ after t (fun h =>
          ∀ k l, k < 8 → bitAt st.slices k = true → l ∈ g.sliceActive k → traps h l .wdog 0))) ∧
      ∀ l w k a, g.liveLanes = [l] → (g.lane l).wait = some w → w.again = true → w.count ≤ w.limit →
        (∃ st ∈ g.streams, bitAt st.slices (l / 4) = true) → s.recheck c g w = .cause k a none → k ≠ .nres →
        s.Leads (.bwaitWake c slot) (fun t => SameMemory s t ∧ after t (fun h => traps h l k a))) ∧
    (∀ before after' st f, g.streams = before ++ st :: after' → (∀ x ∈ before, ∀ fs, x.wait ≠ .light fs) →
      st.wait = .light [f] → s.reaches f.head 8 = true → s.MemOk →
      s.Leads (.lightFault c slot) (fun t =>
        t.dword f.head = s.dword f.head ||| 0x20 ||| (if f.write then 0x40 else 0) ∧
        (s.dev.badTransfers = [] → ∀ a, (a < f.head ∨ f.head + 8 ≤ a) → memRead t.mem a = memRead s.mem a) ∧
        t.gang? c slot = some { g with streams := before ++ { st with wait := .run } :: after' })) ∧
    (s.wakes c g = true →
      s.Leads (.nresRetry c slot) (fun t => SameMemory s t ∧
        t.parts = s.parts ∧ t.gang? c slot = some
          { g with streams := g.streams.map (fun st => if st.wait = .nres then { st with wait := .retry } else st) })) ∧
    (∀ x, s.part? g.part = some x → ∃ y, (s.fqSettle g.part g.ctx).part? g.part = some y ∧ ∀ e, e ∈ y.fqOut ↔
      e ∈ x.fqOut ∧
        (e.ctx = g.ctx → e.kind ≠ 2 → ∀ l es, s.walk (ctxKey g.part e.ctx) e.va = .leaf l es →
          l.res = false ∧ l.sysp = false) ∧
        (e.ctx = g.ctx → e.kind = 2 → (s.ctx (ctxKey g.part e.ctx)).hwm ≤
          e.page % 2 ^ (s.ctx (ctxKey g.part e.ctx)).psLog)) ∧
    (∀ va pa l, s.fetchWait c = some (g, va) → s.fetchTranslate (dieOfCore c) g.ctxKey va = .ok pa l →
      s.Leads (.fetchFill c) (fun t => SameMemory s t ∧
        ((∀ f ∈ (s.core c).icache, f.ctx = g.ctxKey → f.va ≠ va / 256 * 256) →
          (t.core c).icache.head? = some ⟨g.ctxKey, va / 256 * 256, s.readHome (pa / 256 * 256) 256⟩) ∧
        after t (fun h => h.lanes = g.lanes ∧ ∀ i st a, g.streams[i]? = some st → s.missing c g st = some a →
          a / 256 = va / 256 → (h.streamAt i).wait = .run))) ∧
    (∀ tr, s.wakes c g = true → g.promotion = none → g.fullyGanged = true →
      (g.held.find? (fun x => x.priority == 1) = some tr ∨
        (g.held.find? (fun x => x.priority == 1) = none ∧ g.held.find? (fun x => x.priority == 2) = some tr) ∨
        (g.held = [] ∧ (s.core c).laggedOn g = [] ∧ tr = .tail ∧ Trigger.tail ∉ g.spent ∧
          (∃ l, mfind? s.launches g.launch = some l ∧ l.toSend = false) ∧
          (∀ x ∈ s.cores, ∀ y ∈ x.2.prefetch, y.launch ≠ g.launch) ∧
          ((s.core c).slots.filter (fun x => x.2.launch == g.launch)).length ≤ 4)) →
      (s.olderLaggard (s.core c) g tr = true → exec (.promotion c slot) s = .next s) ∧
      (s.olderLaggard (s.core c) g tr = false →
      let promoted := fun (t : State) => SameMemory s t ∧ after t (fun h =>
        (∃ st, h.promotion = some ⟨s.clockOf c, tr, s.clockOf c, st⟩) ∧ h.held = g.held.filter (fun x => x != tr))
      ((s.core c).promoted.length < 4 → s.Leads (.promotion c slot) promoted) ∧
      ∀ j y p, 4 ≤ (s.core c).promoted.length → firstToYield (s.core c).promoted = some (j, y) →
        s.gang? c j = some y → y.promotion = some p → tr.priority < p.trigger.priority →
        s.Leads (.promotion c slot) (fun t => promoted t ∧ ∃ z, t.gang? c j = some z ∧ y.Keeps z ∧
          z.promotion = none ∧ p.trigger ∈ z.held))) ∧
    (s.stopping g.part = true → exec (.promotion c slot) s = .next s) ∧
    ∀ p, g.promotion = some p →
      (s.clockOf c < p.arose + 4096 → exec (.promotionTimeout c slot) s = .next s) ∧
      (p.arose + 4096 ≤ s.clockOf c → s.Leads (.promotionTimeout c slot) (fun t => SameMemory s t ∧ after t (fun h =>
        h.promotion = none ∧ h.held = [] ∧ (∀ x ∈ g.spent, x ∈ h.spent) ∧
        (s.tailHolds (s.core c) g = true → Trigger.tail ∈ h.spent) ∧
        ∀ o ∈ (s.core c).laggedOn g, g.blockedOn o = false → Trigger.laggard o ∈ h.spent)))

/-! Dispatch and placement (spec 15 R478 to R485). -/

/-- R46, R66, R478, R480 to R485: a die makes one decision in a fabric cycle; it goes to the highest PRIO, at which a
partition keeps the turn for WEIGHT decisions and then hands it to the next of that PRIO's cycle; it sends the next team of
the oldest launch of the partition that it picks to the lowest core with a request, or with none to send recalls a
prefetched team for it. A prefetched team, the parts of a wide team and a co-resident launch are placed on the cores that
R482 to R484 name, when the energy window admits them, and their gangs start as R46 says. A wide or co-resident launch that
has waited 100 µs keeps the younger ones back. That ST becomes 3 at the first placement (assumption log 38), which team is
recalled (39), that an offer which is not admitted is recorded (40) and that the refusal is tested on an emptied partition
with all cores up (41) are DEDUCED. -/
def Obligations.DispatchResults : Prop :=
  (∀ (d : Die) (xs : List (Nat × Partition)), xs.Pairwise (fun a b => a.1 < b.1) →
    (xs ≠ [] → (d.pick xs).isSome = true) ∧
    ∀ q k, d.pick xs = some (q, k) → ∃ y, (q, y) ∈ xs ∧ (∀ z ∈ xs, z.2.prio ≤ y.prio) ∧
      let turn := mfind? d.turns y.prio
      (∃ n, turn = some (q, n) ∧ k = n + 1 ∧ n < y.weight) ∨
        (k = 1 ∧ (∀ z ∈ xs, ∀ n, turn = some (z.1, n) → z.2.prio = y.prio → z.2.weight ≤ n) ∧
          let rivals := xs.filter (fun z => z.2.prio == y.prio)
          (turn = none → ∀ z ∈ rivals, q ≤ z.1) ∧
          ∀ t n, turn = some (t, n) → (t < q ∧ ∀ z ∈ rivals, t < z.1 → q ≤ z.1) ∨
            ∀ z ∈ rivals, z.1 ≤ t ∧ q ≤ z.1)) ∧
  (∀ a : GangStart, a.lanes ≤ 32 →
    let h := Gang.start a
    (∀ l, l < 32 → ((h.lane l).live = true ↔ l < a.lanes) ∧
      (l < a.lanes → (h.lane l).pc = BitVec.ofNat 48 (a.code + a.entry)) ∧ (h.lane l).hist = [] ∧
      (h.lane l).handlers = [] ∧ ∀ r, h.reg r l = 0) ∧
    (∀ n, h.sreg n = if n = 0 then BitVec.ofNat 64 a.args else 0) ∧
    (∀ l n, l < 32 → h.predAt n l = (n == 7 || (n == 0 && decide (l < a.lanes)))) ∧
    h.fpflags = 0 ∧ h.promotion = none ∧ ∃ m, h.streams = [⟨m, .run⟩] ∧
      ∀ k, k < 8 → (bitAt m k = true ↔ 4 * k < a.lanes)) ∧
  (∀ (s : State) (d : Nat), s.bad = none → (s.die d).decided = some s.time → exec (.dispatchDecision d) s = .next s) ∧
  (∀ (s : State) (p : Nat) (x : Partition), s.bad = none → s.part? p = some x →
    let d := dispatchDie p x
    (∀ k, x.en = true → x.frz = false → x.qbanks ≠ 0 → s.Picks p d k →
      let decides := fun (c : Nat) (more : State → Prop) =>
        let all := fun (t : State) => SameMemory s t ∧ (t.die d).decided = some s.time ∧ more t
        s.Leads (.dispatchDecision d) all ∧
          (s.partOfCluster (clusterOfCore c) = some (p, x) → s.Leads (.prefetchRequest c) all)
      (∀ c n l ns cs, s.sendable p = n :: ns → mfind? s.launches n = some l →
        (s.ctx (ctxKey p l.ctx)).state = .live → tcbCores l.dw = false → tcbParts l.dw ≤ 1 →
        s.requests p x.size = c :: cs →
        decides c (fun t => (t.core c).prefetch = (s.core c).prefetch ++ [⟨n, l.nextTeam⟩] ∧
          ∃ m, mfind? t.launches n = some m ∧ m.next = l.took.next ∧ m.again = l.took.again ∧
            m.running = l.running)) ∧
      (∀ c e y, s.sendable p = [] →
        (s.requests p x.size).find? (fun b => !(s.recallable p x b).isEmpty) = some c →
        lowestTeam (s.recallable p x c) = some (e, y) →
        decides c (fun t => (t.core e).prefetch = (s.core e).prefetch.filter (fun z => z != y) ∧
          (t.core c).prefetch = (s.core c).prefetch ++ [y]))) ∧
    ∀ n l ns t0, s.sendable p = n :: ns → mfind? s.launches n = some l → tcbCores l.dw = false →
      1 < tcbParts l.dw → l.since = some t0 → t0 + 120000 ≤ s.time →
      (∀ k ∈ clustersOf l.part x.size, (s.fitting l k).length < tcbParts l.dw) → (∀ c, s.recallable p x c = []) →
      (∀ y ∈ s.parts, dispatchDie y.1 y.2 = d → y.1 ≠ p → s.nextSend y.1 = (s, none)) →
      exec (.dispatchDecision d) s = .next s) ∧
  (∀ (s : State) (p n : Nat) (x : Partition) (l : Launch), s.bad = none → s.DiesUp → s.part? p = some x →
    mfind? s.launches n = some l → l.part = p → s.stopping p = false →
    (s.ctx (ctxKey p l.ctx)).state = .live → l.tcb + 128 ≤ memoryEnd →
    let d := dispatchDie p x
    let runs := fun (t : State) (team : Nat) => ∃ m, mfind? t.launches n = some m ∧ team ∈ m.running
    let placed := fun (t : State) (c : Nat) (f : Fit) (team number : Nat) (cores : List Nat) =>
      (t.core c).parts = (s.core c).parts ++ [f.part l n team number cores] ∧
      ∀ j, j < tcbGangs l.dw →
        t.gang? c (f.slots.getD j 0) = some (Gang.start (f.gang l n team number (s.core c).arrivals j))
    let now := x.window = s.windowNow
    let used := if now then x.used else 0
    let adm := if now then x.adm else 0
    let admits := fun (est : Nat) => x.ebudget = 0 ∨ est + used + adm ≤ x.ebudget ∨
      (x.ebudget < est ∧ ¬ (now ∧ x.offered = true))
    let account := fun (t : State) (charge : Nat) => t.part? p = some { x with
      window := s.windowNow, used := used, offered := true,
      adm := if x.ebudget = 0 ∨ charge = 0 then adm else min (adm + charge) 0xFFFFFFFF }
    (∀ c team rest f, s.partOfCluster (clusterOfCore c) = some (p, x) → (s.core c).prefetch = ⟨n, team⟩ :: rest →
      s.fitOn c l.dw = some f →
      (admits l.estimate → s.Leads (.teamPlacement c) (fun t => placed t c f team 0 [c] ∧ runs t team ∧
        (t.core c).prefetch = rest ∧ (adm ≤ 0xFFFFFFFF → account t l.estimate) ∧
        (s.MemOk → s.NoCached → s.dev.badTransfers = [] → s.tcbSt l.tcb = 2 → t.tcbSt l.tcb = 3))) ∧
      (¬ admits l.estimate → s.Leads (.teamPlacement c) (fun t => t.cores = s.cores ∧ account t 0))) ∧
    (∀ turn, x.en = true → x.frz = false → x.qbanks ≠ 0 → (s.sendable p).head? = some n → s.Picks p d turn →
      let w := s.modDie d (fun y => { y with
        turns := mput y.turns (topPrio (s.rivals p d)) (p, turn), decided := some s.time })
      (∀ k, tcbCores l.dw = false → 1 < tcbParts l.dw → k ∈ clustersOf p x.size →
        tcbParts l.dw ≤ (s.fitting l k).length →
        (∀ j ∈ clustersOf p x.size, j < k → (s.fitting l j).length < tcbParts l.dw) → admits l.estimate →
        s.Leads (.wideTeamPlacement p) (fun t => runs t l.nextTeam ∧
          ∀ i c f, i < tcbParts l.dw → (s.fitting l k)[i]? = some c → s.fitOn c l.dw = some f →
            placed t c f l.nextTeam i ((s.fitting l k).take (tcbParts l.dw)))) ∧
      (∀ u v, tcbCores l.dw = true →
        (∀ z, z = s ∨ z = w → ((z.emptied p x.size).placeAll x.size n l).isSome = true ∧
          (z.placeAll x.size n l).isSome = true) → admits (l.estimate * tcbTeams l.dw) →
        u = (w.offer p (l.estimate * tcbTeams l.dw)).1 → u.placeAll x.size n l = some v → v.bad = none →
        s.Leads (.coresidentPlacement p) (fun t => t.cores = v.cores ∧ t.mem = v.mem ∧
          (∀ team, team < tcbTeams l.dw → runs t team) ∧
          ∃ m, mfind? t.launches n = some m ∧ m.next = tcbTeams l.dw ∧ m.again = [])) ∧
      (tcbCores l.dw = true →
        (∀ z, z = s ∨ z = w → (z.emptied p x.size).placeAll x.size n l = none) → tcbCrec l.dw + 32 ≤ memoryEnd →
        Apart (tcbCrec l.dw) 32 l.tcb 128 → s.dev.badTransfers = [] → s.MemOk →
        s.Leads (.coresidentPlacement p) (fun t => mfind? t.launches n = none ∧
          (t.dword (tcbCrec l.dw)).toNat = tcbSeq l.dw * 2 ^ 32 + 2 ∧ t.tcbSt l.tcb = 4))) ∧
    ∀ t0, (s.sendable p).head? = some n → l.since = some t0 → tcbCores l.dw = true ∨ 1 < tcbParts l.dw →
      t0 + 120000 ≤ s.time →
      s.Leads .dispatchHoldTimeout (fun t => SameMemory s t ∧ mfind? t.launches n = some { l with hold := true }))

/-! Rings, submission and completion (spec 15 R471 to R477, R485; 16 R515; 17 R529 to R534). -/

/-- R473 to R477, R485, R515, R531, R532: a check of a ring accepts its next valid item; the oldest accepted command
runs, its completion entry is item * 256 + status, and the count of the ring rises: a submission that R473 refuses has
status 2, one that waits for predecessors or enters the queue status 1, with the successors that its block lists then,
NOP status 1, an unknown command status 3. The oldest finished launch completes: its record holds SEQ, the status and the number of teams that ended, its block ST 4,
and a successor's PRED falls by one; an interrupted launch lists the teams that did not end. A new energy window clears
USED and ADM. -/
def Obligations.RingAndLaunchResults : Prop :=
  ((∀ (s : State) (p : Nat) (y : Partition) (j : Job) (js : List Job), s.bad = none → s.DiesUp → s.MemOk →
    s.dev.badTransfers = [] → s.part? p = some y → y.nen = false → y.jobs = j :: js →
    let e := y.ringEntry j.ring
    let a := field (s.dword (e + 8)) 47 0 + 16 * (j.item % 2 ^ field (s.dword e) 56 52)
    let tcb := j.arg
    a + 16 ≤ memoryEnd →
    let done := fun (i : Instr) (status : Nat) (more : State → Partition → Prop) => s.Leads i (fun t =>
      t.dword a = BitVec.ofNat 64 (j.item * 256 + status) ∧ t.dword (a + 8) = 0 ∧
      ∃ z, t.part? p = some z ∧ z.jobs = js ∧ mget 0 z.done j.ring = mget 0 y.done j.ring + 1 ∧ more t z)
    let otherwiseSame := fun (t : State) (_ : Partition) =>
      ∀ b, (b < a ∨ a + 16 ≤ b) → memRead t.mem b = memRead s.mem b
    let taken := tcb % 128 = 0 ∧ (s.tcbSt tcb = 0 ∨ s.tcbSt tcb = 4) ∧
      s.tcbValid p (s.tcbWords tcb) (s.tcbSucc tcb) = true
    (j.op = 0 → done (.nop p) 1 otherwiseSame) ∧
    (2 ≤ j.op → done (.unknownRingOp p) 3 otherwiseSame) ∧
    (j.op = 1 → tcb + 128 ≤ memoryEnd →
      tcbNovf (s.tcbWords tcb) = 0 ∨ tcbOvf (s.tcbWords tcb) + 8 * tcbNovf (s.tcbWords tcb) ≤ memoryEnd ∧
        Apart (tcbOvf (s.tcbWords tcb)) (8 * tcbNovf (s.tcbWords tcb)) tcb 128 →
      (¬ taken → done (.submit p) 2 otherwiseSame) ∧
      (taken → Apart tcb 128 e 64 → Apart tcb 128 a 16 →
        (s.tcbPred tcb ≠ 0 → done (.submit p) 1 (fun t z =>
          t.tcbSt tcb = 1 ∧ t.tcbPred tcb = s.tcbPred tcb ∧ z.launches = y.launches)) ∧
        (s.tcbPred tcb = 0 → done (.submit p) 1 (fun t z =>
          t.tcbSt tcb = 2 ∧ z.launches = y.launches ++ [s.nextLaunch] ∧
          ∃ l, mfind? t.launches s.nextLaunch = some l ∧ l.part = p ∧ l.tcb = tcb ∧
            l.ctx = tcbCtx (s.tcbWords tcb) ∧ l.next = 0 ∧ l.running = [] ∧ l.ended = [] ∧
            l.succ = (s.tcbSucc tcb).take (tcbNsucc (s.tcbWords tcb)) ++
              (s.tcbOverflow (s.tcbWords tcb)).map (fun b => field b 47 0)))))) ∧
  ∀ (s : State) (p r : Nat) (y : Partition) (x : Ring), s.bad = none → s.DiesUp → s.MemOk → s.dev.badTransfers = [] →
    s.parts = [(p, y)] → y.nen = false → r < 64 → s.ring? y r = some x →
    (∀ k, k < 64 → k ≠ r → s.ring? y k = none) → x.entry + 64 ≤ memoryEnd →
    x.base + 128 * 2 ^ x.szLog ≤ memoryEnd → x.cons0 < x.kick → s.itemValid x x.cons0 = true →
    s.itemValid x (x.cons0 + 1) = false → Apart (x.slot (x.cons0 + 1)) 128 x.entry 64 →
    s.Leads .ringRecheck (fun t => (t.dword (x.entry + 16)).toNat = x.cons0 + 1 ∧
      (t.dword (x.entry + 48)).toNat = x.cons0 + 1 ∧
      ∃ z, t.part? p = some z ∧ z.jobs = y.jobs ++
        [⟨r, x.cons0, ofBytes (s.readHome (x.slot x.cons0 + 8) 2), (s.dword (x.slot x.cons0 + 16)).toNat⟩])) ∧
  (∀ (s : State) (p n : Nat) (x : Partition) (l : Launch) (older younger : List Nat), s.bad = none → s.DiesUp → s.MemOk →
    s.dev.badTransfers = [] → s.part? p = some x → x.launches = older ++ n :: younger →
    (∀ k ∈ older, ∀ m, mfind? s.launches k = some m → m.finished = false) →
    mfind? s.launches n = some l → l.finished = true → l.part = p →
    let crec := tcbCrec l.dw
    let missing := interruptedList l
    let size := 32 + 8 * missing.length
    l.tcb + 128 ≤ memoryEnd → crec + size ≤ memoryEnd → Apart crec size l.tcb 128 →
    let completes := fun (status : Nat) (more : State → Prop) => s.Leads (.launchComplete p) (fun t =>
      (t.dword crec).toNat = tcbSeq l.dw * 2 ^ 32 + status ∧
      t.dword (crec + 8) = BitVec.ofNat 64 l.ended.length ∧ t.tcbSt l.tcb = 4 ∧
      mfind? t.launches n = none ∧
      (∃ z, t.part? p = some z ∧ z.launches = x.launches.filter (fun k => k != n)) ∧ more t)
    (l.interrupted = false →
      (l.succ = [] → completes 1 (fun _ => True)) ∧
      ∀ b, l.succ = [b] → b + 128 ≤ memoryEnd → Apart b 128 crec size →
        Apart b 128 l.tcb 128 → (s.ctx (ctxKey p (field (s.dword b) 55 48))).state ≠ .free → 2 ≤ s.tcbPred b →
        completes 1 (fun t => t.tcbPred b = s.tcbPred b - 1 ∧ t.tcbSt b = s.tcbSt b)) ∧
    (l.interrupted = true → completes 4 (fun t => t.dword (crec + 16) = BitVec.ofNat 64 l.placed ∧
      t.dword (crec + 24) = BitVec.ofNat 64 missing.length ∧
      ∀ i, i < missing.length → t.dword (crec + 32 + 8 * i) = BitVec.ofNat 64 (missing.getD i 0)))) ∧
  ∀ s : State, s.bad = none → s.Leads .energyWindowStart (fun t => SameMemory s t ∧ ∀ p x, s.part? p = some x →
    ∃ y, t.part? p = some y ∧ y.window = s.windowNow ∧
      (x.window ≠ s.windowNow → y.used = 0 ∧ y.adm = 0 ∧ y.offered = false) ∧ y.ebudget = x.ebudget)

/-! Partitions and contexts (spec 13 R430 to R440; 14 R455 to R467; 15 R487; 16 R497 to R510). -/

/-- R434, R435, R438, R498 to R500, R502: a PARTMAP write that is refused sets ERR alone, one that is made clears it and
resets each partition that is new or changes size, none in recovery; a QBANKS write beyond 16 banks of a die has no
effect; a stop ends the leases and demotes the gangs, and with STOPDL 0, at its deadline, or by FRZ, freezes them and the
engine operations of the contexts that are on the cores; a resume clears both, and a gang that stopped at its PPTs keeps the registers and the granules that its hints named, the
others reading zero; blocked lanes read their objects again. That a stop demotes at once is the model's choice (log
entry 33). -/
def Obligations.PartitionControlResults : Prop :=
  (∀ (s : State) (val : DWord), s.bad = none →
    ((mapOk val = false ∨ (∃ p ∈ s.mapChanges val, s.partInUse p = true) ∨ s.dev.phase = 0xE0) →
      exec (.partmapWrite val) s = .next { s with dev := { s.dev with err := true } }) ∧
    (mapOk val = true → (∀ p ∈ s.mapChanges val, s.partInUse p = false) → s.dev.phase ≠ 0xE0 →
      s.Leads (.partmapWrite val) (fun t => SameMemory s t ∧ t.dev = { s.dev with partmap := val, err := false } ∧
        ∀ p, p < 16 → t.partSize p = mapSize val p ∧
          (mapSize val p = s.partSize p → t.part? p = s.part? p) ∧
          (mapSize val p ≠ s.partSize p → mapSize val p ≠ 0 →
            t.part? p = some { Partition.reset (mapSize val p) with
              window := s.windowNow, mirror := s.dieAway (dieOfCluster p) })))) ∧
  ∀ (s : State) (p : Nat) (x : Partition), s.bad = none → s.part? p = some x →
    let within := fun (c : Nat) => 64 * p ≤ c ∧ c < 64 * (p + x.size)
    let bank := fun (z : State) (c i : Nat) => mget Bank.free (z.core c).banks i
    let present := fun (c slot : Nat) (g : Gang) => within c ∧ s.gang? c slot = some g ∧
      (s.core c).bankSaved g.bank = false
    let frozen := fun (t : State) (y : Partition) => SameMemory s t ∧
      t.part? p = some { y with frz := true, frozen := true } ∧
      (∀ c, within c → (t.core c).lease.holder = none ∧
        ∀ slot g, s.gang? c slot = some g → mfind? (t.core c).lease.requests slot = none) ∧
      (∀ c i, within c → bank t c i =
        if (bank s c i).saved = true ∨ (bank s c i).ctx = none then bank s c i else { bank s c i with held := true }) ∧
      ∀ c slot g, present c slot g → ∃ h, t.gang? c slot = some h ∧ g.Keeps h ∧
        (g.atPpt = false → h.frozen = true ∧ h.promotion = none)
    (∀ val : DWord, let n := field val 4 0
      let full := ∃ d, d < 4 ∧ coversDie p x.size d = true ∧ 16 < n + s.banksOnDie d p
      (full → exec (.qbanksWrite p val) s = .next s) ∧
      (¬ full → s.Leads (.qbanksWrite p val) (fun t => SameMemory s t ∧ t.part? p = some { x with qbanks := n }))) ∧
    (∀ q, exec (.stop (.system q) p) s = .next s ∧ exec (.frz (.system q) p) s = .next s ∧
      exec (.partitionResume (.system q) p) s = .next s) ∧
    (∀ who, mayHS who = true →
      (x.stop = true → exec (.stop who p) s = .next s) ∧ (x.frz = true → exec (.frz who p) s = .next s) ∧
      (x.stop = false → x.stopdl ≠ 0 → s.Leads (.stop who p) (fun t => SameMemory s t ∧
        t.part? p = some { x with stop := true, stopAt := some s.time } ∧
        (∀ c, within c → (t.core c).lease.holder = none) ∧
        ∀ c slot g, present c slot g → ∃ h, t.gang? c slot = some h ∧ g.Keeps h ∧ h.promotion = none ∧
          h.streams = g.streams ∧ h.frozen = g.frozen ∧ ∀ l, (h.lane l).pc = (g.lane l).pc)) ∧
      (x.stop = false → x.stopdl = 0 → x.frz = false → s.Leads (.stop who p) (fun t =>
        frozen t { x with stop := true, stopAt := some s.time })) ∧
      (x.frz = false → s.Leads (.frz who p) (fun t => frozen t x)) ∧
      ((x.stop = true ∨ x.frz = true) → s.Leads (.partitionResume who p) (fun t => SameMemory s t ∧
        t.part? p = some { x with stop := false, frz := false, stopAt := none, frozen := false } ∧
        (∀ c i, within c → bank t c i = if (bank s c i).saved = true then bank s c i else { bank s c i with held := false }) ∧
        (∀ c, within c → ∀ slot g, s.gang? c slot = some g → g.halted = true →
          mfind? (t.core c).lease.requests slot = none) ∧
        (∀ c u lv i, within c → u ∈ (s.core c).parts → u.ended = false → (s.core c).bankSaved u.bank = false →
          (s.core c).partNames u = some lv → i < u.granules → u.hasGranule (u.granule0 + i) = true →
          bitAt lv.granules i = false →
          ((t.core c).granule (u.granule0 + i)).owner = .threads ∧
          ((t.core c).granule (u.granule0 + i)).poison = ((s.core c).granule (u.granule0 + i)).poison ∧
          ∀ b, b < 4096 → (t.core c).sbyte (4096 * (u.granule0 + i) + b) = 0) ∧
        ∀ c slot g, present c slot g → ∃ h, t.gang? c slot = some h ∧ h.frozen = false ∧ h.liveness = none ∧
          h.preds = g.preds ∧ h.s = g.s ∧ h.fpflags = g.fpflags ∧
          (∀ l, (h.lane l).wait = (g.lane l).wait.map (fun w => { w with again := true })) ∧
          ((∀ st ∈ g.streams, ∀ k, st.waitsAt k = false) → h.streams = g.streams.map (fun st =>
            if st.wait = .stopped then { st with wait := .run }
            else if st.wait = .nres then { st with wait := .retry } else st)) ∧
          ∀ l r, l < 32 → g.pendingOn l r = false →
            (g.atPpt = false → h.reg r l = g.reg r l) ∧
            ∀ lv, g.atPpt = true → g.liveness = some lv → h.reg r l = if bitAt lv.regs r then g.reg r l else 0))) ∧
    ∀ t0, x.stop = true → x.stopAt = some t0 → 6 * x.stopdl ≤ 5 * (s.time - t0) → s.stopped p = false →
      s.Leads (.stopdlExpire p) (fun t => frozen t x)

/-- R430, R431, R436, R437, R439: a privileged write has no effect where no register is, on the device block for a party
other than the host but for a service core's write of MBXTAIL, and on a control block for a system context of another
partition; FQHEAD is written by a service core alone (R457); the host's writes of the control registers and of the
fields of a free context, and the watchdog limit of every context; HWM of a context that is not free stays at least 4
KiB. That "RO (S writes)" names a service core as the one writer is DEDUCED (assumption log 68). -/
def Obligations.PrivilegedWrites : Prop :=
  ∀ (s : State) (addr val : DWord), s.bad = none → s.powered = true →
    let place := s.regPlace addr.toNat
    let writes := fun (who : Party) => exec (.privilegedRegisterWrite who addr val) s
    (∀ who, place = .nothing → writes who = .next s) ∧
    (∀ who off, place = .device off → who ≠ .host →
      (who ≠ .service ∨ ∀ d, d < 4 → off ≠ 0x110 + 0x20 * d) → writes who = .next s) ∧
    (∀ d, d < 4 → place = .device (0x110 + 0x20 * d) → ∃ t, writes .service = .next t ∧ SameMemory s t ∧
      t.die d = { s.die d with mbxTail := val } ∧ (∀ e, e ≠ d → t.die e = s.die e) ∧ t.dev = s.dev) ∧
    (∀ p off q, place = .control p off → p ≠ q → writes (.system q) = .next s) ∧
    (∀ p x, place = .control p 0x68 → s.part? p = some x →
      (∀ who, who ≠ .service → writes who = .next s) ∧
      (x.fqHeld = [] → ∃ t, writes .service = .next t ∧ SameMemory s t ∧ t.cores = s.cores ∧
        t.part? p = some { x with fqHead := val })) ∧
    (∀ p off x, place = .control p off → s.part? p = some x →
      let becomes := fun (o : Nat) (y : Partition) => off = o →
        ∃ t, writes .host = .next t ∧ t.part? p = some y ∧ SameMemory s t ∧ t.cores = s.cores ∧ t.ctxs = s.ctxs
      becomes 0x10 { x with ebudget := field val 31 0 } ∧
      becomes 0x28 { x with stopdl := field val 31 0 } ∧
      becomes 0x40 { x with sdBase := BitVec.ofNat 64 (val.toNat % 2 ^ 48) } ∧
      becomes 0x48 { x with sdLen := BitVec.ofNat 64 (val.toNat % 2 ^ 49) } ∧
      becomes 0x60 { x with fqBase := BitVec.ofNat 64 (val.toNat % 2 ^ 48) } ∧
      becomes 0x88 { x with qtBase := BitVec.ofNat 64 (val.toNat % 2 ^ 48) } ∧
      becomes 0xA8 { x with swAddr := BitVec.ofNat 64 (val.toNat % 2 ^ 48) } ∧
      becomes 0xB0 { x with hsBase := BitVec.ofNat 64 (val.toNat % 2 ^ 48) } ∧
      becomes 0xC0 { x with crtBase := BitVec.ofNat 64 (val.toNat % 2 ^ 48) } ∧
      becomes 0xC8 { x with nen := val.getLsbD 12, nconn := field val 11 0 }) ∧
    ∀ p c w, place = .descriptor p c w →
      let key := ctxKey p c
      let x := s.ctx key
      let becomes := fun (n : Nat) (y : Ctx) => w = n →
        ∃ t, writes .host = .next t ∧ t.ctx key = y ∧ SameMemory s t ∧ t.cores = s.cores ∧ t.parts = s.parts
      becomes 5 { x with wdog := if val.toNat < 0x400 then 0x400 else val } ∧
      (x.state = .free →
        becomes 1 { x with ptBase := BitVec.ofNat 64 (val.toNat % 2 ^ 48) } ∧
        becomes 2 { x with ttBase := BitVec.ofNat 64 (val.toNat % 2 ^ 48) } ∧
        becomes 3 { x with pb := BitVec.ofNat 64 (val.toNat % 2 ^ 48) } ∧
        becomes 4 { x with psLog := field val 37 32, hwm := field val 31 0 } ∧
        becomes 6 { x with frec := BitVec.ofNat 64 (val.toNat % 2 ^ 48) }) ∧
      (x.state ≠ .free →
        becomes 1 x ∧ becomes 2 x ∧ becomes 3 x ∧ becomes 4 { x with hwm := max (field val 31 0) 4096 } ∧ becomes 6 x)

/-- R439, R440, R456 to R459, R461, R462, R465, R494 to R497: a STATE write of 1 makes a free context that R440 allows
live, clears its tensor table, sets WDOG and raises HWM, or gives its error; a write of 0 frees a context that is not
busy; KILL and RESUME with END fault a live context, end its gangs, spilled ones too, its engine operations and its
launches and write its status record; RESUME retries what waits; a shootdown refuses, gives its code, or sweeps the
translations of its range, and a purge removes its frames from the L1s too and stays BUSY while an engine operation
holds a translation. What becomes of the fault entries of a context that ends, and that a shootdown of length 0 ends with
CODE 0 whatever its base, are DEDUCED (assumption logs 71 and 44). -/
def Obligations.ContextEventResults : Prop :=
  ∀ (s : State) (who : Party) (p n : Nat) (x : Partition), s.bad = none → s.DiesUp → s.part? p = some x →
    let key := ctxKey p (n % 256)
    let k := s.ctx key
    let table := field k.ttBase 47 0
    (mayHS who = true →
      (k.state = .free → k.createOk = true → table + 262144 ≤ memoryEnd → s.MemOk →
        s.Leads (.contextCreate who p n) (fun t =>
          t.ctx key = { k with state := .live, err := 0, wdog := 0x100000000, hwm := max k.hwm 4096 } ∧
          ∀ a, ((table ≤ a ∧ a < table + 262144) → memRead t.mem a = 0) ∧
            (s.dev.badTransfers = [] → (a < table ∨ table + 262144 ≤ a) → memRead t.mem a = memRead s.mem a))) ∧
      (k.state = .free → k.createOk = false →
        s.Leads (.contextCreate who p n) (fun t => SameMemory s t ∧ t.ctx key = { k with err := 1 })) ∧
      (k.state = .live → exec (.contextCreate who p n) s = .next s) ∧
      (k.state = .free → exec (.contextFree who p n) s = .next s) ∧
      (k.state = .faulted →
        s.Leads (.contextCreate who p n) (fun t => SameMemory s t ∧ t.ctx key = { k with err := 3 })) ∧
      (k.state ≠ .free → s.ctxBusy key = true →
        s.Leads (.contextFree who p n) (fun t => SameMemory s t ∧ t.ctx key = { k with err := 2 })) ∧
      (k.state ≠ .free → s.ctxBusy key = false →
        s.Leads (.contextFree who p n) (fun t => t.ctx key = { k with state := .free, err := 0 } ∧
          (∃ y, t.part? p = some y ∧ y.seals = x.seals.filter (fun z => z.ctx != n % 256)) ∧
          ∀ c b, 64 * p ≤ c → c < 64 * (p + x.size) →
            (mget .free (t.core c).banks b).ctx ≠ some (n % 256)))) ∧
    (mayHSP p who = true →
      s.Leads (.resume who p n) (fun t => SameMemory s t ∧ (∃ out, t.part? p = some { x with fqOut := out } ∧
          ∀ e, e ∈ out ↔ e ∈ x.fqOut ∧ ¬ (e.ctx = n % 256 ∧ s.fqMet p e = true)) ∧
        ∀ c slot g, s.gang? c slot = some g →
          t.gang? c slot = some (if g.ctxKey = key ∧ s.wakes c g = true then { g with streams := g.streams.map (fun st =>
            if st.wait = .nres then { st with wait := .retry } else st) } else g)) ∧
      (let faults := fun (i : Instr) (status : Nat) =>
        (k.state ≠ .live → exec i s = .next s) ∧
        (k.state = .live → s.Quiet →
        (∀ y ∈ s.cores, y.2.snapshotSlots.all (fun z => z.1 != key) = true) →
        (∀ y ∈ s.spilled, y.items.snapshotSlots.all (fun z => z.1 != key) = true) → field k.frec 47 0 + 1024 ≤ memoryEnd →
        (∀ y ∈ s.launches, tcbCrec y.2.dw + 32 ≤ memoryEnd ∧ y.2.tcb + 128 ≤ memoryEnd) →
        let frec := field k.frec 47 0
        s.Leads i (fun t => t.ctx key = { k with state := .faulted } ∧
          (∀ c slot h, t.gang? c slot = some h → h.ctxKey ≠ key) ∧
          (∀ z ∈ t.spilled, z.ctx ≠ key) ∧ (∀ z ∈ s.spilled, z.ctx ≠ key → z ∈ t.spilled) ∧
          (∀ y ∈ t.cores, y.2.opsOf key = false) ∧
          (∃ y, t.part? p = some y ∧ y.fqHeld = x.fqHeld ∧ ∀ e ∈ y.fqOut, e ∈ x.fqOut ∧ e.ctx ≠ n % 256) ∧
          (∀ m l, mfind? s.launches m = some l → ctxKey l.part l.ctx = key → mfind? t.launches m = none) ∧
          (s.NoCached → s.MemOk → s.dev.badTransfers = [] → (∀ y ∈ s.launches, ctxKey y.2.part y.2.ctx ≠ key) →
            (s.dword frec = 0 → t.dword frec = BitVec.ofNat 64 (2 ^ 32 + status)) ∧
            (s.dword frec ≠ 0 → field (t.dword frec) 63 32 = min (field (s.dword frec) 63 32 + 1) 0xFFFFFFFF ∧
              field (t.dword frec) 31 0 = field (s.dword frec) 31 0))))
      faults (.kill who p n) 6 ∧ faults (.resumeEnd who p n) 4) ∧
      ∀ val : DWord,
        let request := fun (purge : Bool) =>
          { x with sdAllCtx := field val 16 16 == 1, sdCtx := field val 15 8, sdPurge := purge }
        let shoots := fun (purge : Bool) => if purge then Instr.shootdownPurge who p val else Instr.shootdown who p val
        let base := x.sdBase.toNat
        let len := x.sdLen.toNat
        let fine := base % 4096 = 0 ∧ len % 4096 = 0 ∧ base + len ≤ 2 ^ 48 ∧ len ≠ 0
        let within := fun (c : Nat) => 64 * p ≤ c ∧ c < 64 * (p + x.size)
        let frames := s.sdFrames p (request true) base len
        (∀ purge, x.sdBusy = true → exec (shoots purge) s = .next (s.modPart p (fun y => { y with sdRefused := true }))) ∧
        (∀ purge, x.sdBusy = false → len = 0 → s.Leads (shoots purge) (fun t => SameMemory s t ∧ t.cores = s.cores ∧
          t.part? p = some { request purge with sdBusy := false, sdCode := 0 })) ∧
        (∀ purge, x.sdBusy = false → len ≠ 0 → (base % 4096 ≠ 0 ∨ len % 4096 ≠ 0 ∨ 2 ^ 48 < base + len) →
          s.Leads (shoots purge) (fun t => SameMemory s t ∧ t.cores = s.cores ∧
            t.part? p = some { request purge with sdBusy := false, sdCode := 2 })) ∧
        (x.sdBusy = false → fine → s.Leads (.shootdown who p val) (fun t => SameMemory s t ∧
          t.part? p = some { request false with sdBusy := false, sdCode := 0 } ∧
          ∀ c, within c → (t.core c).tlb =
            (s.core c).tlb.filter (fun l => !sweepsLeaf base len ((request false).sdNames p) l))) ∧
        (x.sdBusy = false → fine → s.sdSealed (request true) p base len frames = true →
          s.Leads (.shootdownPurge who p val) (fun t => SameMemory s t ∧ t.cores = s.cores ∧
            t.part? p = some { request true with sdBusy := false, sdCode := 3 })) ∧
        (x.sdBusy = false → fine → s.sdSealed (request true) p base len frames = false →
          s.Leads (.shootdownPurge who p val) (fun t =>
            (∀ c, within c → (t.core c).tlb =
                (s.core c).tlb.filter (fun l => !sweepsLeaf base len ((request true).sdNames p) l) ∧
              ∀ a, meetsRanges frames a = true →
                setByte? (mget [] (t.core c).l1 (l1Set (a / 256))) (a / 256) (a % 256) = none) ∧
            ∃ y, t.part? p = some y ∧
              (y.sdBusy = true ↔ s.purgeWaits p ⟨base, len, if (request true).sdAllCtx then none else some (request true).sdCtx⟩ = true) ∧
              (y.sdBusy = false → y.sdCode = 0))))

/-- R503 to R506, R508, R509: a write of the operation register takes its names and makes the checks, gives the code of
one that fails and moves nothing, and else starts the operation, whose BUSY stands until its event, and refuses another
(that the checks are those of the write is DEDUCED, assumption log 54). An event makes the operation in progress, or,
with none, the write that names it comes first. An exchange saves the outgoing context in its banks, with its core's L1
written back to the homes and emptied, and restores the incoming one; a spill empties the banks of a saved context and
writes its shadow slot image; a fill puts it back in an empty bank, saved, as the image holds it, or answers 0x05 (what
the layout does not place returns as the spill recorded it, DESIGN CHOICE, assumption log 47). -/
def Obligations.ExchangeResults : Prop :=
  ∀ (s : State) (who : Party) (p : Nat) (x : Partition) (val : DWord), s.bad = none → s.DiesUp → s.part? p = some x →
    let y := { x with
      xRefused := x.xRefused && field val 62 62 == 0, inCtx := field val 23 16, outCtx := field val 15 8,
      haveIn := val.getLsbD 3, haveOut := val.getLsbD 2 }
    let latched := fun (op : Nat) => { y with
      xOut := if y.haveOut = true ∧ op ≠ 3 then some y.outCtx else none,
      xIn := if y.haveIn = true ∧ op ≠ 2 then some y.inCtx else none }
    let within := fun (c : Nat) => 64 * p ≤ c ∧ c < 64 * (p + x.size)
    let coded := fun (t : State) (z : Partition) (code : Nat) =>
      t.part? p = some { z with xCode := code, xBusy := false, xOp := 0 }
    let still := fun (t : State) => SameMemory s t ∧ t.cores = s.cores ∧ t.spilled = s.spilled
    let inHandler := fun (k : Core) (key : Nat) => ∃ g ∈ k.slots, g.2.ctxKey = key ∧
      ∃ l ∈ g.2.lanes, l.2.live = true ∧ l.2.handlers ≠ []
    let handling := fun (names : List Nat) => ∃ c ∈ names,
      (∃ z ∈ s.cores, within z.1 ∧ inHandler z.2 (ctxKey p c)) ∨
      ∃ z ∈ s.spilled, z.ctx = ctxKey p c ∧ inHandler z.items (ctxKey p c)
    let misplaced := fun (a : DWord) => field a 47 0 = 0 ∨ field a 47 0 % 4096 ≠ 0
    let stopped := s.stopped p = true
    let unnamed := fun (names : List Nat) => names = [] ∨ (∃ c ∈ names, (s.ctx (ctxKey p c)).state ≠ .live) ∨
      ∃ c, names = [c, c]
    let other := fun (names : List Nat) => ∃ z ∈ s.cores, within z.1 ∧ ∃ b ∈ z.2.banks, b.2.saved = true ∧
      ∃ c, b.2.ctx = some c ∧ c ∉ names
    let noArea := fun (names : List Nat) (op : Nat) =>
      (op ≠ 1 ∧ misplaced x.swAddr) ∨ (handling names ∧ misplaced x.hsBase)
    let checks := fun (names : List Nat) (op : Nat) =>
      stopped ∧ ¬ unnamed names ∧ ¬ other names ∧ ¬ noArea names op
    let code := fun (names : List Nat) (op n : Nat) =>
      (n = 1 ∧ ¬ stopped) ∨ (n = 2 ∧ stopped ∧ unnamed names) ∨ (n = 3 ∧ stopped ∧ ¬ unnamed names ∧ other names) ∨
      (n = 4 ∧ stopped ∧ ¬ unnamed names ∧ ¬ other names ∧ noArea names op)
    let ready := fun (op : Nat) (z : Partition) =>
      (x.xBusy = false ∧ mayHS who = true ∧ z = latched op) ∨ (x.xBusy = true ∧ x.xOp = op ∧ z = x)
    let fails := fun (i : Instr) (z : Partition) (n : Nat) => s.Leads i (fun t => still t ∧ coded t z n)
    let exchange := Instr.exchange who p val
    let spill := Instr.spill who p val
    let fill := Instr.fill who p val
    (∀ (addr : DWord) (op : Nat), s.powered = true → s.regPlace addr.toNat = .control p 0xA0 → field val 1 0 = op →
      mayHS who = true →
      let write := Instr.privilegedRegisterWrite who addr val
      (op = 0 → s.Leads write (fun t => still t ∧ t.part? p = some y)) ∧
      (op ≠ 0 → x.xBusy = true → exec write s = .next (s.modPart p (fun z => { z with xRefused := true }))) ∧
      (op ≠ 0 → x.xBusy = false →
        (∀ n, code (latched op).exNames op n → fails write (latched op) n) ∧
        (checks (latched op).exNames op → s.Leads write (fun t => still t ∧
          t.part? p = some { latched op with xBusy := true, xOp := op })))) ∧
    (x.xBusy = true → (x.xOp ≠ 1 → exec exchange s = .next s) ∧ (x.xOp ≠ 2 → exec spill s = .next s) ∧
      (x.xOp ≠ 3 → exec fill s = .next s)) ∧
    (∀ z n, (ready 1 z → code z.exNames 1 n → fails exchange z n) ∧ (ready 2 z → code z.exNames 2 n → fails spill z n) ∧
      (ready 3 z → code z.exNames 3 n → fails fill z n)) ∧
    (∀ z, ready 1 z → checks z.exNames 1 → ¬ handling z.exNames →
      s.Leads exchange (fun t => coded t z 0 ∧
        (∀ c slot g, s.gang? c slot = some g → ∃ h, t.gang? c slot = some h ∧ g.Keeps h ∧
          (∀ l, (h.lane l).pc = (g.lane l).pc) ∧ ((∀ o, z.xOut = some o → g.ctxKey ≠ ctxKey p o) → h = g)) ∧
        (∀ c k o, s.cores = [(c, k)] → within c → z.xOut = some o → k.bankOf o false ≠ none →
          s.dev.badTransfers = [] → DirtyHome s t c True (fun _ => True)) ∧
        ∀ c, within c → mapSorted (s.core c).banks = true →
          let bank := fun (w : State) (b : Nat) => mget Bank.free (w.core c).banks b
          (∀ o, z.xOut = some o → (s.core c).bankOf o false ≠ none →
            (∀ a, setByte? (mget [] (t.core c).l1 (l1Set (a / 256))) (a / 256) (a % 256) = none) ∧
            (t.core c).tlb = (s.core c).tlb.filter (fun l => l.ctx != ctxKey p o) ∧
            (t.core c).walks = (s.core c).walks.filter (fun w => w.ctx != ctxKey p o)) ∧
          (∀ o b, z.xOut = some o → (s.core c).bankOf o false = some b → bank t b = { bank s b with saved := true }) ∧
          (∀ i b, z.xIn = some i → z.xOut = none → (s.core c).bankOf i true = some b →
            bank t b = { bank s b with saved := false }) ∧
          ∀ o i h k, z.xOut = some o → z.xIn = some i →
            ((s.core c).banks = [(0, ⟨some o, false, h⟩), (1, ⟨some i, true, k⟩)] →
              (t.core c).banks = [(0, ⟨some o, true, h⟩), (1, ⟨some i, false, k⟩)]) ∧
            ((s.core c).banks = [(0, ⟨some i, true, k⟩), (1, ⟨some o, false, h⟩)] →
              (t.core c).banks = [(0, ⟨some i, false, k⟩), (1, ⟨some o, true, h⟩)]))) ∧
    (∀ z o, ready 2 z → checks z.exNames 2 → ¬ handling z.exNames → z.xOut = some o → s.MemOk →
      let key := ctxKey p o
      (∀ c, (s.core c).Positioned ∧ mapSorted (s.core c).slots = true ∧
        ∀ u ∈ (s.core c).parts, ctxKey u.part u.ctx = key → (s.core c).bankOf o true = some u.bank) →
      field x.swAddr 47 0 + 64 * x.size * 0x280000 ≤ memoryEnd →
      s.Leads spill (fun t => coded t z 0 ∧ ∀ c b, within c → (s.core c).bankOf o true = some b →
        let image := field x.swAddr 47 0 + (c - 64 * p) * 0x280000
        mfind? (t.core c).banks b = some .free ∧
        (∀ slot h, t.gang? c slot = some h → h.ctxKey ≠ key) ∧
        (∃ w ∈ t.spilled, w.ctx = key ∧ w.core = c ∧ w.bank = b ∧ w.held = (mget Bank.free (s.core c).banks b).held ∧
          ∀ slot g, s.gang? c slot = some g → g.ctxKey = key → mfind? w.items.slots slot = some g) ∧
        ∀ slot g, s.gang? c slot = some g → g.ctxKey = key →
          (∀ l, l < 32 → t.readHome (image + 0x134000 + (slot * 32 + l) * 6) 6 = bytesOf 6 (g.lane l).pc.toNat) ∧
          ∀ n, n < 64 → t.readHome (image + 0x130000 + slot * 512 + 8 * n) 8 = bytesOf 8 (g.sreg n).toNat)) ∧
    ∀ z i w, ready 3 z → checks z.exNames 3 → ¬ handling z.exNames → z.xIn = some i →
      s.spilled.filter (fun w => w.ctx == ctxKey p i) = [w] → mapSorted w.items.slots = true →
      (s.fillPlace w = none → fails fill z 5) ∧
      ∀ b items, s.fillPlace w = some (b, items) → s.Leads fill (fun t => SameMemory s t ∧ coded t z 0 ∧
        mfind? (t.core w.core).banks b = some ⟨some i, true, w.held⟩ ∧ (∀ v ∈ t.spilled, v.ctx ≠ ctxKey p i) ∧
        let image := field x.swAddr 47 0 + (w.core - 64 * p) * 0x280000
        ∀ slot, (mfind? w.items.slots slot = none → t.gang? w.core slot = s.gang? w.core slot) ∧
          ∀ g, mfind? w.items.slots slot = some g → ∃ h, t.gang? w.core slot = some h ∧ h.ctxKey = g.ctxKey ∧
            (∀ l, l < 32 → (h.lane l).pc =
              BitVec.ofNat 48 (ofBytes (s.readHome (image + 0x134000 + (g.slot * 32 + l) * 6) 6))) ∧
            ∀ n, n < 64 → h.sreg n = BitVec.ofNat 64 (ofBytes (s.readHome (image + 0x130000 + g.slot * 512 + 8 * n) 8)))

/-! Resets (spec 16 R511 to R516). -/

/-- R511 to R514, R516: a request for a core, a cluster or a die, and a reset that the device makes, begin with BUSY, CAUSE,
KIND and TARGET, and every core of the part is as after reset; a lost team of a restartable launch is dispatched again,
and any other launch is interrupted; a core counts its arrivals on, so that no gang after it takes a reply of one before; a
die under reset has lost its remote-data cache and its memory is away; a request
while BUSY is refused, and a reset that the device makes meanwhile waits, but a second die's is a module fault; the end
clears BUSY, gives dispatch back to the home die and begins a reset that waited. That such a reset waits is the model's
reading (assumption log 49). -/
def Obligations.ResetResults : Prop :=
  (∀ (s : State) (target : Nat), s.bad = none → (∀ z ∈ s.heldSlots, s.ttAddr z.1 z.2 + 64 ≤ memoryEnd) →
    let r := s.dev.resetReg
    let begins := fun (i : Instr) (cause kind : Nat) => r.busy = false → s.Leads i (fun t =>
      let hits := fun (n k : Nat) => ∃ x ∈ s.cores, inPart kind (target % 1024) x.1 = true ∧
        ∃ y ∈ x.2.parts, y.ended = false ∧ y.launch = n ∧ y.team = k
      (t.dev.resetReg.busy = true ∧ t.dev.resetReg.cause = cause ∧ t.dev.resetReg.kind = kind ∧
        t.dev.resetReg.target = target % 1024 ∧ t.dev.resetReg.refused = r.refused ∧
        t.dev.resetReg.waiting = r.waiting) ∧
      (∀ c, inPart kind (target % 1024) c = true →
        t.core c = { Core.reset with arrivals := (s.core c).arrivals } ∧ t.coreUp c = false) ∧
      (∀ n l k, mfind? s.launches n = some l → hits n k → ∃ m, mfind? t.launches n = some m ∧
        (tcbRst l.dw = false → m.interrupted = true ∧ m.toSend = false ∧ k ∈ m.lost) ∧
        (tcbRst l.dw = true → tcbCores l.dw = false → k ∈ m.again ∧ k ∉ m.running ∧ m.ended = l.ended) ∧
        (tcbRst l.dw = true → tcbCores l.dw = true → m.next = 0 ∧ m.running = [] ∧ m.ended = [])) ∧
      (∀ y ∈ t.cores, ∀ u ∈ y.2.parts, u.ended = false → ¬ hits u.launch u.team) ∧
      (kind = 3 → t.dieAway (target % 1024 / 256) = true ∧ (t.die (target % 1024 / 256)).agent = [] ∧
        (∀ a, setByte? (mget [] (t.die (target % 1024 / 256)).rdc (rdcSet (a / 256))) (a / 256) (a % 256) = none) ∧
        ∀ p x, s.part? p = some x → dieOfCluster p = target % 1024 / 256 → ∃ y, t.part? p = some y ∧ y.mirror = true))
    let refused := fun (i : Instr) => r.busy = true → exec i s =
      .next { s with dev := { s.dev with resetReg := { r with refused := true } } }
    begins (.resetCore target) 1 1 ∧ begins (.resetCluster target) 1 2 ∧ begins (.resetDie target) 1 3 ∧
    refused (.resetCore target) ∧ refused (.resetCluster target) ∧ refused (.resetDie target) ∧
    (∀ kind, begins (.uncorrectableStateError kind target) 2 (PartKind.code kind) ∧
      begins (.unresponsiveTimeout kind target) 3 (PartKind.code kind) ∧
      let held := fun (i : Instr) (cause : Nat) => s.Leads i (fun t => SameMemory s t ∧ t.cores = s.cores ∧
        t.dev.resetReg = { r with waiting := r.waiting ++ [(cause, PartKind.code kind, target % 1024)] })
      (r.busy = true → (kind = .die → (r.nowKind = 3 → r.nowTarget / 256 = target % 1024 / 256) ∧
          ∀ w ∈ r.waiting, w.2.1 = 3 → w.2.2 / 256 = target % 1024 / 256) →
        held (.uncorrectableStateError kind target) 2 ∧ held (.unresponsiveTimeout kind target) 3)) ∧
    (r.busy = true → ((r.nowKind = 3 ∧ r.nowTarget / 256 ≠ target % 1024 / 256) ∨
        ∃ w ∈ r.waiting, w.2.1 = 3 ∧ w.2.2 / 256 ≠ target % 1024 / 256) →
      let freezes := fun (i : Instr) => s.Leads i (fun t => t.dev.moduleFault = true ∧ t.dev.resetReg = r ∧
        ∀ p x, s.part? p = some x → ∃ y, t.part? p = some y ∧ y.frz = true)
      freezes (.uncorrectableStateError .die target) ∧ freezes (.unresponsiveTimeout .die target))) ∧
  ∀ s : State, s.bad = none → s.dev.resetReg.busy = true → s.Quiet →
    (s.dev.resetReg.waiting = [] → s.Leads .resetComplete (fun t => SameMemory s t ∧ t.cores = s.cores ∧
      t.dev = { s.dev with resetReg := { s.dev.resetReg with busy := false } } ∧
      ∀ p x, s.part? p = some x → t.part? p = some { x with mirror := false })) ∧
    ∀ cause kind target rest, s.dev.resetReg.waiting = (cause, kind, target) :: rest →
      (∀ z ∈ s.heldSlots, s.ttAddr z.1 z.2 + 64 ≤ memoryEnd) →
      s.Leads .resetComplete (fun t => t.dev.resetReg.busy = true ∧ t.dev.resetReg.cause = cause ∧
        t.dev.resetReg.kind = kind ∧ t.dev.resetReg.target = target ∧ t.dev.resetReg.waiting = rest ∧
        ∀ c, inPart kind target c = true → t.core c = { Core.reset with arrivals := (s.core c).arrivals })

/-! Mailboxes, boot, attestation, supply and the board controller's bus (spec 13 R442; 14 R470; 17 R535 to R542). -/

/-- R442, R470, R535 to R538, R540, R542: the next mailbox slot gets its reply and MBXTAIL advances; power on boots the
copy that passes the three checks, else recovery, which runs an image that passes; the image that runs zeroes memory;
the report of an attestation is written at ATTADDR with its signature; a sag stretches its cluster and is counted once,
until 64 calm cycles; the bus commands are answered. The bytes of the firmware version and of the telemetry, the layout
of an image and the secret numbers of the keys are open values of the model (assumption log 8), the algorithms are those of their
standards (assumption log 78), and the test of use of RETIRE_PAGE (log 52), the byte orders of the report, the recovery
image of 64 MiB and the unanswered energy block before PHASE 2 (log 53) are DEDUCED. -/
def Obligations.BoardResults : Prop :=
  (∀ (s : State) (d : Nat), s.bad = none → s.DiesUp → s.MemOk → s.dev.badTransfers = [] →
    let x := s.die d
    let a := x.slotAddr
    let op := ofBytes (s.readHome a 2)
    let frame := (s.dword (a + 8)).toNat / 4096
    x.mbxHead ≠ x.mbxTail → a + 64 ≤ memoryEnd →
    let replies := fun (i : Instr) (status : Nat) (data : Nat → Byte) (retired : List Nat) =>
      let answers := fun (t : State) => memRead t.mem (a + 16) = BitVec.ofNat 8 status ∧
        (∀ k, k < 40 → memRead t.mem (a + 24 + k) = data k) ∧ (t.die d).mbxTail = x.mbxTail + 1 ∧
        t.dev.retired = retired ∧
        ∀ b, b ≠ a + 16 → (b < a + 24 ∨ a + 64 ≤ b) → memRead t.mem b = memRead s.mem b
      s.Leads i answers ∧ s.Leads (.mailboxTake d) answers
    (op = 1 → s.frameInUse frame = true → replies (.retirePage d) 1 (fun _ => 0) s.dev.retired) ∧
    (op = 1 → s.frameInUse frame = false → replies (.retirePage d) 0 (fun _ => 0) (insertNat frame s.dev.retired)) ∧
    (op = 2 → replies (.readFirmwareVersion d) 0 Config.firmwareVersion s.dev.retired) ∧
    (op = 3 → replies (.readDieTelemetry d) 0 (Config.telemetryByte s.tick d x.corrected) s.dev.retired) ∧
    (op = 0 ∨ 3 < op → replies (.mailboxUnknownOp d) 0xFF (fun _ => 0) s.dev.retired)) ∧
  (∀ s : State, s.bad = none → s.DiesUp → s.Quiet → s.MemOk → s.dev.attAddr.toNat + 192 ≤ memoryEnd →
    let body := bytesOf 4 0x54415644 ++ bytesOf 2 1 ++ bytesOf 2 Config.rev.toNat ++ bytesOf 4 s.dev.svn.toNat ++
      bytesOf 4 0 ++ bigEndian 32 s.dev.digest.toNat ++ bytesOf 32 s.dev.nonce.toNat ++
      bytesOf 8 s.dev.partmap.toNat ++ bytesOf 8 (s.time / 12) ++ bytesOf 32 0
    let sig := ecdsaSign identityKey (Config.signNonce body % (p256N - 1) + 1) (sha256 body)
    s.Leads .attestationGo (fun t => t.readHome s.dev.attAddr.toNat 192 =
      body ++ bigEndian 32 sig.1 ++ bigEndian 32 sig.2)) ∧
  (∀ image : List Byte, imagePasses image = true ↔
    ecdsaVerify (Config.imageKey image) (Config.imageSignature image) (sha256 (Config.imageBody image)) = true ∧
    sha256 (Config.keyBytes (Config.imageKey image)) = Config.fusedKeyDigest.toNat ∧
    Config.fusedSvn.toNat ≤ (Config.imageSvn image).toNat) ∧
  (∀ s : State, s.bad = none →
    let off : State := { State.reset with tick := s.tick, agenda := s.agenda, cur := s.cur }
    let runs := fun (s : State) (image : List Byte) (copyB : Bool) =>
      { s with dev := { s.dev with
          svn := Config.imageSvn image, digest := BitVec.ofNat 256 (sha256 (Config.imageBody image)), copyB := copyB,
          phase := 0x02 } }
    let boots := fun (s : State) =>
      if imagePasses (Config.flashImage false) then runs s (Config.flashImage false) false
      else if imagePasses (Config.flashImage true) then runs s (Config.flashImage true) true
      else { s with dev := { s.dev with phase := 0xE0 } }
    (s.powered = false → exec .powerOn s = .next (boots off)) ∧
    (s.powered = true → s.dev.phase = 0x01 → exec .powerOn s = .next (boots s)) ∧
    (s.powered = true → s.dev.phase = 0x02 → exec .powerOn s = .next { s with
      mem := [], dev := { s.dev with badTransfers := [], phase := if s.dev.up then 0x04 else 0x03 } }) ∧
    exec .mainPowerOff s = .next { off with powered := false } ∧
    (∀ image, image = s.readHome 0 (64 * 2 ^ 20) → s.dev.phase = 0xE0 →
      exec .recoveryGo s = .next (if imagePasses image then runs s image s.dev.copyB else s)) ∧
    (s.powered = true → s.dieAway 0 = false →
      (s.dev.phase = 0x03 → exec .linkUp s = .next { s with dev := { s.dev with up := true, phase := 0x04 } }) ∧
      (s.dev.phase ≠ 0x01 → s.dev.phase ≠ 0x02 → s.dev.phase ≠ 0x03 →
        exec .linkUp s = .next { s with dev := { s.dev with up := true } }))) ∧
  (∀ (s : State) (n : Nat), s.bad = none →
    let k := s.cluster n
    (n < 16 → s.Leads (.supplySag n) (fun t => SameMemory s t ∧
      t.cluster n = { k with stretched := true, calm := 0, low := true } ∧
      ∀ c, (t.core c).stretch = if c / 64 = n ∧ k.stretched = false then min ((s.core c).stretch + 1) 0xFFFF
        else (s.core c).stretch)) ∧
    (k.stretched = true → 64 ≤ k.calm → s.Leads (.stretchEnd n) (fun t => SameMemory s t ∧ t.cores = s.cores ∧
      t.cluster n = { k with stretched := false, calm := 0 })) ∧
    (k.stretched = true → k.calm < 64 → exec (.stretchEnd n) s = .next s)) ∧
  ∀ s : State, s.bad = none →
    let answers := fun (i : Instr) (fs : List Frame) => exec i s = .next { s with sent := s.sent ++ fs }
    (s.powered = true → 2 ≤ s.dev.phase →
      answers .smbusReadPhase [.smbusWord ((s.dev.phase + if s.dev.up then 256 else 0) % 65536)] ∧
      answers .smbusReadPower [.smbusWord (s.dev.power % 65536)] ∧
      answers .smbusReadTemperature [.smbusWord (s.dev.temperature % 65536)] ∧
      answers .smbusReadEnergy
        [.smbusBlock ((s.die 0).energy + (s.die 1).energy + (s.die 2).energy + (s.die 3).energy)]) ∧
    (s.powered = true → s.dev.phase < 2 → exec .smbusReadEnergy s = .next s ∧
      ∀ i ∈ [Instr.smbusReadPhase, .smbusReadPower, .smbusReadTemperature], answers i [.smbusWord 0]) ∧
    (s.powered = true → ∀ n, n = 0 ∨ 4 < n → answers (.smbusCommandNotListed n) [.smbusNack]) ∧
    (s.powered = false → ∀ i ∈ [Instr.smbusReadPhase, .smbusReadPower, .smbusReadTemperature, .smbusReadEnergy],
      exec i s = .next s)

/-! The link (spec 17 R518 to R528, R533). -/

/-- R517, R520, R522 to R525, R533: an operation at the next PSN is performed and acknowledged: a WRITE of space 0 stores its
payload at the homes, one of space 1 is the host's register write, a READ brings the bytes, a SEND that is a kick
raises KICK; one that R524 denies has STATUS 1, one with a bad address or length STATUS 2, and in recovery what R536
allows is the rest; an operation ahead is held, one below RXPSN acknowledged again; a datagram that the connection does
not take, of a frame too long among them, is dropped. -/
def Obligations.OperationResults : Prop :=
  (∀ (s : State) (m : Datagram), s.bad = none → s.DiesUp → s.MemOk → s.dev.badTransfers = [] → s.takes m = true →
    let c := m.conn
    let k := s.conn c
    let rx := (k.rxPsn + 1) % 2 ^ 32
    let space := bits m.addr 60 4
    let a := bits m.addr 0 48
    k.unacked = [] →
    let ops : List (Nat × (Datagram → Instr)) := [(1, .wltWrite), (2, .wltRead), (4, .wltSendKick)]
    let replies := fun (i : Instr) (op status len addr : Nat) (bs : List Byte) (more : State → Prop) =>
      s.Leads i (fun t => t.sent = s.sent ++ [.wlt m.src op status c 0 rx 0 len addr bs] ∧ (t.conn c).rxPsn = rx ∧
        (∀ e, s.connEntry? c = some e → t.dword (e + 48) = BitVec.ofNat 64 (k.txPsn % 2 ^ 32 * 2 ^ 32 + rx)) ∧ more t)
    let otherwise := fun (t : State) (b n : Nat) => ∀ z, (z < b ∨ b + n ≤ z) →
      (∀ e, s.connEntry? c = some e → z < e + 48 ∨ e + 56 ≤ z) → memRead t.mem z = memRead s.mem z
    let refused := fun (status : Nat) =>
      replies (.wltWrite m) 5 status 0 0 [] (fun t => otherwise t 0 0) ∧
      replies (.wltRead m) 3 status m.len m.addr [] (fun t => otherwise t 0 0)
    let denied := 2 ≤ space ∨ (space = 1 ∧ k.host = false) ∨
      (space = 0 ∧ k.host = false ∧ (a < k.inBase ∨ k.inBase + k.inLen < a + m.len)) ∨
      (s.dev.phase = 0xE0 ∧ ((space = 0 ∧ 64 * 2 ^ 20 < a + m.len) ∨ (space = 1 ∧ 0x1000 ≤ a)))
    let unfit := bits m.addr 48 12 ≠ 0 ∨ m.len = 0 ∨ 8192 < m.len ∨
      (space = 1 ∧ (a % 8 ≠ 0 ∨ m.len ≠ 8)) ∨ (space = 0 ∧ memoryEnd < a + m.len)
    let fine := ¬ denied ∧ ¬ unfit
    (m.psn = k.rxPsn → k.held = [] → m.psn < 2 ^ 32 → s.EntryClear c a m.len →
      (denied → refused 1) ∧ (¬ denied → unfit → refused 2) ∧
      (fine → m.payload.length ≠ m.len → replies (.wltWrite m) 5 2 0 0 [] (fun t => otherwise t 0 0)) ∧
      (fine → space = 0 →
        replies (.wltRead m) 3 0 m.len m.addr (s.readHome a m.len) (fun t => otherwise t 0 0) ∧
        (m.payload.length = m.len → s.NoCached →
          (∀ x ∈ s.parts, ∀ r, r < 64 → s.ring? x.2 r = none ∧ Apart a m.len (x.2.ringEntry r) 64 ∧
            ∀ e, s.connEntry? c = some e → Apart e 64 (x.2.ringEntry r) 64) →
          replies (.wltWrite m) 5 0 0 0 [] (fun t => t.readHome a m.len = m.payload ∧ otherwise t a m.len))) ∧
      (∀ p x, fine → space = 1 → m.payload.length = m.len → s.regPlace a = .control p 0x10 →
        s.part? p = some x → replies (.wltWrite m) 5 0 0 0 [] (fun t =>
          t.part? p = some { x with ebudget := ofBytes (m.payload.take 4) } ∧ otherwise t 0 0)) ∧
      (fine → space = 1 → replies (.wltRead m) 3 0 m.len m.addr (bytesOf 8 (s.privRead .host a).toNat)
        (fun t => otherwise t 0 0)) ∧
      (s.dev.phase = 0xE0 → replies (.wltSendKick m) 5 1 0 0 [] (fun t => otherwise t 0 0)) ∧
      (s.dev.phase ≠ 0xE0 → m.len ≠ 16 ∨ m.payload.length ≠ 16 →
        replies (.wltSendKick m) 5 2 0 0 [] (fun t => otherwise t 0 0)) ∧
      (s.dev.phase ≠ 0xE0 → m.len = 16 → m.payload.length = 16 → k.host = false ∨ num m.payload 0 1 ≠ 1 →
        replies (.wltSendKick m) 5 0 0 0 [] (fun t => otherwise t 0 0)) ∧
      ∀ p y x, s.dev.phase ≠ 0xE0 → m.len = 16 → m.payload.length = 16 → k.host = true → num m.payload 0 1 = 1 →
        p = num m.payload 2 1 → s.part? p = some y → num m.payload 1 1 < 64 →
        s.ring? y (num m.payload 1 1) = some x → s.itemValid x x.cons0 = false →
        x.entry + 64 ≤ memoryEnd → x.slot x.cons0 + 128 ≤ memoryEnd → Apart (x.slot x.cons0) 128 x.entry 64 →
        (∀ e, s.connEntry? c = some e → Apart e 64 x.entry 64 ∧ Apart e 64 (x.slot x.cons0) 128) →
        replies (.wltSendKick m) 5 0 0 0 [] (fun t =>
          (t.dword (x.entry + 56)).toNat = max x.kick (num m.payload 8 8) ∧ otherwise t (x.entry + 56) 8)) ∧
    (let ahead := (m.psn + 2 ^ 32 - k.rxPsn) % 2 ^ 32
      let acks := fun (t : State) => SameMemory s t ∧ (t.conn c).rxPsn = k.rxPsn ∧
        t.sent = s.sent ++ [.wlt m.src 5 0 c 0 k.rxPsn (t.conn c).sack 0 0 []]
      (1 ≤ ahead → ahead ≤ 32 → (∀ x ∈ k.held, x.1 ≠ m.psn) → ∀ x ∈ ops, s.Leads (x.2 m) (fun t => acks t ∧
        (t.conn c).held = k.held ++ [(m.psn, x.1, m)])) ∧
      (32 < ahead → psnBefore m.psn k.rxPsn = true → ∀ x ∈ ops, s.Leads (x.2 m) (fun t => acks t ∧
        (t.conn c).held = k.held)))) ∧
  ∀ (s : State) (m : Datagram), s.bad = none →
    let drops := ∀ i ∈ [Instr.wltWrite m, .wltRead m, .wltSendKick m, .wltAck m, .wltReadresp m], exec i s = .next s
    let k := s.conn m.conn
    (9216 < 18 + (if m.toV4 then 20 else 40) + 8 + 32 + m.payload.length → drops) ∧
    (s.powered = false ∨ s.dev.up = false → drops) ∧ (m.sumsOk = false → drops) ∧
    (m.toPort ≠ s.dev.wport.toNat → drops) ∧ (m.ver ≠ 1 → drops) ∧
    (s.dev.connBase ≠ 0 → k.state ≠ 1 ∨ k.peer ≠ some m.src → drops) ∧ (s.dev.connBase = 0 → m.conn ≠ 0 → drops)

/-- R518, R520 to R522, R528: CONNECTION_OPEN reads the entry of its connection and sets the PSNs 0 and STATE 1,
CONNECTION_CLOSE sets STATE 0; without a connection table only CNUM is written. An acknowledgement takes what lies below
its PSN out of flight and has what its SACK shows missing sent again; a reply reaches the lane that awaits it; an
expired timeout sends everything unacknowledged again, and after 16 the connection fails; requests for the device's
addresses are answered. -/
def Obligations.LinkResults : Prop :=
  (∀ (s : State) (n : Nat), s.bad = none →
    let c := n % 4096
    let k := s.conn c
    let named := { s with dev := { s.dev with cnum := c } }
    (s.dev.connBase = 0 → exec (.connectionOpen n) s = .next named ∧ exec (.connectionClose n) s = .next named ∧
      s.connOpen c = (c == 0) ∧ k.host = true) ∧
    ∀ e, s.connEntry? c = some e → e + 64 ≤ memoryEnd → s.DiesUp → s.MemOk → s.dev.badTransfers = [] →
      k.unacked = [] → k.reads = [] →
      s.Leads (.connectionOpen n) (fun t => t.conn c = { s.readEntry e with state := 1 } ∧
        field (t.dword e) 63 62 = 1 ∧ field (t.dword e) 61 0 = field (s.dword e) 61 0 ∧ t.dword (e + 48) = 0 ∧
        t.dev.cnum = c ∧ t.connOpen c = true) ∧
      s.Leads (.connectionClose n) (fun t => (t.conn c).state = 0 ∧ field (t.dword e) 63 62 = 0 ∧
        t.dev.cnum = c ∧ t.connOpen c = false)) ∧
  (∀ (s : State) (m : Datagram) (e : Endpoint), s.bad = none → s.takes m = true → (s.conn m.conn).peer = some e →
    let c := m.conn
    let k := s.conn c
    let left := k.unacked.filter (fun x => !psnBefore x.psn m.ackPsn)
    (m.status = 0 → s.Leads (.wltAck m) (fun t => SameMemory s t ∧ (t.conn c).unacked = left ∧
      (t.conn c).expiries = (if left.length < k.unacked.length then 0 else k.expiries) ∧
      t.sent = s.sent ++ ({ k with unacked := left }.missing m.ackPsn m.sack).map (fun x => k.frameOf c x e))) ∧
    ∀ x w g got, k.unacked = [] → k.reads = [x] → x.addr = m.addr → x.len = m.len → m.status = 0 →
      m.payload.length = m.len → x.who = some w → w.slot < 32 → s.gang? w.core w.slot = some g →
      g.ctxKey = w.ctx → g.arrival = w.arrival → (g.lane w.lane).link = .awaited got →
      s.Leads (.wltReadresp m) (fun t => SameMemory s t ∧ (t.conn c).reads = [] ∧
        ∃ h, t.gang? w.core w.slot = some h ∧ g.Keeps h ∧ (h.lane w.lane).link = .held (got ++ m.payload) ∧
          ∀ l, (h.lane l).pc = (g.lane l).pc)) ∧
  (∀ (s : State) (c : Nat) (e : Endpoint), s.bad = none → (s.conn c).peer = some e →
    let k := s.conn c
    s.timeoutDue k = true → s.connOpen c = true → s.hears = true →
    (k.expiries < 16 → s.Leads (.wltRetransmitTimeout c) (fun t => SameMemory s t ∧
      t.conn c = { k with expiries := k.expiries + 1, timer := s.time } ∧
      t.sent = s.sent ++ k.unacked.map (fun x => k.frameOf c x e))) ∧
    (16 ≤ k.expiries → (∀ x ∈ k.unacked ++ k.reads, x.who = none) →
      (∀ b, s.connEntry? c = some b → b + 64 ≤ memoryEnd) → s.DiesUp → s.MemOk →
      s.Leads (.wltRetransmitTimeout c) (fun t => (t.conn c).state = 2 ∧ (t.conn c).unacked = [] ∧
        (t.conn c).reads = [] ∧ (s.dev.connBase ≠ 0 → t.connOpen c = false) ∧
        ∀ b, s.connEntry? c = some b → field (t.dword b) 63 62 = 2))) ∧
  ∀ s : State, s.bad = none → s.hears = true →
    let answers := fun (i : Instr) (fs : List Frame) => exec i s = .next { s with sent := s.sent ++ fs }
    (∀ m : ArpRequest, answers (.arpRequest m) (if s.dev.owns true m.targetIp
      then [.arpReply m.senderMac m.senderIp Config.mac s.dev.ip4] else [])) ∧
    (∀ m : Solicitation, answers (.neighbourSolicitation m) (if s.dev.owns false m.targetIp
      then [.advertisement m.senderMac m.senderIp Config.mac s.dev.ip6h s.dev.ip6l] else [])) ∧
    ∀ m : EchoRequest, answers (.icmpEchoRequest m) (if s.dev.owns m.v4 m.targetIp ∧
        18 + (if m.v4 then 20 else 40) + 8 + m.payload.length ≤ 9216 then [.echoReply m.v4 m.senderIp m.ident m.seq m.payload] else [])

/-! The whole machine. -/

/-- R59, R436, R437, R439, R457, R487, R505, R511, R519, R529, R535, R537, R541: what the spec's register maps give as
reset values, as the host reads them: the device block after power-on, and the blocks of a partition and its
contexts after a partition reset. The memory of the reset state has its canonical form. -/
def Obligations.ResetValues : Prop :=
  (∀ x ∈ ([(0x008, 0), (0x010, 0), (0x018, 0), (0x208, 0x00001A4C00000000), (0x220, 0), (0x228, 0), (0x230, 0),
      (0x238, 0x01), (0x2C0, 0), (0x2C8, 0), (0x2D0, 0), (0x2D8, 0), (0x2E0, 0), (0x2E8, 0), (0x300, 0), (0x308, 0),
      (0x310, 0), (0x318, 0)] : List (Nat × DWord)), State.reset.privRead .host x.1 = x.2) ∧
  (∀ d, d < 4 → ∀ off ∈ [0x100, 0x108, 0x110], State.reset.privRead .host (off + 0x20 * d) = 0) ∧
  (∀ p, p < 16 → ∀ n ∈ [1, 2, 4, 8, 16],
    let s := { State.reset with parts := [(p, Partition.reset n)] }
    let block := 0x00100000 + p * 0x10000
    (∀ x ∈ ([(0x00, 0x10000), (0x08, 0), (0x10, 0), (0x18, 0), (0x20, 0), (0x28, 20000), (0x30, 0), (0x40, 0),
        (0x48, 0), (0x50, 0), (0x58, 0), (0x60, 0), (0x68, 0), (0x70, 0), (0x80, 0), (0x88, 0), (0x90, 0), (0xA0, 0),
        (0xA8, 0), (0xB0, 0), (0xC0, 0), (0xC8, 0)] : List (Nat × DWord)), s.privRead .host (block + x.1) = x.2) ∧
    ∀ c ∈ [0, 1, 255],
      ([0, 8, 16, 24, 32, 40, 48, 56] : List Nat).map (fun w => s.privRead .host (block + 0x4000 + 0x40 * c + w)) =
        ([0, 0, 0, 0, 0x0000000C00000000, 0x0000000100000000, 0, 0] : List DWord)) ∧
  (∀ c, (State.reset.core c).stretch = 0) ∧ State.reset.time = 0 ∧ State.reset.MemOk

/-- R216 to R241: words of each family, written out from the spec's encodings, decode to the instructions that they
stand for, and a word of a reserved major opcode to none. -/
def Obligations.DecodeWords : Prop :=
  (∀ x ∈ ([(0x04050208, .iadd ⟨.reg 5, .reg 1, .reg 2, false, false⟩),
      (0x138B082A, .ishrr ⟨.reg 11, .reg 4, .reg 10, true, false⟩),
      (0x218803E1, .ffmaF32 ⟨.reg 8, .reg 1, .latch 0, false, true⟩),
      (0x42004040, .cvt ⟨.f32, .i32, .reg 2, .reg 1, .i8, false, false, false⟩),
      (0x53982858, .isect ⟨.reg 24, .reg 20, .reg 22, false, false⟩),
      (0x680AF808, .movi ⟨.reg 10, 8⟩), (0x70041110, .sadd ⟨2, 2, .imm 8⟩),
      (0x82060820, .ldg ⟨.plain .b32, .reg 6, .reg 4, 4, false⟩),
      (0x82060802, .ldg ⟨.ordered false .dev, .reg 6, .reg 4, 0, false⟩),
      (0x99090618, .sts ⟨.plain .b32, .reg 9, .reg 3, 3⟩),
      (0xA020A220, .atom ⟨.add, .f32, .reg 5, .reg 8, .dev, .relaxed⟩), (0xAC308180, .seal ⟨4, 6⟩),
      (0xB013C724, .bwait ⟨.reg 30, .reg 28, .dev, true, .global⟩), (0xB4000026, .fence ⟨.dev, .ar⟩),
      (0xB4200148, .give ⟨.reg 5, .granules .matrixUnit⟩), (0xB8020008, .cpy ⟨16, .team⟩),
      (0xBC002102, .mmaA33 ⟨1, 4, 2⟩), (0xBC400007, .mlease ⟨8⟩), (0xC0208083, .tqry ⟨4, 2, 3⟩),
      (0xC4010102, .spld ⟨.reg 8, .reg 4, 2⟩), (0xC8006109, .enq ⟨.reg 3, .reg 4, 9⟩), (0xCC000100, .preq ⟨.reg 4⟩),
      (0xD2700010, .call ⟨7, 16⟩), (0xD281C000, .ret ⟨.reg 14⟩), (0xD4000003, .regang ⟨3⟩), (0xD4100000, .exit),
      (0xF0000123, .trap ⟨0x123⟩), (0xF0200005, .emret ⟨.write, true⟩), (0xF0310200, .srd ⟨.reg 8, 8⟩),
      (0xF0404340, .swr ⟨.reg 2, 13⟩), (0xF4000123, .tramp ⟨0x123⟩)] : List (Nat × Instr)),
    decodeTableWord 32 x.1 = some x.2) ∧
  decodeTableWord 32 0xE0090814 = none ∧ decodeTableWord 32 0xFFFFFFFF = none

/-- A step runs the decoded instruction: when the next move is a core of a device with power, or its issue of an atomic
of which it performs a part (assumption log 16), no hint of its last unit still takes a slot, the oldest offer of the gang
that the engines choose is a stream whose PC has no deferred fault waiting that it takes now, and the unit there decodes to an instruction, the step is exec of it, at the state in which the issue is noted;
a unit that decodes to none runs as the undefined word. A word without hints is a unit by itself. An event runs as exec
of it; with an empty agenda the moves of a cycle come first, then the cycle. A move that met memory homed on a die under
reset is made later (R512). With main power off a move does nothing (R542). The agenda is the model's own (assumption
log 1). -/
def Obligations.StepRunsDecoded : Prop :=
  (∀ (s : State) (c slot i pc w p : Nat) (m : Move) (part : Option Nat) (ms : List Move) (g : Gang) (herd : Bool)
    (rest : List Nat) (hs : List Hint),
    s.agenda = m :: ms → (m = .core c ∧ part = none) ∨ (∃ n, m = .split c n ∧ part = some n) → s.powered = true →
    let popped := { s with tick := s.tick + 1, agenda := ms, split := none }
    let u := { popped with split := part }
    let active := g.streamActive (g.streamAt i) pc
    let is : Issue := ⟨c, slot, i, BitVec.ofNat 48 pc, BitVec.ofNat 48 p, BitVec.ofNat 48 (p + 4), w, hs, active⟩
    (∀ n, (u.core c).lastCycle = some n → n < u.clockOf c) →
    u.chooseGang (u.core c) (u.clockOf c) = some (slot, g, herd) → g.offers = i :: rest →
    g.streamPc (g.streamAt i) = some pc →
    (∀ l, active.getLsbD l = true → (g.lane l).deferred = []) ∨ g.halfway active = true →
    u.fetchUnit c g.ctxKey pc = .unit w hs p →
    ∃ t h, step s = popped.madeOr m (exec ((decodeUnit w hs).getD .undefinedWord) t) ∧ t.cur = is ∧
      t.tick = s.tick + 1 ∧ t.agenda = ms ∧ t.split = part ∧ t.mem = s.mem ∧
      t.parts = (if (g.streamAt i).wait = .retry then u.fqSettle g.part g.ctx else s).parts ∧
      t.ctxs = s.ctxs ∧ t.dev = s.dev ∧ t.bad = s.bad ∧ t.waits = s.waits ∧ t.issuer = some h ∧ g.Keeps h ∧ ∀ l, (h.lane l).pc = (g.lane l).pc ∧
        (h.lane l).hist.map (fun e => e.val) = (g.lane l).hist.map (fun e => e.val)) ∧
  (∀ (s : State) (c ctx pc w : Nat), s.fetchWord c ctx false pc = .word w → isHint w = false →
    s.fetchUnit c ctx pc = .unit w [] pc) ∧
  (∀ w i, decodeUnit w [] = some i → decodeWord w = .ok i) ∧
  ∀ s : State, let u := { s with tick := s.tick + 1, split := none }
    (s.powered = true →
      (∀ i ms, s.agenda = .event i :: ms →
        step s = State.madeOr { u with agenda := ms } (.event i) (exec i { u with agenda := ms })) ∧
      (∀ i ms, s.agenda = [] → u.cycleMoves = .event i :: ms →
        let v := { u with agenda := ms ++ [Move.elapse 1] }
        step s = v.madeOr (.event i) (exec i v)) ∧
      (s.agenda = [] → u.cycleMoves = [] → s.bad = none → s.waits = false → ∃ t, step s = .next t ∧
        t.time = s.time + 1 ∧ t.agenda = [] ∧ SameMemory s t)) ∧
    ∀ m ms, s.powered = false → s.agenda = m :: ms → m ≠ .event .powerOn → s.bad = none → s.waits = false →
      step s = .next { u with agenda := ms }

/-- Every step keeps the canonical form of memory: addresses strictly rising and no zero byte listed, whatever the
instruction or event. -/
def Obligations.StepKeepsMemory : Prop := ∀ s t : State, step s = .next t → s.MemOk → t.MemOk

/-- Decoding the word of a well-formed instruction gives it back, with every operand, and the same through the bytes
that memory holds. -/
def Obligations.EncodeDecodeAgree : Prop :=
  ∀ i : Instr, i.wf = true → ∃ w, encodeWord i = some w ∧ w < 2 ^ 32 ∧ decodeWord w = .ok i ∧
    decodeTableWord 32 w = some i ∧ ∀ rest, decodeBytes (wordBytes w ++ rest) = .ok (i, rest)

end
end

