-- ==== Sys2Proof/Laws/Maps.lean ====
section
/-! SUPPORT. Reading a sparse map after a write. -/

namespace Sys2Proof.Machine

@[simp] theorem mfind?_mput_same {α : Type} (m : Map α) (n : Nat) (y : α) : mfind? (mput m n y) n = some y := by
  induction m with
  | nil => simp [mput, mfind?]
  | cons x m ih =>
    obtain ⟨k, v⟩ := x
    simp only [mput]
    split
    · simp [mfind?]
    · split
      · simp [mfind?]
      · simp [mfind?, *]

theorem mfind?_mput_other {α : Type} (m : Map α) (n a : Nat) (y : α) (h : a ≠ n) :
    mfind? (mput m n y) a = mfind? m a := by
  induction m with
  | nil => simp [mput, mfind?, h]
  | cons x m ih =>
    obtain ⟨k, v⟩ := x
    simp only [mput]
    split
    · subst_vars; simp [mfind?, h]
    · split
      · simp only [mfind?, h, if_false]
      · simp only [mfind?, ih]

theorem mfind?_mdel {α : Type} (m : Map α) (n a : Nat) :
    mfind? (mdel m n) a = if a = n then none else mfind? m a := by
  induction m with
  | nil => simp [mdel, mfind?]
  | cons x m ih =>
    obtain ⟨k, v⟩ := x
    unfold mdel at ih ⊢
    by_cases e : k = n
    · subst e
      simp only [List.filter_cons, bne_self_eq_false, Bool.false_eq_true, if_false, mfind?, ih]
      split <;> simp_all
    · simp only [List.filter_cons, bne_iff_ne, ne_eq, e, not_false_eq_true, if_true, mfind?, ih]
      split
      · subst_vars; simp [e]
      · rfl

@[simp] theorem mget_mput_same {α : Type} (d : α) (m : Map α) (n : Nat) (y : α) : mget d (mput m n y) n = y := by
  simp [mget]

theorem mget_mput_other {α : Type} (d : α) (m : Map α) (n a : Nat) (y : α) (h : a ≠ n) :
    mget d (mput m n y) a = mget d m a := by
  simp [mget, mfind?_mput_other m n a y h]

theorem mget_mput {α : Type} (d : α) (m : Map α) (n a : Nat) (y : α) :
    mget d (mput m n y) a = if a = n then y else mget d m a := by
  by_cases h : a = n
  · subst h; simp
  · simp [mget_mput_other, h]

theorem mfind?_mput {α : Type} (m : Map α) (n a : Nat) (y : α) :
    mfind? (mput m n y) a = if a = n then some y else mfind? m a := by
  by_cases h : a = n
  · subst h; simp
  · simp [mfind?_mput_other, h]

theorem mfind?_mmod {α : Type} (m : Map α) (n a : Nat) (f : α → α) :
    mfind? (mmod m n f) a = if a = n then (mfind? m n).map f else mfind? m a := by
  unfold mmod
  cases h : mfind? m n with
  | none => by_cases e : a = n <;> simp [e, h]
  | some x => simp only [mfind?_mput]; rfl

theorem mfind?_mmapVals {α : Type} (f : Nat → α → α) (m : Map α) (a : Nat) :
    mfind? (mmapVals f m) a = (mfind? m a).map (f a) := by
  induction m with
  | nil => rfl
  | cons x m ih =>
    obtain ⟨k, v⟩ := x
    simp only [mmapVals] at ih
    simp only [mmapVals, List.map_cons, mfind?]
    split
    · subst_vars; rfl
    · exact ih

/-! Masks. -/

theorem mem_lanesOf {m : LaneMask} {l : Nat} : l ∈ lanesOf m ↔ m.getLsbD l = true := by
  simp only [lanesOf, below, List.mem_filter, List.mem_range]
  constructor
  · exact fun h => h.2
  · intro h
    refine ⟨?_, h⟩
    by_contra hl
    have := BitVec.getLsbD_of_ge m l (by omega)
    simp_all

theorem nodup_lanesOf (m : LaneMask) : (lanesOf m).Nodup := List.Nodup.filter _ (List.nodup_range)

end Sys2Proof.Machine
end

