-- ==== Sys2Proof/Laws/State.lean ====
section
/-! SUPPORT. What each update of the machine and of a gang leaves in every field. -/

namespace Sys2Proof.Machine

/-! State.setMem. -/

@[simp] theorem State.setMem_time (s : State) (m : List Host.Cell) : (s.setMem m).time = s.time := rfl
@[simp] theorem State.setMem_tick (s : State) (m : List Host.Cell) : (s.setMem m).tick = s.tick := rfl
@[simp] theorem State.setMem_powered (s : State) (m : List Host.Cell) : (s.setMem m).powered = s.powered := rfl
@[simp] theorem State.setMem_agenda (s : State) (m : List Host.Cell) : (s.setMem m).agenda = s.agenda := rfl
@[simp] theorem State.setMem_cur (s : State) (m : List Host.Cell) : (s.setMem m).cur = s.cur := rfl
@[simp] theorem State.setMem_bad (s : State) (m : List Host.Cell) : (s.setMem m).bad = s.bad := rfl
@[simp] theorem State.setMem_split (s : State) (m : List Host.Cell) : (s.setMem m).split = s.split := rfl
@[simp] theorem State.setMem_waits (s : State) (m : List Host.Cell) : (s.setMem m).waits = s.waits := rfl
@[simp] theorem State.setMem_clusters (s : State) (m : List Host.Cell) : (s.setMem m).clusters = s.clusters := rfl
@[simp] theorem State.setMem_cores (s : State) (m : List Host.Cell) : (s.setMem m).cores = s.cores := rfl
@[simp] theorem State.setMem_dies (s : State) (m : List Host.Cell) : (s.setMem m).dies = s.dies := rfl
@[simp] theorem State.setMem_parts (s : State) (m : List Host.Cell) : (s.setMem m).parts = s.parts := rfl
@[simp] theorem State.setMem_ctxs (s : State) (m : List Host.Cell) : (s.setMem m).ctxs = s.ctxs := rfl
@[simp] theorem State.setMem_launches (s : State) (m : List Host.Cell) : (s.setMem m).launches = s.launches := rfl
@[simp] theorem State.setMem_nextLaunch (s : State) (m : List Host.Cell) : (s.setMem m).nextLaunch = s.nextLaunch := rfl
@[simp] theorem State.setMem_queues (s : State) (m : List Host.Cell) : (s.setMem m).queues = s.queues := rfl
@[simp] theorem State.setMem_spilled (s : State) (m : List Host.Cell) : (s.setMem m).spilled = s.spilled := rfl
@[simp] theorem State.setMem_dev (s : State) (m : List Host.Cell) : (s.setMem m).dev = s.dev := rfl
@[simp] theorem State.setMem_conns (s : State) (m : List Host.Cell) : (s.setMem m).conns = s.conns := rfl
@[simp] theorem State.setMem_sent (s : State) (m : List Host.Cell) : (s.setMem m).sent = s.sent := rfl

/-! State.setCore. -/

@[simp] theorem State.setCore_time (s : State) (c : Nat) (k : Core) : (s.setCore c k).time = s.time := rfl
@[simp] theorem State.setCore_tick (s : State) (c : Nat) (k : Core) : (s.setCore c k).tick = s.tick := rfl
@[simp] theorem State.setCore_powered (s : State) (c : Nat) (k : Core) : (s.setCore c k).powered = s.powered := rfl
@[simp] theorem State.setCore_agenda (s : State) (c : Nat) (k : Core) : (s.setCore c k).agenda = s.agenda := rfl
@[simp] theorem State.setCore_cur (s : State) (c : Nat) (k : Core) : (s.setCore c k).cur = s.cur := rfl
@[simp] theorem State.setCore_bad (s : State) (c : Nat) (k : Core) : (s.setCore c k).bad = s.bad := rfl
@[simp] theorem State.setCore_split (s : State) (c : Nat) (k : Core) : (s.setCore c k).split = s.split := rfl
@[simp] theorem State.setCore_waits (s : State) (c : Nat) (k : Core) : (s.setCore c k).waits = s.waits := rfl
@[simp] theorem State.setCore_mem (s : State) (c : Nat) (k : Core) : (s.setCore c k).mem = s.mem := rfl
@[simp] theorem State.setCore_clusters (s : State) (c : Nat) (k : Core) : (s.setCore c k).clusters = s.clusters := rfl
@[simp] theorem State.setCore_dies (s : State) (c : Nat) (k : Core) : (s.setCore c k).dies = s.dies := rfl
@[simp] theorem State.setCore_parts (s : State) (c : Nat) (k : Core) : (s.setCore c k).parts = s.parts := rfl
@[simp] theorem State.setCore_ctxs (s : State) (c : Nat) (k : Core) : (s.setCore c k).ctxs = s.ctxs := rfl
@[simp] theorem State.setCore_launches (s : State) (c : Nat) (k : Core) : (s.setCore c k).launches = s.launches := rfl
@[simp] theorem State.setCore_nextLaunch (s : State) (c : Nat) (k : Core) : (s.setCore c k).nextLaunch = s.nextLaunch := rfl
@[simp] theorem State.setCore_queues (s : State) (c : Nat) (k : Core) : (s.setCore c k).queues = s.queues := rfl
@[simp] theorem State.setCore_spilled (s : State) (c : Nat) (k : Core) : (s.setCore c k).spilled = s.spilled := rfl
@[simp] theorem State.setCore_dev (s : State) (c : Nat) (k : Core) : (s.setCore c k).dev = s.dev := rfl
@[simp] theorem State.setCore_conns (s : State) (c : Nat) (k : Core) : (s.setCore c k).conns = s.conns := rfl
@[simp] theorem State.setCore_sent (s : State) (c : Nat) (k : Core) : (s.setCore c k).sent = s.sent := rfl

/-! State.modCore. -/

@[simp] theorem State.modCore_time (s : State) (c : Nat) (f : Core → Core) : (s.modCore c f).time = s.time := rfl
@[simp] theorem State.modCore_tick (s : State) (c : Nat) (f : Core → Core) : (s.modCore c f).tick = s.tick := rfl
@[simp] theorem State.modCore_powered (s : State) (c : Nat) (f : Core → Core) : (s.modCore c f).powered = s.powered := rfl
@[simp] theorem State.modCore_agenda (s : State) (c : Nat) (f : Core → Core) : (s.modCore c f).agenda = s.agenda := rfl
@[simp] theorem State.modCore_cur (s : State) (c : Nat) (f : Core → Core) : (s.modCore c f).cur = s.cur := rfl
@[simp] theorem State.modCore_bad (s : State) (c : Nat) (f : Core → Core) : (s.modCore c f).bad = s.bad := rfl
@[simp] theorem State.modCore_split (s : State) (c : Nat) (f : Core → Core) : (s.modCore c f).split = s.split := rfl
@[simp] theorem State.modCore_waits (s : State) (c : Nat) (f : Core → Core) : (s.modCore c f).waits = s.waits := rfl
@[simp] theorem State.modCore_mem (s : State) (c : Nat) (f : Core → Core) : (s.modCore c f).mem = s.mem := rfl
@[simp] theorem State.modCore_clusters (s : State) (c : Nat) (f : Core → Core) : (s.modCore c f).clusters = s.clusters := rfl
@[simp] theorem State.modCore_dies (s : State) (c : Nat) (f : Core → Core) : (s.modCore c f).dies = s.dies := rfl
@[simp] theorem State.modCore_parts (s : State) (c : Nat) (f : Core → Core) : (s.modCore c f).parts = s.parts := rfl
@[simp] theorem State.modCore_ctxs (s : State) (c : Nat) (f : Core → Core) : (s.modCore c f).ctxs = s.ctxs := rfl
@[simp] theorem State.modCore_launches (s : State) (c : Nat) (f : Core → Core) : (s.modCore c f).launches = s.launches := rfl
@[simp] theorem State.modCore_nextLaunch (s : State) (c : Nat) (f : Core → Core) : (s.modCore c f).nextLaunch = s.nextLaunch := rfl
@[simp] theorem State.modCore_queues (s : State) (c : Nat) (f : Core → Core) : (s.modCore c f).queues = s.queues := rfl
@[simp] theorem State.modCore_spilled (s : State) (c : Nat) (f : Core → Core) : (s.modCore c f).spilled = s.spilled := rfl
@[simp] theorem State.modCore_dev (s : State) (c : Nat) (f : Core → Core) : (s.modCore c f).dev = s.dev := rfl
@[simp] theorem State.modCore_conns (s : State) (c : Nat) (f : Core → Core) : (s.modCore c f).conns = s.conns := rfl
@[simp] theorem State.modCore_sent (s : State) (c : Nat) (f : Core → Core) : (s.modCore c f).sent = s.sent := rfl

/-! State.setGang. -/

@[simp] theorem State.setGang_time (s : State) (c n : Nat) (g : Gang) : (s.setGang c n g).time = s.time := rfl
@[simp] theorem State.setGang_tick (s : State) (c n : Nat) (g : Gang) : (s.setGang c n g).tick = s.tick := rfl
@[simp] theorem State.setGang_powered (s : State) (c n : Nat) (g : Gang) : (s.setGang c n g).powered = s.powered := rfl
@[simp] theorem State.setGang_agenda (s : State) (c n : Nat) (g : Gang) : (s.setGang c n g).agenda = s.agenda := rfl
@[simp] theorem State.setGang_cur (s : State) (c n : Nat) (g : Gang) : (s.setGang c n g).cur = s.cur := rfl
@[simp] theorem State.setGang_bad (s : State) (c n : Nat) (g : Gang) : (s.setGang c n g).bad = s.bad := rfl
@[simp] theorem State.setGang_split (s : State) (c n : Nat) (g : Gang) : (s.setGang c n g).split = s.split := rfl
@[simp] theorem State.setGang_waits (s : State) (c n : Nat) (g : Gang) : (s.setGang c n g).waits = s.waits := rfl
@[simp] theorem State.setGang_mem (s : State) (c n : Nat) (g : Gang) : (s.setGang c n g).mem = s.mem := rfl
@[simp] theorem State.setGang_clusters (s : State) (c n : Nat) (g : Gang) : (s.setGang c n g).clusters = s.clusters := rfl
@[simp] theorem State.setGang_dies (s : State) (c n : Nat) (g : Gang) : (s.setGang c n g).dies = s.dies := rfl
@[simp] theorem State.setGang_parts (s : State) (c n : Nat) (g : Gang) : (s.setGang c n g).parts = s.parts := rfl
@[simp] theorem State.setGang_ctxs (s : State) (c n : Nat) (g : Gang) : (s.setGang c n g).ctxs = s.ctxs := rfl
@[simp] theorem State.setGang_launches (s : State) (c n : Nat) (g : Gang) : (s.setGang c n g).launches = s.launches := rfl
@[simp] theorem State.setGang_nextLaunch (s : State) (c n : Nat) (g : Gang) : (s.setGang c n g).nextLaunch = s.nextLaunch := rfl
@[simp] theorem State.setGang_queues (s : State) (c n : Nat) (g : Gang) : (s.setGang c n g).queues = s.queues := rfl
@[simp] theorem State.setGang_spilled (s : State) (c n : Nat) (g : Gang) : (s.setGang c n g).spilled = s.spilled := rfl
@[simp] theorem State.setGang_dev (s : State) (c n : Nat) (g : Gang) : (s.setGang c n g).dev = s.dev := rfl
@[simp] theorem State.setGang_conns (s : State) (c n : Nat) (g : Gang) : (s.setGang c n g).conns = s.conns := rfl
@[simp] theorem State.setGang_sent (s : State) (c n : Nat) (g : Gang) : (s.setGang c n g).sent = s.sent := rfl

/-! State.putGang. -/

@[simp] theorem State.putGang_time (s : State) (g : Gang) : (s.putGang g).time = s.time := rfl
@[simp] theorem State.putGang_tick (s : State) (g : Gang) : (s.putGang g).tick = s.tick := rfl
@[simp] theorem State.putGang_powered (s : State) (g : Gang) : (s.putGang g).powered = s.powered := rfl
@[simp] theorem State.putGang_agenda (s : State) (g : Gang) : (s.putGang g).agenda = s.agenda := rfl
@[simp] theorem State.putGang_cur (s : State) (g : Gang) : (s.putGang g).cur = s.cur := rfl
@[simp] theorem State.putGang_bad (s : State) (g : Gang) : (s.putGang g).bad = s.bad := rfl
@[simp] theorem State.putGang_split (s : State) (g : Gang) : (s.putGang g).split = s.split := rfl
@[simp] theorem State.putGang_waits (s : State) (g : Gang) : (s.putGang g).waits = s.waits := rfl
@[simp] theorem State.putGang_mem (s : State) (g : Gang) : (s.putGang g).mem = s.mem := rfl
@[simp] theorem State.putGang_clusters (s : State) (g : Gang) : (s.putGang g).clusters = s.clusters := rfl
@[simp] theorem State.putGang_dies (s : State) (g : Gang) : (s.putGang g).dies = s.dies := rfl
@[simp] theorem State.putGang_parts (s : State) (g : Gang) : (s.putGang g).parts = s.parts := rfl
@[simp] theorem State.putGang_ctxs (s : State) (g : Gang) : (s.putGang g).ctxs = s.ctxs := rfl
@[simp] theorem State.putGang_launches (s : State) (g : Gang) : (s.putGang g).launches = s.launches := rfl
@[simp] theorem State.putGang_nextLaunch (s : State) (g : Gang) : (s.putGang g).nextLaunch = s.nextLaunch := rfl
@[simp] theorem State.putGang_queues (s : State) (g : Gang) : (s.putGang g).queues = s.queues := rfl
@[simp] theorem State.putGang_spilled (s : State) (g : Gang) : (s.putGang g).spilled = s.spilled := rfl
@[simp] theorem State.putGang_dev (s : State) (g : Gang) : (s.putGang g).dev = s.dev := rfl
@[simp] theorem State.putGang_conns (s : State) (g : Gang) : (s.putGang g).conns = s.conns := rfl
@[simp] theorem State.putGang_sent (s : State) (g : Gang) : (s.putGang g).sent = s.sent := rfl

/-! State.modDie. -/

@[simp] theorem State.modDie_time (s : State) (d : Nat) (f : Die → Die) : (s.modDie d f).time = s.time := rfl
@[simp] theorem State.modDie_tick (s : State) (d : Nat) (f : Die → Die) : (s.modDie d f).tick = s.tick := rfl
@[simp] theorem State.modDie_powered (s : State) (d : Nat) (f : Die → Die) : (s.modDie d f).powered = s.powered := rfl
@[simp] theorem State.modDie_agenda (s : State) (d : Nat) (f : Die → Die) : (s.modDie d f).agenda = s.agenda := rfl
@[simp] theorem State.modDie_cur (s : State) (d : Nat) (f : Die → Die) : (s.modDie d f).cur = s.cur := rfl
@[simp] theorem State.modDie_bad (s : State) (d : Nat) (f : Die → Die) : (s.modDie d f).bad = s.bad := rfl
@[simp] theorem State.modDie_split (s : State) (d : Nat) (f : Die → Die) : (s.modDie d f).split = s.split := rfl
@[simp] theorem State.modDie_waits (s : State) (d : Nat) (f : Die → Die) : (s.modDie d f).waits = s.waits := rfl
@[simp] theorem State.modDie_mem (s : State) (d : Nat) (f : Die → Die) : (s.modDie d f).mem = s.mem := rfl
@[simp] theorem State.modDie_clusters (s : State) (d : Nat) (f : Die → Die) : (s.modDie d f).clusters = s.clusters := rfl
@[simp] theorem State.modDie_cores (s : State) (d : Nat) (f : Die → Die) : (s.modDie d f).cores = s.cores := rfl
@[simp] theorem State.modDie_parts (s : State) (d : Nat) (f : Die → Die) : (s.modDie d f).parts = s.parts := rfl
@[simp] theorem State.modDie_ctxs (s : State) (d : Nat) (f : Die → Die) : (s.modDie d f).ctxs = s.ctxs := rfl
@[simp] theorem State.modDie_launches (s : State) (d : Nat) (f : Die → Die) : (s.modDie d f).launches = s.launches := rfl
@[simp] theorem State.modDie_nextLaunch (s : State) (d : Nat) (f : Die → Die) : (s.modDie d f).nextLaunch = s.nextLaunch := rfl
@[simp] theorem State.modDie_queues (s : State) (d : Nat) (f : Die → Die) : (s.modDie d f).queues = s.queues := rfl
@[simp] theorem State.modDie_spilled (s : State) (d : Nat) (f : Die → Die) : (s.modDie d f).spilled = s.spilled := rfl
@[simp] theorem State.modDie_dev (s : State) (d : Nat) (f : Die → Die) : (s.modDie d f).dev = s.dev := rfl
@[simp] theorem State.modDie_conns (s : State) (d : Nat) (f : Die → Die) : (s.modDie d f).conns = s.conns := rfl
@[simp] theorem State.modDie_sent (s : State) (d : Nat) (f : Die → Die) : (s.modDie d f).sent = s.sent := rfl

/-! State.modPart. -/

@[simp] theorem State.modPart_time (s : State) (p : Nat) (f : Partition → Partition) : (s.modPart p f).time = s.time := rfl
@[simp] theorem State.modPart_tick (s : State) (p : Nat) (f : Partition → Partition) : (s.modPart p f).tick = s.tick := rfl
@[simp] theorem State.modPart_powered (s : State) (p : Nat) (f : Partition → Partition) : (s.modPart p f).powered = s.powered := rfl
@[simp] theorem State.modPart_agenda (s : State) (p : Nat) (f : Partition → Partition) : (s.modPart p f).agenda = s.agenda := rfl
@[simp] theorem State.modPart_cur (s : State) (p : Nat) (f : Partition → Partition) : (s.modPart p f).cur = s.cur := rfl
@[simp] theorem State.modPart_bad (s : State) (p : Nat) (f : Partition → Partition) : (s.modPart p f).bad = s.bad := rfl
@[simp] theorem State.modPart_split (s : State) (p : Nat) (f : Partition → Partition) : (s.modPart p f).split = s.split := rfl
@[simp] theorem State.modPart_waits (s : State) (p : Nat) (f : Partition → Partition) : (s.modPart p f).waits = s.waits := rfl
@[simp] theorem State.modPart_mem (s : State) (p : Nat) (f : Partition → Partition) : (s.modPart p f).mem = s.mem := rfl
@[simp] theorem State.modPart_clusters (s : State) (p : Nat) (f : Partition → Partition) : (s.modPart p f).clusters = s.clusters := rfl
@[simp] theorem State.modPart_cores (s : State) (p : Nat) (f : Partition → Partition) : (s.modPart p f).cores = s.cores := rfl
@[simp] theorem State.modPart_dies (s : State) (p : Nat) (f : Partition → Partition) : (s.modPart p f).dies = s.dies := rfl
@[simp] theorem State.modPart_ctxs (s : State) (p : Nat) (f : Partition → Partition) : (s.modPart p f).ctxs = s.ctxs := rfl
@[simp] theorem State.modPart_launches (s : State) (p : Nat) (f : Partition → Partition) : (s.modPart p f).launches = s.launches := rfl
@[simp] theorem State.modPart_nextLaunch (s : State) (p : Nat) (f : Partition → Partition) : (s.modPart p f).nextLaunch = s.nextLaunch := rfl
@[simp] theorem State.modPart_queues (s : State) (p : Nat) (f : Partition → Partition) : (s.modPart p f).queues = s.queues := rfl
@[simp] theorem State.modPart_spilled (s : State) (p : Nat) (f : Partition → Partition) : (s.modPart p f).spilled = s.spilled := rfl
@[simp] theorem State.modPart_dev (s : State) (p : Nat) (f : Partition → Partition) : (s.modPart p f).dev = s.dev := rfl
@[simp] theorem State.modPart_conns (s : State) (p : Nat) (f : Partition → Partition) : (s.modPart p f).conns = s.conns := rfl
@[simp] theorem State.modPart_sent (s : State) (p : Nat) (f : Partition → Partition) : (s.modPart p f).sent = s.sent := rfl

/-! State.modCtx. -/

@[simp] theorem State.modCtx_time (s : State) (c : Nat) (f : Ctx → Ctx) : (s.modCtx c f).time = s.time := rfl
@[simp] theorem State.modCtx_tick (s : State) (c : Nat) (f : Ctx → Ctx) : (s.modCtx c f).tick = s.tick := rfl
@[simp] theorem State.modCtx_powered (s : State) (c : Nat) (f : Ctx → Ctx) : (s.modCtx c f).powered = s.powered := rfl
@[simp] theorem State.modCtx_agenda (s : State) (c : Nat) (f : Ctx → Ctx) : (s.modCtx c f).agenda = s.agenda := rfl
@[simp] theorem State.modCtx_cur (s : State) (c : Nat) (f : Ctx → Ctx) : (s.modCtx c f).cur = s.cur := rfl
@[simp] theorem State.modCtx_bad (s : State) (c : Nat) (f : Ctx → Ctx) : (s.modCtx c f).bad = s.bad := rfl
@[simp] theorem State.modCtx_split (s : State) (c : Nat) (f : Ctx → Ctx) : (s.modCtx c f).split = s.split := rfl
@[simp] theorem State.modCtx_waits (s : State) (c : Nat) (f : Ctx → Ctx) : (s.modCtx c f).waits = s.waits := rfl
@[simp] theorem State.modCtx_mem (s : State) (c : Nat) (f : Ctx → Ctx) : (s.modCtx c f).mem = s.mem := rfl
@[simp] theorem State.modCtx_clusters (s : State) (c : Nat) (f : Ctx → Ctx) : (s.modCtx c f).clusters = s.clusters := rfl
@[simp] theorem State.modCtx_cores (s : State) (c : Nat) (f : Ctx → Ctx) : (s.modCtx c f).cores = s.cores := rfl
@[simp] theorem State.modCtx_dies (s : State) (c : Nat) (f : Ctx → Ctx) : (s.modCtx c f).dies = s.dies := rfl
@[simp] theorem State.modCtx_parts (s : State) (c : Nat) (f : Ctx → Ctx) : (s.modCtx c f).parts = s.parts := rfl
@[simp] theorem State.modCtx_launches (s : State) (c : Nat) (f : Ctx → Ctx) : (s.modCtx c f).launches = s.launches := rfl
@[simp] theorem State.modCtx_nextLaunch (s : State) (c : Nat) (f : Ctx → Ctx) : (s.modCtx c f).nextLaunch = s.nextLaunch := rfl
@[simp] theorem State.modCtx_queues (s : State) (c : Nat) (f : Ctx → Ctx) : (s.modCtx c f).queues = s.queues := rfl
@[simp] theorem State.modCtx_spilled (s : State) (c : Nat) (f : Ctx → Ctx) : (s.modCtx c f).spilled = s.spilled := rfl
@[simp] theorem State.modCtx_dev (s : State) (c : Nat) (f : Ctx → Ctx) : (s.modCtx c f).dev = s.dev := rfl
@[simp] theorem State.modCtx_conns (s : State) (c : Nat) (f : Ctx → Ctx) : (s.modCtx c f).conns = s.conns := rfl
@[simp] theorem State.modCtx_sent (s : State) (c : Nat) (f : Ctx → Ctx) : (s.modCtx c f).sent = s.sent := rfl

/-! State.modLaunch. -/

@[simp] theorem State.modLaunch_time (s : State) (n : Nat) (f : Launch → Launch) : (s.modLaunch n f).time = s.time := rfl
@[simp] theorem State.modLaunch_tick (s : State) (n : Nat) (f : Launch → Launch) : (s.modLaunch n f).tick = s.tick := rfl
@[simp] theorem State.modLaunch_powered (s : State) (n : Nat) (f : Launch → Launch) : (s.modLaunch n f).powered = s.powered := rfl
@[simp] theorem State.modLaunch_agenda (s : State) (n : Nat) (f : Launch → Launch) : (s.modLaunch n f).agenda = s.agenda := rfl
@[simp] theorem State.modLaunch_cur (s : State) (n : Nat) (f : Launch → Launch) : (s.modLaunch n f).cur = s.cur := rfl
@[simp] theorem State.modLaunch_bad (s : State) (n : Nat) (f : Launch → Launch) : (s.modLaunch n f).bad = s.bad := rfl
@[simp] theorem State.modLaunch_split (s : State) (n : Nat) (f : Launch → Launch) : (s.modLaunch n f).split = s.split := rfl
@[simp] theorem State.modLaunch_waits (s : State) (n : Nat) (f : Launch → Launch) : (s.modLaunch n f).waits = s.waits := rfl
@[simp] theorem State.modLaunch_mem (s : State) (n : Nat) (f : Launch → Launch) : (s.modLaunch n f).mem = s.mem := rfl
@[simp] theorem State.modLaunch_clusters (s : State) (n : Nat) (f : Launch → Launch) : (s.modLaunch n f).clusters = s.clusters := rfl
@[simp] theorem State.modLaunch_cores (s : State) (n : Nat) (f : Launch → Launch) : (s.modLaunch n f).cores = s.cores := rfl
@[simp] theorem State.modLaunch_dies (s : State) (n : Nat) (f : Launch → Launch) : (s.modLaunch n f).dies = s.dies := rfl
@[simp] theorem State.modLaunch_parts (s : State) (n : Nat) (f : Launch → Launch) : (s.modLaunch n f).parts = s.parts := rfl
@[simp] theorem State.modLaunch_ctxs (s : State) (n : Nat) (f : Launch → Launch) : (s.modLaunch n f).ctxs = s.ctxs := rfl
@[simp] theorem State.modLaunch_nextLaunch (s : State) (n : Nat) (f : Launch → Launch) : (s.modLaunch n f).nextLaunch = s.nextLaunch := rfl
@[simp] theorem State.modLaunch_queues (s : State) (n : Nat) (f : Launch → Launch) : (s.modLaunch n f).queues = s.queues := rfl
@[simp] theorem State.modLaunch_spilled (s : State) (n : Nat) (f : Launch → Launch) : (s.modLaunch n f).spilled = s.spilled := rfl
@[simp] theorem State.modLaunch_dev (s : State) (n : Nat) (f : Launch → Launch) : (s.modLaunch n f).dev = s.dev := rfl
@[simp] theorem State.modLaunch_conns (s : State) (n : Nat) (f : Launch → Launch) : (s.modLaunch n f).conns = s.conns := rfl
@[simp] theorem State.modLaunch_sent (s : State) (n : Nat) (f : Launch → Launch) : (s.modLaunch n f).sent = s.sent := rfl

/-! State.emit. -/

@[simp] theorem State.emit_time (s : State) (f : Frame) : (s.emit f).time = s.time := rfl
@[simp] theorem State.emit_tick (s : State) (f : Frame) : (s.emit f).tick = s.tick := rfl
@[simp] theorem State.emit_powered (s : State) (f : Frame) : (s.emit f).powered = s.powered := rfl
@[simp] theorem State.emit_agenda (s : State) (f : Frame) : (s.emit f).agenda = s.agenda := rfl
@[simp] theorem State.emit_cur (s : State) (f : Frame) : (s.emit f).cur = s.cur := rfl
@[simp] theorem State.emit_bad (s : State) (f : Frame) : (s.emit f).bad = s.bad := rfl
@[simp] theorem State.emit_split (s : State) (f : Frame) : (s.emit f).split = s.split := rfl
@[simp] theorem State.emit_waits (s : State) (f : Frame) : (s.emit f).waits = s.waits := rfl
@[simp] theorem State.emit_mem (s : State) (f : Frame) : (s.emit f).mem = s.mem := rfl
@[simp] theorem State.emit_clusters (s : State) (f : Frame) : (s.emit f).clusters = s.clusters := rfl
@[simp] theorem State.emit_cores (s : State) (f : Frame) : (s.emit f).cores = s.cores := rfl
@[simp] theorem State.emit_dies (s : State) (f : Frame) : (s.emit f).dies = s.dies := rfl
@[simp] theorem State.emit_parts (s : State) (f : Frame) : (s.emit f).parts = s.parts := rfl
@[simp] theorem State.emit_ctxs (s : State) (f : Frame) : (s.emit f).ctxs = s.ctxs := rfl
@[simp] theorem State.emit_launches (s : State) (f : Frame) : (s.emit f).launches = s.launches := rfl
@[simp] theorem State.emit_nextLaunch (s : State) (f : Frame) : (s.emit f).nextLaunch = s.nextLaunch := rfl
@[simp] theorem State.emit_queues (s : State) (f : Frame) : (s.emit f).queues = s.queues := rfl
@[simp] theorem State.emit_spilled (s : State) (f : Frame) : (s.emit f).spilled = s.spilled := rfl
@[simp] theorem State.emit_dev (s : State) (f : Frame) : (s.emit f).dev = s.dev := rfl
@[simp] theorem State.emit_conns (s : State) (f : Frame) : (s.emit f).conns = s.conns := rfl

/-! Gang.setLane. -/

@[simp] theorem Gang.setLane_part (g : Gang) (l : Nat) (x : Lane) : (g.setLane l x).part = g.part := rfl
@[simp] theorem Gang.setLane_ctx (g : Gang) (l : Nat) (x : Lane) : (g.setLane l x).ctx = g.ctx := rfl
@[simp] theorem Gang.setLane_launch (g : Gang) (l : Nat) (x : Lane) : (g.setLane l x).launch = g.launch := rfl
@[simp] theorem Gang.setLane_seq (g : Gang) (l : Nat) (x : Lane) : (g.setLane l x).seq = g.seq := rfl
@[simp] theorem Gang.setLane_team (g : Gang) (l : Nat) (x : Lane) : (g.setLane l x).team = g.team := rfl
@[simp] theorem Gang.setLane_index (g : Gang) (l : Nat) (x : Lane) : (g.setLane l x).index = g.index := rfl
@[simp] theorem Gang.setLane_bank (g : Gang) (l : Nat) (x : Lane) : (g.setLane l x).bank = g.bank := rfl
@[simp] theorem Gang.setLane_slot (g : Gang) (l : Nat) (x : Lane) : (g.setLane l x).slot = g.slot := rfl
@[simp] theorem Gang.setLane_rows (g : Gang) (l : Nat) (x : Lane) : (g.setLane l x).rows = g.rows := rfl
@[simp] theorem Gang.setLane_vregs (g : Gang) (l : Nat) (x : Lane) : (g.setLane l x).vregs = g.vregs := rfl
@[simp] theorem Gang.setLane_code (g : Gang) (l : Nat) (x : Lane) : (g.setLane l x).code = g.code := rfl
@[simp] theorem Gang.setLane_emuEntry (g : Gang) (l : Nat) (x : Lane) : (g.setLane l x).emuEntry = g.emuEntry := rfl
@[simp] theorem Gang.setLane_trapEntry (g : Gang) (l : Nat) (x : Lane) : (g.setLane l x).trapEntry = g.trapEntry := rfl
@[simp] theorem Gang.setLane_v (g : Gang) (l : Nat) (x : Lane) : (g.setLane l x).v = g.v := rfl
@[simp] theorem Gang.setLane_s (g : Gang) (l : Nat) (x : Lane) : (g.setLane l x).s = g.s := rfl
@[simp] theorem Gang.setLane_preds (g : Gang) (l : Nat) (x : Lane) : (g.setLane l x).preds = g.preds := rfl
@[simp] theorem Gang.setLane_fpflags (g : Gang) (l : Nat) (x : Lane) : (g.setLane l x).fpflags = g.fpflags := rfl
@[simp] theorem Gang.setLane_bankstall (g : Gang) (l : Nat) (x : Lane) : (g.setLane l x).bankstall = g.bankstall := rfl
@[simp] theorem Gang.setLane_replay (g : Gang) (l : Nat) (x : Lane) : (g.setLane l x).replay = g.replay := rfl
@[simp] theorem Gang.setLane_streams (g : Gang) (l : Nat) (x : Lane) : (g.setLane l x).streams = g.streams := rfl
@[simp] theorem Gang.setLane_done (g : Gang) (l : Nat) (x : Lane) : (g.setLane l x).done = g.done := rfl
@[simp] theorem Gang.setLane_tree (g : Gang) (l : Nat) (x : Lane) : (g.setLane l x).tree = g.tree := rfl
@[simp] theorem Gang.setLane_arrival (g : Gang) (l : Nat) (x : Lane) : (g.setLane l x).arrival = g.arrival := rfl
@[simp] theorem Gang.setLane_promotion (g : Gang) (l : Nat) (x : Lane) : (g.setLane l x).promotion = g.promotion := rfl
@[simp] theorem Gang.setLane_held (g : Gang) (l : Nat) (x : Lane) : (g.setLane l x).held = g.held := rfl
@[simp] theorem Gang.setLane_spent (g : Gang) (l : Nat) (x : Lane) : (g.setLane l x).spent = g.spent := rfl
@[simp] theorem Gang.setLane_lastChurn (g : Gang) (l : Nat) (x : Lane) : (g.setLane l x).lastChurn = g.lastChurn := rfl
@[simp] theorem Gang.setLane_lastSlices (g : Gang) (l : Nat) (x : Lane) : (g.setLane l x).lastSlices = g.lastSlices := rfl
@[simp] theorem Gang.setLane_yielded (g : Gang) (l : Nat) (x : Lane) : (g.setLane l x).yielded = g.yielded := rfl
@[simp] theorem Gang.setLane_liveness (g : Gang) (l : Nat) (x : Lane) : (g.setLane l x).liveness = g.liveness := rfl
@[simp] theorem Gang.setLane_frozen (g : Gang) (l : Nat) (x : Lane) : (g.setLane l x).frozen = g.frozen := rfl

/-! Gang.modLane. -/

@[simp] theorem Gang.modLane_part (g : Gang) (l : Nat) (f : Lane → Lane) : (g.modLane l f).part = g.part := rfl
@[simp] theorem Gang.modLane_ctx (g : Gang) (l : Nat) (f : Lane → Lane) : (g.modLane l f).ctx = g.ctx := rfl
@[simp] theorem Gang.modLane_launch (g : Gang) (l : Nat) (f : Lane → Lane) : (g.modLane l f).launch = g.launch := rfl
@[simp] theorem Gang.modLane_seq (g : Gang) (l : Nat) (f : Lane → Lane) : (g.modLane l f).seq = g.seq := rfl
@[simp] theorem Gang.modLane_team (g : Gang) (l : Nat) (f : Lane → Lane) : (g.modLane l f).team = g.team := rfl
@[simp] theorem Gang.modLane_index (g : Gang) (l : Nat) (f : Lane → Lane) : (g.modLane l f).index = g.index := rfl
@[simp] theorem Gang.modLane_bank (g : Gang) (l : Nat) (f : Lane → Lane) : (g.modLane l f).bank = g.bank := rfl
@[simp] theorem Gang.modLane_slot (g : Gang) (l : Nat) (f : Lane → Lane) : (g.modLane l f).slot = g.slot := rfl
@[simp] theorem Gang.modLane_rows (g : Gang) (l : Nat) (f : Lane → Lane) : (g.modLane l f).rows = g.rows := rfl
@[simp] theorem Gang.modLane_vregs (g : Gang) (l : Nat) (f : Lane → Lane) : (g.modLane l f).vregs = g.vregs := rfl
@[simp] theorem Gang.modLane_code (g : Gang) (l : Nat) (f : Lane → Lane) : (g.modLane l f).code = g.code := rfl
@[simp] theorem Gang.modLane_emuEntry (g : Gang) (l : Nat) (f : Lane → Lane) : (g.modLane l f).emuEntry = g.emuEntry := rfl
@[simp] theorem Gang.modLane_trapEntry (g : Gang) (l : Nat) (f : Lane → Lane) : (g.modLane l f).trapEntry = g.trapEntry := rfl
@[simp] theorem Gang.modLane_v (g : Gang) (l : Nat) (f : Lane → Lane) : (g.modLane l f).v = g.v := rfl
@[simp] theorem Gang.modLane_s (g : Gang) (l : Nat) (f : Lane → Lane) : (g.modLane l f).s = g.s := rfl
@[simp] theorem Gang.modLane_preds (g : Gang) (l : Nat) (f : Lane → Lane) : (g.modLane l f).preds = g.preds := rfl
@[simp] theorem Gang.modLane_fpflags (g : Gang) (l : Nat) (f : Lane → Lane) : (g.modLane l f).fpflags = g.fpflags := rfl
@[simp] theorem Gang.modLane_bankstall (g : Gang) (l : Nat) (f : Lane → Lane) : (g.modLane l f).bankstall = g.bankstall := rfl
@[simp] theorem Gang.modLane_replay (g : Gang) (l : Nat) (f : Lane → Lane) : (g.modLane l f).replay = g.replay := rfl
@[simp] theorem Gang.modLane_streams (g : Gang) (l : Nat) (f : Lane → Lane) : (g.modLane l f).streams = g.streams := rfl
@[simp] theorem Gang.modLane_done (g : Gang) (l : Nat) (f : Lane → Lane) : (g.modLane l f).done = g.done := rfl
@[simp] theorem Gang.modLane_tree (g : Gang) (l : Nat) (f : Lane → Lane) : (g.modLane l f).tree = g.tree := rfl
@[simp] theorem Gang.modLane_arrival (g : Gang) (l : Nat) (f : Lane → Lane) : (g.modLane l f).arrival = g.arrival := rfl
@[simp] theorem Gang.modLane_promotion (g : Gang) (l : Nat) (f : Lane → Lane) : (g.modLane l f).promotion = g.promotion := rfl
@[simp] theorem Gang.modLane_held (g : Gang) (l : Nat) (f : Lane → Lane) : (g.modLane l f).held = g.held := rfl
@[simp] theorem Gang.modLane_spent (g : Gang) (l : Nat) (f : Lane → Lane) : (g.modLane l f).spent = g.spent := rfl
@[simp] theorem Gang.modLane_lastChurn (g : Gang) (l : Nat) (f : Lane → Lane) : (g.modLane l f).lastChurn = g.lastChurn := rfl
@[simp] theorem Gang.modLane_lastSlices (g : Gang) (l : Nat) (f : Lane → Lane) : (g.modLane l f).lastSlices = g.lastSlices := rfl
@[simp] theorem Gang.modLane_yielded (g : Gang) (l : Nat) (f : Lane → Lane) : (g.modLane l f).yielded = g.yielded := rfl
@[simp] theorem Gang.modLane_liveness (g : Gang) (l : Nat) (f : Lane → Lane) : (g.modLane l f).liveness = g.liveness := rfl
@[simp] theorem Gang.modLane_frozen (g : Gang) (l : Nat) (f : Lane → Lane) : (g.modLane l f).frozen = g.frozen := rfl

/-! Gang.setReg. -/

@[simp] theorem Gang.setReg_part (g : Gang) (r l : Nat) (x : Word) : (g.setReg r l x).part = g.part := rfl
@[simp] theorem Gang.setReg_ctx (g : Gang) (r l : Nat) (x : Word) : (g.setReg r l x).ctx = g.ctx := rfl
@[simp] theorem Gang.setReg_launch (g : Gang) (r l : Nat) (x : Word) : (g.setReg r l x).launch = g.launch := rfl
@[simp] theorem Gang.setReg_seq (g : Gang) (r l : Nat) (x : Word) : (g.setReg r l x).seq = g.seq := rfl
@[simp] theorem Gang.setReg_team (g : Gang) (r l : Nat) (x : Word) : (g.setReg r l x).team = g.team := rfl
@[simp] theorem Gang.setReg_index (g : Gang) (r l : Nat) (x : Word) : (g.setReg r l x).index = g.index := rfl
@[simp] theorem Gang.setReg_bank (g : Gang) (r l : Nat) (x : Word) : (g.setReg r l x).bank = g.bank := rfl
@[simp] theorem Gang.setReg_slot (g : Gang) (r l : Nat) (x : Word) : (g.setReg r l x).slot = g.slot := rfl
@[simp] theorem Gang.setReg_rows (g : Gang) (r l : Nat) (x : Word) : (g.setReg r l x).rows = g.rows := rfl
@[simp] theorem Gang.setReg_vregs (g : Gang) (r l : Nat) (x : Word) : (g.setReg r l x).vregs = g.vregs := rfl
@[simp] theorem Gang.setReg_code (g : Gang) (r l : Nat) (x : Word) : (g.setReg r l x).code = g.code := rfl
@[simp] theorem Gang.setReg_emuEntry (g : Gang) (r l : Nat) (x : Word) : (g.setReg r l x).emuEntry = g.emuEntry := rfl
@[simp] theorem Gang.setReg_trapEntry (g : Gang) (r l : Nat) (x : Word) : (g.setReg r l x).trapEntry = g.trapEntry := rfl
@[simp] theorem Gang.setReg_s (g : Gang) (r l : Nat) (x : Word) : (g.setReg r l x).s = g.s := rfl
@[simp] theorem Gang.setReg_preds (g : Gang) (r l : Nat) (x : Word) : (g.setReg r l x).preds = g.preds := rfl
@[simp] theorem Gang.setReg_fpflags (g : Gang) (r l : Nat) (x : Word) : (g.setReg r l x).fpflags = g.fpflags := rfl
@[simp] theorem Gang.setReg_bankstall (g : Gang) (r l : Nat) (x : Word) : (g.setReg r l x).bankstall = g.bankstall := rfl
@[simp] theorem Gang.setReg_replay (g : Gang) (r l : Nat) (x : Word) : (g.setReg r l x).replay = g.replay := rfl
@[simp] theorem Gang.setReg_streams (g : Gang) (r l : Nat) (x : Word) : (g.setReg r l x).streams = g.streams := rfl
@[simp] theorem Gang.setReg_done (g : Gang) (r l : Nat) (x : Word) : (g.setReg r l x).done = g.done := rfl
@[simp] theorem Gang.setReg_tree (g : Gang) (r l : Nat) (x : Word) : (g.setReg r l x).tree = g.tree := rfl
@[simp] theorem Gang.setReg_arrival (g : Gang) (r l : Nat) (x : Word) : (g.setReg r l x).arrival = g.arrival := rfl
@[simp] theorem Gang.setReg_promotion (g : Gang) (r l : Nat) (x : Word) : (g.setReg r l x).promotion = g.promotion := rfl
@[simp] theorem Gang.setReg_held (g : Gang) (r l : Nat) (x : Word) : (g.setReg r l x).held = g.held := rfl
@[simp] theorem Gang.setReg_spent (g : Gang) (r l : Nat) (x : Word) : (g.setReg r l x).spent = g.spent := rfl
@[simp] theorem Gang.setReg_lastChurn (g : Gang) (r l : Nat) (x : Word) : (g.setReg r l x).lastChurn = g.lastChurn := rfl
@[simp] theorem Gang.setReg_lastSlices (g : Gang) (r l : Nat) (x : Word) : (g.setReg r l x).lastSlices = g.lastSlices := rfl
@[simp] theorem Gang.setReg_yielded (g : Gang) (r l : Nat) (x : Word) : (g.setReg r l x).yielded = g.yielded := rfl
@[simp] theorem Gang.setReg_liveness (g : Gang) (r l : Nat) (x : Word) : (g.setReg r l x).liveness = g.liveness := rfl
@[simp] theorem Gang.setReg_frozen (g : Gang) (r l : Nat) (x : Word) : (g.setReg r l x).frozen = g.frozen := rfl

/-! Gang.setSreg. -/

@[simp] theorem Gang.setSreg_part (g : Gang) (n : Nat) (x : DWord) : (g.setSreg n x).part = g.part := rfl
@[simp] theorem Gang.setSreg_ctx (g : Gang) (n : Nat) (x : DWord) : (g.setSreg n x).ctx = g.ctx := rfl
@[simp] theorem Gang.setSreg_launch (g : Gang) (n : Nat) (x : DWord) : (g.setSreg n x).launch = g.launch := rfl
@[simp] theorem Gang.setSreg_seq (g : Gang) (n : Nat) (x : DWord) : (g.setSreg n x).seq = g.seq := rfl
@[simp] theorem Gang.setSreg_team (g : Gang) (n : Nat) (x : DWord) : (g.setSreg n x).team = g.team := rfl
@[simp] theorem Gang.setSreg_index (g : Gang) (n : Nat) (x : DWord) : (g.setSreg n x).index = g.index := rfl
@[simp] theorem Gang.setSreg_bank (g : Gang) (n : Nat) (x : DWord) : (g.setSreg n x).bank = g.bank := rfl
@[simp] theorem Gang.setSreg_slot (g : Gang) (n : Nat) (x : DWord) : (g.setSreg n x).slot = g.slot := rfl
@[simp] theorem Gang.setSreg_rows (g : Gang) (n : Nat) (x : DWord) : (g.setSreg n x).rows = g.rows := rfl
@[simp] theorem Gang.setSreg_vregs (g : Gang) (n : Nat) (x : DWord) : (g.setSreg n x).vregs = g.vregs := rfl
@[simp] theorem Gang.setSreg_code (g : Gang) (n : Nat) (x : DWord) : (g.setSreg n x).code = g.code := rfl
@[simp] theorem Gang.setSreg_emuEntry (g : Gang) (n : Nat) (x : DWord) : (g.setSreg n x).emuEntry = g.emuEntry := rfl
@[simp] theorem Gang.setSreg_trapEntry (g : Gang) (n : Nat) (x : DWord) : (g.setSreg n x).trapEntry = g.trapEntry := rfl
@[simp] theorem Gang.setSreg_lanes (g : Gang) (n : Nat) (x : DWord) : (g.setSreg n x).lanes = g.lanes := rfl
@[simp] theorem Gang.setSreg_v (g : Gang) (n : Nat) (x : DWord) : (g.setSreg n x).v = g.v := rfl
@[simp] theorem Gang.setSreg_preds (g : Gang) (n : Nat) (x : DWord) : (g.setSreg n x).preds = g.preds := rfl
@[simp] theorem Gang.setSreg_fpflags (g : Gang) (n : Nat) (x : DWord) : (g.setSreg n x).fpflags = g.fpflags := rfl
@[simp] theorem Gang.setSreg_bankstall (g : Gang) (n : Nat) (x : DWord) : (g.setSreg n x).bankstall = g.bankstall := rfl
@[simp] theorem Gang.setSreg_replay (g : Gang) (n : Nat) (x : DWord) : (g.setSreg n x).replay = g.replay := rfl
@[simp] theorem Gang.setSreg_streams (g : Gang) (n : Nat) (x : DWord) : (g.setSreg n x).streams = g.streams := rfl
@[simp] theorem Gang.setSreg_done (g : Gang) (n : Nat) (x : DWord) : (g.setSreg n x).done = g.done := rfl
@[simp] theorem Gang.setSreg_tree (g : Gang) (n : Nat) (x : DWord) : (g.setSreg n x).tree = g.tree := rfl
@[simp] theorem Gang.setSreg_arrival (g : Gang) (n : Nat) (x : DWord) : (g.setSreg n x).arrival = g.arrival := rfl
@[simp] theorem Gang.setSreg_promotion (g : Gang) (n : Nat) (x : DWord) : (g.setSreg n x).promotion = g.promotion := rfl
@[simp] theorem Gang.setSreg_held (g : Gang) (n : Nat) (x : DWord) : (g.setSreg n x).held = g.held := rfl
@[simp] theorem Gang.setSreg_spent (g : Gang) (n : Nat) (x : DWord) : (g.setSreg n x).spent = g.spent := rfl
@[simp] theorem Gang.setSreg_lastChurn (g : Gang) (n : Nat) (x : DWord) : (g.setSreg n x).lastChurn = g.lastChurn := rfl
@[simp] theorem Gang.setSreg_lastSlices (g : Gang) (n : Nat) (x : DWord) : (g.setSreg n x).lastSlices = g.lastSlices := rfl
@[simp] theorem Gang.setSreg_yielded (g : Gang) (n : Nat) (x : DWord) : (g.setSreg n x).yielded = g.yielded := rfl
@[simp] theorem Gang.setSreg_liveness (g : Gang) (n : Nat) (x : DWord) : (g.setSreg n x).liveness = g.liveness := rfl
@[simp] theorem Gang.setSreg_frozen (g : Gang) (n : Nat) (x : DWord) : (g.setSreg n x).frozen = g.frozen := rfl

/-! Gang.setPredAt. -/

@[simp] theorem Gang.setPredAt_part (g : Gang) (n l : Nat) (b : Bool) : (g.setPredAt n l b).part = g.part := rfl
@[simp] theorem Gang.setPredAt_ctx (g : Gang) (n l : Nat) (b : Bool) : (g.setPredAt n l b).ctx = g.ctx := rfl
@[simp] theorem Gang.setPredAt_launch (g : Gang) (n l : Nat) (b : Bool) : (g.setPredAt n l b).launch = g.launch := rfl
@[simp] theorem Gang.setPredAt_seq (g : Gang) (n l : Nat) (b : Bool) : (g.setPredAt n l b).seq = g.seq := rfl
@[simp] theorem Gang.setPredAt_team (g : Gang) (n l : Nat) (b : Bool) : (g.setPredAt n l b).team = g.team := rfl
@[simp] theorem Gang.setPredAt_index (g : Gang) (n l : Nat) (b : Bool) : (g.setPredAt n l b).index = g.index := rfl
@[simp] theorem Gang.setPredAt_bank (g : Gang) (n l : Nat) (b : Bool) : (g.setPredAt n l b).bank = g.bank := rfl
@[simp] theorem Gang.setPredAt_slot (g : Gang) (n l : Nat) (b : Bool) : (g.setPredAt n l b).slot = g.slot := rfl
@[simp] theorem Gang.setPredAt_rows (g : Gang) (n l : Nat) (b : Bool) : (g.setPredAt n l b).rows = g.rows := rfl
@[simp] theorem Gang.setPredAt_vregs (g : Gang) (n l : Nat) (b : Bool) : (g.setPredAt n l b).vregs = g.vregs := rfl
@[simp] theorem Gang.setPredAt_code (g : Gang) (n l : Nat) (b : Bool) : (g.setPredAt n l b).code = g.code := rfl
@[simp] theorem Gang.setPredAt_emuEntry (g : Gang) (n l : Nat) (b : Bool) : (g.setPredAt n l b).emuEntry = g.emuEntry := rfl
@[simp] theorem Gang.setPredAt_trapEntry (g : Gang) (n l : Nat) (b : Bool) : (g.setPredAt n l b).trapEntry = g.trapEntry := rfl
@[simp] theorem Gang.setPredAt_lanes (g : Gang) (n l : Nat) (b : Bool) : (g.setPredAt n l b).lanes = g.lanes := rfl
@[simp] theorem Gang.setPredAt_v (g : Gang) (n l : Nat) (b : Bool) : (g.setPredAt n l b).v = g.v := rfl
@[simp] theorem Gang.setPredAt_s (g : Gang) (n l : Nat) (b : Bool) : (g.setPredAt n l b).s = g.s := rfl
@[simp] theorem Gang.setPredAt_fpflags (g : Gang) (n l : Nat) (b : Bool) : (g.setPredAt n l b).fpflags = g.fpflags := rfl
@[simp] theorem Gang.setPredAt_bankstall (g : Gang) (n l : Nat) (b : Bool) : (g.setPredAt n l b).bankstall = g.bankstall := rfl
@[simp] theorem Gang.setPredAt_replay (g : Gang) (n l : Nat) (b : Bool) : (g.setPredAt n l b).replay = g.replay := rfl
@[simp] theorem Gang.setPredAt_streams (g : Gang) (n l : Nat) (b : Bool) : (g.setPredAt n l b).streams = g.streams := rfl
@[simp] theorem Gang.setPredAt_done (g : Gang) (n l : Nat) (b : Bool) : (g.setPredAt n l b).done = g.done := rfl
@[simp] theorem Gang.setPredAt_tree (g : Gang) (n l : Nat) (b : Bool) : (g.setPredAt n l b).tree = g.tree := rfl
@[simp] theorem Gang.setPredAt_arrival (g : Gang) (n l : Nat) (b : Bool) : (g.setPredAt n l b).arrival = g.arrival := rfl
@[simp] theorem Gang.setPredAt_promotion (g : Gang) (n l : Nat) (b : Bool) : (g.setPredAt n l b).promotion = g.promotion := rfl
@[simp] theorem Gang.setPredAt_held (g : Gang) (n l : Nat) (b : Bool) : (g.setPredAt n l b).held = g.held := rfl
@[simp] theorem Gang.setPredAt_spent (g : Gang) (n l : Nat) (b : Bool) : (g.setPredAt n l b).spent = g.spent := rfl
@[simp] theorem Gang.setPredAt_lastChurn (g : Gang) (n l : Nat) (b : Bool) : (g.setPredAt n l b).lastChurn = g.lastChurn := rfl
@[simp] theorem Gang.setPredAt_lastSlices (g : Gang) (n l : Nat) (b : Bool) : (g.setPredAt n l b).lastSlices = g.lastSlices := rfl
@[simp] theorem Gang.setPredAt_yielded (g : Gang) (n l : Nat) (b : Bool) : (g.setPredAt n l b).yielded = g.yielded := rfl
@[simp] theorem Gang.setPredAt_liveness (g : Gang) (n l : Nat) (b : Bool) : (g.setPredAt n l b).liveness = g.liveness := rfl
@[simp] theorem Gang.setPredAt_frozen (g : Gang) (n l : Nat) (b : Bool) : (g.setPredAt n l b).frozen = g.frozen := rfl

/-! Gang.orFlags. -/

@[simp] theorem Gang.orFlags_part (g : Gang) (f : Flags) : (g.orFlags f).part = g.part := rfl
@[simp] theorem Gang.orFlags_ctx (g : Gang) (f : Flags) : (g.orFlags f).ctx = g.ctx := rfl
@[simp] theorem Gang.orFlags_launch (g : Gang) (f : Flags) : (g.orFlags f).launch = g.launch := rfl
@[simp] theorem Gang.orFlags_seq (g : Gang) (f : Flags) : (g.orFlags f).seq = g.seq := rfl
@[simp] theorem Gang.orFlags_team (g : Gang) (f : Flags) : (g.orFlags f).team = g.team := rfl
@[simp] theorem Gang.orFlags_index (g : Gang) (f : Flags) : (g.orFlags f).index = g.index := rfl
@[simp] theorem Gang.orFlags_bank (g : Gang) (f : Flags) : (g.orFlags f).bank = g.bank := rfl
@[simp] theorem Gang.orFlags_slot (g : Gang) (f : Flags) : (g.orFlags f).slot = g.slot := rfl
@[simp] theorem Gang.orFlags_rows (g : Gang) (f : Flags) : (g.orFlags f).rows = g.rows := rfl
@[simp] theorem Gang.orFlags_vregs (g : Gang) (f : Flags) : (g.orFlags f).vregs = g.vregs := rfl
@[simp] theorem Gang.orFlags_code (g : Gang) (f : Flags) : (g.orFlags f).code = g.code := rfl
@[simp] theorem Gang.orFlags_emuEntry (g : Gang) (f : Flags) : (g.orFlags f).emuEntry = g.emuEntry := rfl
@[simp] theorem Gang.orFlags_trapEntry (g : Gang) (f : Flags) : (g.orFlags f).trapEntry = g.trapEntry := rfl
@[simp] theorem Gang.orFlags_lanes (g : Gang) (f : Flags) : (g.orFlags f).lanes = g.lanes := rfl
@[simp] theorem Gang.orFlags_v (g : Gang) (f : Flags) : (g.orFlags f).v = g.v := rfl
@[simp] theorem Gang.orFlags_s (g : Gang) (f : Flags) : (g.orFlags f).s = g.s := rfl
@[simp] theorem Gang.orFlags_preds (g : Gang) (f : Flags) : (g.orFlags f).preds = g.preds := rfl
@[simp] theorem Gang.orFlags_bankstall (g : Gang) (f : Flags) : (g.orFlags f).bankstall = g.bankstall := rfl
@[simp] theorem Gang.orFlags_replay (g : Gang) (f : Flags) : (g.orFlags f).replay = g.replay := rfl
@[simp] theorem Gang.orFlags_streams (g : Gang) (f : Flags) : (g.orFlags f).streams = g.streams := rfl
@[simp] theorem Gang.orFlags_done (g : Gang) (f : Flags) : (g.orFlags f).done = g.done := rfl
@[simp] theorem Gang.orFlags_tree (g : Gang) (f : Flags) : (g.orFlags f).tree = g.tree := rfl
@[simp] theorem Gang.orFlags_arrival (g : Gang) (f : Flags) : (g.orFlags f).arrival = g.arrival := rfl
@[simp] theorem Gang.orFlags_promotion (g : Gang) (f : Flags) : (g.orFlags f).promotion = g.promotion := rfl
@[simp] theorem Gang.orFlags_held (g : Gang) (f : Flags) : (g.orFlags f).held = g.held := rfl
@[simp] theorem Gang.orFlags_spent (g : Gang) (f : Flags) : (g.orFlags f).spent = g.spent := rfl
@[simp] theorem Gang.orFlags_lastChurn (g : Gang) (f : Flags) : (g.orFlags f).lastChurn = g.lastChurn := rfl
@[simp] theorem Gang.orFlags_lastSlices (g : Gang) (f : Flags) : (g.orFlags f).lastSlices = g.lastSlices := rfl
@[simp] theorem Gang.orFlags_yielded (g : Gang) (f : Flags) : (g.orFlags f).yielded = g.yielded := rfl
@[simp] theorem Gang.orFlags_liveness (g : Gang) (f : Flags) : (g.orFlags f).liveness = g.liveness := rfl
@[simp] theorem Gang.orFlags_frozen (g : Gang) (f : Flags) : (g.orFlags f).frozen = g.frozen := rfl

/-! Gang.setWait. -/

@[simp] theorem Gang.setWait_part (g : Gang) (i : Nat) (w : StreamWait) : (g.setWait i w).part = g.part := rfl
@[simp] theorem Gang.setWait_ctx (g : Gang) (i : Nat) (w : StreamWait) : (g.setWait i w).ctx = g.ctx := rfl
@[simp] theorem Gang.setWait_launch (g : Gang) (i : Nat) (w : StreamWait) : (g.setWait i w).launch = g.launch := rfl
@[simp] theorem Gang.setWait_seq (g : Gang) (i : Nat) (w : StreamWait) : (g.setWait i w).seq = g.seq := rfl
@[simp] theorem Gang.setWait_team (g : Gang) (i : Nat) (w : StreamWait) : (g.setWait i w).team = g.team := rfl
@[simp] theorem Gang.setWait_index (g : Gang) (i : Nat) (w : StreamWait) : (g.setWait i w).index = g.index := rfl
@[simp] theorem Gang.setWait_bank (g : Gang) (i : Nat) (w : StreamWait) : (g.setWait i w).bank = g.bank := rfl
@[simp] theorem Gang.setWait_slot (g : Gang) (i : Nat) (w : StreamWait) : (g.setWait i w).slot = g.slot := rfl
@[simp] theorem Gang.setWait_rows (g : Gang) (i : Nat) (w : StreamWait) : (g.setWait i w).rows = g.rows := rfl
@[simp] theorem Gang.setWait_vregs (g : Gang) (i : Nat) (w : StreamWait) : (g.setWait i w).vregs = g.vregs := rfl
@[simp] theorem Gang.setWait_code (g : Gang) (i : Nat) (w : StreamWait) : (g.setWait i w).code = g.code := rfl
@[simp] theorem Gang.setWait_emuEntry (g : Gang) (i : Nat) (w : StreamWait) : (g.setWait i w).emuEntry = g.emuEntry := rfl
@[simp] theorem Gang.setWait_trapEntry (g : Gang) (i : Nat) (w : StreamWait) : (g.setWait i w).trapEntry = g.trapEntry := rfl
@[simp] theorem Gang.setWait_lanes (g : Gang) (i : Nat) (w : StreamWait) : (g.setWait i w).lanes = g.lanes := rfl
@[simp] theorem Gang.setWait_v (g : Gang) (i : Nat) (w : StreamWait) : (g.setWait i w).v = g.v := rfl
@[simp] theorem Gang.setWait_s (g : Gang) (i : Nat) (w : StreamWait) : (g.setWait i w).s = g.s := rfl
@[simp] theorem Gang.setWait_preds (g : Gang) (i : Nat) (w : StreamWait) : (g.setWait i w).preds = g.preds := rfl
@[simp] theorem Gang.setWait_fpflags (g : Gang) (i : Nat) (w : StreamWait) : (g.setWait i w).fpflags = g.fpflags := rfl
@[simp] theorem Gang.setWait_bankstall (g : Gang) (i : Nat) (w : StreamWait) : (g.setWait i w).bankstall = g.bankstall := rfl
@[simp] theorem Gang.setWait_replay (g : Gang) (i : Nat) (w : StreamWait) : (g.setWait i w).replay = g.replay := rfl
@[simp] theorem Gang.setWait_done (g : Gang) (i : Nat) (w : StreamWait) : (g.setWait i w).done = g.done := rfl
@[simp] theorem Gang.setWait_tree (g : Gang) (i : Nat) (w : StreamWait) : (g.setWait i w).tree = g.tree := rfl
@[simp] theorem Gang.setWait_arrival (g : Gang) (i : Nat) (w : StreamWait) : (g.setWait i w).arrival = g.arrival := rfl
@[simp] theorem Gang.setWait_promotion (g : Gang) (i : Nat) (w : StreamWait) : (g.setWait i w).promotion = g.promotion := rfl
@[simp] theorem Gang.setWait_held (g : Gang) (i : Nat) (w : StreamWait) : (g.setWait i w).held = g.held := rfl
@[simp] theorem Gang.setWait_spent (g : Gang) (i : Nat) (w : StreamWait) : (g.setWait i w).spent = g.spent := rfl
@[simp] theorem Gang.setWait_lastChurn (g : Gang) (i : Nat) (w : StreamWait) : (g.setWait i w).lastChurn = g.lastChurn := rfl
@[simp] theorem Gang.setWait_lastSlices (g : Gang) (i : Nat) (w : StreamWait) : (g.setWait i w).lastSlices = g.lastSlices := rfl
@[simp] theorem Gang.setWait_yielded (g : Gang) (i : Nat) (w : StreamWait) : (g.setWait i w).yielded = g.yielded := rfl
@[simp] theorem Gang.setWait_liveness (g : Gang) (i : Nat) (w : StreamWait) : (g.setWait i w).liveness = g.liveness := rfl
@[simp] theorem Gang.setWait_frozen (g : Gang) (i : Nat) (w : StreamWait) : (g.setWait i w).frozen = g.frozen := rfl

/-! Gang.flushLane. -/

@[simp] theorem Gang.flushLane_part (g : Gang) (l : Nat) : (g.flushLane l).part = g.part := rfl
@[simp] theorem Gang.flushLane_ctx (g : Gang) (l : Nat) : (g.flushLane l).ctx = g.ctx := rfl
@[simp] theorem Gang.flushLane_launch (g : Gang) (l : Nat) : (g.flushLane l).launch = g.launch := rfl
@[simp] theorem Gang.flushLane_seq (g : Gang) (l : Nat) : (g.flushLane l).seq = g.seq := rfl
@[simp] theorem Gang.flushLane_team (g : Gang) (l : Nat) : (g.flushLane l).team = g.team := rfl
@[simp] theorem Gang.flushLane_index (g : Gang) (l : Nat) : (g.flushLane l).index = g.index := rfl
@[simp] theorem Gang.flushLane_bank (g : Gang) (l : Nat) : (g.flushLane l).bank = g.bank := rfl
@[simp] theorem Gang.flushLane_slot (g : Gang) (l : Nat) : (g.flushLane l).slot = g.slot := rfl
@[simp] theorem Gang.flushLane_rows (g : Gang) (l : Nat) : (g.flushLane l).rows = g.rows := rfl
@[simp] theorem Gang.flushLane_vregs (g : Gang) (l : Nat) : (g.flushLane l).vregs = g.vregs := rfl
@[simp] theorem Gang.flushLane_code (g : Gang) (l : Nat) : (g.flushLane l).code = g.code := rfl
@[simp] theorem Gang.flushLane_emuEntry (g : Gang) (l : Nat) : (g.flushLane l).emuEntry = g.emuEntry := rfl
@[simp] theorem Gang.flushLane_trapEntry (g : Gang) (l : Nat) : (g.flushLane l).trapEntry = g.trapEntry := rfl
@[simp] theorem Gang.flushLane_s (g : Gang) (l : Nat) : (g.flushLane l).s = g.s := rfl
@[simp] theorem Gang.flushLane_preds (g : Gang) (l : Nat) : (g.flushLane l).preds = g.preds := rfl
@[simp] theorem Gang.flushLane_fpflags (g : Gang) (l : Nat) : (g.flushLane l).fpflags = g.fpflags := rfl
@[simp] theorem Gang.flushLane_bankstall (g : Gang) (l : Nat) : (g.flushLane l).bankstall = g.bankstall := rfl
@[simp] theorem Gang.flushLane_replay (g : Gang) (l : Nat) : (g.flushLane l).replay = g.replay := rfl
@[simp] theorem Gang.flushLane_streams (g : Gang) (l : Nat) : (g.flushLane l).streams = g.streams := rfl
@[simp] theorem Gang.flushLane_done (g : Gang) (l : Nat) : (g.flushLane l).done = g.done := rfl
@[simp] theorem Gang.flushLane_tree (g : Gang) (l : Nat) : (g.flushLane l).tree = g.tree := rfl
@[simp] theorem Gang.flushLane_arrival (g : Gang) (l : Nat) : (g.flushLane l).arrival = g.arrival := rfl
@[simp] theorem Gang.flushLane_promotion (g : Gang) (l : Nat) : (g.flushLane l).promotion = g.promotion := rfl
@[simp] theorem Gang.flushLane_held (g : Gang) (l : Nat) : (g.flushLane l).held = g.held := rfl
@[simp] theorem Gang.flushLane_spent (g : Gang) (l : Nat) : (g.flushLane l).spent = g.spent := rfl
@[simp] theorem Gang.flushLane_lastChurn (g : Gang) (l : Nat) : (g.flushLane l).lastChurn = g.lastChurn := rfl
@[simp] theorem Gang.flushLane_lastSlices (g : Gang) (l : Nat) : (g.flushLane l).lastSlices = g.lastSlices := rfl
@[simp] theorem Gang.flushLane_yielded (g : Gang) (l : Nat) : (g.flushLane l).yielded = g.yielded := rfl
@[simp] theorem Gang.flushLane_liveness (g : Gang) (l : Nat) : (g.flushLane l).liveness = g.liveness := rfl
@[simp] theorem Gang.flushLane_frozen (g : Gang) (l : Nat) : (g.flushLane l).frozen = g.frozen := rfl

/-! Gang.markDone. -/

@[simp] theorem Gang.markDone_part (g : Gang) (m : LaneMask) : (g.markDone m).part = g.part := rfl
@[simp] theorem Gang.markDone_ctx (g : Gang) (m : LaneMask) : (g.markDone m).ctx = g.ctx := rfl
@[simp] theorem Gang.markDone_launch (g : Gang) (m : LaneMask) : (g.markDone m).launch = g.launch := rfl
@[simp] theorem Gang.markDone_seq (g : Gang) (m : LaneMask) : (g.markDone m).seq = g.seq := rfl
@[simp] theorem Gang.markDone_team (g : Gang) (m : LaneMask) : (g.markDone m).team = g.team := rfl
@[simp] theorem Gang.markDone_index (g : Gang) (m : LaneMask) : (g.markDone m).index = g.index := rfl
@[simp] theorem Gang.markDone_bank (g : Gang) (m : LaneMask) : (g.markDone m).bank = g.bank := rfl
@[simp] theorem Gang.markDone_slot (g : Gang) (m : LaneMask) : (g.markDone m).slot = g.slot := rfl
@[simp] theorem Gang.markDone_rows (g : Gang) (m : LaneMask) : (g.markDone m).rows = g.rows := rfl
@[simp] theorem Gang.markDone_vregs (g : Gang) (m : LaneMask) : (g.markDone m).vregs = g.vregs := rfl
@[simp] theorem Gang.markDone_code (g : Gang) (m : LaneMask) : (g.markDone m).code = g.code := rfl
@[simp] theorem Gang.markDone_emuEntry (g : Gang) (m : LaneMask) : (g.markDone m).emuEntry = g.emuEntry := rfl
@[simp] theorem Gang.markDone_trapEntry (g : Gang) (m : LaneMask) : (g.markDone m).trapEntry = g.trapEntry := rfl
@[simp] theorem Gang.markDone_lanes (g : Gang) (m : LaneMask) : (g.markDone m).lanes = g.lanes := rfl
@[simp] theorem Gang.markDone_v (g : Gang) (m : LaneMask) : (g.markDone m).v = g.v := rfl
@[simp] theorem Gang.markDone_s (g : Gang) (m : LaneMask) : (g.markDone m).s = g.s := rfl
@[simp] theorem Gang.markDone_preds (g : Gang) (m : LaneMask) : (g.markDone m).preds = g.preds := rfl
@[simp] theorem Gang.markDone_fpflags (g : Gang) (m : LaneMask) : (g.markDone m).fpflags = g.fpflags := rfl
@[simp] theorem Gang.markDone_bankstall (g : Gang) (m : LaneMask) : (g.markDone m).bankstall = g.bankstall := rfl
@[simp] theorem Gang.markDone_replay (g : Gang) (m : LaneMask) : (g.markDone m).replay = g.replay := rfl
@[simp] theorem Gang.markDone_streams (g : Gang) (m : LaneMask) : (g.markDone m).streams = g.streams := rfl
@[simp] theorem Gang.markDone_tree (g : Gang) (m : LaneMask) : (g.markDone m).tree = g.tree := rfl
@[simp] theorem Gang.markDone_arrival (g : Gang) (m : LaneMask) : (g.markDone m).arrival = g.arrival := rfl
@[simp] theorem Gang.markDone_promotion (g : Gang) (m : LaneMask) : (g.markDone m).promotion = g.promotion := rfl
@[simp] theorem Gang.markDone_held (g : Gang) (m : LaneMask) : (g.markDone m).held = g.held := rfl
@[simp] theorem Gang.markDone_spent (g : Gang) (m : LaneMask) : (g.markDone m).spent = g.spent := rfl
@[simp] theorem Gang.markDone_lastChurn (g : Gang) (m : LaneMask) : (g.markDone m).lastChurn = g.lastChurn := rfl
@[simp] theorem Gang.markDone_lastSlices (g : Gang) (m : LaneMask) : (g.markDone m).lastSlices = g.lastSlices := rfl
@[simp] theorem Gang.markDone_yielded (g : Gang) (m : LaneMask) : (g.markDone m).yielded = g.yielded := rfl
@[simp] theorem Gang.markDone_liveness (g : Gang) (m : LaneMask) : (g.markDone m).liveness = g.liveness := rfl
@[simp] theorem Gang.markDone_frozen (g : Gang) (m : LaneMask) : (g.markDone m).frozen = g.frozen := rfl

end Sys2Proof.Machine
end

