-- ==== Sys2Proof/Laws/Gang.lean ====
section
/-! SUPPORT. A gang's registers, latches, PCs and the rest after the shared operations on it. -/

namespace Sys2Proof.Machine

/-! Lanes and registers. -/

theorem Gang.lane_setLane (g : Gang) (l k : Nat) (x : Lane) :
    (g.setLane l x).lane k = if k = l then x else g.lane k := mget_mput _ _ _ _ _

theorem Gang.lane_modLane (g : Gang) (l k : Nat) (f : Lane → Lane) :
    (g.modLane l f).lane k = if k = l then f (g.lane l) else g.lane k := mget_mput _ _ _ _ _

@[simp] theorem Gang.reg_modLane (g : Gang) (l : Nat) (f : Lane → Lane) (r k : Nat) :
    (g.modLane l f).reg r k = g.reg r k := rfl

@[simp] theorem Gang.reg_setLane (g : Gang) (l : Nat) (x : Lane) (r k : Nat) :
    (g.setLane l x).reg r k = g.reg r k := rfl

theorem vkey_inj {r r' l l' : Nat} (h : l < 32) (h' : l' < 32) : vkey r l = vkey r' l' ↔ r = r' ∧ l = l' := by
  unfold vkey; omega

/-- A lane of a map changed at a key that may be absent: the empty lane stays itself. -/
theorem Gang.lane_mmod (m : Map Lane) (l k : Nat) (f : Lane → Lane) (h0 : f Lane.reset = Lane.reset) :
    mget Lane.reset (mmod m l f) k = if k = l then f (mget Lane.reset m l) else mget Lane.reset m k := by
  simp only [mget, mfind?_mmod]
  split
  · cases h : mfind? m l <;> simp [h0]
  · rfl

theorem Gang.lane_setReg (g : Gang) (r l : Nat) (x : Word) (k : Nat) :
    (g.setReg r l x).lane k = if k = l then (g.lane l).wrote r else g.lane k :=
  Gang.lane_mmod g.lanes l k _ rfl

theorem Gang.reg_setReg (g : Gang) (r l : Nat) (x : Word) (r' k : Nat) (hl : l < 32) (hk : k < 32) :
    (g.setReg r l x).reg r' k = if r' = r ∧ k = l then x else g.reg r' k := by
  unfold Gang.setReg Gang.reg
  simp only [mget_mput, vkey_inj hk hl]

/-- A lane whose pending results are cleared. -/
def Lane.cleared (x : Lane) : Lane := { x with hist := x.hist.map (fun e => { e with pending := [] }) }

theorem Gang.lane_flushLane (g : Gang) (l k : Nat) :
    (g.flushLane l).lane k = if k = l then (g.lane l).cleared else g.lane k :=
  Gang.lane_mmod g.lanes l k _ rfl

theorem reg_poke (ps : List (Nat × Word)) (v : Map Word) (l r k : Nat) (hl : l < 32) (hk : k < 32)
    (h : k = l → ∀ p ∈ ps, p.1 ≠ r) :
    mget (0 : Word) (ps.foldl (fun v p => mput v (vkey p.1 l) p.2) v) (vkey r k) = mget 0 v (vkey r k) := by
  induction ps generalizing v with
  | nil => rfl
  | cons p ps ih =>
    simp only [List.foldl_cons]
    rw [ih _ (fun e q hq => h e q (List.mem_cons_of_mem _ hq)), mget_mput_other]
    intro e
    have := (vkey_inj hk hl).1 e
    exact h this.2 p (List.mem_cons_self ..) this.1.symm

theorem Gang.pendingOn_iff (g : Gang) (l r : Nat) :
    g.pendingOn l r = false ↔ ∀ e ∈ (g.lane l).hist, ∀ p ∈ e.pending, p.1 ≠ r := by
  simp only [Gang.pendingOn, List.any_eq_false, List.any_eq_true, beq_iff_eq, not_exists, not_and]

/-- A flush writes only registers that have a pending result. -/
theorem Gang.reg_flushLane (g : Gang) (l r k : Nat) (hl : l < 32) (hk : k < 32) (h : g.pendingOn k r = false) :
    (g.flushLane l).reg r k = g.reg r k := by
  unfold Gang.flushLane Gang.reg
  refine reg_poke _ _ _ _ _ hl hk (fun e p hp => ?_)
  subst e
  simp only [List.mem_flatMap, List.mem_reverse] at hp
  obtain ⟨a, ha, hp⟩ := hp
  exact (Gang.pendingOn_iff g k r).1 h a ha p hp

theorem Gang.pendingOn_flushLane (g : Gang) (l k r : Nat) (h : g.pendingOn k r = false) :
    (g.flushLane l).pendingOn k r = false := by
  rw [Gang.pendingOn_iff] at *
  rw [Gang.lane_flushLane]
  split
  · subst_vars
    intro e he p hp
    simp only [Lane.cleared, List.mem_map] at he
    obtain ⟨a, -, rfl⟩ := he
    simp at hp
  · exact h

/-! What stays through the operations on lanes and streams. -/

/-- The fields that no operation on lanes, registers and streams changes. -/
def Gang.fixed (g : Gang) : Gang × Map LaneMask × Map DWord × Flags := (g.standing, g.preds, g.s, g.fpflags)

theorem Gang.stays_of_fixed {g h : Gang} (e : h.fixed.1 = g.fixed.1) : g.Stays h := e

@[simp] theorem Gang.fixed_setLane (g : Gang) (l : Nat) (x : Lane) : (g.setLane l x).fixed = g.fixed := rfl
@[simp] theorem Gang.fixed_modLane (g : Gang) (l : Nat) (f : Lane → Lane) : (g.modLane l f).fixed = g.fixed := rfl
@[simp] theorem Gang.fixed_setReg (g : Gang) (r l : Nat) (x : Word) : (g.setReg r l x).fixed = g.fixed := rfl
@[simp] theorem Gang.fixed_flushLane (g : Gang) (l : Nat) : (g.flushLane l).fixed = g.fixed := rfl
@[simp] theorem Gang.fixed_pokeRegs (g : Gang) (l : Nat) (ws : List (Nat × Word)) : (g.pokeRegs l ws).fixed = g.fixed := rfl

theorem foldl_keeps {α β γ : Type} (f : β → α → β) (v : β → γ) (h : ∀ b a, v (f b a) = v b) (xs : List α) (b : β) :
    v (xs.foldl f b) = v b := by
  induction xs generalizing b with
  | nil => rfl
  | cons x xs ih => simp [ih, h]

@[simp] theorem Gang.fixed_switch (g : Gang) (ls : List Nat) : (g.switch ls).fixed = g.fixed :=
  foldl_keeps Gang.flushLane Gang.fixed (fun _ _ => rfl) ls g
@[simp] theorem Gang.fixed_modLanes (g : Gang) (ls : List Nat) (f : Nat → Lane → Lane) :
    (g.modLanes ls f).fixed = g.fixed :=
  foldl_keeps (fun (g : Gang) l => g.modLane l (f l)) Gang.fixed (fun _ _ => rfl) ls g
@[simp] theorem Gang.fixed_setPcs (g : Gang) (ls : List Nat) (pc : VAddr) : (g.setPcs ls pc).fixed = g.fixed :=
  Gang.fixed_modLanes g ls _
@[simp] theorem Gang.fixed_setRegs (g : Gang) (l : Nat) (ws : List (Nat × Word)) : (g.setRegs l ws).fixed = g.fixed :=
  foldl_keeps (fun (g : Gang) (w : Nat × Word) => g.setReg w.1 l w.2) Gang.fixed (fun _ _ => rfl) ws g
/-! The lanes after a switch, after new PCs and after the completion. -/

theorem Gang.lane_switch (g : Gang) (ls : List Nat) (k : Nat) :
    (g.switch ls).lane k = g.lane k ∨ (g.switch ls).lane k = (g.lane k).cleared := by
  unfold Gang.switch
  induction ls generalizing g with
  | nil => exact .inl rfl
  | cons l ls ih =>
    simp only [List.foldl_cons]
    have hc : (Lane.cleared (g.lane k).cleared) = (g.lane k).cleared := by simp [Lane.cleared, Function.comp_def]
    rcases ih (g.flushLane l) with h | h <;> rw [h, Gang.lane_flushLane] <;> split
    · next e => subst e; exact .inr rfl
    · exact .inl rfl
    · next e => subst e; exact .inr hc
    · exact .inr rfl

/-- A switch of lanes below 32 writes only registers that have a pending result. -/
theorem Gang.reg_switch (g : Gang) (ls : List Nat) (r k : Nat) (hls : ∀ l ∈ ls, l < 32) (hk : k < 32)
    (h : g.pendingOn k r = false) : (g.switch ls).reg r k = g.reg r k := by
  unfold Gang.switch
  induction ls generalizing g with
  | nil => rfl
  | cons l ls ih =>
    simp only [List.foldl_cons]
    rw [ih _ (fun x hx => hls x (List.mem_cons_of_mem _ hx)) (Gang.pendingOn_flushLane g l k r h)]
    exact Gang.reg_flushLane g l r k (hls l (List.mem_cons_self ..)) hk h

theorem Gang.lane_modLanes (g : Gang) (ls : List Nat) (f : Nat → Lane → Lane) (k : Nat) (hn : ls.Nodup) :
    (g.modLanes ls f).lane k = if k ∈ ls then f k (g.lane k) else g.lane k := by
  unfold Gang.modLanes
  induction ls generalizing g with
  | nil => rfl
  | cons l ls ih =>
    obtain ⟨h1, h2⟩ := List.nodup_cons.1 hn
    simp only [List.foldl_cons]
    rw [ih _ h2, Gang.lane_modLane]
    by_cases e : k = l
    · subst e; simp [h1]
    · simp [e]

@[simp] theorem Gang.reg_modLanes (g : Gang) (ls : List Nat) (f : Nat → Lane → Lane) (r k : Nat) :
    (g.modLanes ls f).reg r k = g.reg r k :=
  foldl_keeps (fun (g : Gang) l => g.modLane l (f l)) (fun g => Gang.reg g r k) (fun _ _ => rfl) ls g

theorem Gang.lane_setPcs (g : Gang) (ls : List Nat) (pc : VAddr) (k : Nat) (hn : ls.Nodup) :
    (g.setPcs ls pc).lane k = if k ∈ ls then { g.lane k with pc := pc } else g.lane k :=
  Gang.lane_modLanes g ls _ k hn

/-- The lanes of some slices below 8 lie below 32. -/
theorem slices_lanes_lt {ks : List Nat} (h : ∀ k ∈ ks, k < 8) : ∀ l ∈ ks.flatMap sliceLanes, l < 32 := by
  intro l hl
  simp only [List.mem_flatMap] at hl
  obtain ⟨k, hk, hl⟩ := hl
  have := h k hk
  simp only [sliceLanes, List.mem_cons, List.not_mem_nil, or_false] at hl
  omega

theorem slicesOf_lt {m k : Nat} (h : k ∈ slicesOf m) : k < 8 := by
  simp only [slicesOf, below, List.mem_filter, List.mem_range] at h
  exact h.1

/-! Results written lane by lane. -/

/-- A step for one lane touches that lane alone. -/
def LocalStep (F : Gang → Nat → Gang) : Prop :=
  ∀ h k l, k < 32 → l < 32 → l ≠ k → (F h k).lane l = h.lane l ∧ ∀ r, (F h k).reg r l = h.reg r l

/-- A fold of local steps over distinct lanes: a lane outside is as before; a lane inside is as its own step
leaves it, from a gang that agrees with the first one in this lane. -/
theorem fold_local (F : Gang → Nat → Gang) (hF : LocalStep F) (ls : List Nat) (g : Gang) (l : Nat) (hn : ls.Nodup)
    (hls : ∀ x ∈ ls, x < 32) (hl : l < 32) :
    (l ∉ ls → (ls.foldl F g).lane l = g.lane l ∧ ∀ r, (ls.foldl F g).reg r l = g.reg r l) ∧
    (l ∈ ls → ∃ h : Gang, h.lane l = g.lane l ∧ (∀ r, h.reg r l = g.reg r l) ∧
      (ls.foldl F g).lane l = (F h l).lane l ∧ ∀ r, (ls.foldl F g).reg r l = (F h l).reg r l) := by
  induction ls generalizing g with
  | nil => exact ⟨fun _ => ⟨rfl, fun _ => rfl⟩, fun h => by simp at h⟩
  | cons k ks ih =>
    obtain ⟨h1, h2⟩ := List.nodup_cons.1 hn
    have hk := hls k (List.mem_cons_self ..)
    obtain ⟨ih1, ih2⟩ := ih (F g k) h2 (fun x hx => hls x (List.mem_cons_of_mem _ hx))
    simp only [List.foldl_cons, List.mem_cons, not_or]
    constructor
    · rintro ⟨e1, e2⟩
      obtain ⟨a, b⟩ := ih1 e2
      obtain ⟨c, d⟩ := hF g k l hk hl e1
      exact ⟨a.trans c, fun r => (b r).trans (d r)⟩
    · intro e
      by_cases e1 : l = k
      · subst e1
        obtain ⟨a, b⟩ := ih1 h1
        exact ⟨g, rfl, fun _ => rfl, a, b⟩
      · obtain ⟨c, d⟩ := hF g k l hk hl e1
        obtain ⟨h, a1, a2, a3, a4⟩ := ih2 (e.resolve_left e1)
        exact ⟨h, a1.trans c, fun r => (a2 r).trans (d r), a3, a4⟩

theorem Gang.lane_pokeRegs (g : Gang) (l : Nat) (ws : List (Nat × Word)) (k : Nat) :
    (g.pokeRegs l ws).lane k = g.lane k := rfl

theorem Gang.reg_pokeRegs_other (g : Gang) (l : Nat) (ws : List (Nat × Word)) (r k : Nat) (hl : l < 32) (hk : k < 32)
    (h : k = l → ∀ p ∈ ws, p.1 ≠ r) : (g.pokeRegs l ws).reg r k = g.reg r k := reg_poke ws g.v l r k hl hk h

theorem Gang.reg_setRegs_other (g : Gang) (l : Nat) (ws : List (Nat × Word)) (r k : Nat) (hl : l < 32) (hk : k < 32)
    (h : k = l → ∀ p ∈ ws, p.1 ≠ r) : (g.setRegs l ws).reg r k = g.reg r k := by
  unfold Gang.setRegs
  induction ws generalizing g with
  | nil => rfl
  | cons p ps ih =>
    simp only [List.foldl_cons]
    rw [ih _ (fun e q hq => h e q (List.mem_cons_of_mem _ hq)), Gang.reg_setReg _ _ _ _ _ _ hl hk, if_neg]
    rintro ⟨rfl, e⟩
    exact h e p (List.mem_cons_self ..) rfl

theorem Gang.lane_setRegs_other (g : Gang) (l : Nat) (ws : List (Nat × Word)) (k : Nat) (h : k ≠ l) :
    (g.setRegs l ws).lane k = g.lane k := by
  unfold Gang.setRegs
  induction ws generalizing g with
  | nil => rfl
  | cons p ps ih => simp only [List.foldl_cons]; rw [ih, Gang.lane_setReg, if_neg h]

/-- A lane after writes of its registers: only pending results of its history go. -/
theorem Gang.pendingOn_setRegs (g : Gang) (l : Nat) (ws : List (Nat × Word)) (r : Nat)
    (h : g.pendingOn l r = false ∨ ∃ p ∈ ws, p.1 = r) : (g.setRegs l ws).pendingOn l r = false := by
  unfold Gang.setRegs
  induction ws generalizing g with
  | nil => simpa using h
  | cons p ps ih =>
    simp only [List.foldl_cons]
    refine ih _ ?_
    by_cases e : p.1 = r
    · left
      rw [Gang.pendingOn_iff, Gang.lane_setReg, if_pos rfl]
      intro a ha q hq
      simp only [Lane.wrote, List.mem_map] at ha
      obtain ⟨b, -, rfl⟩ := ha
      simp only [List.mem_filter, bne_iff_ne, ne_eq] at hq
      rw [← e]; exact hq.2
    · rcases h with h | ⟨q, hq, e2⟩
      · left
        rw [Gang.pendingOn_iff] at h ⊢
        rw [Gang.lane_setReg, if_pos rfl]
        intro a ha q hq
        simp only [Lane.wrote, List.mem_map] at ha
        obtain ⟨b, hb, rfl⟩ := ha
        exact h b hb q (List.mem_filter.1 hq).1
      · right
        rcases List.mem_cons.1 hq with rfl | hq
        · exact absurd e2 e
        · exact ⟨q, hq, e2⟩

/-- Writes of distinct registers read back. -/
theorem Gang.reg_setRegs_mem (g : Gang) (l : Nat) (ws : List (Nat × Word)) (r : Nat) (x : Word) (hl : l < 32)
    (hm : (r, x) ∈ ws) (hd : (ws.map Prod.fst).Nodup) : (g.setRegs l ws).reg r l = x := by
  unfold Gang.setRegs
  induction ws generalizing g with
  | nil => simp at hm
  | cons p ps ih =>
    simp only [List.map_cons, List.nodup_cons] at hd
    simp only [List.foldl_cons]
    rcases List.mem_cons.1 hm with rfl | hm
    · have := Gang.reg_setRegs_other (g.setReg r l x) l ps r l hl hl
        (fun _ q hq e => hd.1 (List.mem_map.2 ⟨q, hq, e⟩))
      unfold Gang.setRegs at this
      rw [this, Gang.reg_setReg _ _ _ _ _ _ hl hl, if_pos ⟨rfl, rfl⟩]
    · exact ih _ hm hd.2

theorem Gang.reg_pokeRegs_mem (g : Gang) (l : Nat) (ws : List (Nat × Word)) (r : Nat) (x : Word) (hl : l < 32)
    (hm : (r, x) ∈ ws) (hd : (ws.map Prod.fst).Nodup) : (g.pokeRegs l ws).reg r l = x := by
  have key : ∀ (ws : List (Nat × Word)) (v : Map Word), (r, x) ∈ ws → (ws.map Prod.fst).Nodup →
      mget (0 : Word) (ws.foldl (fun v w => mput v (vkey w.1 l) w.2) v) (vkey r l) = x := by
    intro ws
    induction ws with
    | nil => intro v h; simp at h
    | cons p ps ih =>
      intro v hm hd
      simp only [List.map_cons, List.nodup_cons] at hd
      simp only [List.foldl_cons]
      rcases List.mem_cons.1 hm with rfl | hm
      · rw [reg_poke ps _ l r l hl hl (fun _ q hq e => hd.1 (List.mem_map.2 ⟨q, hq, e⟩)), mget_mput_same]
      · exact ih _ hm hd.2
  exact key ws g.v hm hd

theorem destWords_nodup (d : Dst) (wide : Bool) (x : DWord) : ((destWords d wide x).map Prod.fst).Nodup := by
  unfold destWords
  cases d with
  | none => simp
  | reg r => cases wide <;> simp

theorem destWords_covers {d : Dst} {wide : Bool} {x : DWord} {p : Nat × Word} (h : p ∈ destWords d wide x) :
    Dst.covers d wide p.1 := by
  unfold destWords at h
  unfold Dst.covers useDst
  cases d with
  | none => simp at h
  | reg r =>
    cases wide
    · simp at h; subst h; simp
    · simp at h
      rcases h with rfl | rfl
      · exact List.mem_map.2 ⟨0, by simp, by simp⟩
      · exact List.mem_map.2 ⟨1, by simp, by simp⟩

/-! A vector result. -/

theorem Gang.pendingOn_of_lane {g h : Gang} {l r : Nat} (e : h.lane l = g.lane l) : h.pendingOn l r = g.pendingOn l r := by
  unfold Gang.pendingOn; rw [e]

/-- A flush of another lane leaves this one. -/
theorem Gang.flushLane_other (g : Gang) (l k : Nat) (hl : l < 32) (hk : k < 32) (h : k ≠ l) :
    (g.flushLane l).lane k = g.lane k ∧ ∀ r, (g.flushLane l).reg r k = g.reg r k := by
  refine ⟨by rw [Gang.lane_flushLane, if_neg h], fun r => ?_⟩
  unfold Gang.flushLane Gang.reg
  exact reg_poke _ _ _ _ _ hl hk (fun e => absurd e h)

theorem Gang.pendingOn_flushed (g : Gang) (l r : Nat) : (g.flushLane l).pendingOn l r = false := by
  rw [Gang.pendingOn_iff, Gang.lane_flushLane, if_pos rfl]
  intro e he p hp
  simp only [Lane.cleared, List.mem_map] at he
  obtain ⟨a, -, rfl⟩ := he
  simp at hp

/-! What switches leave of a gang (01 R50). -/

theorem Gang.reg_flush_congr {g h : Gang} {l : Nat} (r : Nat) (_hl : l < 32) (e : h.lane l = g.lane l)
    (er : ∀ r, h.reg r l = g.reg r l) : (h.flushLane l).reg r l = (g.flushLane l).reg r l := by
  unfold Gang.flushLane Gang.reg
  simp only [e]
  generalize (g.lane l).hist.reverse.flatMap (fun e => e.pending) = ps
  have key : ∀ (ps : List (Nat × Word)) (v w : Map Word),
      (∀ r, mget (0 : Word) v (vkey r l) = mget 0 w (vkey r l)) →
      mget (0 : Word) (ps.foldl (fun v p => mput v (vkey p.1 l) p.2) v) (vkey r l) =
        mget 0 (ps.foldl (fun v p => mput v (vkey p.1 l) p.2) w) (vkey r l) := by
    intro ps
    induction ps with
    | nil => exact fun v w h => h r
    | cons p ps ih =>
      intro v w h
      refine ih _ _ (fun q => ?_)
      rw [mget_mput, mget_mput, h q]
  exact key ps _ _ er

/-- A gang after switches for some of its lanes: a lane is as it was, or its suppressed results are written and
leave its history; nothing else changes but the streams, the promotion and the done mask. -/
structure Gang.Switched (g h : Gang) : Prop where
  fixed : h.fixed = g.fixed
  lane : ∀ k, h.lane k = g.lane k ∨ h.lane k = (g.lane k).cleared
  both : ∀ k, k < 32 → (h.lane k = g.lane k ∧ ∀ r, h.reg r k = g.reg r k) ∨
    (h.lane k = (g.lane k).cleared ∧ ∀ r, h.reg r k = (g.flushLane k).reg r k)

theorem Lane.cleared_cleared (x : Lane) : x.cleared.cleared = x.cleared := by simp [Lane.cleared, Function.comp_def]

theorem Gang.Switched.of_eq {g h : Gang} (f : h.fixed = g.fixed) (l : h.lanes = g.lanes) (v : h.v = g.v) :
    g.Switched h :=
  ⟨f, fun k => .inl (by unfold Gang.lane; rw [l]),
    fun k _ => .inl ⟨by unfold Gang.lane; rw [l], fun r => by unfold Gang.reg; rw [v]⟩⟩

theorem Gang.Switched.refl (g : Gang) : g.Switched g := .of_eq rfl rfl rfl

theorem Gang.Switched.trans {g h j : Gang} (a : g.Switched h) (b : h.Switched j) : g.Switched j where
  fixed := b.fixed.trans a.fixed
  lane k := by
    rcases a.lane k with e | e <;> rcases b.lane k with d | d <;> rw [d, e]
    · exact .inl rfl
    · exact .inr rfl
    · exact .inr rfl
    · exact .inr (Lane.cleared_cleared _)
  both k hk := by
    rcases a.both k hk with ⟨e, x⟩ | ⟨e, x⟩ <;> rcases b.both k hk with ⟨d, y⟩ | ⟨d, y⟩
    · exact .inl ⟨d.trans e, fun r => (y r).trans (x r)⟩
    · exact .inr ⟨d.trans (by rw [e]), fun r => (y r).trans (Gang.reg_flush_congr r hk e x)⟩
    · exact .inr ⟨d.trans e, fun r => (y r).trans (x r)⟩
    · refine .inr ⟨d.trans (by rw [e, Lane.cleared_cleared]), fun r => (y r).trans ?_⟩
      rw [← x r]
      refine Gang.reg_flushLane h k r k hk hk ?_
      unfold Gang.pendingOn
      rw [e]
      simp [Lane.cleared]

theorem Gang.switched_flushLane (g : Gang) {l : Nat} (hl : l < 32) : g.Switched (g.flushLane l) where
  fixed := rfl
  lane k := by rw [Gang.lane_flushLane]; split <;> simp_all
  both k hk := by
    by_cases e : k = l
    · subst e; exact .inr ⟨by rw [Gang.lane_flushLane, if_pos rfl], fun _ => rfl⟩
    · exact .inl (Gang.flushLane_other g l k hl hk e)

theorem Gang.switched_switch (g : Gang) (ls : List Nat) (h : ∀ l ∈ ls, l < 32) : g.Switched (g.switch ls) := by
  unfold Gang.switch
  induction ls generalizing g with
  | nil => exact .refl g
  | cons l ls ih =>
    exact (Gang.switched_flushLane g (h l (List.mem_cons_self ..))).trans
      (ih _ (fun x hx => h x (List.mem_cons_of_mem l hx)))

theorem liveLanes_lt (g : Gang) : ∀ l ∈ g.liveLanes, l < 32 := by
  intro l hl
  simp only [Gang.liveLanes, below, List.mem_filter, List.mem_range] at hl
  exact hl.1

theorem Gang.switched_demoteHolding (g : Gang) : g.Switched g.demoteHolding := by
  unfold Gang.demoteHolding
  split
  · exact (Gang.switched_switch g _ (liveLanes_lt g)).trans (.of_eq rfl rfl rfl)
  · exact .refl g

theorem Gang.switched_reform (g : Gang) (i : Nat) (ks : List Nat) (h : ∀ k ∈ ks, k < 8) :
    g.Switched (g.reform i ks) := by
  unfold Gang.reform
  dsimp only
  split
  · exact .of_eq rfl rfl rfl
  · exact (Gang.switched_switch g _ (slices_lanes_lt h)).trans (.of_eq rfl rfl rfl)

theorem Gang.switched_regroup (g : Gang) (i : Nat) (ks : List Nat) (h : ∀ k ∈ ks, k < 8) :
    g.Switched (g.regroup i ks) := by
  unfold Gang.regroup
  split
  · exact Gang.switched_reform g i ks h
  · exact (Gang.switched_reform g i ks h).trans (Gang.switched_demoteHolding _)

theorem Gang.switched_complete (g : Gang) (is : Issue) : g.Switched (g.complete is) := by
  unfold Gang.complete
  dsimp only
  exact Gang.Switched.trans (h := { g with done := g.done &&& ~~~is.active }) (.of_eq rfl rfl rfl)
    (Gang.switched_regroup _ _ _ (fun _ hx => slicesOf_lt hx))

theorem Gang.switched_completeWait (g : Gang) (is : Issue) : g.Switched (g.completeWait is) := by
  unfold Gang.completeWait
  dsimp only
  exact Gang.Switched.trans (h := { g with done := g.done &&& ~~~is.active }) (.of_eq rfl rfl rfl)
    (Gang.switched_reform _ _ _ (fun _ hx => slicesOf_lt hx))

/-- Switches write only registers that have a pending result. -/
theorem Gang.Switched.reg {g h : Gang} (s : g.Switched h) {r k : Nat} (hk : k < 32) (n : g.pendingOn k r = false) :
    h.reg r k = g.reg r k := by
  rcases s.both k hk with ⟨-, e⟩ | ⟨-, e⟩
  · exact e r
  · exact (e r).trans (Gang.reg_flushLane g k r k hk hk n)

@[simp] theorem Gang.fixed_demoteHolding (g : Gang) : g.demoteHolding.fixed = g.fixed := g.switched_demoteHolding.fixed

@[simp] theorem Gang.fixed_complete (g : Gang) (is : Issue) : (g.complete is).fixed = g.fixed :=
  (g.switched_complete is).fixed

@[simp] theorem Gang.fixed_advance (g : Gang) (is : Issue) : (g.advance is).fixed = g.fixed := by
  unfold Gang.advance; simp

theorem Gang.lane_complete (g : Gang) (is : Issue) (k : Nat) :
    (g.complete is).lane k = g.lane k ∨ (g.complete is).lane k = (g.lane k).cleared :=
  (g.switched_complete is).lane k

/-- After the common completion an active lane stands at the next word. -/
theorem Gang.pc_advance (g : Gang) (is : Issue) (l : Nat) (h : is.active.getLsbD l = true) :
    ((g.advance is).lane l).pc = is.next := by
  unfold Gang.advance
  have e : ((g.setPcs (lanesOf is.active) is.next).lane l).pc = is.next := by
    rw [Gang.lane_setPcs _ _ _ _ (nodup_lanesOf _), if_pos (mem_lanesOf.2 h)]
  rcases Gang.lane_complete (g.setPcs (lanesOf is.active) is.next) is l with h | h <;> rw [h] <;> exact e

theorem Lane.latch_cleared (x : Lane) (n : Nat) : x.cleared.latch n = x.latch n := by
  unfold Lane.latch Lane.cleared
  simp only [List.getElem?_map]
  cases x.hist[n]? <;> rfl

/-- The common completion leaves the latches. -/
theorem Gang.latch_advance (g : Gang) (is : Issue) (l n : Nat) :
    ((g.advance is).lane l).latch n = (g.lane l).latch n := by
  unfold Gang.advance
  have e : ((g.setPcs (lanesOf is.active) is.next).lane l).latch n = (g.lane l).latch n := by
    rw [Gang.lane_setPcs _ _ _ _ (nodup_lanesOf _)]
    split <;> rfl
  rcases Gang.lane_complete (g.setPcs (lanesOf is.active) is.next) is l with h | h <;> rw [h]
  · exact e
  · rw [Lane.latch_cleared]; exact e

theorem Gang.pendingOn_setPcs (g : Gang) (ls : List Nat) (pc : VAddr) (l r : Nat) (hn : ls.Nodup) :
    (g.setPcs ls pc).pendingOn l r = g.pendingOn l r := by
  unfold Gang.pendingOn
  rw [Gang.lane_setPcs _ _ _ _ hn]
  split <;> rfl

/-- The common completion writes only registers that have a pending result. -/
theorem Gang.reg_advance (g : Gang) (is : Issue) (r l : Nat) (hl : l < 32) (h : g.pendingOn l r = false) :
    (g.advance is).reg r l = g.reg r l := by
  unfold Gang.advance
  rw [(Gang.switched_complete _ is).reg hl (by rw [Gang.pendingOn_setPcs _ _ _ _ _ (nodup_lanesOf _)]; exact h)]
  exact Gang.reg_modLanes g _ _ r l

/-- The common completion leaves a register of a lane, or writes back the lane's pending results. -/
theorem Gang.reg_advance_or (g : Gang) (is : Issue) (r l : Nat) (hl : l < 32) :
    (g.advance is).reg r l = g.reg r l ∨ (g.advance is).reg r l = (g.flushLane l).reg r l := by
  unfold Gang.advance
  have e1 : ∀ r, (g.setPcs (lanesOf is.active) is.next).reg r l = g.reg r l := fun r => Gang.reg_modLanes g _ _ r l
  rcases (Gang.switched_complete (g.setPcs (lanesOf is.active) is.next) is).both l hl with ⟨-, e⟩ | ⟨-, e⟩
  · exact .inl ((e r).trans (e1 r))
  · refine .inr ((e r).trans ?_)
    unfold Gang.flushLane Gang.reg
    have : ((g.setPcs (lanesOf is.active) is.next).lane l).hist = (g.lane l).hist := by
      rw [Gang.lane_setPcs _ _ _ _ (nodup_lanesOf _)]; split <;> rfl
    simp only [this]
    have hv : (g.setPcs (lanesOf is.active) is.next).v = g.v :=
      foldl_keeps (fun (g : Gang) l => g.modLane l (fun x => { x with pc := is.next })) (fun g => g.v)
        (fun _ _ => rfl) _ g
    rw [hv]

theorem Gang.writeLane_local (tick : Nat) (d : Dst) (wide w : Bool) (f : Nat → DWord) :
    LocalStep (fun h l => h.writeLane tick d wide w l (f l)) := by
  intro h k l hk hl e
  unfold Gang.writeLane
  dsimp only
  constructor
  · rw [Gang.lane_modLane, if_neg e]
    split
    · split <;> rfl
    · exact Gang.lane_setRegs_other _ _ _ _ e
  · intro r
    rw [Gang.reg_modLane]
    split
    · split
      · exact Gang.reg_pokeRegs_other _ _ _ _ _ hk hl (fun e' => absurd e' e)
      · rfl
    · exact Gang.reg_setRegs_other _ _ _ _ _ hk hl (fun e' => absurd e' e)

theorem Gang.keepLane_local (d : Dst) (wide : Bool) : LocalStep (fun h l => h.keepLane d wide l) := by
  intro h k l _ _ e
  unfold Gang.keepLane
  exact ⟨by rw [Gang.lane_modLane, if_neg e], fun r => rfl⟩

theorem mem_lanesOf_lt {m : LaneMask} {l : Nat} (h : l ∈ lanesOf m) : l < 32 := by
  simp only [lanesOf, below, List.mem_filter, List.mem_range] at h; exact h.1

theorem Gang.writeVec_local (tick : Nat) (p : LaneMask) (d : Dst) (wide w : Bool) (f : Nat → DWord) :
    LocalStep (fun h l => if p.getLsbD l then h.writeLane tick d wide w l (f l) else h.keepLane d wide l) := by
  intro h k l hk hl e
  dsimp only
  split
  · exact Gang.writeLane_local tick d wide w f h k l hk hl e
  · exact Gang.keepLane_local d wide h k l hk hl e

@[simp] theorem Gang.fixed_writeVec (g : Gang) (tick : Nat) (is : Issue) (p : LaneMask) (d : Dst) (wide w : Bool)
    (f : Nat → DWord) : (g.writeVec tick is p d wide w f).fixed = g.fixed := by
  refine foldl_keeps (fun (h : Gang) l => if p.getLsbD l then h.writeLane tick d wide w l (f l) else h.keepLane d wide l)
    Gang.fixed (fun h l => ?_) _ g
  split
  · unfold Gang.writeLane
    dsimp only
    rw [Gang.fixed_modLane]
    split
    · split <;> rfl
    · exact Gang.fixed_setRegs _ _ _
  · exact Gang.fixed_modLane _ _ _

theorem Gang.lane_writeLane (h : Gang) (tick : Nat) (d : Dst) (wide w : Bool) (l : Nat) (x : DWord) :
    ((h.writeLane tick d wide w l x).lane l).latch 0 = entryVal wide x := by
  unfold Gang.writeLane
  dsimp only
  rw [Gang.lane_modLane, if_pos rfl]
  simp [Lane.pushLatch, Lane.latch]

/-- A register outside the destination, with nothing pending, stays as it is and gets nothing pending. -/
theorem Gang.writeLane_other (h : Gang) (tick : Nat) (d : Dst) (wide w : Bool) (l r : Nat) (x : DWord) (hl : l < 32)
    (hr : ¬ Dst.covers d wide r) (hp : h.pendingOn l r = false) :
    (h.writeLane tick d wide w l x).reg r l = h.reg r l ∧
    (h.writeLane tick d wide w l x).pendingOn l r = false := by
  have hw : ∀ p ∈ destWords d wide x, p.1 ≠ r := fun p hq e => hr (e ▸ destWords_covers hq)
  have hg : ∀ (k : Gang), k.pendingOn l r = false →
      (k.modLane l (fun y => y.pushLatch ⟨entryVal wide x, if w then destWords d wide x else []⟩)).pendingOn l r = false := by
    intro k hk
    rw [Gang.pendingOn_iff] at hk ⊢
    rw [Gang.lane_modLane, if_pos rfl]
    intro e he p hq
    have he' := List.mem_of_mem_take he
    rcases List.mem_cons.1 he' with rfl | he'
    · dsimp only at hq
      split at hq
      · exact hw p hq
      · simp at hq
    · exact hk e he' p hq
  unfold Gang.writeLane
  dsimp only
  rw [Gang.reg_modLane]
  cases w with
  | true =>
    simp only [if_true] at hg ⊢
    split
    · exact ⟨Gang.reg_pokeRegs_other _ _ _ _ _ hl hl (fun _ => hw), hg (h.pokeRegs l (destWords d wide x)) hp⟩
    · exact ⟨rfl, hg h hp⟩
  | false =>
    exact ⟨Gang.reg_setRegs_other _ _ _ _ _ hl hl (fun _ => hw),
      hg (h.setRegs l (destWords d wide x)) (Gang.pendingOn_setRegs _ _ _ _ (.inl hp))⟩

/-- The destination of an unsuppressed write. -/
theorem Gang.writeLane_dest (h : Gang) (tick : Nat) (d : Dst) (wide : Bool) (l r : Nat) (x : DWord) (y : Word)
    (hl : l < 32) (hm : (r, y) ∈ destWords d wide x) :
    (h.writeLane tick d wide false l x).reg r l = y ∧ (h.writeLane tick d wide false l x).pendingOn l r = false := by
  unfold Gang.writeLane
  dsimp only
  rw [Gang.reg_modLane]
  refine ⟨Gang.reg_setRegs_mem _ _ _ _ _ hl hm (destWords_nodup d wide x), ?_⟩
  have hp := Gang.pendingOn_setRegs h l (destWords d wide x) r (.inr ⟨_, hm, rfl⟩)
  rw [Gang.pendingOn_iff] at hp ⊢
  rw [Gang.lane_modLane, if_pos rfl]
  intro e he p hq
  rcases List.mem_cons.1 (List.mem_of_mem_take he) with rfl | he'
  · simp at hq
  · exact hp e he' p hq

/-- The destination of a suppressed write: the result or the old value now, the result after a flush. -/
theorem Gang.writeLane_suppressed (h : Gang) (tick : Nat) (d : Dst) (wide : Bool) (l r : Nat) (x : DWord) (y : Word)
    (hl : l < 32) (hm : (r, y) ∈ destWords d wide x) :
    ((h.writeLane tick d wide true l x).reg r l = y ∨ (h.writeLane tick d wide true l x).reg r l = h.reg r l) ∧
    ((h.writeLane tick d wide true l x).flushLane l).reg r l = y := by
  have hn := destWords_nodup d wide x
  constructor
  · unfold Gang.writeLane
    simp only [if_true]
    rw [Gang.reg_modLane]
    split
    · exact .inl (Gang.reg_pokeRegs_mem _ _ _ _ _ hl hm hn)
    · exact .inr rfl
  · generalize hk : h.writeLane tick d wide true l x = k
    have hh : ∃ rest, (k.lane l).hist = ⟨entryVal wide x, destWords d wide x⟩ :: rest := by
      rw [← hk]
      unfold Gang.writeLane
      dsimp only
      rw [Gang.lane_modLane, if_pos rfl]
      exact ⟨_, rfl⟩
    obtain ⟨rest, hh⟩ := hh
    have : (k.flushLane l).reg r l =
        (({ k with v := (rest.reverse.flatMap (fun e => e.pending)).foldl (fun v p => mput v (vkey p.1 l) p.2) k.v } :
          Gang).pokeRegs l (destWords d wide x)).reg r l := by
      unfold Gang.flushLane Gang.pokeRegs Gang.reg
      simp only [hh, List.reverse_cons, List.flatMap_append, List.flatMap_cons, List.flatMap_nil, List.append_nil,
        List.foldl_append]
    rw [this]
    exact Gang.reg_pokeRegs_mem _ _ _ _ _ hl hm hn

theorem parts_active {g : Gang} {is : Issue} {gbit : Bool} {l : Nat} (h : g.takesPart is gbit l) :
    is.active.getLsbD l = true := by
  unfold Gang.takesPart Gang.parts at h
  rw [BitVec.getLsbD_and, Bool.and_eq_true] at h
  exact h.1

theorem lt_of_active {is : Issue} {l : Nat} (h : is.active.getLsbD l = true) : l < 32 := by
  by_contra hl
  rw [BitVec.getLsbD_of_ge _ _ (by omega)] at h
  exact absurd h (by simp)

/-- Everything the shared vector shape does. -/
theorem State.vector_result (s : State) (g : Gang) (i : Instr) (regs : List Nat) (d : Dst) (wide w gbit : Bool)
    (f : Gang → LaneMask → Nat → DWord × Flags) (hi : s.Issues g) (hr : g.regsOk regs = true)
    (he : exec i s = finish (s.vector regs d wide w gbit f)) :
    VectorResult s g i d wide w gbit (fun l => (f g (g.parts s.cur gbit) l).1)
      (flagsOf (g.parts s.cur gbit) (fun l => (f g (g.parts s.cur gbit) l).2)) := by
  generalize hp : g.parts s.cur gbit = p
  generalize hx : (fun l => (f g p l).1) = x
  generalize hfl : flagsOf p (fun l => (f g p l).2) = fl
  have hexec : exec i s = .next (s.putGang (((g.writeVec s.tick s.cur p d wide w x).orFlags fl).advance s.cur)) := by
    rw [he]
    unfold State.vector State.issue finish
    simp only [hi.1, hr, if_true, hp, hx, hfl]
    rw [show (s.putGang (((g.writeVec s.tick s.cur p d wide w x).orFlags fl).advance s.cur)).bad = none from hi.2]
  generalize hv : g.writeVec s.tick s.cur p d wide w x = v at hexec
  have hlocal := fun l (hl : l < 32) => fold_local _ (Gang.writeVec_local s.tick p d wide w x) (lanesOf s.cur.active) g l
    (nodup_lanesOf _) (fun _ h => mem_lanesOf_lt h) hl
  have hvf : v = (lanesOf s.cur.active).foldl
      (fun h l => if p.getLsbD l then h.writeLane s.tick d wide w l (x l) else h.keepLane d wide l) g := hv.symm
  have hor : ∀ l, ((v.orFlags fl).lane l) = v.lane l := fun _ => rfl
  have hfix : ((v.orFlags fl).advance s.cur).fixed = (v.orFlags fl).fixed := Gang.fixed_advance _ _
  have hvfix : v.fixed = g.fixed := by rw [← hv]; exact Gang.fixed_writeVec _ _ _ _ _ _ _ _
  have hvp : v.preds = g.preds ∧ v.s = g.s ∧ v.fpflags = g.fpflags := by
    have := congrArg Prod.snd hvfix
    simpa [Gang.fixed] using this
  have hap := congrArg Prod.snd hfix
  simp only [Gang.fixed, Prod.mk.injEq] at hap
  refine ⟨_, hexec, ?_, ?_, fun l hl => Gang.pc_advance _ _ _ hl, ?_, ?_, ?_, ?_, fun a => rfl⟩
  · intro l htp
    have hact := parts_active htp
    have hl := lt_of_active hact
    have hpl : p.getLsbD l = true := by rw [← hp]; exact htp
    obtain ⟨h, a1, a2, a3, a4⟩ := (hlocal l hl).2 (mem_lanesOf.2 hact)
    simp only [hpl, if_true] at a3 a4
    rw [← hvf] at a3 a4
    constructor
    · rw [Gang.latch_advance, hor, a3, Gang.lane_writeLane]
    · intro r y hm
      cases w with
      | false =>
        left
        have := Gang.writeLane_dest h s.tick d wide l r (x l) y hl hm
        rw [Gang.reg_advance _ _ _ _ hl]
        · exact (a4 r).trans this.1
        · exact (Gang.pendingOn_of_lane a3).trans this.2
      | true =>
        have := Gang.writeLane_suppressed h s.tick d wide l r (x l) y hl hm
        rcases Gang.reg_advance_or (v.orFlags fl) s.cur r l hl with e | e
        · rw [e]
          have e2 : (v.orFlags fl).reg r l = v.reg r l := rfl
          rw [e2, a4 r]
          rcases this.1 with h1 | h1
          · exact .inl h1
          · exact .inr ⟨rfl, h1.trans (a2 r)⟩
        · left
          rw [e]
          have := this.2
          rw [← this]
          exact Gang.reg_flush_congr r hl a3 a4
  · intro l r hl hcov hpend
    by_cases hact : s.cur.active.getLsbD l = true
    · obtain ⟨h, a1, a2, a3, a4⟩ := (hlocal l hl).2 (mem_lanesOf.2 hact)
      rw [← hvf] at a3 a4
      have hhp : h.pendingOn l r = false := (Gang.pendingOn_of_lane a1).trans hpend
      by_cases hpl : p.getLsbD l = true
      · simp only [hpl, if_true] at a3 a4
        have hc := hcov (show (g.parts s.cur gbit).getLsbD l = true by rw [hp]; exact hpl)
        have := Gang.writeLane_other h s.tick d wide w l r (x l) hl hc hhp
        rw [Gang.reg_advance _ _ _ _ hl]
        · exact (a4 r).trans (this.1.trans (a2 r))
        · exact (Gang.pendingOn_of_lane a3).trans this.2
      · simp only [hpl] at a3 a4
        have hk : (h.keepLane d wide l).pendingOn l r = false := by
          unfold Gang.keepLane
          rw [Gang.pendingOn_iff] at hhp ⊢
          rw [Gang.lane_modLane, if_pos rfl]
          intro e he' q hq
          rcases List.mem_cons.1 (List.mem_of_mem_take he') with rfl | he2
          · simp at hq
          · exact hhp e he2 q hq
        rw [Gang.reg_advance _ _ _ _ hl]
        · exact (a4 r).trans (a2 r)
        · exact (Gang.pendingOn_of_lane a3).trans hk
    · obtain ⟨a, b⟩ := (hlocal l hl).1 (fun h => hact (mem_lanesOf.1 h))
      rw [← hvf] at a b
      rw [Gang.reg_advance _ _ _ _ hl]
      · exact b r
      · exact (Gang.pendingOn_of_lane a).trans hpend
  · exact hap.1.trans hvp.1
  · exact hap.2.1.trans hvp.2.1
  · rw [hap.2.2]; show v.fpflags ||| fl = _; rw [hvp.2.2]
  · exact Gang.stays_of_fixed ((congrArg Prod.fst hfix).trans
      (show (v.orFlags fl).fixed.1 = _ from (congrArg Prod.fst hvfix : v.fixed.1 = _)))

end Sys2Proof.Machine
end

