-- ==== Sys2Proof/Laws/Memory.lean ====
section
/-! SUPPORT. Memory: its canonical form is kept by every operation, and reading a byte after a write. -/

namespace Sys2Proof.Machine

theorem memWfFrom_mono {lo hi : Nat} {m : List Host.Cell} (h : memWfFrom hi m = true) (hl : lo ≤ hi) :
    memWfFrom lo m = true := by
  cases m with
  | nil => rfl
  | cons x m => simp only [memWfFrom, Bool.and_eq_true, decide_eq_true_eq] at *; exact ⟨⟨by omega, h.1.2⟩, h.2⟩

theorem memWfFrom_memWrite {lo : Nat} {m : List Host.Cell} (h : memWfFrom lo m = true) (a : Nat) (y : Byte)
    (ha : lo ≤ a) : memWfFrom lo (memWrite m a y) = true := by
  induction m generalizing lo with
  | nil => simp only [memWrite]; split <;> simp_all [memWfFrom]
  | cons x m ih =>
    obtain ⟨k, v⟩ := x
    simp only [memWfFrom, Bool.and_eq_true, decide_eq_true_eq] at h
    simp only [memWrite]
    split
    · split
      · exact memWfFrom_mono h.2 (by omega)
      · simp_all [memWfFrom]
    · split
      · split
        · simp_all [memWfFrom]
        · simp_all only [memWfFrom, bne_iff_ne, ne_eq, not_false_eq_true, and_true, Bool.and_eq_true,
            decide_eq_true_eq, true_and]
          omega
      · simp only [memWfFrom, Bool.and_eq_true, decide_eq_true_eq]
        exact ⟨h.1, ih h.2 (by omega)⟩

/-- A write of one byte keeps the canonical form. -/
theorem memWrite_wf {m : List Host.Cell} (h : Memory.wf m = true) (a : Nat) (y : Byte) :
    Memory.wf (memWrite m a y) = true := memWfFrom_memWrite h a y (Nat.zero_le a)

theorem memStore_wf {m : List Host.Cell} (h : Memory.wf m = true) (a : Nat) (bs : List Byte) :
    Memory.wf (memStore m a bs) = true := by
  induction bs generalizing m a with
  | nil => exact h
  | cons b bs ih => exact ih (memWrite_wf h a b) (a + 1)

theorem memStoreAt_wf {m : List Host.Cell} (h : Memory.wf m = true) (ws : List (Nat × Byte)) :
    Memory.wf (memStoreAt m ws) = true := by
  induction ws generalizing m with
  | nil => exact h
  | cons w ws ih => exact ih (memWrite_wf h w.1 w.2)

/-- Below the first listed address every byte reads zero. -/
theorem memRead_below {lo : Nat} {m : List Host.Cell} (h : memWfFrom lo m = true) {a : Nat} (ha : a < lo) :
    memRead m a = 0 := by
  cases m with
  | nil => rfl
  | cons x m =>
    simp only [memWfFrom, Bool.and_eq_true, decide_eq_true_eq] at h
    simp only [memRead]
    rw [if_neg (by omega), if_pos (by omega)]

theorem memRead_memWrite_from {lo : Nat} {m : List Host.Cell} (h : memWfFrom lo m = true) (a b : Nat) (y : Byte) :
    memRead (memWrite m a y) b = if b = a then y else memRead m b := by
  induction m generalizing lo with
  | nil =>
    simp only [memWrite]
    split
    · simp_all [memRead]
    · simp [memRead]
  | cons x m ih =>
    obtain ⟨k, v⟩ := x
    simp only [memWfFrom, Bool.and_eq_true, decide_eq_true_eq] at h
    have ih := ih h.2
    simp only [memWrite]
    by_cases f : b = a
    · subst f
      simp only [if_true]
      split
      · split
        · rw [memRead_below h.2 (by omega)]; simp_all
        · simp [memRead]
      · split
        · split
          · simp only [memRead]; rw [if_neg (by omega), if_pos (by omega)]; simp_all
          · simp [memRead]
        · simp only [memRead, ih, if_true]
          rw [if_neg (by omega), if_neg (by omega)]
    · simp only [f, if_false] at ih ⊢
      split
      · have hk : b ≠ k := by omega
        split
        · simp only [memRead, hk, if_false]
          split
          · exact memRead_below h.2 (by omega)
          · rfl
        · simp only [memRead, f, hk, if_false]
          simp_all
      · split
        · split
          · rfl
          · simp only [memRead, f, if_false]
            split
            · rw [if_neg (by omega), if_pos (by omega)]
            · rfl
        · simp only [memRead, ih]

/-- A byte read after a write of one byte. -/
theorem memRead_memWrite {m : List Host.Cell} (h : Memory.wf m = true) (a b : Nat) (y : Byte) :
    memRead (memWrite m a y) b = if b = a then y else memRead m b := memRead_memWrite_from h a b y

/-- A byte outside a stored range reads as before. -/
theorem memRead_memStore_outside {m : List Host.Cell} (h : Memory.wf m = true) (a b : Nat) (bs : List Byte)
    (hb : b < a ∨ a + bs.length ≤ b) : memRead (memStore m a bs) b = memRead m b := by
  induction bs generalizing m a with
  | nil => rfl
  | cons x bs ih =>
    simp only [List.length_cons] at hb
    simp only [memStore]
    rw [ih (memWrite_wf h a x) (a + 1) (by omega), memRead_memWrite h, if_neg (by omega)]

/-- A stored byte reads back. -/
theorem memRead_memStore_inside {m : List Host.Cell} (h : Memory.wf m = true) (a i : Nat) (bs : List Byte)
    (hi : i < bs.length) : memRead (memStore m a bs) (a + i) = bs[i] := by
  induction bs generalizing m a i with
  | nil => simp at hi
  | cons x bs ih =>
    simp only [memStore]
    cases i with
    | zero =>
      rw [memRead_memStore_outside (memWrite_wf h a x) (a + 1) _ bs (by omega), memRead_memWrite h]
      simp
    | succ i =>
      have := ih (memWrite_wf h a x) (a + 1) i (by simpa using hi)
      simpa [Nat.add_assoc, Nat.add_comm 1 i] using this

/-- Clearing a range keeps the canonical form. -/
theorem memClear_wf {m : List Host.Cell} (h : Memory.wf m = true) (a n : Nat) : Memory.wf (memClear m a n) = true := by
  have key : ∀ (m : List Host.Cell) (lo : Nat), memWfFrom lo m = true → memWfFrom lo (memClear m a n) = true := by
    intro m
    induction m with
    | nil => exact fun _ h => h
    | cons x m ih =>
      obtain ⟨k, v⟩ := x
      intro lo h
      simp only [memWfFrom, Bool.and_eq_true, decide_eq_true_eq] at h
      have h2 := ih (k + 1) h.2
      simp only [memClear, List.filter_cons]
      split
      · simp only [memWfFrom, Bool.and_eq_true, decide_eq_true_eq]; exact ⟨h.1, h2⟩
      · exact memWfFrom_mono h2 (by omega)
  exact key m 0 h

/-! The machine's memory operations. -/

@[simp] theorem memOk_State_heal {s : State} (h : s.MemOk) (hit : Nat → Bool) : (s.heal hit).MemOk := by
  unfold State.heal
  dsimp only
  split
  · exact h
  · exact memStoreAt_wf h _

@[simp] theorem memOk_State_noteBad {s : State} (h : s.MemOk) (a : Nat) : (s.noteBad a).MemOk := by
  unfold State.noteBad; (repeat' split) <;> exact h

@[simp] theorem memOk_State_writeHome {s : State} (h : s.MemOk) (a : Nat) (bs : List Byte) : (s.writeHome a bs).MemOk := by
  unfold State.writeHome
  split
  · exact memStore_wf (memOk_State_heal h _) a bs
  · exact memOk_State_noteBad h a

@[simp] theorem memOk_State_clearHome {s : State} (h : s.MemOk) (a n : Nat) : (s.clearHome a n).MemOk := by
  unfold State.clearHome
  (repeat' split) <;> first
    | exact memClear_wf (memOk_State_heal h _) a n
    | simp [h]

@[simp] theorem memOk_State_homeStoreAt {s : State} (h : s.MemOk) (ws : List (Nat × Byte)) : (s.homeStoreAt ws).MemOk := by
  unfold State.homeStoreAt
  split
  · exact memOk_State_noteBad h _
  · exact memStoreAt_wf (memOk_State_heal h _) ws

end Sys2Proof.Machine
end

