-- ==== Sys2Proof/Laws/KeptOps.lean ====
section
/-! SUPPORT. Every shared operation keeps the canonical form of memory. -/

namespace Sys2Proof.Machine
@[simp] theorem foldl_memOk {α : Type} (f : State → α → State) (xs : List α) (s : State)
    (hf : ∀ s x, s.MemOk → (f s x).MemOk) (h : s.MemOk) : (xs.foldl f s).MemOk := by
  induction xs generalizing s with
  | nil => exact h
  | cons x xs ih => exact ih _ (hf _ _ h)
@[simp] theorem foldl_fst_memOk {α β : Type} (f : State × β → α → State × β) (xs : List α) (x : State × β)
    (hf : ∀ x y, x.1.MemOk → (f x y).1.MemOk) (h : x.1.MemOk) : (xs.foldl f x).1.MemOk := by
  induction xs generalizing x with
  | nil => exact h
  | cons y ys ih => exact ih _ (hf _ _ h)
@[simp] theorem memOk_mk (a b c d e f x v m g i j k l n o p q r t u) :
  (State.mk a b c d e f x v m g i j k l n o p q r t u).MemOk ↔ Memory.wf m = true := Iff.rfl
@[simp] theorem memOk_fold (s : State) : (Memory.wf s.mem = true) ↔ s.MemOk := Iff.rfl
@[simp] theorem memOk_ite (c : Prop) [Decidable c] (a b : State) (ha : a.MemOk) (hb : b.MemOk) :
    (if c then a else b).MemOk := by split <;> assumption

def Plan.MemOk : Plan → Prop
  | .run _ s => s.MemOk
  | .done s => s.MemOk
@[simp] theorem Plan.memOk_run (i : Instr) (s : State) : (Plan.run i s).MemOk ↔ s.MemOk := Iff.rfl
@[simp] theorem Plan.memOk_done (s : State) : (Plan.done s).MemOk ↔ s.MemOk := Iff.rfl

set_option linter.all false

@[simp] theorem memOk_State_setMem (s : State) (m : List Host.Cell) (hs : Memory.wf m = true) :
    (State.setMem s m).MemOk := by
  exact hs

@[simp] theorem memOk_State_touch (s : State) (a : Nat) (n : Nat) (hs : s.MemOk) :
    (State.touch s a n).MemOk := by
  unfold State.touch
  simp +contextual (maxDischargeDepth := 20) [*]

@[simp] theorem memOk_State_setDword (s : State) (a : Nat) (d : DWord) (hs : s.MemOk) :
    (State.setDword s a d).MemOk := by
  unfold State.setDword
  simp +contextual (maxDischargeDepth := 20) [*]

@[simp] theorem memOk_State_setCore (s : State) (c : Nat) (k : Core) (hs : s.MemOk) :
    (State.setCore s c k).MemOk := by
  exact hs

@[simp] theorem memOk_State_modCore (s : State) (c : Nat) (f : Core → Core) (hs : s.MemOk) :
    (State.modCore s c f).MemOk := by
  exact hs

@[simp] theorem memOk_State_setGang (s : State) (c : Nat) (slot : Nat) (g : Gang) (hs : s.MemOk) :
    (State.setGang s c slot g).MemOk := by
  exact hs

@[simp] theorem memOk_State_modGang (s : State) (c : Nat) (slot : Nat) (f : Gang → Gang) (hs : s.MemOk) :
    (State.modGang s c slot f).MemOk := by
  unfold State.modGang
  try dsimp only
  (repeat' split) <;> first | assumption | (simp +contextual (maxDischargeDepth := 20) [*]; done)

@[simp] theorem memOk_State_modDie (s : State) (d : Nat) (f : Die → Die) (hs : s.MemOk) :
    (State.modDie s d f).MemOk := by
  exact hs

@[simp] theorem memOk_State_modPart (s : State) (p : Nat) (f : Partition → Partition) (hs : s.MemOk) :
    (State.modPart s p f).MemOk := by
  exact hs

@[simp] theorem memOk_State_modCtx (s : State) (c : Nat) (f : Ctx → Ctx) (hs : s.MemOk) :
    (State.modCtx s c f).MemOk := by
  exact hs

@[simp] theorem memOk_State_modLaunch (s : State) (n : Nat) (f : Launch → Launch) (hs : s.MemOk) :
    (State.modLaunch s n f).MemOk := by
  exact hs

@[simp] theorem memOk_State_clusterCycle (s : State) (n : Nat) (hs : s.MemOk) :
    (State.clusterCycle s n).MemOk := by
  unfold State.clusterCycle
  simp +contextual (maxDischargeDepth := 20) [*]

@[simp] theorem memOk_State_fabricCycle (s : State) (hs : s.MemOk) :
    (State.fabricCycle s).MemOk := by
  unfold State.fabricCycle
  simp +contextual (maxDischargeDepth := 20) [*]

@[simp] theorem memOk_State_elapse (n : Nat) (s : State) (hs : s.MemOk) : (State.elapse n s).MemOk := by
  induction n generalizing s with
  | zero => exact hs
  | succ n ih => exact ih _ (by simp [hs])

@[simp] theorem memOk_State_addEnergy (s : State) (cluster : Nat) (uJ : Nat) (hs : s.MemOk) :
    (State.addEnergy s cluster uJ).MemOk := by
  unfold State.addEnergy
  try dsimp only
  (repeat' split) <;> first | assumption | (simp +contextual (maxDischargeDepth := 20) [*]; done)

@[simp] theorem memOk_State_addDieEnergy (s : State) (d : Nat) (uJ : Nat) (hs : s.MemOk) :
    (State.addDieEnergy s d uJ).MemOk := by
  exact hs

@[simp] theorem memOk_State_setSupply (s : State) (n : Nat) (low : Bool) (hs : s.MemOk) :
    (State.setSupply s n low).MemOk := by
  exact hs

@[simp] theorem memOk_State_rdcStoreFrame (s : State) (d : Nat) (frame : Nat) (ws : List (Nat × Byte))
    (hs : s.MemOk) :
    (State.rdcStoreFrame s d frame ws).MemOk := by
  unfold State.rdcStoreFrame
  simp +contextual (maxDischargeDepth := 20) [*]

@[simp] theorem memOk_State_writeBack (s : State) (d : Nat) (ws : List (Nat × Byte)) (hs : s.MemOk) :
    (State.writeBack s d ws).MemOk := by
  unfold State.writeBack
  simp +contextual (maxDischargeDepth := 20) [*]

@[simp] theorem memOk_State_l1Evicted (s : State) (c : Nat) (out : List Block) (hs : s.MemOk) :
    (State.l1Evicted s c out).MemOk := by
  unfold State.l1Evicted
  simp +contextual (maxDischargeDepth := 20) [*]

@[simp] theorem memOk_State_l1StoreFrame (s : State) (c : Nat) (frame : Nat) (ws : List (Nat × Byte)) (hs : s.MemOk) :
    (State.l1StoreFrame s c frame ws).MemOk := by
  unfold State.l1StoreFrame
  simp +contextual (maxDischargeDepth := 20) [*]

@[simp] theorem memOk_State_l1Store (s : State) (c : Nat) (ws : List (Nat × Byte)) (hs : s.MemOk) :
    (State.l1Store s c ws).MemOk := by
  unfold State.l1Store
  simp +contextual (maxDischargeDepth := 20) [*]

@[simp] theorem memOk_State_rdcFill (s : State) (d : Nat) (frame : Nat) (first : Nat) (last : Nat) (hs : s.MemOk) :
    (State.rdcFill s d frame first last).MemOk := by
  unfold State.rdcFill
  simp +contextual (maxDischargeDepth := 20) [*]

@[simp] theorem memOk_State_l1Fill (s : State) (c : Nat) (frame : Nat) (first : Nat) (last : Nat)
    (pred : Option Nat) (hs : s.MemOk) :
    (State.l1Fill s c frame first last pred).MemOk := by
  unfold State.l1Fill
  simp +contextual (maxDischargeDepth := 20) [*]

@[simp] theorem memOk_State_l1Want (s : State) (c : Nat) (frame : Nat) (offs : List Nat) (pc : Nat)
    (hint : Option Nat) (hs : s.MemOk) :
    (State.l1Want s c frame offs pc hint).MemOk := by
  unfold State.l1Want
  simp +contextual (maxDischargeDepth := 20) [*]

@[simp] theorem memOk_State_l1Load (s : State) (c : Nat) (frame : Nat) (offs : List Nat) (pc : Nat)
    (hint : Option Nat) (hs : s.MemOk) :
    (State.l1Load s c frame offs pc hint).MemOk := by
  unfold State.l1Load
  simp +contextual (maxDischargeDepth := 20) [*]

@[simp] theorem memOk_State_l1Read (s : State) (c : Nat) (reqs : List (Nat × Nat)) (pc : Nat) (hint : Option Nat)
    (hs : s.MemOk) : (State.l1Read s c reqs pc hint).1.MemOk := by
  unfold State.l1Read
  exact foldl_fst_memOk _ _ _ (fun x y h => by simp [h]) hs

@[simp] theorem memOk_State_l1WriteBack (s : State) (c : Nat) (p : Nat → Bool) (hs : s.MemOk) :
    (State.l1WriteBack s c p).MemOk := by
  unfold State.l1WriteBack
  simp +contextual (maxDischargeDepth := 20) [*]

@[simp] theorem memOk_State_l1Remove (s : State) (c : Nat) (p : Nat → Bool) (hs : s.MemOk) :
    (State.l1Remove s c p).MemOk := by
  unfold State.l1Remove
  simp +contextual (maxDischargeDepth := 20) [*]

@[simp] theorem memOk_State_rdcWriteBack (s : State) (d : Nat) (p : Nat → Bool) (hs : s.MemOk) :
    (State.rdcWriteBack s d p).MemOk := by
  unfold State.rdcWriteBack
  simp +contextual (maxDischargeDepth := 20) [*]

@[simp] theorem memOk_State_rdcRemove (s : State) (d : Nat) (p : Nat → Bool) (hs : s.MemOk) :
    (State.rdcRemove s d p).MemOk := by
  unfold State.rdcRemove
  simp +contextual (maxDischargeDepth := 20) [*]

@[simp] theorem memOk_State_rdcsRemove (s : State) (p : Nat → Bool) (hs : s.MemOk) :
    (State.rdcsRemove s p).MemOk := by
  unfold State.rdcsRemove
  simp +contextual (maxDischargeDepth := 20) [*]

@[simp] theorem memOk_State_rdcsDrop (s : State) (p : Nat → Bool) (hs : s.MemOk) :
    (State.rdcsDrop s p).MemOk := by
  unfold State.rdcsDrop
  simp +contextual (maxDischargeDepth := 20) [*]

@[simp] theorem memOk_State_toHome (s : State) (c : Nat) (a : Nat) (hs : s.MemOk) :
    (State.toHome s c a).MemOk := by
  unfold State.toHome
  simp +contextual (maxDischargeDepth := 20) [*]

@[simp] theorem memOk_State_releaseWords (s : State) (c : Nat) (level : Nat) (p : Nat → Bool) (hs : s.MemOk) :
    (State.releaseWords s c level p).MemOk := by
  unfold State.releaseWords
  try dsimp only
  (repeat' split) <;> first | assumption | (simp +contextual (maxDischargeDepth := 20) [*]; done)

@[simp] theorem memOk_State_acquireWords (s : State) (c : Nat) (level : Nat) (p : Nat → Bool) (hs : s.MemOk) :
    (State.acquireWords s c level p).MemOk := by
  unfold State.acquireWords
  simp +contextual (maxDischargeDepth := 20) [*]

@[simp] theorem memOk_State_access (s : State) (c : Nat) (served : Nat → Bool) (last : Option Leaf) (ctx : Nat) (va : Nat) (n : Nat)
    (kind : AccKind) (hs : s.MemOk) :
    (State.access s c served last ctx va n kind).1.MemOk := by
  unfold State.access
  try dsimp only
  (repeat' split) <;> first | assumption | (simp +contextual (maxDischargeDepth := 20) [*]; done)

@[simp] theorem memOk_State_serveLight (s : State) (f : LightFault) (hs : s.MemOk) :
    (State.serveLight s f).MemOk := by
  unfold State.serveLight
  simp +contextual (maxDischargeDepth := 20) [*]

@[simp] theorem memOk_State_sweepOn (s : State) (part : Nat) (base : Nat) (len : Nat) (names : Nat → Bool)
    (onCore : Nat → Bool) (onDie : Nat → Bool) (hs : s.MemOk) :
    (State.sweepOn s part base len names onCore onDie).MemOk := by
  unfold State.sweepOn
  simp +contextual (maxDischargeDepth := 20) [*]

@[simp] theorem memOk_State_acquireBinds (s : State) (c : Nat) (t : TeamPart) (bs : List Bind) (sc : Scope) (hs : s.MemOk) :
    (State.acquireBinds s c t bs sc).MemOk := by
  unfold State.acquireBinds
  simp +contextual (maxDischargeDepth := 20) [*]

@[simp] theorem memOk_State_releaseObj (s : State) (c : Nat) (t : TeamPart) (o : ObjLoc) (sc : Scope) (hs : s.MemOk) :
    (State.releaseObj s c t o sc).MemOk := by
  unfold State.releaseObj
  simp +contextual (maxDischargeDepth := 20) [*]

@[simp] theorem memOk_State_acquireObj (s : State) (c : Nat) (t : TeamPart) (o : ObjLoc) (sc : Scope) (hs : s.MemOk) :
    (State.acquireObj s c t o sc).MemOk := by
  unfold State.acquireObj
  simp +contextual (maxDischargeDepth := 20) [*]

@[simp] theorem memOk_State_releaseAllWords (s : State) (c : Nat) (level : Nat) (hs : s.MemOk) :
    (State.releaseAllWords s c level).MemOk := by
  unfold State.releaseAllWords
  simp +contextual (maxDischargeDepth := 20) [*]

@[simp] theorem memOk_State_acquireAllWords (s : State) (c : Nat) (level : Nat) (part : Nat) (hs : s.MemOk) :
    (State.acquireAllWords s c level part).MemOk := by
  unfold State.acquireAllWords
  simp +contextual (maxDischargeDepth := 20) [*]

@[simp] theorem memOk_State_objRead (s : State) (c ctx : Nat) (o : ObjLoc) (hs : s.MemOk) :
    (State.objRead s c ctx o).1.MemOk := by
  unfold State.objRead
  (repeat' split) <;> (try dsimp only) <;> (repeat' split) <;> simp [hs]

@[simp] theorem memOk_State_homeAdd (s : State) (pa n : Nat) (hs : s.MemOk) : (State.homeAdd s pa n).MemOk := by
  unfold State.homeAdd
  simp +contextual (maxDischargeDepth := 20) [*]

@[simp] theorem memOk_State_objAdd (s : State) (c : Nat) (ctx : Nat) (o : ObjLoc) (n : Nat) (hs : s.MemOk) :
    (State.objAdd s c ctx o n).MemOk := by
  unfold State.objAdd
  try dsimp only
  (repeat' split) <;> first | assumption | (simp +contextual (maxDischargeDepth := 20) [*]; done)

@[simp] theorem memOk_State_engineTouch (s : State) (ctx : Nat) (va : Nat) (write : Bool) (hs : s.MemOk) :
    (State.engineTouch s ctx va write).MemOk := by
  unfold State.engineTouch
  simp +contextual (maxDischargeDepth := 20) [*]
  (repeat' split) <;> first | assumption | (simp +contextual (maxDischargeDepth := 20) [*]; done)

@[simp] theorem memOk_State_engineSignal (s : State) (c : Nat) (who : Issuer) (o : EngineObj) (n : Nat)
    (hs : s.MemOk) :
    (State.engineSignal s c who o n).MemOk := by
  unfold State.engineSignal
  try dsimp only
  (repeat' split) <;> first | assumption | (simp +contextual (maxDischargeDepth := 20) [*]; done)

@[simp] theorem memOk_State_ttTouch (s : State) (c : Nat) (ctx : Nat) (slot : Nat) (hs : s.MemOk) :
    (State.ttTouch s c ctx slot).MemOk := by
  exact hs

@[simp] theorem memOk_State_ttInvalidate (s : State) (ctx : Nat) (slot : Nat) (hs : s.MemOk) :
    (State.ttInvalidate s ctx slot).MemOk := by
  exact hs

@[simp] theorem memOk_State_setTeState (s : State) (ctx : Nat) (slot : Nat) (st : Nat) (hs : s.MemOk) :
    (State.setTeState s ctx slot st).MemOk := by
  unfold State.setTeState
  simp +contextual (maxDischargeDepth := 20) [*]

@[simp] theorem memOk_State_settleSlot (s : State) (ctx : Nat) (slot : Nat) (hs : s.MemOk) :
    (State.settleSlot s ctx slot).MemOk := by
  unfold State.settleSlot
  simp +contextual (maxDischargeDepth := 20) [*]

@[simp] theorem memOk_State_setConn (s : State) (c : Nat) (k : Conn) (hs : s.MemOk) :
    (State.setConn s c k).MemOk := by
  unfold State.setConn
  try dsimp only
  (repeat' split) <;> first | assumption | (simp +contextual (maxDischargeDepth := 20) [*]; done)

@[simp] theorem memOk_State_emit (s : State) (f : Frame) (hs : s.MemOk) :
    (State.emit s f).MemOk := by
  exact hs

@[simp] theorem memOk_State_sendTo (s : State) (k : Conn) (f : Endpoint → Frame) (hs : s.MemOk) :
    (State.sendTo s k f).MemOk := by
  unfold State.sendTo
  try dsimp only
  (repeat' split) <;> first | assumption | (simp +contextual (maxDischargeDepth := 20) [*]; done)

@[simp] theorem memOk_State_sendOp (s : State) (c op addr len : Nat) (data : List Byte) (pa : Nat) (lanes : LaneMask) (who : Option Requester) (hs : s.MemOk) :
    (State.sendOp s c op addr len data pa lanes who).MemOk := by
  unfold State.sendOp
  simp +contextual (maxDischargeDepth := 20) [*]

@[simp] theorem memOk_State_sendReply (s : State) (c : Nat) (op : Nat) (status : Nat) (len : Nat) (addr : Nat)
    (data : List Byte) (hs : s.MemOk) :
    (State.sendReply s c op status len addr data).MemOk := by
  unfold State.sendReply
  simp +contextual (maxDischargeDepth := 20) [*]

@[simp] theorem memOk_State_notifyPart (s : State) (p : Nat) (kind : Nat) (index : Nat) (value : DWord)
    (hs : s.MemOk) :
    (State.notifyPart s p kind index value).MemOk := by
  unfold State.notifyPart
  simp +contextual (maxDischargeDepth := 20) [*]
  (repeat' split) <;> first | assumption | (simp +contextual (maxDischargeDepth := 20) [*]; done)

@[simp] theorem memOk_State_notifyAll (s : State) (kind : Nat) (index : Nat) (value : DWord) (hs : s.MemOk) :
    (State.notifyAll s kind index value).MemOk := by
  unfold State.notifyAll
  simp +contextual (maxDischargeDepth := 20) [*]

@[simp] theorem memOk_State_sysWrite (s : State) (pa : Nat) (bs : List Byte) (lanes : LaneMask) (who : Nat × Nat × Nat) (hs : s.MemOk) :
    (State.sysWrite s pa bs lanes who).MemOk := by
  unfold State.sysWrite
  simp +contextual (maxDischargeDepth := 20) [*]

@[simp] theorem memOk_State_sysRead (s : State) (pa n : Nat) (who : Nat × Nat × Nat) (hs : s.MemOk) :
    (State.sysRead s pa n who).MemOk := by
  unfold State.sysRead
  simp +contextual (maxDischargeDepth := 20) [*]

@[simp] theorem memOk_State_forgetCopy (s : State) (c : Nat) (i : Nat) (hs : s.MemOk) :
    (State.forgetCopy s c i).MemOk := by
  exact hs

@[simp] theorem memOk_State_setDw6 (s : State) (tcb : Nat) (st : Nat) (pred : Nat) (hs : s.MemOk) :
    (State.setDw6 s tcb st pred).MemOk := by
  unfold State.setDw6
  simp +contextual (maxDischargeDepth := 20) [*]

@[simp] theorem memOk_State_noteOldest (s : State) (p : Nat) (hs : s.MemOk) :
    (State.noteOldest s p).MemOk := by
  exact hs

@[simp] theorem memOk_State_dropLaunch (s : State) (n : Nat) (hs : s.MemOk) :
    (State.dropLaunch s n).MemOk := by
  unfold State.dropLaunch
  try dsimp only
  (repeat' split) <;> first | assumption | (simp +contextual (maxDischargeDepth := 20) [*]; done)

@[simp] theorem memOk_State_writeRecord (s : State) (crec : Nat) (teams : Nat) (d2 : Nat) (d3 : Nat) (hs : s.MemOk) :
    (State.writeRecord s crec teams d2 d3).MemOk := by
  unfold State.writeRecord
  simp +contextual (maxDischargeDepth := 20) [*]

@[simp] theorem memOk_State_writeStatus (s : State) (dw : List DWord) (status : Nat) (bad : Bool)
    (overrel : Bool) (hs : s.MemOk) :
    (State.writeStatus s dw status bad overrel).MemOk := by
  unfold State.writeStatus
  simp +contextual (maxDischargeDepth := 20) [*]

@[simp] theorem memOk_State_completeUnrun (s : State) (tcb : Nat) (dw : List DWord) (status : Nat) (hs : s.MemOk) :
    (State.completeUnrun s tcb dw status).MemOk := by
  unfold State.completeUnrun
  simp +contextual (maxDischargeDepth := 20) [*]

@[simp] theorem memOk_State_touchOverflow (s : State) (dw : List DWord) (hs : s.MemOk) :
    (State.touchOverflow s dw).MemOk := by
  unfold State.touchOverflow
  simp +contextual (maxDischargeDepth := 20) [*]

@[simp] theorem memOk_State_enterQueue (s : State) (p : Nat) (tcb : Nat) (hs : s.MemOk) :
    (State.enterQueue s p tcb).MemOk := by
  unfold State.enterQueue
  simp +contextual (maxDischargeDepth := 20) [*]

@[simp] theorem memOk_State_submit (s : State) (p : Nat) (tcb : Nat) (hs : s.MemOk) :
    (State.submit s p tcb).1.MemOk := by
  unfold State.submit
  try dsimp only
  (repeat' split) <;> first | assumption | (simp +contextual (maxDischargeDepth := 20) [*]; done)

@[simp] theorem memOk_State_releaseOne (s : State) (p : Nat) (tcb : Nat) (hs : s.MemOk) :
    (State.releaseOne s p tcb).1.MemOk := by
  unfold State.releaseOne
  try dsimp only
  (repeat' split) <;> first | assumption | (simp +contextual (maxDischargeDepth := 20) [*]; done)

@[simp] theorem memOk_State_releaseAll (s : State) (p : Nat) (tcbs : List Nat) (hs : s.MemOk) :
    (State.releaseAll s p tcbs).1.MemOk := by
  unfold State.releaseAll
  exact foldl_fst_memOk _ _ _ (fun x y h => by simp [h]) hs

@[simp] theorem memOk_State_completeLaunch (s : State) (n : Nat) (status : Nat) (hs : s.MemOk) :
    (State.completeLaunch s n status).MemOk := by
  unfold State.completeLaunch
  try dsimp only
  (repeat' split) <;> first | assumption | (simp +contextual (maxDischargeDepth := 20) [*]; done)

@[simp] theorem memOk_State_handGranule (s : State) (c : Nat) (g : Nat) (o : Owner) (hs : s.MemOk) :
    (State.handGranule s c g o).MemOk := by
  exact hs

@[simp] theorem memOk_State_landGranule (s : State) (n : Nat × Nat × Owner) (hs : s.MemOk) :
    (State.landGranule s n).MemOk := by
  unfold State.landGranule
  try dsimp only
  (repeat' split) <;> first | assumption | (simp +contextual (maxDischargeDepth := 20) [*]; done)

@[simp] theorem memOk_State_failGranule (s : State) (c : Nat) (g : Nat) (hs : s.MemOk) :
    (State.failGranule s c g).MemOk := by
  unfold State.failGranule
  try dsimp only
  (repeat' split) <;> first | assumption | (simp +contextual (maxDischargeDepth := 20) [*]; done)

@[simp] theorem memOk_State_raiseGranules (s : State) (names : List (Nat × Nat)) (hs : s.MemOk) :
    (State.raiseGranules s names).MemOk := by
  unfold State.raiseGranules
  simp +contextual (maxDischargeDepth := 20) [*]

@[simp] theorem memOk_State_lowerGranules (s : State) (names : List (Nat × Nat)) (hs : s.MemOk) :
    (State.lowerGranules s names).MemOk := by
  unfold State.lowerGranules
  simp +contextual (maxDischargeDepth := 20) [*]

@[simp] theorem memOk_State_settleSlots (s : State) (xs : List (Nat × Nat)) (hs : s.MemOk) :
    (State.settleSlots s xs).MemOk := by
  unfold State.settleSlots
  simp +contextual (maxDischargeDepth := 20) [*]

@[simp] theorem memOk_State_endTeam (s : State) (t : TeamPart) (hs : s.MemOk) :
    (State.endTeam s t).MemOk := by
  exact hs

@[simp] theorem memOk_State_endPart (s : State) (c : Nat) (t : TeamPart) (hs : s.MemOk) :
    (State.endPart s c t).MemOk := by
  unfold State.endPart
  simp +contextual (maxDischargeDepth := 20) [*]

@[simp] theorem memOk_State_checkPartsOf (s : State) (c : Nat) (hs : s.MemOk) :
    (State.checkPartsOf s c).MemOk := by
  unfold State.checkPartsOf
  simp +contextual (maxDischargeDepth := 20) [*]

@[simp] theorem memOk_State_checkParts (s : State) (hs : s.MemOk) :
    (State.checkParts s).MemOk := by
  unfold State.checkParts
  simp +contextual (maxDischargeDepth := 20) [*]

@[simp] theorem memOk_State_endGang (s : State) (c slot : Nat) (hs : s.MemOk) :
    (State.endGang s c slot).MemOk := by
  unfold State.endGang
  try dsimp only
  (repeat' split) <;> first | assumption | (simp +contextual (maxDischargeDepth := 20) [*]; done)

@[simp] theorem memOk_State_settlePurges (s : State) (hs : s.MemOk) :
    (State.settlePurges s).MemOk := by
  exact hs

@[simp] theorem memOk_State_settleCopiesOf (s : State) (c : Nat) (hs : s.MemOk) :
    (State.settleCopiesOf s c).MemOk := by
  unfold State.settleCopiesOf
  simp +contextual (maxDischargeDepth := 20) [*]

@[simp] theorem memOk_State_settleCopies (s : State) (hs : s.MemOk) :
    (State.settleCopies s).MemOk := by
  unfold State.settleCopies
  simp +contextual (maxDischargeDepth := 20) [*]

@[simp] theorem memOk_State_failCopy (s : State) (c : Nat) (i : Nat) (hs : s.MemOk) :
    (State.failCopy s c i).MemOk := by
  unfold State.failCopy
  try dsimp only
  (repeat' split) <;> first | assumption | (simp +contextual (maxDischargeDepth := 20) [*]; done)

@[simp] theorem memOk_State_dropSparse (s : State) (c : Nat) (i : Nat) (hs : s.MemOk) :
    (State.dropSparse s c i).MemOk := by
  unfold State.dropSparse
  try dsimp only
  (repeat' split) <;> first | assumption | (simp +contextual (maxDischargeDepth := 20) [*]; done)

@[simp] theorem memOk_State_writeFrec (s : State) (frec : Nat) (r : FaultReport) (hs : s.MemOk) :
    (State.writeFrec s frec r).MemOk := by
  unfold State.writeFrec
  simp +contextual (maxDischargeDepth := 20) [*]

@[simp] theorem memOk_State_contextFault (s : State) (ctx : Nat) (r : FaultReport) (hs : s.MemOk) :
    (State.contextFault s ctx r).MemOk := by
  unfold State.contextFault
  simp +contextual (maxDischargeDepth := 20) [*]

@[simp] theorem memOk_State_fqWrite (s : State) (p : Nat) (e : FaultEntry) (hs : s.MemOk) :
    (State.fqWrite s p e).MemOk := by
  unfold State.fqWrite
  simp +contextual (maxDischargeDepth := 20) [*]
  (repeat' split) <;> first | assumption | (simp +contextual (maxDischargeDepth := 20) [*]; done)

@[simp] theorem memOk_State_fqPost (s : State) (p : Nat) (e : FaultEntry) (hs : s.MemOk) :
    (State.fqPost s p e).MemOk := by
  unfold State.fqPost
  simp +contextual (maxDischargeDepth := 20) [*]
  (repeat' split) <;> first | assumption | (simp +contextual (maxDischargeDepth := 20) [*]; done)

@[simp] theorem memOk_State_fqDrain (s : State) (p n : Nat) (hs : s.MemOk) : (State.fqDrain s p n).MemOk := by
  induction n generalizing s with
  | zero => exact hs
  | succ n ih =>
    unfold State.fqDrain
    (repeat' split) <;> first | exact hs | exact ih _ (by simp [hs])

@[simp] theorem memOk_State_fqSettle (s : State) (p : Nat) (ctx : Nat) (hs : s.MemOk) :
    (State.fqSettle s p ctx).MemOk := by
  exact hs

@[simp] theorem memOk_State_gangFault (s : State) (c : Nat) (slot : Nat) (status : Nat) (cause : Nat)
    (pa : Nat) (g : Gang) (ws : List LaneWindow) (hs : s.MemOk) :
    (State.gangFault s c slot status cause pa g ws).MemOk := by
  unfold State.gangFault
  simp +contextual (maxDischargeDepth := 20) [*]

@[simp] theorem memOk_State_enterHandler (s : State) (c : Nat) (slot : Nat) (g : Gang) (is : Issue)
    (e : EntryInfo) (recs : List TrapRec) (hs : s.MemOk) :
    (State.enterHandler s c slot g is e recs).MemOk := by
  unfold State.enterHandler
  try dsimp only
  (repeat' split) <;> first | assumption | (simp +contextual (maxDischargeDepth := 20) [*]; done)

@[simp] theorem memOk_State_putGang (s : State) (g : Gang) (hs : s.MemOk) :
    (State.putGang s g).MemOk := by
  exact hs

@[simp] theorem memOk_State_waitNres (s : State) (g : Gang) (recs : List TrapRec) (hs : s.MemOk) :
    (State.waitNres s g recs).MemOk := by
  unfold State.waitNres
  simp +contextual (maxDischargeDepth := 20) [*]

@[simp] theorem memOk_State_trap (s : State) (g : Gang) (recs : List TrapRec) (hs : s.MemOk) :
    (State.trap s g recs).MemOk := by
  unfold State.trap
  try dsimp only
  (repeat' split) <;> first | assumption | (simp +contextual (maxDischargeDepth := 20) [*]; done)

@[simp] theorem memOk_State_trapEmu (s : State) (g : Gang) (hs : s.MemOk) :
    (State.trapEmu s g).MemOk := by
  unfold State.trapEmu
  simp +contextual (maxDischargeDepth := 20) [*]

@[simp] theorem memOk_State_trapAll (s : State) (g : Gang) (m : LaneMask) (c : Cause) (a : DWord) (hs : s.MemOk) :
    (State.trapAll s g m c a).MemOk := by
  unfold State.trapAll
  simp +contextual (maxDischargeDepth := 20) [*]

@[simp] theorem memOk_State_trapStanding (s : State) (c : Nat) (slot : Nat) (g : Gang) (deferred : Bool)
    (recs : List TrapRec) (hs : s.MemOk) :
    (State.trapStanding s c slot g deferred recs).MemOk := by
  unfold State.trapStanding
  simp +contextual (maxDischargeDepth := 20) [*]

@[simp] theorem memOk_State_issue (s : State) (regs : List Nat) (k : Gang → State) (hs : s.MemOk)
    (hk : ∀ g, (k g).MemOk) : (State.issue s regs k).MemOk := by
  unfold State.issue
  (repeat' split) <;> simp [hs, hk]

@[simp] theorem memOk_State_vector (s : State) (regs : List Nat) (d : Dst) (wide : Bool) (w : Bool)
    (gbit : Bool) (f : Gang → LaneMask → Nat → DWord × Flags) (hs : s.MemOk) :
    (State.vector s regs d wide w gbit f).MemOk := by
  unfold State.vector
  simp +contextual (maxDischargeDepth := 20) [*]

@[simp] theorem memOk_State_toPred (s : State) (regs : List Nat) (p : Nat) (gbit : Bool)
    (f : Gang → LaneMask → Nat → Bool × Flags) (hs : s.MemOk) :
    (State.toPred s regs p gbit f).MemOk := by
  unfold State.toPred
  simp +contextual (maxDischargeDepth := 20) [*]

@[simp] theorem memOk_State_alu2 (s : State) (o : RRR) (f : Word → Word → Word) (hs : s.MemOk) :
    (State.alu2 s o f).MemOk := by
  unfold State.alu2
  simp +contextual (maxDischargeDepth := 20) [*]

@[simp] theorem memOk_State_alu1 (s : State) (o : RR) (f : Word → Word) (hs : s.MemOk) :
    (State.alu1 s o f).MemOk := by
  unfold State.alu1
  simp +contextual (maxDischargeDepth := 20) [*]

@[simp] theorem memOk_State_fillFrame (s : State) (d : Nat) (ctx : Nat) (code : Nat) (va : Nat) (hs : s.MemOk) :
    (State.fillFrame s d ctx code va).MemOk := by
  unfold State.fillFrame
  try dsimp only
  (repeat' split) <;> first | assumption | (simp +contextual (maxDischargeDepth := 20) [*]; done)

@[simp] theorem memOk_State_fetchStop (s : State) (g : Gang) (r : FetchRes) (hs : s.MemOk) :
    (State.fetchStop s g r).MemOk := by
  unfold State.fetchStop
  try dsimp only
  (repeat' split) <;> first | assumption | (simp +contextual (maxDischargeDepth := 20) [*]; done)

@[simp] theorem memOk_State_noteIssue (s : State) (c : Nat) (slot : Nat) (i : Nat) (cyc : Nat) (words : Nat)
    (herd : Bool) (g : Gang) (hs : s.MemOk) :
    (State.noteIssue s c slot i cyc words herd g).MemOk := by
  exact hs

@[simp] theorem memOk_State_issueStream (s : State) (c : Nat) (slot : Nat) (i : Nat) (cyc : Nat) (herd : Bool)
    (g : Gang) (hs : s.MemOk) :
    (State.issueStream s c slot i cyc herd g).MemOk := by
  unfold State.issueStream
  try dsimp only
  (repeat' split) <;> first | assumption | (simp +contextual (maxDischargeDepth := 20) [*]; done)

@[simp] theorem memOk_State_coreCycle (s : State) (c : Nat) (hs : s.MemOk) :
    (State.coreCycle s c).MemOk := by
  unfold State.coreCycle
  try dsimp only
  (repeat' split) <;> first | assumption | (simp +contextual (maxDischargeDepth := 20) [*]; done)

theorem memOk_finish (s : State) (hs : s.MemOk) :
    ∀ t, (finish s) = .next t → t.MemOk := by
  unfold finish
  try dsimp only
  (repeat' split) <;> first | assumption | (simp +contextual (maxDischargeDepth := 20) [*]; done)

@[simp] theorem memOk_State_placeWord (s : State) (w : Nat) (hs : s.MemOk) :
    (State.placeWord s w).MemOk := by
  unfold State.placeWord
  try dsimp only
  (repeat' split) <;> first | assumption | (simp +contextual (maxDischargeDepth := 20) [*]; done)

end Sys2Proof.Machine
end

