-- ==== Sys2Proof/Laws/KeptAlu.lean ====
section
/-! SUPPORT. Every instruction on registers keeps the canonical form of memory. -/

namespace Sys2Proof.Machine
def OutOk (o : Host.Outcome State Fault Refusal) : Prop :=
  match o with
  | .next t => t.MemOk
  | _ => True
@[simp] theorem outOk_finish (s : State) (h : s.MemOk) : OutOk (finish s) := by
  unfold finish; split
  · trivial
  · exact h
@[simp] theorem outOk_ite (c : Prop) [Decidable c] (a b : Host.Outcome State Fault Refusal) (ha : OutOk a)
    (hb : OutOk b) :
    OutOk (if c then a else b) := by split <;> assumption

set_option linter.all false
@[simp] theorem memOk_State_alu3 (s : State) (o : RRR) (f : Word → Word → Word → Word) (hs : s.MemOk) :
    (State.alu3 s o f).MemOk := by
  unfold State.alu3
  simp +contextual (maxDischargeDepth := 20) [*]

@[simp] theorem memOk_State_alu64 (s : State) (o : RRR) (f : DWord → DWord → DWord) (hs : s.MemOk) :
    (State.alu64 s o f).MemOk := by
  unfold State.alu64
  simp +contextual (maxDischargeDepth := 20) [*]

@[simp] theorem memOk_State_alu64x32 (s : State) (o : RRR) (f : DWord → DWord → DWord) (hs : s.MemOk) :
    (State.alu64x32 s o f).MemOk := by
  unfold State.alu64x32
  simp +contextual (maxDischargeDepth := 20) [*]

@[simp] theorem memOk_State_divide (s : State) (o : RRR) (f : Word → Word → Word) (hs : s.MemOk) :
    (State.divide s o f).MemOk := by
  unfold State.divide
  simp +contextual (maxDischargeDepth := 20) [*]

@[simp] theorem memOk_State_aluImm (s : State) (o : RRI) (f : Word → Word → Word) (hs : s.MemOk) :
    (State.aluImm s o f).MemOk := by
  unfold State.aluImm
  simp +contextual (maxDischargeDepth := 20) [*]

@[simp] theorem memOk_State_iset (s : State) (o : PRR) (f : Word → Word → Bool) (hs : s.MemOk) :
    (State.iset s o f).MemOk := by
  unfold State.iset
  simp +contextual (maxDischargeDepth := 20) [*]

@[simp] theorem memOk_State_iset64 (s : State) (o : PRR) (f : DWord → DWord → Bool) (hs : s.MemOk) :
    (State.iset64 s o f).MemOk := by
  unfold State.iset64
  simp +contextual (maxDischargeDepth := 20) [*]

@[simp] theorem memOk_execIadd (o : RRR) (s : State) (hs : s.MemOk) :
    OutOk (execIadd o s) := by
  unfold execIadd
  simp +contextual (maxDischargeDepth := 20) [*]

@[simp] theorem memOk_execIsub (o : RRR) (s : State) (hs : s.MemOk) :
    OutOk (execIsub o s) := by
  unfold execIsub
  simp +contextual (maxDischargeDepth := 20) [*]

@[simp] theorem memOk_execImul (o : RRR) (s : State) (hs : s.MemOk) :
    OutOk (execImul o s) := by
  unfold execImul
  simp +contextual (maxDischargeDepth := 20) [*]

@[simp] theorem memOk_execImulh (o : RRR) (s : State) (hs : s.MemOk) :
    OutOk (execImulh o s) := by
  unfold execImulh
  simp +contextual (maxDischargeDepth := 20) [*]

@[simp] theorem memOk_execImulhU (o : RRR) (s : State) (hs : s.MemOk) :
    OutOk (execImulhU o s) := by
  unfold execImulhU
  simp +contextual (maxDischargeDepth := 20) [*]

@[simp] theorem memOk_execImad (o : RRR) (s : State) (hs : s.MemOk) :
    OutOk (execImad o s) := by
  unfold execImad
  simp +contextual (maxDischargeDepth := 20) [*]

@[simp] theorem memOk_execImin (o : RRR) (s : State) (hs : s.MemOk) :
    OutOk (execImin o s) := by
  unfold execImin
  simp +contextual (maxDischargeDepth := 20) [*]

@[simp] theorem memOk_execImax (o : RRR) (s : State) (hs : s.MemOk) :
    OutOk (execImax o s) := by
  unfold execImax
  simp +contextual (maxDischargeDepth := 20) [*]

@[simp] theorem memOk_execIminU (o : RRR) (s : State) (hs : s.MemOk) :
    OutOk (execIminU o s) := by
  unfold execIminU
  simp +contextual (maxDischargeDepth := 20) [*]

@[simp] theorem memOk_execImaxU (o : RRR) (s : State) (hs : s.MemOk) :
    OutOk (execImaxU o s) := by
  unfold execImaxU
  simp +contextual (maxDischargeDepth := 20) [*]

@[simp] theorem memOk_execIabs (o : RR) (s : State) (hs : s.MemOk) :
    OutOk (execIabs o s) := by
  unfold execIabs
  simp +contextual (maxDischargeDepth := 20) [*]

@[simp] theorem memOk_execIneg (o : RR) (s : State) (hs : s.MemOk) :
    OutOk (execIneg o s) := by
  unfold execIneg
  simp +contextual (maxDischargeDepth := 20) [*]

@[simp] theorem memOk_execIaddSat (o : RRR) (s : State) (hs : s.MemOk) :
    OutOk (execIaddSat o s) := by
  unfold execIaddSat
  simp +contextual (maxDischargeDepth := 20) [*]

@[simp] theorem memOk_execIsubSat (o : RRR) (s : State) (hs : s.MemOk) :
    OutOk (execIsubSat o s) := by
  unfold execIsubSat
  simp +contextual (maxDischargeDepth := 20) [*]

@[simp] theorem memOk_execIdiv (o : RRR) (s : State) (hs : s.MemOk) :
    OutOk (execIdiv o s) := by
  unfold execIdiv
  simp +contextual (maxDischargeDepth := 20) [*]

@[simp] theorem memOk_execIrem (o : RRR) (s : State) (hs : s.MemOk) :
    OutOk (execIrem o s) := by
  unfold execIrem
  simp +contextual (maxDischargeDepth := 20) [*]

@[simp] theorem memOk_execIdivU (o : RRR) (s : State) (hs : s.MemOk) :
    OutOk (execIdivU o s) := by
  unfold execIdivU
  simp +contextual (maxDischargeDepth := 20) [*]

@[simp] theorem memOk_execIremU (o : RRR) (s : State) (hs : s.MemOk) :
    OutOk (execIremU o s) := by
  unfold execIremU
  simp +contextual (maxDischargeDepth := 20) [*]

@[simp] theorem memOk_execIadd64 (o : RRR) (s : State) (hs : s.MemOk) :
    OutOk (execIadd64 o s) := by
  unfold execIadd64
  simp +contextual (maxDischargeDepth := 20) [*]

@[simp] theorem memOk_execIsub64 (o : RRR) (s : State) (hs : s.MemOk) :
    OutOk (execIsub64 o s) := by
  unfold execIsub64
  simp +contextual (maxDischargeDepth := 20) [*]

@[simp] theorem memOk_execImul64 (o : RRR) (s : State) (hs : s.MemOk) :
    OutOk (execImul64 o s) := by
  unfold execImul64
  simp +contextual (maxDischargeDepth := 20) [*]

@[simp] theorem memOk_execImad64 (o : RRR) (s : State) (hs : s.MemOk) :
    OutOk (execImad64 o s) := by
  unfold execImad64
  simp +contextual (maxDischargeDepth := 20) [*]

@[simp] theorem memOk_execImin64 (o : RRR) (s : State) (hs : s.MemOk) :
    OutOk (execImin64 o s) := by
  unfold execImin64
  simp +contextual (maxDischargeDepth := 20) [*]

@[simp] theorem memOk_execImax64 (o : RRR) (s : State) (hs : s.MemOk) :
    OutOk (execImax64 o s) := by
  unfold execImax64
  simp +contextual (maxDischargeDepth := 20) [*]

@[simp] theorem memOk_execLea (o : RRR) (s : State) (hs : s.MemOk) :
    OutOk (execLea o s) := by
  unfold execLea
  simp +contextual (maxDischargeDepth := 20) [*]

@[simp] theorem memOk_execAnd (o : RRR) (s : State) (hs : s.MemOk) :
    OutOk (execAnd o s) := by
  unfold execAnd
  simp +contextual (maxDischargeDepth := 20) [*]

@[simp] theorem memOk_execOr (o : RRR) (s : State) (hs : s.MemOk) :
    OutOk (execOr o s) := by
  unfold execOr
  simp +contextual (maxDischargeDepth := 20) [*]

@[simp] theorem memOk_execXor (o : RRR) (s : State) (hs : s.MemOk) :
    OutOk (execXor o s) := by
  unfold execXor
  simp +contextual (maxDischargeDepth := 20) [*]

@[simp] theorem memOk_execShl (o : RRR) (s : State) (hs : s.MemOk) :
    OutOk (execShl o s) := by
  unfold execShl
  simp +contextual (maxDischargeDepth := 20) [*]

@[simp] theorem memOk_execShr (o : RRR) (s : State) (hs : s.MemOk) :
    OutOk (execShr o s) := by
  unfold execShr
  simp +contextual (maxDischargeDepth := 20) [*]

@[simp] theorem memOk_execSar (o : RRR) (s : State) (hs : s.MemOk) :
    OutOk (execSar o s) := by
  unfold execSar
  simp +contextual (maxDischargeDepth := 20) [*]

@[simp] theorem memOk_execRot (o : RRR) (s : State) (hs : s.MemOk) :
    OutOk (execRot o s) := by
  unfold execRot
  simp +contextual (maxDischargeDepth := 20) [*]

@[simp] theorem memOk_execIshrr (o : RRR) (s : State) (hs : s.MemOk) :
    OutOk (execIshrr o s) := by
  unfold execIshrr
  simp +contextual (maxDischargeDepth := 20) [*]

@[simp] theorem memOk_execBfx (o : RRR) (s : State) (hs : s.MemOk) :
    OutOk (execBfx o s) := by
  unfold execBfx
  simp +contextual (maxDischargeDepth := 20) [*]

@[simp] theorem memOk_execBfxU (o : RRR) (s : State) (hs : s.MemOk) :
    OutOk (execBfxU o s) := by
  unfold execBfxU
  simp +contextual (maxDischargeDepth := 20) [*]

@[simp] theorem memOk_execBfi (o : RRR) (s : State) (hs : s.MemOk) :
    OutOk (execBfi o s) := by
  unfold execBfi
  simp +contextual (maxDischargeDepth := 20) [*]

@[simp] theorem memOk_execClz (o : RR) (s : State) (hs : s.MemOk) :
    OutOk (execClz o s) := by
  unfold execClz
  simp +contextual (maxDischargeDepth := 20) [*]

@[simp] theorem memOk_execPopc (o : RR) (s : State) (hs : s.MemOk) :
    OutOk (execPopc o s) := by
  unfold execPopc
  simp +contextual (maxDischargeDepth := 20) [*]

@[simp] theorem memOk_execBrev (o : RR) (s : State) (hs : s.MemOk) :
    OutOk (execBrev o s) := by
  unfold execBrev
  simp +contextual (maxDischargeDepth := 20) [*]

@[simp] theorem memOk_execIaddImm (o : RRI) (s : State) (hs : s.MemOk) :
    OutOk (execIaddImm o s) := by
  unfold execIaddImm
  simp +contextual (maxDischargeDepth := 20) [*]

@[simp] theorem memOk_execImulImm (o : RRI) (s : State) (hs : s.MemOk) :
    OutOk (execImulImm o s) := by
  unfold execImulImm
  simp +contextual (maxDischargeDepth := 20) [*]

@[simp] theorem memOk_execAndImm (o : RRI) (s : State) (hs : s.MemOk) :
    OutOk (execAndImm o s) := by
  unfold execAndImm
  simp +contextual (maxDischargeDepth := 20) [*]

@[simp] theorem memOk_execOrImm (o : RRI) (s : State) (hs : s.MemOk) :
    OutOk (execOrImm o s) := by
  unfold execOrImm
  simp +contextual (maxDischargeDepth := 20) [*]

@[simp] theorem memOk_execXorImm (o : RRI) (s : State) (hs : s.MemOk) :
    OutOk (execXorImm o s) := by
  unfold execXorImm
  simp +contextual (maxDischargeDepth := 20) [*]

@[simp] theorem memOk_execShlImm (o : RRI) (s : State) (hs : s.MemOk) :
    OutOk (execShlImm o s) := by
  unfold execShlImm
  simp +contextual (maxDischargeDepth := 20) [*]

@[simp] theorem memOk_execShrImm (o : RRI) (s : State) (hs : s.MemOk) :
    OutOk (execShrImm o s) := by
  unfold execShrImm
  simp +contextual (maxDischargeDepth := 20) [*]

@[simp] theorem memOk_execSarImm (o : RRI) (s : State) (hs : s.MemOk) :
    OutOk (execSarImm o s) := by
  unfold execSarImm
  simp +contextual (maxDischargeDepth := 20) [*]

@[simp] theorem memOk_execIsetEq (o : PRR) (s : State) (hs : s.MemOk) :
    OutOk (execIsetEq o s) := by
  unfold execIsetEq
  simp +contextual (maxDischargeDepth := 20) [*]

@[simp] theorem memOk_execIsetNe (o : PRR) (s : State) (hs : s.MemOk) :
    OutOk (execIsetNe o s) := by
  unfold execIsetNe
  simp +contextual (maxDischargeDepth := 20) [*]

@[simp] theorem memOk_execIsetLt (o : PRR) (s : State) (hs : s.MemOk) :
    OutOk (execIsetLt o s) := by
  unfold execIsetLt
  simp +contextual (maxDischargeDepth := 20) [*]

@[simp] theorem memOk_execIsetLe (o : PRR) (s : State) (hs : s.MemOk) :
    OutOk (execIsetLe o s) := by
  unfold execIsetLe
  simp +contextual (maxDischargeDepth := 20) [*]

@[simp] theorem memOk_execIsetLtU (o : PRR) (s : State) (hs : s.MemOk) :
    OutOk (execIsetLtU o s) := by
  unfold execIsetLtU
  simp +contextual (maxDischargeDepth := 20) [*]

@[simp] theorem memOk_execIsetLeU (o : PRR) (s : State) (hs : s.MemOk) :
    OutOk (execIsetLeU o s) := by
  unfold execIsetLeU
  simp +contextual (maxDischargeDepth := 20) [*]

@[simp] theorem memOk_execIsetEq64 (o : PRR) (s : State) (hs : s.MemOk) :
    OutOk (execIsetEq64 o s) := by
  unfold execIsetEq64
  simp +contextual (maxDischargeDepth := 20) [*]

@[simp] theorem memOk_execIsetLt64 (o : PRR) (s : State) (hs : s.MemOk) :
    OutOk (execIsetLt64 o s) := by
  unfold execIsetLt64
  simp +contextual (maxDischargeDepth := 20) [*]

@[simp] theorem memOk_State_float2 (s : State) (o : RRR) (f : Word → Word → DWord × Flags) (hs : s.MemOk) :
    (State.float2 s o f).MemOk := by
  unfold State.float2
  simp +contextual (maxDischargeDepth := 20) [*]

@[simp] theorem memOk_State_float3 (s : State) (o : RRR) (f : Word → Word → Word → DWord × Flags) (hs : s.MemOk) :
    (State.float3 s o f).MemOk := by
  unfold State.float3
  simp +contextual (maxDischargeDepth := 20) [*]

@[simp] theorem memOk_State_fp2 (s : State) (o : RRR) (f : Nat → Nat → Nat × Flags) (hs : s.MemOk) :
    (State.fp2 s o f).MemOk := by
  unfold State.fp2
  simp +contextual (maxDischargeDepth := 20) [*]

@[simp] theorem memOk_State_fp1 (s : State) (o : RR) (f : Nat → Nat × Flags) (hs : s.MemOk) :
    (State.fp1 s o f).MemOk := by
  unfold State.fp1
  simp +contextual (maxDischargeDepth := 20) [*]

@[simp] theorem memOk_State_fset (s : State) (o : PRR) (rel : FpRel) (hs : s.MemOk) :
    (State.fset s o rel).MemOk := by
  unfold State.fset
  simp +contextual (maxDischargeDepth := 20) [*]

@[simp] theorem memOk_execFaddF32 (o : RRR) (s : State) (hs : s.MemOk) :
    OutOk (execFaddF32 o s) := by
  unfold execFaddF32
  simp +contextual (maxDischargeDepth := 20) [*]

@[simp] theorem memOk_execFsubF32 (o : RRR) (s : State) (hs : s.MemOk) :
    OutOk (execFsubF32 o s) := by
  unfold execFsubF32
  simp +contextual (maxDischargeDepth := 20) [*]

@[simp] theorem memOk_execFmulF32 (o : RRR) (s : State) (hs : s.MemOk) :
    OutOk (execFmulF32 o s) := by
  unfold execFmulF32
  simp +contextual (maxDischargeDepth := 20) [*]

@[simp] theorem memOk_execFfmaF32 (o : RRR) (s : State) (hs : s.MemOk) :
    OutOk (execFfmaF32 o s) := by
  unfold execFfmaF32
  simp +contextual (maxDischargeDepth := 20) [*]

@[simp] theorem memOk_execFdivF32 (o : RRR) (s : State) (hs : s.MemOk) :
    OutOk (execFdivF32 o s) := by
  unfold execFdivF32
  simp +contextual (maxDischargeDepth := 20) [*]

@[simp] theorem memOk_execFminF32 (o : RRR) (s : State) (hs : s.MemOk) :
    OutOk (execFminF32 o s) := by
  unfold execFminF32
  simp +contextual (maxDischargeDepth := 20) [*]

@[simp] theorem memOk_execFmaxF32 (o : RRR) (s : State) (hs : s.MemOk) :
    OutOk (execFmaxF32 o s) := by
  unfold execFmaxF32
  simp +contextual (maxDischargeDepth := 20) [*]

@[simp] theorem memOk_execFclassF32 (o : RR) (s : State) (hs : s.MemOk) :
    OutOk (execFclassF32 o s) := by
  unfold execFclassF32
  simp +contextual (maxDischargeDepth := 20) [*]

@[simp] theorem memOk_execFrcpF32 (o : RR) (s : State) (hs : s.MemOk) :
    OutOk (execFrcpF32 o s) := by
  unfold execFrcpF32
  simp +contextual (maxDischargeDepth := 20) [*]

@[simp] theorem memOk_execFrsqF32 (o : RR) (s : State) (hs : s.MemOk) :
    OutOk (execFrsqF32 o s) := by
  unfold execFrsqF32
  simp +contextual (maxDischargeDepth := 20) [*]

@[simp] theorem memOk_execFsqrtF32 (o : RR) (s : State) (hs : s.MemOk) :
    OutOk (execFsqrtF32 o s) := by
  unfold execFsqrtF32
  simp +contextual (maxDischargeDepth := 20) [*]

@[simp] theorem memOk_execFexp2F32 (o : RR) (s : State) (hs : s.MemOk) :
    OutOk (execFexp2F32 o s) := by
  unfold execFexp2F32
  simp +contextual (maxDischargeDepth := 20) [*]

@[simp] theorem memOk_execFlog2F32 (o : RR) (s : State) (hs : s.MemOk) :
    OutOk (execFlog2F32 o s) := by
  unfold execFlog2F32
  simp +contextual (maxDischargeDepth := 20) [*]

@[simp] theorem memOk_execFaddBf16x2 (o : RRR) (s : State) (hs : s.MemOk) :
    OutOk (execFaddBf16x2 o s) := by
  unfold execFaddBf16x2
  simp +contextual (maxDischargeDepth := 20) [*]

@[simp] theorem memOk_execFsubBf16x2 (o : RRR) (s : State) (hs : s.MemOk) :
    OutOk (execFsubBf16x2 o s) := by
  unfold execFsubBf16x2
  simp +contextual (maxDischargeDepth := 20) [*]

@[simp] theorem memOk_execFmulBf16x2 (o : RRR) (s : State) (hs : s.MemOk) :
    OutOk (execFmulBf16x2 o s) := by
  unfold execFmulBf16x2
  simp +contextual (maxDischargeDepth := 20) [*]

@[simp] theorem memOk_execFfmaBf16x2 (o : RRR) (s : State) (hs : s.MemOk) :
    OutOk (execFfmaBf16x2 o s) := by
  unfold execFfmaBf16x2
  simp +contextual (maxDischargeDepth := 20) [*]

@[simp] theorem memOk_execFminBf16x2 (o : RRR) (s : State) (hs : s.MemOk) :
    OutOk (execFminBf16x2 o s) := by
  unfold execFminBf16x2
  simp +contextual (maxDischargeDepth := 20) [*]

@[simp] theorem memOk_execFmaxBf16x2 (o : RRR) (s : State) (hs : s.MemOk) :
    OutOk (execFmaxBf16x2 o s) := by
  unfold execFmaxBf16x2
  simp +contextual (maxDischargeDepth := 20) [*]

@[simp] theorem memOk_execFaddF16x2 (o : RRR) (s : State) (hs : s.MemOk) :
    OutOk (execFaddF16x2 o s) := by
  unfold execFaddF16x2
  simp +contextual (maxDischargeDepth := 20) [*]

@[simp] theorem memOk_execFsubF16x2 (o : RRR) (s : State) (hs : s.MemOk) :
    OutOk (execFsubF16x2 o s) := by
  unfold execFsubF16x2
  simp +contextual (maxDischargeDepth := 20) [*]

@[simp] theorem memOk_execFmulF16x2 (o : RRR) (s : State) (hs : s.MemOk) :
    OutOk (execFmulF16x2 o s) := by
  unfold execFmulF16x2
  simp +contextual (maxDischargeDepth := 20) [*]

@[simp] theorem memOk_execFfmaF16x2 (o : RRR) (s : State) (hs : s.MemOk) :
    OutOk (execFfmaF16x2 o s) := by
  unfold execFfmaF16x2
  simp +contextual (maxDischargeDepth := 20) [*]

@[simp] theorem memOk_execFminF16x2 (o : RRR) (s : State) (hs : s.MemOk) :
    OutOk (execFminF16x2 o s) := by
  unfold execFminF16x2
  simp +contextual (maxDischargeDepth := 20) [*]

@[simp] theorem memOk_execFmaxF16x2 (o : RRR) (s : State) (hs : s.MemOk) :
    OutOk (execFmaxF16x2 o s) := by
  unfold execFmaxF16x2
  simp +contextual (maxDischargeDepth := 20) [*]

@[simp] theorem memOk_execFsetEq (o : PRR) (s : State) (hs : s.MemOk) :
    OutOk (execFsetEq o s) := by
  unfold execFsetEq
  simp +contextual (maxDischargeDepth := 20) [*]

@[simp] theorem memOk_execFsetNe (o : PRR) (s : State) (hs : s.MemOk) :
    OutOk (execFsetNe o s) := by
  unfold execFsetNe
  simp +contextual (maxDischargeDepth := 20) [*]

@[simp] theorem memOk_execFsetLt (o : PRR) (s : State) (hs : s.MemOk) :
    OutOk (execFsetLt o s) := by
  unfold execFsetLt
  simp +contextual (maxDischargeDepth := 20) [*]

@[simp] theorem memOk_execFsetLe (o : PRR) (s : State) (hs : s.MemOk) :
    OutOk (execFsetLe o s) := by
  unfold execFsetLe
  simp +contextual (maxDischargeDepth := 20) [*]

@[simp] theorem memOk_execFsetGt (o : PRR) (s : State) (hs : s.MemOk) :
    OutOk (execFsetGt o s) := by
  unfold execFsetGt
  simp +contextual (maxDischargeDepth := 20) [*]

@[simp] theorem memOk_execFsetGe (o : PRR) (s : State) (hs : s.MemOk) :
    OutOk (execFsetGe o s) := by
  unfold execFsetGe
  simp +contextual (maxDischargeDepth := 20) [*]

@[simp] theorem memOk_execFsetUn (o : PRR) (s : State) (hs : s.MemOk) :
    OutOk (execFsetUn o s) := by
  unfold execFsetUn
  simp +contextual (maxDischargeDepth := 20) [*]

@[simp] theorem memOk_execFsetOrd (o : PRR) (s : State) (hs : s.MemOk) :
    OutOk (execFsetOrd o s) := by
  unfold execFsetOrd
  simp +contextual (maxDischargeDepth := 20) [*]

@[simp] theorem memOk_execCvt (o : CvtOp) (s : State) (hs : s.MemOk) :
    OutOk (execCvt o s) := by
  unfold execCvt
  simp +contextual (maxDischargeDepth := 20) [*]

@[simp] theorem memOk_State_quant (s : State) (o : RRR) (rn8 : Bool) (src : FpFmt) (hs : s.MemOk) :
    (State.quant s o rn8 src).MemOk := by
  unfold State.quant
  simp +contextual (maxDischargeDepth := 20) [*]

@[simp] theorem memOk_execQuantRn8F32 (o : RRR) (s : State) (hs : s.MemOk) :
    OutOk (execQuantRn8F32 o s) := by
  unfold execQuantRn8F32
  simp +contextual (maxDischargeDepth := 20) [*]

@[simp] theorem memOk_execQuantRn8Bf16 (o : RRR) (s : State) (hs : s.MemOk) :
    OutOk (execQuantRn8Bf16 o s) := by
  unfold execQuantRn8Bf16
  simp +contextual (maxDischargeDepth := 20) [*]

@[simp] theorem memOk_execQuantRn12F32 (o : RRR) (s : State) (hs : s.MemOk) :
    OutOk (execQuantRn12F32 o s) := by
  unfold execQuantRn12F32
  simp +contextual (maxDischargeDepth := 20) [*]

@[simp] theorem memOk_execQuantRn12Bf16 (o : RRR) (s : State) (hs : s.MemOk) :
    OutOk (execQuantRn12Bf16 o s) := by
  unfold execQuantRn12Bf16
  simp +contextual (maxDischargeDepth := 20) [*]

@[simp] theorem memOk_State_dquant (s : State) (o : RRR) (rn8 : Bool) (hs : s.MemOk) :
    (State.dquant s o rn8).MemOk := by
  unfold State.dquant
  simp +contextual (maxDischargeDepth := 20) [*]

@[simp] theorem memOk_execDquantRn8 (o : RRR) (s : State) (hs : s.MemOk) :
    OutOk (execDquantRn8 o s) := by
  unfold execDquantRn8
  simp +contextual (maxDischargeDepth := 20) [*]

@[simp] theorem memOk_execDquantRn12 (o : RRR) (s : State) (hs : s.MemOk) :
    OutOk (execDquantRn12 o s) := by
  unfold execDquantRn12
  simp +contextual (maxDischargeDepth := 20) [*]

@[simp] theorem memOk_execTrchk (o : RRR) (s : State) (hs : s.MemOk) :
    OutOk (execTrchk o s) := by
  unfold execTrchk
  simp +contextual (maxDischargeDepth := 20) [*]

@[simp] theorem memOk_State_shfl (s : State) (o : RRR) (pick : Nat → Nat → Option Nat) (hs : s.MemOk) :
    (State.shfl s o pick).MemOk := by
  unfold State.shfl
  simp +contextual (maxDischargeDepth := 20) [*]

@[simp] theorem memOk_execShflIdx (o : RRR) (s : State) (hs : s.MemOk) :
    OutOk (execShflIdx o s) := by
  unfold execShflIdx
  simp +contextual (maxDischargeDepth := 20) [*]

@[simp] theorem memOk_execShflUp (o : RRR) (s : State) (hs : s.MemOk) :
    OutOk (execShflUp o s) := by
  unfold execShflUp
  simp +contextual (maxDischargeDepth := 20) [*]

@[simp] theorem memOk_execShflDown (o : RRR) (s : State) (hs : s.MemOk) :
    OutOk (execShflDown o s) := by
  unfold execShflDown
  simp +contextual (maxDischargeDepth := 20) [*]

@[simp] theorem memOk_execShflXor (o : RRR) (s : State) (hs : s.MemOk) :
    OutOk (execShflXor o s) := by
  unfold execShflXor
  simp +contextual (maxDischargeDepth := 20) [*]

@[simp] theorem memOk_State_cross1 (s : State) (o : RR) (f : Gang → LaneMask → Nat → DWord × Flags) (hs : s.MemOk) :
    (State.cross1 s o f).MemOk := by
  unfold State.cross1
  simp +contextual (maxDischargeDepth := 20) [*]

@[simp] theorem memOk_execMatchLanes (o : RR) (s : State) (hs : s.MemOk) :
    OutOk (execMatchLanes o s) := by
  unfold execMatchLanes
  simp +contextual (maxDischargeDepth := 20) [*]

@[simp] theorem memOk_execVoteBallot (o : RR) (s : State) (hs : s.MemOk) :
    OutOk (execVoteBallot o s) := by
  unfold execVoteBallot
  simp +contextual (maxDischargeDepth := 20) [*]

@[simp] theorem memOk_execVoteAny (o : PR) (s : State) (hs : s.MemOk) :
    OutOk (execVoteAny o s) := by
  unfold execVoteAny
  simp +contextual (maxDischargeDepth := 20) [*]

@[simp] theorem memOk_execVoteAll (o : PR) (s : State) (hs : s.MemOk) :
    OutOk (execVoteAll o s) := by
  unfold execVoteAll
  simp +contextual (maxDischargeDepth := 20) [*]

@[simp] theorem memOk_execPpfx (o : RRR) (s : State) (hs : s.MemOk) :
    OutOk (execPpfx o s) := by
  unfold execPpfx
  simp +contextual (maxDischargeDepth := 20) [*]

@[simp] theorem memOk_execIsect (o : RRR) (s : State) (hs : s.MemOk) :
    OutOk (execIsect o s) := by
  unfold execIsect
  simp +contextual (maxDischargeDepth := 20) [*]

@[simp] theorem memOk_State_lpfx (s : State) (o : RR) (identity : Nat) (f : Nat → Nat → Nat × Flags) (hs : s.MemOk) :
    (State.lpfx s o identity f).MemOk := by
  unfold State.lpfx
  simp +contextual (maxDischargeDepth := 20) [*]

@[simp] theorem memOk_State_lred (s : State) (o : RR) (identity : Nat) (f : Nat → Nat → Nat × Flags) (hs : s.MemOk) :
    (State.lred s o identity f).MemOk := by
  unfold State.lred
  simp +contextual (maxDischargeDepth := 20) [*]

@[simp] theorem memOk_execLpfxAddI32 (o : RR) (s : State) (hs : s.MemOk) :
    OutOk (execLpfxAddI32 o s) := by
  unfold execLpfxAddI32
  simp +contextual (maxDischargeDepth := 20) [*]

@[simp] theorem memOk_execLpfxAddF32 (o : RR) (s : State) (hs : s.MemOk) :
    OutOk (execLpfxAddF32 o s) := by
  unfold execLpfxAddF32
  simp +contextual (maxDischargeDepth := 20) [*]

@[simp] theorem memOk_execLredAddI32 (o : RR) (s : State) (hs : s.MemOk) :
    OutOk (execLredAddI32 o s) := by
  unfold execLredAddI32
  simp +contextual (maxDischargeDepth := 20) [*]

@[simp] theorem memOk_execLredAddF32 (o : RR) (s : State) (hs : s.MemOk) :
    OutOk (execLredAddF32 o s) := by
  unfold execLredAddF32
  simp +contextual (maxDischargeDepth := 20) [*]

@[simp] theorem memOk_execLredMinF32 (o : RR) (s : State) (hs : s.MemOk) :
    OutOk (execLredMinF32 o s) := by
  unfold execLredMinF32
  simp +contextual (maxDischargeDepth := 20) [*]

@[simp] theorem memOk_execLredMaxF32 (o : RR) (s : State) (hs : s.MemOk) :
    OutOk (execLredMaxF32 o s) := by
  unfold execLredMaxF32
  simp +contextual (maxDischargeDepth := 20) [*]

@[simp] theorem memOk_execLredMulF32 (o : RR) (s : State) (hs : s.MemOk) :
    OutOk (execLredMulF32 o s) := by
  unfold execLredMulF32
  simp +contextual (maxDischargeDepth := 20) [*]

@[simp] theorem memOk_execLredMinI32 (o : RR) (s : State) (hs : s.MemOk) :
    OutOk (execLredMinI32 o s) := by
  unfold execLredMinI32
  simp +contextual (maxDischargeDepth := 20) [*]

@[simp] theorem memOk_execLredMaxI32 (o : RR) (s : State) (hs : s.MemOk) :
    OutOk (execLredMaxI32 o s) := by
  unfold execLredMaxI32
  simp +contextual (maxDischargeDepth := 20) [*]

@[simp] theorem memOk_execLredAnd (o : RR) (s : State) (hs : s.MemOk) :
    OutOk (execLredAnd o s) := by
  unfold execLredAnd
  simp +contextual (maxDischargeDepth := 20) [*]

@[simp] theorem memOk_execLredOr (o : RR) (s : State) (hs : s.MemOk) :
    OutOk (execLredOr o s) := by
  unfold execLredOr
  simp +contextual (maxDischargeDepth := 20) [*]

@[simp] theorem memOk_execLredXor (o : RR) (s : State) (hs : s.MemOk) :
    OutOk (execLredXor o s) := by
  unfold execLredXor
  simp +contextual (maxDischargeDepth := 20) [*]

@[simp] theorem memOk_execMov (o : RR) (s : State) (hs : s.MemOk) :
    OutOk (execMov o s) := by
  unfold execMov
  simp +contextual (maxDischargeDepth := 20) [*]

@[simp] theorem memOk_execSel (o : SelOp) (s : State) (hs : s.MemOk) :
    OutOk (execSel o s) := by
  unfold execSel
  simp +contextual (maxDischargeDepth := 20) [*]

@[simp] theorem memOk_execMovs (o : RS) (s : State) (hs : s.MemOk) :
    OutOk (execMovs o s) := by
  unfold execMovs
  simp +contextual (maxDischargeDepth := 20) [*]

@[simp] theorem memOk_execMovsGet (o : SRR) (s : State) (hs : s.MemOk) :
    OutOk (execMovsGet o s) := by
  unfold execMovsGet
  simp +contextual (maxDischargeDepth := 20) [*]

@[simp] theorem memOk_execMovi (o : RI) (s : State) (hs : s.MemOk) :
    OutOk (execMovi o s) := by
  unfold execMovi
  simp +contextual (maxDischargeDepth := 20) [*]

@[simp] theorem memOk_State_pset (s : State) (o : PPP) (f : Bool → Bool → Bool) (hs : s.MemOk) :
    (State.pset s o f).MemOk := by
  unfold State.pset
  simp +contextual (maxDischargeDepth := 20) [*]

@[simp] theorem memOk_execPsetAnd (o : PPP) (s : State) (hs : s.MemOk) :
    OutOk (execPsetAnd o s) := by
  unfold execPsetAnd
  simp +contextual (maxDischargeDepth := 20) [*]

@[simp] theorem memOk_execPsetOr (o : PPP) (s : State) (hs : s.MemOk) :
    OutOk (execPsetOr o s) := by
  unfold execPsetOr
  simp +contextual (maxDischargeDepth := 20) [*]

@[simp] theorem memOk_execPsetXor (o : PPP) (s : State) (hs : s.MemOk) :
    OutOk (execPsetXor o s) := by
  unfold execPsetXor
  simp +contextual (maxDischargeDepth := 20) [*]

@[simp] theorem memOk_execPsetAndn (o : PPP) (s : State) (hs : s.MemOk) :
    OutOk (execPsetAndn o s) := by
  unfold execPsetAndn
  simp +contextual (maxDischargeDepth := 20) [*]

@[simp] theorem memOk_execPmov (o : RW) (s : State) (hs : s.MemOk) :
    OutOk (execPmov o s) := by
  unfold execPmov
  simp +contextual (maxDischargeDepth := 20) [*]

@[simp] theorem memOk_execPmovTov (o : RP) (s : State) (hs : s.MemOk) :
    OutOk (execPmovTov o s) := by
  unfold execPmovTov
  simp +contextual (maxDischargeDepth := 20) [*]

@[simp] theorem memOk_execPmovFromv (o : PR) (s : State) (hs : s.MemOk) :
    OutOk (execPmovFromv o s) := by
  unfold execPmovFromv
  simp +contextual (maxDischargeDepth := 20) [*]

@[simp] theorem memOk_State_scalar (s : State) (o : SSS) (f : DWord → DWord → DWord) (hs : s.MemOk) :
    (State.scalar s o f).MemOk := by
  unfold State.scalar
  simp +contextual (maxDischargeDepth := 20) [*]

@[simp] theorem memOk_State_sset (s : State) (o : SSS) (f : DWord → DWord → Bool) (hs : s.MemOk) :
    (State.sset s o f).MemOk := by
  unfold State.sset
  simp +contextual (maxDischargeDepth := 20) [*]

@[simp] theorem memOk_execSadd (o : SSS) (s : State) (hs : s.MemOk) :
    OutOk (execSadd o s) := by
  unfold execSadd
  simp +contextual (maxDischargeDepth := 20) [*]

@[simp] theorem memOk_execSsub (o : SSS) (s : State) (hs : s.MemOk) :
    OutOk (execSsub o s) := by
  unfold execSsub
  simp +contextual (maxDischargeDepth := 20) [*]

@[simp] theorem memOk_execSmul (o : SSS) (s : State) (hs : s.MemOk) :
    OutOk (execSmul o s) := by
  unfold execSmul
  simp +contextual (maxDischargeDepth := 20) [*]

@[simp] theorem memOk_execSand (o : SSS) (s : State) (hs : s.MemOk) :
    OutOk (execSand o s) := by
  unfold execSand
  simp +contextual (maxDischargeDepth := 20) [*]

@[simp] theorem memOk_execSor (o : SSS) (s : State) (hs : s.MemOk) :
    OutOk (execSor o s) := by
  unfold execSor
  simp +contextual (maxDischargeDepth := 20) [*]

@[simp] theorem memOk_execSxor (o : SSS) (s : State) (hs : s.MemOk) :
    OutOk (execSxor o s) := by
  unfold execSxor
  simp +contextual (maxDischargeDepth := 20) [*]

@[simp] theorem memOk_execSshl (o : SSS) (s : State) (hs : s.MemOk) :
    OutOk (execSshl o s) := by
  unfold execSshl
  simp +contextual (maxDischargeDepth := 20) [*]

@[simp] theorem memOk_execSshr (o : SSS) (s : State) (hs : s.MemOk) :
    OutOk (execSshr o s) := by
  unfold execSshr
  simp +contextual (maxDischargeDepth := 20) [*]

@[simp] theorem memOk_execSsetEq (o : SSS) (s : State) (hs : s.MemOk) :
    OutOk (execSsetEq o s) := by
  unfold execSsetEq
  simp +contextual (maxDischargeDepth := 20) [*]

@[simp] theorem memOk_execSsetNe (o : SSS) (s : State) (hs : s.MemOk) :
    OutOk (execSsetNe o s) := by
  unfold execSsetNe
  simp +contextual (maxDischargeDepth := 20) [*]

@[simp] theorem memOk_execSsetLt (o : SSS) (s : State) (hs : s.MemOk) :
    OutOk (execSsetLt o s) := by
  unfold execSsetLt
  simp +contextual (maxDischargeDepth := 20) [*]

@[simp] theorem memOk_execSsetLe (o : SSS) (s : State) (hs : s.MemOk) :
    OutOk (execSsetLe o s) := by
  unfold execSsetLe
  simp +contextual (maxDischargeDepth := 20) [*]

@[simp] theorem memOk_execSsetLtU (o : SSS) (s : State) (hs : s.MemOk) :
    OutOk (execSsetLtU o s) := by
  unfold execSsetLtU
  simp +contextual (maxDischargeDepth := 20) [*]

@[simp] theorem memOk_execSsetLeU (o : SSS) (s : State) (hs : s.MemOk) :
    OutOk (execSsetLeU o s) := by
  unfold execSsetLeU
  simp +contextual (maxDischargeDepth := 20) [*]

@[simp] theorem memOk_execSmov (o : SMovOp) (s : State) (hs : s.MemOk) :
    OutOk (execSmov o s) := by
  unfold execSmov
  simp +contextual (maxDischargeDepth := 20) [*]

@[simp] theorem memOk_State_branch (s : State) (disp : Int) (taken : Gang → LaneMask → Nat → Bool) (hs : s.MemOk) :
    (State.branch s disp taken).MemOk := by
  unfold State.branch
  simp +contextual (maxDischargeDepth := 20) [*]

@[simp] theorem memOk_execBr (o : BrOp) (s : State) (hs : s.MemOk) :
    OutOk (execBr o s) := by
  unfold execBr
  simp +contextual (maxDischargeDepth := 20) [*]

@[simp] theorem memOk_execBrpAny (o : BrpOp) (s : State) (hs : s.MemOk) :
    OutOk (execBrpAny o s) := by
  unfold execBrpAny
  simp +contextual (maxDischargeDepth := 20) [*]

@[simp] theorem memOk_execBrpAll (o : BrpOp) (s : State) (hs : s.MemOk) :
    OutOk (execBrpAll o s) := by
  unfold execBrpAll
  simp +contextual (maxDischargeDepth := 20) [*]

@[simp] theorem memOk_execBrpLane (o : BrpOp) (s : State) (hs : s.MemOk) :
    OutOk (execBrpLane o s) := by
  unfold execBrpLane
  simp +contextual (maxDischargeDepth := 20) [*]

@[simp] theorem memOk_execCall (o : CallOp) (s : State) (hs : s.MemOk) :
    OutOk (execCall o s) := by
  unfold execCall
  simp +contextual (maxDischargeDepth := 20) [*]

@[simp] theorem memOk_State_jump (s : State) (o : JumpOp) (hs : s.MemOk) :
    (State.jump s o).MemOk := by
  unfold State.jump
  simp +contextual (maxDischargeDepth := 20) [*]

@[simp] theorem memOk_execRet (o : JumpOp) (s : State) (hs : s.MemOk) :
    OutOk (execRet o s) := by
  unfold execRet
  simp +contextual (maxDischargeDepth := 20) [*]

@[simp] theorem memOk_execJmpi (o : JumpOp) (s : State) (hs : s.MemOk) :
    OutOk (execJmpi o s) := by
  unfold execJmpi
  simp +contextual (maxDischargeDepth := 20) [*]

@[simp] theorem memOk_execRegang (o : RegangOp) (s : State) (hs : s.MemOk) :
    OutOk (execRegang o s) := by
  unfold execRegang
  simp +contextual (maxDischargeDepth := 20) [*]

@[simp] theorem memOk_execExit (s : State) (hs : s.MemOk) :
    OutOk (execExit s) := by
  unfold execExit
  simp +contextual (maxDischargeDepth := 20) [*]

@[simp] theorem memOk_execYield (s : State) (hs : s.MemOk) :
    OutOk (execYield s) := by
  unfold execYield
  simp +contextual (maxDischargeDepth := 20) [*]

@[simp] theorem memOk_execPpt (s : State) (hs : s.MemOk) :
    OutOk (execPpt s) := by
  unfold execPpt
  simp +contextual (maxDischargeDepth := 20) [*]

end Sys2Proof.Machine
end

