-- ==== Sys2Proof/Laws/KeptMemory.lean ====
section
/-! SUPPORT. Every instruction on memory keeps its canonical form. -/

namespace Sys2Proof.Machine

set_option linter.all false
@[simp] theorem memOk_State_checkPage (s : State) (g : Gang) (l : Nat) (va : Nat) (n : Nat) (kind : AccKind)
    (hs : s.MemOk) :
    (State.checkPage s g l va n kind).1.MemOk := by
  unfold State.checkPage
  simp +contextual (maxDischargeDepth := 20) [*]

@[simp] theorem memOk_State_checkGlobal (s : State) (g : Gang) (l : Nat) (sum : Int) (n : Nat)
    (kind : AccKind) (hs : s.MemOk) :
    (State.checkGlobal s g l sum n kind).1.MemOk := by
  unfold State.checkGlobal
  try dsimp only
  (repeat' split) <;> first | assumption | (simp +contextual (maxDischargeDepth := 20) [*]; done)

@[simp] theorem memOk_State_checkPrivate (s : State) (g : Gang) (l : Nat) (sum : Int) (n : Nat)
    (kind : AccKind) (hs : s.MemOk) :
    (State.checkPrivate s g l sum n kind).1.MemOk := by
  unfold State.checkPrivate
  try dsimp only
  (repeat' split) <;> first | assumption | (simp +contextual (maxDischargeDepth := 20) [*]; done)

@[simp] theorem memOk_State_checkLane (s : State) (g : Gang) (sp : LaneSpace) (sum : Int) (n : Nat)
    (kind : AccKind) (l : Nat) (hs : s.MemOk) :
    (State.checkLane s g sp sum n kind l).1.MemOk := by
  unfold State.checkLane
  try dsimp only
  (repeat' split) <;> first | assumption | (simp +contextual (maxDischargeDepth := 20) [*]; done)

@[simp] theorem memOk_State_checkLanes (s : State) (ls : List Nat) (f : State → Nat → State × Check) (hs : s.MemOk)
    (hf : ∀ s l, s.MemOk → (f s l).1.MemOk) : (State.checkLanes s ls f).1.MemOk := by
  unfold State.checkLanes
  exact foldl_fst_memOk _ _ _ (fun x y h => hf _ _ h) hs

@[simp] theorem memOk_State_onGang (s : State) (f : Gang → Gang) (hs : s.MemOk) :
    (State.onGang s f).MemOk := by
  unfold State.onGang
  simp +contextual (maxDischargeDepth := 20) [*]

@[simp] theorem memOk_State_perLane (s : State) (cs : List (Nat × Check))
    (perform : State → List (Nat × Place) → State × LaneMask) (complete : State → State) (hs : s.MemOk)
    (hp : ∀ s x, s.MemOk → (perform s x).1.MemOk) (hc : ∀ s, s.MemOk → (complete s).MemOk) :
    (State.perLane s cs perform complete).MemOk := by
  unfold State.perLane
  dsimp only
  split
  · exact hs
  · simp +contextual (maxDischargeDepth := 20) [hs]
  · simp +contextual (maxDischargeDepth := 20) [hs]
  · have h1 : ((badsOf cs).foldl State.noteBad s).MemOk := by simp +contextual (maxDischargeDepth := 20) [hs]
    have h2 := hp _ (oksOf cs) h1
    (repeat' split) <;> first | (simp +contextual (maxDischargeDepth := 20) [h2]; done) | (apply hc; simp +contextual (maxDischargeDepth := 20) [h2])

@[simp] theorem memOk_State_completeIssue (s : State) (hs : s.MemOk) :
    (State.completeIssue s).MemOk := by
  unfold State.completeIssue
  simp +contextual (maxDischargeDepth := 20) [*]

@[simp] theorem memOk_State_completeLoad (s : State) (d : Dst) (wide : Bool) (hs : s.MemOk) :
    (State.completeLoad s d wide).MemOk := by
  unfold State.completeLoad
  simp +contextual (maxDischargeDepth := 20) [*]

@[simp] theorem memOk_State_countReplays (s : State) (c slot pc : Nat) (rs : Option (List (Nat × Nat)))
    (hs : s.MemOk) : (State.countReplays s c slot pc rs).MemOk := by
  unfold State.countReplays
  simp [hs]

@[simp] theorem memOk_State_releaseObjs (s : State) (g : Gang) (os : List ObjLoc) (sc : Scope) (hs : s.MemOk) :
    (State.releaseObjs s g os sc).MemOk := by
  unfold State.releaseObjs
  try dsimp only
  (repeat' split) <;> first | assumption | (simp +contextual (maxDischargeDepth := 20) [*]; done)

@[simp] theorem memOk_State_acquireObjs (s : State) (g : Gang) (os : List ObjLoc) (sc : Scope) (hs : s.MemOk) :
    (State.acquireObjs s g os sc).MemOk := by
  unfold State.acquireObjs
  try dsimp only
  (repeat' split) <;> first | assumption | (simp +contextual (maxDischargeDepth := 20) [*]; done)

@[simp] theorem memOk_State_onObjects (s : State) (g : Gang) (sc : Option Scope) (release : Bool)
    (cs : List (Nat × Check)) (go : State) (hs : s.MemOk) (hg : go.MemOk) :
    (State.onObjects s g sc release cs go).MemOk := by
  unfold State.onObjects
  dsimp only
  (repeat' split) <;> simp [hs, hg]

@[simp] theorem memOk_State_setReply (s : State) (l : Nat) (r : LinkReply) (hs : s.MemOk) :
    (State.setReply s l r).MemOk := by
  unfold State.setReply
  simp +contextual (maxDischargeDepth := 20) [*]

@[simp] theorem memOk_State_linkFault (s : State) (pa : Nat) (hs : s.MemOk) :
    (State.linkFault s pa).MemOk := by
  unfold State.linkFault
  try dsimp only
  (repeat' split) <;> first | assumption | (simp +contextual (maxDischargeDepth := 20) [*]; done)

@[simp] theorem memOk_State_askLink (s : State) (l pa n : Nat) (got : List Byte) (hs : s.MemOk) :
    (State.askLink s l pa n got).MemOk := by
  unfold State.askLink
  simp +contextual (maxDischargeDepth := 20) [*]

@[simp] theorem memOk_State_askWords (s : State) (n : Nat) (new : List (Nat × Nat)) (hs : s.MemOk) :
    (State.askWords s n new).MemOk := by
  unfold State.askWords
  refine foldl_memOk _ _ _ (fun x y h => ?_) hs
  (repeat' split) <;> simp [h]

@[simp] theorem memOk_State_linkReads (s : State) (n : Nat) (xs : List (Nat × Nat)) (hs : s.MemOk) :
    (State.linkReads s n xs).1.MemOk := by
  unfold State.linkReads
  dsimp only
  split
  · exact hs
  · refine foldl_memOk _ _ _ (fun x y h => ?_) (by simp [hs])
    (repeat' split) <;> simp [h]

@[simp] theorem memOk_State_linkBytes (s : State) (l : Nat) (pas : List Nat) (hs : s.MemOk) :
    (State.linkBytes s l pas).1.MemOk := by
  unfold State.linkBytes
  try dsimp only
  (repeat' split) <;> first | assumption | (simp +contextual (maxDischargeDepth := 20) [*]; done)

@[simp] theorem memOk_State_linkWrite (s : State) (l pa : Nat) (bs : List Byte) (lanes : LaneMask) (hs : s.MemOk) :
    (State.linkWrite s l pa bs lanes).MemOk := by
  unfold State.linkWrite
  simp +contextual (maxDischargeDepth := 20) [*]

@[simp] theorem memOk_State_readHomeOf (s : State) (c n : Nat) (p : Place) (hs : s.MemOk) :
    (State.readHomeOf s c n p).1.MemOk := by
  unfold State.readHomeOf
  split <;> simp +contextual (maxDischargeDepth := 20) [hs]

@[simp] theorem memOk_State_readPlaces (s : State) (ordered : Bool) (n : Nat) (oks : List (Nat × Place))
    (hs : s.MemOk) : (State.readPlaces s ordered n oks).1.MemOk := by
  unfold State.readPlaces
  dsimp only
  refine foldl_fst_memOk _ _ _ (fun x y h => ?_) ?_
  · (repeat' split) <;> simp +contextual (maxDischargeDepth := 20) [h]
  · dsimp only
    (repeat' split) <;> simp +contextual (maxDischargeDepth := 20) [hs]

@[simp] theorem memOk_State_takeAbsent (s : State) (nf : Bool) (d : Dst) (n : Nat) (cs : List (Nat × Check))
    (hs : s.MemOk) :
    (State.takeAbsent s nf d n cs).1.MemOk := by
  unfold State.takeAbsent
  simp +contextual (maxDischargeDepth := 20) [*]

@[simp] theorem memOk_State_performLoad (s : State) (g : Gang) (mode : LoadMode) (d : Dst) (oks : List
    (Nat × Place)) (hs : s.MemOk) :
    (State.performLoad s g mode d oks).1.MemOk := by
  unfold State.performLoad
  try dsimp only
  (repeat' split) <;> first | assumption | (simp +contextual (maxDischargeDepth := 20) [*]; done)

@[simp] theorem memOk_State_load (s : State) (sp : LaneSpace) (mode : LoadMode) (d : Dst) (a : Src)
    (off : Nat) (nf : Bool) (hs : s.MemOk) :
    (State.load s sp mode d a off nf).MemOk := by
  unfold State.load
  simp +contextual (maxDischargeDepth := 20) [*]

@[simp] theorem memOk_execLdg (o : LdgOp) (s : State) (hs : s.MemOk) :
    OutOk (execLdg o s) := by
  unfold execLdg
  simp +contextual (maxDischargeDepth := 20) [*]

@[simp] theorem memOk_execLdl (o : LdlOp) (s : State) (hs : s.MemOk) :
    OutOk (execLdl o s) := by
  unfold execLdl
  simp +contextual (maxDischargeDepth := 20) [*]

@[simp] theorem memOk_execLds (o : LdsOp) (s : State) (hs : s.MemOk) :
    OutOk (execLds o s) := by
  unfold execLds
  simp +contextual (maxDischargeDepth := 20) [*]

@[simp] theorem memOk_execLdw (o : LdsOp) (s : State) (hs : s.MemOk) :
    OutOk (execLdw o s) := by
  unfold execLdw
  simp +contextual (maxDischargeDepth := 20) [*]

@[simp] theorem memOk_State_writeHomeOf (s : State) (c : Nat) (p : Place) (bs : List Byte) (hs : s.MemOk) :
    (State.writeHomeOf s c p bs).MemOk := by
  unfold State.writeHomeOf
  try dsimp only
  (repeat' split) <;> first | assumption | (simp +contextual (maxDischargeDepth := 20) [*]; done)

@[simp] theorem memOk_State_writePlaces (s : State) (ordered : Bool) (lanes : Nat → LaneMask)
    (xs : List (Nat × Place × List Byte)) (hs : s.MemOk) : (State.writePlaces s ordered lanes xs).MemOk := by
  unfold State.writePlaces
  dsimp only
  refine foldl_memOk _ _ _ (fun x y h => ?_) ?_
  · (repeat' split) <;> simp +contextual (maxDischargeDepth := 20) [h]
  · (repeat' split) <;> simp +contextual (maxDischargeDepth := 20) [hs]

@[simp] theorem memOk_State_performStore (s : State) (g : Gang) (mode : StoreMode) (v : Src) (oks : List
    (Nat × Place)) (hs : s.MemOk) :
    (State.performStore s g mode v oks).1.MemOk := by
  unfold State.performStore
  try dsimp only
  (repeat' split) <;> first | assumption | (simp +contextual (maxDischargeDepth := 20) [*]; done)

@[simp] theorem memOk_State_store (s : State) (sp : LaneSpace) (mode : StoreMode) (v : Src) (a : Src)
    (off : Nat) (hs : s.MemOk) :
    (State.store s sp mode v a off).MemOk := by
  unfold State.store
  simp +contextual (maxDischargeDepth := 20) [*]

@[simp] theorem memOk_execStg (o : StOp) (s : State) (hs : s.MemOk) :
    OutOk (execStg o s) := by
  unfold execStg
  simp +contextual (maxDischargeDepth := 20) [*]

@[simp] theorem memOk_execStl (o : StlOp) (s : State) (hs : s.MemOk) :
    OutOk (execStl o s) := by
  unfold execStl
  simp +contextual (maxDischargeDepth := 20) [*]

@[simp] theorem memOk_execSts (o : StOp) (s : State) (hs : s.MemOk) :
    OutOk (execSts o s) := by
  unfold execSts
  simp +contextual (maxDischargeDepth := 20) [*]

@[simp] theorem memOk_execStw (o : StOp) (s : State) (hs : s.MemOk) :
    OutOk (execStw o s) := by
  unfold execStw
  simp +contextual (maxDischargeDepth := 20) [*]

@[simp] theorem memOk_State_checkScalar (s : State) (g : Gang) (o : SMemOp) (kind : AccKind) (hs : s.MemOk) :
    (State.checkScalar s g o kind).1.MemOk := by
  unfold State.checkScalar
  dsimp only
  split <;> simp [hs]

@[simp] theorem memOk_execSldg (o : SMemOp) (s : State) (hs : s.MemOk) : OutOk (execSldg o s) := by
  unfold execSldg
  refine outOk_finish _ (memOk_State_issue _ _ _ hs (fun g => ?_))
  dsimp only
  refine memOk_State_perLane _ _ _ _ (by simp [hs]) (fun t x ht => ?_) (fun t ht => by simp [ht])
  (repeat' split) <;> simp +contextual (maxDischargeDepth := 20) [ht]

@[simp] theorem memOk_execSstg (o : SMemOp) (s : State) (hs : s.MemOk) :
    OutOk (execSstg o s) := by
  unfold execSstg
  simp +contextual (maxDischargeDepth := 20) [*]

@[simp] theorem memOk_State_rmw (s : State) (c n : Nat) (p : Place) (f : Nat → Nat) (hs : s.MemOk) :
    (State.rmw s c n p f).1.MemOk := by
  unfold State.rmw
  simp +contextual (maxDischargeDepth := 20) [hs]

@[simp] theorem memOk_State_atomicSecond (s : State) (g : Gang) (sp : LaneSpace) (ty : AtomicType) (sum : Int)
    (l : Nat) (hs : s.MemOk) :
    (State.atomicSecond s g sp ty sum l).1.MemOk := by
  unfold State.atomicSecond
  try dsimp only
  (repeat' split) <;> first | assumption | (simp +contextual (maxDischargeDepth := 20) [*]; done)

theorem memOk_of_fst {β : Type} {x : State × β} {s : State} {y : β} (h : x = (s, y)) (hx : x.1.MemOk) : s.MemOk := by
  subst h; exact hx

@[simp] theorem memOk_State_checkAtomic (s : State) (g : Gang) (sp : LaneSpace) (ty : AtomicType) (sum : Int)
    (l : Nat) (hs : s.MemOk) : (State.checkAtomic s g sp ty sum l).1.MemOk := by
  unfold State.checkAtomic
  dsimp only
  split
  · split <;> exact memOk_of_fst (by assumption) (by simp [hs])
  · simp [hs]

@[simp] theorem memOk_State_noteLock (s : State) (fn : AtomicFn) (p : Place) (old : Nat) (cmp : Nat) (hs : s.MemOk) :
    (State.noteLock s fn p old cmp).MemOk := by
  unfold State.noteLock
  try dsimp only
  (repeat' split) <;> first | assumption | (simp +contextual (maxDischargeDepth := 20) [*]; done)

@[simp] theorem memOk_State_rmwHalf (s : State) (c : Nat) (f : FpFmt) (d : Nat) (p : Place) (hs : s.MemOk) :
    (State.rmwHalf s c f d p).1.MemOk := by
  unfold State.rmwHalf
  simp [hs]

@[simp] theorem memOk_State_putOld (s : State) (ty : AtomicType) (d : Option Dst) (l old : Nat) (hs : s.MemOk) :
    (State.putOld s ty d l old).MemOk := by
  unfold State.putOld
  split <;> simp [hs]

@[simp] theorem memOk_State_applyAtomic (s : State) (g : Gang) (sp : LaneSpace) (fn : AtomicFn) (ty : AtomicType)
    (v a : Src) (d : Option Dst) (left : Option Nat) (l : Nat) (p : Place) (hs : s.MemOk) :
    (State.applyAtomic s g sp fn ty v a d left l p).1.MemOk := by
  unfold State.applyAtomic
  dsimp only
  split
  · exact hs
  · split
    · have := memOk_of_fst (by assumption) (memOk_State_atomicSecond s g sp ty _ _ hs)
      split <;> simp +contextual (maxDischargeDepth := 20) [this]
    · have := memOk_of_fst (by assumption) (memOk_State_atomicSecond s g sp ty _ _ hs)
      simp +contextual (maxDischargeDepth := 20) [this]

@[simp] theorem memOk_State_performAtomic (s : State) (g : Gang) (sp : LaneSpace) (fn : AtomicFn)
    (ty : AtomicType) (v : Src) (a : Src) (d : Option Dst) (sc : Scope) (order : Order)
    (oks : List (Nat × Place)) (hs : s.MemOk) : (State.performAtomic s g sp fn ty v a d sc order oks).1.MemOk := by
  have hf : ∀ t : State, t.MemOk → ∀ n : Option Nat, ((oks.foldl
      (fun (r : State × Option Nat × List (Nat × Place)) x =>
        let (s, n, done) := r.1.applyAtomic g sp fn ty v a d r.2.1 x.1 x.2
        (s, n, if done then r.2.2 else r.2.2 ++ [x])) (t, n, [])).1).MemOk := fun t ht n =>
    foldl_fst_memOk _ _ _ (fun x y h => by simp [h]) ht
  unfold State.performAtomic
  dsimp only
  split <;> split <;> simp +contextual (maxDischargeDepth := 20) [hs, hf]

@[simp] theorem memOk_State_finishHalf (s : State) (g : Gang) (ty : AtomicType) (v : Src) (d : Option Dst) (sc : Scope)
    (order : Order) (l : Nat) (hs : s.MemOk) : (State.finishHalf s g ty v d sc order l).MemOk := by
  unfold State.finishHalf
  dsimp only
  split
  · exact hs
  · exact hs
  · exact hs
  · split <;> simp +contextual (maxDischargeDepth := 20) [hs]

@[simp] theorem memOk_State_atomic (s : State) (sp : LaneSpace) (fn : AtomicFn) (ty : AtomicType) (v : Src)
    (a : Src) (d : Option Dst) (sc : Scope) (order : Order) (hs : s.MemOk) :
    (State.atomic s sp fn ty v a d sc order).MemOk := by
  unfold State.atomic
  refine memOk_State_issue _ _ _ hs (fun g => ?_)
  dsimp only
  split
  · simp +contextual (maxDischargeDepth := 20) [hs]
  · refine memOk_State_onObjects _ _ _ _ _ _ (by simp +contextual (maxDischargeDepth := 20) [hs]) ?_
    refine memOk_State_perLane _ _ _ _ (by simp +contextual (maxDischargeDepth := 20) [hs])
      (fun t x ht => by simp [ht]) (fun t ht => ?_)
    split <;> simp [ht]

@[simp] theorem memOk_execAtom (o : AtomOp) (s : State) (hs : s.MemOk) :
    OutOk (execAtom o s) := by
  unfold execAtom
  simp +contextual (maxDischargeDepth := 20) [*]

@[simp] theorem memOk_execRed (o : RedOp) (s : State) (hs : s.MemOk) :
    OutOk (execRed o s) := by
  unfold execRed
  simp +contextual (maxDischargeDepth := 20) [*]

@[simp] theorem memOk_execAtoms (o : AtomsOp) (s : State) (hs : s.MemOk) :
    OutOk (execAtoms o s) := by
  unfold execAtoms
  simp +contextual (maxDischargeDepth := 20) [*]

@[simp] theorem memOk_execReds (o : RedsOp) (s : State) (hs : s.MemOk) :
    OutOk (execReds o s) := by
  unfold execReds
  simp +contextual (maxDischargeDepth := 20) [*]

@[simp] theorem memOk_State_rangeOp (s : State) (o : RangeOp) (act : State → Gang → List (Nat × Nat) → State)
    (hs : s.MemOk) (ha : ∀ s g r, s.MemOk → (act s g r).MemOk) : (State.rangeOp s o act).MemOk := by
  unfold State.rangeOp
  refine memOk_State_issue _ _ _ hs (fun g => ?_)
  exact memOk_State_perLane _ _ _ _ hs (fun t x ht => by simp +contextual [ha, ht]) (fun t ht => by simp [ht])

@[simp] theorem memOk_execCflush (o : RangeOp) (s : State) (hs : s.MemOk) :
    OutOk (execCflush o s) := by
  unfold execCflush
  simp +contextual (maxDischargeDepth := 20) [*]

@[simp] theorem memOk_execCinv (o : RangeOp) (s : State) (hs : s.MemOk) :
    OutOk (execCinv o s) := by
  unfold execCinv
  simp +contextual (maxDischargeDepth := 20) [*]

@[simp] theorem memOk_State_prefetchRun (s : State) (c : Nat) (pa : Nat) (n : Nat) (pc : Nat)
    (hint : Option Nat) (hs : s.MemOk) :
    (State.prefetchRun s c pa n pc hint).MemOk := by
  unfold State.prefetchRun
  simp +contextual (maxDischargeDepth := 20) [*]

@[simp] theorem memOk_State_prefetchRange (s : State) (ctx base len : Nat) (hs : s.MemOk) :
    (State.prefetchRange s ctx base len).MemOk := by
  unfold State.prefetchRange
  split
  · exact hs
  · refine foldl_memOk _ _ _ (fun x y h => ?_) hs
    (repeat' split) <;> simp +contextual (maxDischargeDepth := 20) [h]

@[simp] theorem memOk_execCpref (o : CprefOp) (s : State) (hs : s.MemOk) :
    OutOk (execCpref o s) := by
  unfold execCpref
  simp +contextual (maxDischargeDepth := 20) [*]

@[simp] theorem memOk_State_requestPage (s : State) (g : Gang) (va : Nat) (hs : s.MemOk) :
    (State.requestPage s g va).MemOk := by
  unfold State.requestPage
  try dsimp only
  (repeat' split) <;> first | assumption | (simp +contextual (maxDischargeDepth := 20) [*]; done)

@[simp] theorem memOk_execPreq (o : PreqOp) (s : State) (hs : s.MemOk) :
    OutOk (execPreq o s) := by
  unfold execPreq
  refine outOk_finish _ (memOk_State_issue _ _ _ hs (fun g => ?_))
  dsimp only
  split <;> simp +contextual (maxDischargeDepth := 20) [hs]

@[simp] theorem memOk_State_perIssue (s : State) (regs : List Nat) (k : Gang → LaneMask → State) (hs : s.MemOk)
    (hk : ∀ g p, (k g p).MemOk) : (State.perIssue s regs k).MemOk := by
  unfold State.perIssue
  refine memOk_State_issue _ _ _ hs (fun g => ?_)
  dsimp only
  split <;> simp +contextual (maxDischargeDepth := 20) [hs, hk]

@[simp] theorem memOk_State_finishScalar (s : State) (d : Nat) (x : DWord) (hs : s.MemOk) :
    (State.finishScalar s d x).MemOk := by
  unfold State.finishScalar
  simp +contextual (maxDischargeDepth := 20) [*]

@[simp] theorem memOk_State_scrub (s : State) (p : Nat → Bool) (hs : s.MemOk) :
    (State.scrub s p).MemOk := by
  unfold State.scrub
  simp +contextual (maxDischargeDepth := 20) [*]

@[simp] theorem memOk_execSeal (o : SS) (s : State) (hs : s.MemOk) : OutOk (execSeal o s) := by
  unfold execSeal
  refine outOk_finish _ (memOk_State_perIssue _ _ _ hs (fun g p => ?_))
  dsimp only
  (repeat' split) <;> simp +contextual (maxDischargeDepth := 20) [hs]

@[simp] theorem memOk_execUnseal (o : SS) (s : State) (hs : s.MemOk) : OutOk (execUnseal o s) := by
  unfold execUnseal
  refine outOk_finish _ (memOk_State_perIssue _ _ _ hs (fun g p => ?_))
  dsimp only
  (repeat' split) <;> simp +contextual (maxDischargeDepth := 20) [hs]

@[simp] theorem memOk_State_checkObjects (s : State) (g : Gang) (sp : Space) (obj : Src) (kind : AccKind)
    (hs : s.MemOk) :
    (State.checkObjects s g sp obj kind).1.MemOk := by
  unfold State.checkObjects
  simp +contextual (maxDischargeDepth := 20) [*]

@[simp] theorem memOk_execBsig (o : BarOp) (s : State) (hs : s.MemOk) :
    OutOk (execBsig o s) := by
  unfold execBsig
  simp +contextual (maxDischargeDepth := 20) [*]

@[simp] theorem memOk_State_readObjects (s : State) (oks : List (Nat × Place)) (hs : s.MemOk) :
    (State.readObjects s oks).1.MemOk := by
  unfold State.readObjects
  exact foldl_fst_memOk _ _ _ (fun x y h => by simp [h]) hs

@[simp] theorem memOk_execBrd (o : BrdOp) (s : State) (hs : s.MemOk) :
    OutOk (execBrd o s) := by
  unfold execBrd
  simp +contextual (maxDischargeDepth := 20) [*]

@[simp] theorem memOk_execBwait (o : BarOp) (s : State) (hs : s.MemOk) : OutOk (execBwait o s) := by
  unfold execBwait
  refine outOk_finish _ (memOk_State_issue _ _ _ hs (fun g => ?_))
  dsimp only
  (repeat' split) <;> simp +contextual (maxDischargeDepth := 20) [hs]

@[simp] theorem memOk_State_setBinding (s : State) (t : TeamPart) (i : Nat) (f : Nat → Map Bind → Map Bind)
    (hs : s.MemOk) :
    (State.setBinding s t i f).MemOk := by
  unfold State.setBinding
  simp +contextual (maxDischargeDepth := 20) [*]

@[simp] theorem memOk_execBind (o : BindOp) (s : State) (hs : s.MemOk) :
    OutOk (execBind o s) := by
  unfold execBind
  refine outOk_finish _ ?_
  try refine memOk_State_issue _ _ _ hs (fun g => ?_)
  try dsimp only
  (repeat' split) <;> first | assumption | (simp +contextual (maxDischargeDepth := 20) [*]; done)

@[simp] theorem memOk_execUnbind (o : UnbindOp) (s : State) (hs : s.MemOk) :
    OutOk (execUnbind o s) := by
  unfold execUnbind
  refine outOk_finish _ ?_
  try refine memOk_State_issue _ _ _ hs (fun g => ?_)
  try dsimp only
  (repeat' split) <;> first | assumption | (simp +contextual (maxDischargeDepth := 20) [*]; done)

@[simp] theorem memOk_execFence (o : FenceOp) (s : State) (hs : s.MemOk) :
    OutOk (execFence o s) := by
  unfold execFence
  simp +contextual (maxDischargeDepth := 20) [*]

@[simp] theorem memOk_State_ownership (s : State) (regs : List Nat) (a : Src) (tile : Bool)
    (k : Gang → LaneMask → TeamPart → Word → State) (hs : s.MemOk) (hk : ∀ g p t v, (k g p t v).MemOk) :
    (State.ownership s regs a tile k).MemOk := by
  unfold State.ownership
  refine memOk_State_issue _ _ _ hs (fun g => ?_)
  dsimp only
  (repeat' split) <;> simp +contextual (maxDischargeDepth := 20) [hs, hk]

@[simp] theorem memOk_State_finishVector (s : State) (p : LaneMask) (d : Dst) (x : Nat) (hs : s.MemOk) :
    (State.finishVector s p d x).MemOk := by
  unfold State.finishVector
  simp +contextual (maxDischargeDepth := 20) [*]

@[simp] theorem memOk_execTake (o : TakeOp) (s : State) (hs : s.MemOk) :
    OutOk (execTake o s) := by
  unfold execTake
  simp +contextual (maxDischargeDepth := 20) [*]

@[simp] theorem memOk_execOwnq (o : TakeOp) (s : State) (hs : s.MemOk) :
    OutOk (execOwnq o s) := by
  unfold execOwnq
  simp +contextual (maxDischargeDepth := 20) [*]

@[simp] theorem memOk_execGive (o : GiveOp) (s : State) (hs : s.MemOk) :
    OutOk (execGive o s) := by
  unfold execGive
  refine outOk_finish _ ?_
  try refine memOk_State_issue _ _ _ hs (fun g => ?_)
  try dsimp only
  (repeat' split) <;> first | assumption | (simp +contextual (maxDischargeDepth := 20) [*]; done)

end Sys2Proof.Machine
end

