-- ==== Sys2Proof/Laws/KeptEngines.lean ====
section
/-! SUPPORT. Every instruction and event of the copy engine and the matrix unit, and the tensor instructions, keep the canonical form of memory. -/

namespace Sys2Proof.Machine

set_option linter.all false
@[simp] theorem memOk_State_afterChecks (s : State) (g : Gang) (p : LaneMask) (fails : Fails) (k : State)
    (hs : s.MemOk) (hk : k.MemOk) :
    (State.afterChecks s g p fails k).MemOk := by
  unfold State.afterChecks
  try dsimp only
  (repeat' split) <;> first | assumption | (simp +contextual (maxDischargeDepth := 20) [*]; done)

@[simp] theorem memOk_State_withObject (s : State) (g : Gang) (p : LaneMask) (fails : Fails) (obj : BindCheck)
    (k : ObjLoc → State) (hs : s.MemOk) (hk : ∀ o, (k o).MemOk) : (State.withObject s g p fails obj k).MemOk := by
  unfold State.withObject
  split <;> simp [hs, hk]

@[simp] theorem memOk_State_beforeEngine (s : State) (c : Nat) (ctx : Nat) (ranges : List (Nat × Nat))
    (hs : s.MemOk) :
    (State.beforeEngine s c ctx ranges).MemOk := by
  unfold State.beforeEngine
  simp +contextual (maxDischargeDepth := 20) [*]

@[simp] theorem memOk_State_lightPieces (s : State) (ctx : Nat) (kind : AccKind) (ps : List (Nat × Nat × Nat))
    (hs : s.MemOk) :
    (State.lightPieces s ctx kind ps).MemOk := by
  unfold State.lightPieces
  simp +contextual (maxDischargeDepth := 20) [*]

@[simp] theorem memOk_State_startCopy (s : State) (g : Gang) (p : LaneMask) (t : TeamPart) (form : CopyForm)
    (o : CpyOp) (dw : List DWord) (e : List DWord) (loc : ObjLoc) (hs : s.MemOk) :
    (State.startCopy s g p t form o dw e loc).MemOk := by
  unfold State.startCopy
  dsimp only
  refine memOk_State_completeIssue _ (memOk_State_modCore _ _ _ (memOk_State_lightPieces _ _ _ _
    (memOk_State_raiseGranules _ _ ?_)))
  (repeat' split) <;> simp [hs]

@[simp] theorem memOk_State_onEntry (s : State) (g : Gang) (slot : Nat) (k : State) (hs : s.MemOk) (hk : k.MemOk) :
    (State.onEntry s g slot k).MemOk := by
  unfold State.onEntry
  split
  · simp [hs]
  · exact hk

@[simp] theorem memOk_State_copyIssue (s : State) (form : CopyForm) (o : CpyOp) (hs : s.MemOk) :
    (State.copyIssue s form o).MemOk := by
  unfold State.copyIssue
  refine memOk_State_perIssue _ _ _ hs (fun g p => ?_)
  try dsimp only
  (repeat' split) <;> simp +contextual (maxDischargeDepth := 20) [hs]

@[simp] theorem memOk_execCpy (o : CpyOp) (s : State) (hs : s.MemOk) :
    OutOk (execCpy o s) := by
  unfold execCpy
  simp +contextual (maxDischargeDepth := 20) [*]

@[simp] theorem memOk_execCpys (o : CpyOp) (s : State) (hs : s.MemOk) :
    OutOk (execCpys o s) := by
  unfold execCpys
  simp +contextual (maxDischargeDepth := 20) [*]

@[simp] theorem memOk_execCpym (o : CpyOp) (s : State) (hs : s.MemOk) :
    OutOk (execCpym o s) := by
  unfold execCpym
  simp +contextual (maxDischargeDepth := 20) [*]

@[simp] theorem memOk_execCpyw (o : CpyOp) (s : State) (hs : s.MemOk) :
    OutOk (execCpyw o s) := by
  unfold execCpyw
  simp +contextual (maxDischargeDepth := 20) [*]

@[simp] theorem memOk_execCpyb (o : CpyOp) (s : State) (hs : s.MemOk) :
    OutOk (execCpyb o s) := by
  unfold execCpyb
  simp +contextual (maxDischargeDepth := 20) [*]

@[simp] theorem memOk_State_requestAbsent (s : State) (c : Nat) (ctx : Nat) (kind : AccKind) (pages : List
    (Nat × Leaf)) (hs : s.MemOk) :
    (State.requestAbsent s c ctx kind pages).MemOk := by
  unfold State.requestAbsent
  simp +contextual (maxDischargeDepth := 20) [*]

@[simp] theorem memOk_State_engineFault (s : State) (who : Issuer) (status : Nat) (cause : Nat) (pa : Nat)
    (ws : List LaneWindow) (hs : s.MemOk) :
    (State.engineFault s who status cause pa ws).MemOk := by
  unfold State.engineFault
  simp +contextual (maxDischargeDepth := 20) [*]

@[simp] theorem memOk_State_deferFault (s : State) (who : Issuer) (c : Cause) (addr : Nat) (hs : s.MemOk) :
    (State.deferFault s who c addr).MemOk := by
  unfold State.deferFault
  try dsimp only
  (repeat' split) <;> first | assumption | (simp +contextual (maxDischargeDepth := 20) [*]; done)

@[simp] theorem memOk_State_faultOp (s : State) (who : Issuer) (c : Cause) (addr : Nat) (leave : State → State)
    (hs : s.MemOk) (hl : (leave s).MemOk) : (State.faultOp s who c addr leave).MemOk := by
  unfold State.faultOp
  split <;> simp [hs, hl]

@[simp] theorem memOk_State_engineWrite (s : State) (c : Nat) (pa : Nat) (bs : List Byte) (hs : s.MemOk) :
    (State.engineWrite s c pa bs).MemOk := by
  unfold State.engineWrite
  simp +contextual (maxDischargeDepth := 20) [*]

@[simp] theorem memOk_State_landBytes (s : State) (c : Nat) (off : Nat) (bs : List Byte) (hs : s.MemOk) :
    (State.landBytes s c off bs).MemOk := by
  unfold State.landBytes
  simp +contextual (maxDischargeDepth := 20) [*]

@[simp] theorem memOk_State_landPiece (s : State) (x : CopyOp) (rel : Nat) (bs : List Byte) (hs : s.MemOk) :
    (State.landPiece s x rel bs).MemOk := by
  unfold State.landPiece
  simp +contextual (maxDischargeDepth := 20) [*]

@[simp] theorem memOk_State_storePiece (s : State) (x : CopyOp) (p : Nat × Nat × Nat) (bs : List Byte) (hs : s.MemOk) :
    (State.storePiece s x p bs).MemOk := by
  unfold State.storePiece
  try dsimp only
  (repeat' split) <;> first | assumption | (simp +contextual (maxDischargeDepth := 20) [*]; done)

@[simp] theorem memOk_State_moveCopy (s : State) (x : CopyOp) (hs : s.MemOk) :
    (State.moveCopy s x).1.MemOk := by
  unfold State.moveCopy
  try dsimp only
  (repeat' split) <;> first | assumption | (simp +contextual (maxDischargeDepth := 20) [*]; done)

@[simp] theorem memOk_State_poisonTile (s : State) (x : CopyOp) (hs : s.MemOk) :
    (State.poisonTile s x).MemOk := by
  unfold State.poisonTile
  simp +contextual (maxDischargeDepth := 20) [*]

@[simp] theorem memOk_State_holdObj (s : State) (ctx : Nat) (o : EngineObj) (hs : s.MemOk) :
    (State.holdObj s ctx o).1.MemOk := by
  unfold State.holdObj
  (repeat' split) <;> simp [hs]

@[simp] theorem memOk_State_landCopy (s : State) (c : Nat) (i : Nat) (x : CopyOp) (hs : s.MemOk) :
    (State.landCopy s c i x).MemOk := by
  unfold State.landCopy
  dsimp only
  split <;> simp +contextual (maxDischargeDepth := 20) [hs]

@[simp] theorem memOk_State_askLink1 (s : State) (c i : Nat) (x : CopyOp) (j pa n rel : Nat) (l : Leaf)
    (hs : s.MemOk) : (State.askLink1 s c i x j pa n rel l).MemOk := by
  unfold State.askLink1
  dsimp only
  split <;> simp [hs]

@[simp] theorem memOk_State_askLinks (s : State) (c i : Nat) (x : CopyOp) (hs : s.MemOk) :
    (State.askLinks s c i x).MemOk := by
  unfold State.askLinks
  refine foldl_memOk _ _ _ (fun y z h => ?_) hs
  (repeat' split) <;> simp [h]

@[simp] theorem memOk_State_opHeld (s : State) (c : Nat) (who : Issuer) (kind : AccKind) (h : Hindrance)
    (go : Unit → State) (hs : s.MemOk) (hg : (go ()).MemOk) : (State.opHeld s c who kind h go).MemOk := by
  unfold State.opHeld
  split <;> simp [hs, hg]

@[simp] theorem memOk_State_copyComplete (s : State) (c : Nat) (i : Nat) (hs : s.MemOk) :
    (State.copyComplete s c i).MemOk := by
  unfold State.copyComplete
  (repeat' split) <;> simp +contextual (maxDischargeDepth := 20) [hs]

@[simp] theorem memOk_execCopyComplete (core : Nat) (index : Nat) (s : State) (hs : s.MemOk) :
    OutOk (execCopyComplete core index s) := by
  unfold execCopyComplete
  simp +contextual (maxDischargeDepth := 20) [*]

@[simp] theorem memOk_State_partCopy (s : State) (x : CopyOp) (hs : s.MemOk) :
    (State.partCopy s x).MemOk := by
  unfold State.partCopy
  refine foldl_memOk _ _ _ (fun y z h => ?_) hs
  try dsimp only
  (repeat' split) <;> simp +contextual [h]

@[simp] theorem memOk_State_copyDeferred (s : State) (c i : Nat) (hs : s.MemOk) :
    (State.copyDeferred s c i).MemOk := by
  unfold State.copyDeferred
  try dsimp only
  (repeat' split) <;> simp +contextual (maxDischargeDepth := 20) [hs]

@[simp] theorem memOk_execMlease (o : MleaseOp) (s : State) (hs : s.MemOk) :
    OutOk (execMlease o s) := by
  unfold execMlease
  simp +contextual (maxDischargeDepth := 20) [*]

@[simp] theorem memOk_execMrel (s : State) (hs : s.MemOk) :
    OutOk (execMrel s) := by
  unfold execMrel
  simp +contextual (maxDischargeDepth := 20) [*]

@[simp] theorem memOk_execMatrixLeaseGrant (core : Nat) (s : State) (hs : s.MemOk) :
    OutOk (execMatrixLeaseGrant core s) := by
  unfold execMatrixLeaseGrant
  simp +contextual (maxDischargeDepth := 20) [*]

@[simp] theorem memOk_execLeaseIdleEnd (core : Nat) (s : State) (hs : s.MemOk) :
    OutOk (execLeaseIdleEnd core s) := by
  unfold execLeaseIdleEnd
  simp +contextual (maxDischargeDepth := 20) [*]

@[simp] theorem memOk_State_mmaQueue (s : State) (g : Gang) (t : TeamPart) (a48 : Bool) (reset : Bool)
    (o : MmaOp) (w : DWord) (hs : s.MemOk) :
    (State.mmaQueue s g t a48 reset o w).MemOk := by
  unfold State.mmaQueue
  simp +contextual (maxDischargeDepth := 20) [*]

@[simp] theorem memOk_State_mma (s : State) (a48 reset : Bool) (o : MmaOp) (hs : s.MemOk) :
    (State.mma s a48 reset o).MemOk := by
  unfold State.mma
  refine memOk_State_issue _ _ _ hs (fun g => ?_)
  try dsimp only
  (repeat' split) <;> simp +contextual (maxDischargeDepth := 20) [hs]

@[simp] theorem memOk_execMmaA33 (o : MmaOp) (s : State) (hs : s.MemOk) :
    OutOk (execMmaA33 o s) := by
  unfold execMmaA33
  simp +contextual (maxDischargeDepth := 20) [*]

@[simp] theorem memOk_execMmaA48 (o : MmaOp) (s : State) (hs : s.MemOk) :
    OutOk (execMmaA48 o s) := by
  unfold execMmaA48
  simp +contextual (maxDischargeDepth := 20) [*]

@[simp] theorem memOk_execMmazA33 (o : MmaOp) (s : State) (hs : s.MemOk) :
    OutOk (execMmazA33 o s) := by
  unfold execMmazA33
  simp +contextual (maxDischargeDepth := 20) [*]

@[simp] theorem memOk_execMmazA48 (o : MmaOp) (s : State) (hs : s.MemOk) :
    OutOk (execMmazA48 o s) := by
  unfold execMmazA48
  simp +contextual (maxDischargeDepth := 20) [*]

@[simp] theorem memOk_State_mxDone (s : State) (c : Nat) (off : Nat) (n : Nat) (hs : s.MemOk) :
    (State.mxDone s c off n).MemOk := by
  unfold State.mxDone
  simp +contextual (maxDischargeDepth := 20) [*]

@[simp] theorem memOk_State_mmaExecute (s : State) (c : Nat) (hs : s.MemOk) :
    (State.mmaExecute s c).MemOk := by
  unfold State.mmaExecute
  try dsimp only
  (repeat' split) <;> first | assumption | (simp +contextual (maxDischargeDepth := 20) [*]; done)

@[simp] theorem memOk_execMmaExecute (core : Nat) (s : State) (hs : s.MemOk) :
    OutOk (execMmaExecute core s) := by
  unfold execMmaExecute
  simp +contextual (maxDischargeDepth := 20) [*]

@[simp] theorem memOk_execMacq (o : MacqOp) (s : State) (hs : s.MemOk) :
    OutOk (execMacq o s) := by
  unfold execMacq
  refine outOk_finish _ ?_
  try refine memOk_State_issue _ _ _ hs (fun g => ?_)
  try dsimp only
  (repeat' split) <;> first | assumption | (simp +contextual (maxDischargeDepth := 20) [*]; done)

@[simp] theorem memOk_execAcvt (o : AcvtOp) (s : State) (hs : s.MemOk) :
    OutOk (execAcvt o s) := by
  unfold execAcvt
  refine outOk_finish _ ?_
  try refine memOk_State_issue _ _ _ hs (fun g => ?_)
  try dsimp only
  (repeat' split) <;> first | assumption | (simp +contextual (maxDischargeDepth := 20) [*]; done)

@[simp] theorem memOk_State_acvtExecute (s : State) (c : Nat) (hs : s.MemOk) :
    (State.acvtExecute s c).MemOk := by
  unfold State.acvtExecute
  try dsimp only
  (repeat' split) <;> first | assumption | (simp +contextual (maxDischargeDepth := 20) [*]; done)

@[simp] theorem memOk_execAcvtExecute (core : Nat) (s : State) (hs : s.MemOk) :
    OutOk (execAcvtExecute core s) := by
  unfold execAcvtExecute
  simp +contextual (maxDischargeDepth := 20) [*]

@[simp] theorem memOk_State_tileLanes (s : State) (regs : List Nat) (i : Src) (tile : Nat)
    (act : State → Gang → TeamPart → Nat → Nat → State) (complete : State → State) (hs : s.MemOk)
    (ha : ∀ s g t l n, s.MemOk → (act s g t l n).MemOk) (hc : ∀ s, s.MemOk → (complete s).MemOk) :
    (State.tileLanes s regs i tile act complete).MemOk := by
  unfold State.tileLanes
  refine memOk_State_issue _ _ _ hs (fun g => ?_)
  try dsimp only
  split
  · exact hs
  · exact memOk_State_perLane _ _ _ _ hs (fun t x ht => by simp +contextual [ht, ha]) hc

@[simp] theorem memOk_execAld (o : AldOp) (s : State) (hs : s.MemOk) :
    OutOk (execAld o s) := by
  unfold execAld
  simp +contextual (maxDischargeDepth := 20) [*]

@[simp] theorem memOk_execAst (o : AstOp) (s : State) (hs : s.MemOk) :
    OutOk (execAst o s) := by
  unfold execAst
  simp +contextual (maxDischargeDepth := 20) [*]

@[simp] theorem memOk_State_writeEntry (s : State) (ctx : Nat) (slot : Nat) (e : List DWord) (hs : s.MemOk) :
    (State.writeEntry s ctx slot e).MemOk := by
  unfold State.writeEntry
  simp +contextual (maxDischargeDepth := 20) [*]

@[simp] theorem memOk_State_define (s : State) (ctx : Nat) (d : Nat) (desc : List DWord) (hs : s.MemOk) :
    (State.define s ctx d desc).MemOk := by
  unfold State.define
  try dsimp only
  (repeat' split) <;> first | assumption | (simp +contextual (maxDischargeDepth := 20) [*]; done)

@[simp] theorem memOk_State_stopIssue (s : State) (g : Gang) (p : LaneMask) (e : SpStop) (hs : s.MemOk) :
    (State.stopIssue s g p e).MemOk := by
  unfold State.stopIssue
  try dsimp only
  (repeat' split) <;> first | assumption | (simp +contextual (maxDischargeDepth := 20) [*]; done)

@[simp] theorem memOk_State_beforeTdef (s : State) (c ctx : Nat) (e : List DWord) (hs : s.MemOk) :
    (State.beforeTdef s c ctx e).MemOk := by
  unfold State.beforeTdef
  simp +contextual (maxDischargeDepth := 20) [*]

@[simp] theorem memOk_execTdef (o : SS) (s : State) (hs : s.MemOk) :
    OutOk (execTdef o s) := by
  unfold execTdef
  refine outOk_finish _ ?_
  try refine memOk_State_issue _ _ _ hs (fun g => ?_)
  try dsimp only
  (repeat' split) <;> first | assumption | (simp +contextual (maxDischargeDepth := 20) [*]; done)

@[simp] theorem memOk_State_withHandle (s : State) (a : Nat) (k : Gang → Nat → State) (hs : s.MemOk)
    (hk : ∀ g h, (k g h).MemOk) : (State.withHandle s a k).MemOk := by
  unfold State.withHandle
  refine memOk_State_perIssue _ _ _ hs (fun g p => ?_)
  try dsimp only
  split <;> simp +contextual (maxDischargeDepth := 20) [hs, hk]

@[simp] theorem memOk_execTdrop (o : SS) (s : State) (hs : s.MemOk) :
    OutOk (execTdrop o s) := by
  unfold execTdrop
  simp +contextual (maxDischargeDepth := 20) [*]

@[simp] theorem memOk_execTqry (o : TqryOp) (s : State) (hs : s.MemOk) :
    OutOk (execTqry o s) := by
  unfold execTqry
  simp +contextual (maxDischargeDepth := 20) [*]

@[simp] theorem memOk_State_checkGather (s : State) (g : Gang) (e : List DWord) (idx l : Nat) (hs : s.MemOk) :
    (State.checkGather s g e idx l).1.MemOk := by
  unfold State.checkGather
  split
  · exact hs
  · refine foldl_fst_memOk _ _ _ (fun x y h => ?_) hs
    try dsimp only
    split <;> simp [h]

@[simp] theorem memOk_State_gatherPlaces (s : State) (g : Gang) (e : List DWord) (idx l : Nat) (hs : s.MemOk) :
    (State.gatherPlaces s g e idx l).1.MemOk := by
  unfold State.gatherPlaces
  refine foldl_fst_memOk _ _ _ (fun x y h => ?_) hs
  try dsimp only
  split <;> exact memOk_of_fst (by assumption) (by simp [h])

@[simp] theorem memOk_State_performGather (s : State) (g : Gang) (o : TgathOp) (e : List DWord) (fp : Bool)
    (oks : List (Nat × Place)) (hs : s.MemOk) : (State.performGather s g o e fp oks).1.MemOk := by
  unfold State.performGather
  try dsimp only
  refine foldl_fst_memOk _ _ _ (fun x y h => ?_) ?_
  · split <;> simp [h]
  · refine memOk_State_l1Read _ _ _ _ _ (foldl_fst_memOk _ _ _ (fun x y h => ?_) hs)
    simp [h]

@[simp] theorem memOk_State_tgathOn (s : State) (g : Gang) (o : TgathOp) (fp : Bool) (h : Nat) (todo : LaneMask) (hs : s.MemOk) :
    (State.tgathOn s g o fp h todo).MemOk := by
  unfold State.tgathOn
  try dsimp only
  (repeat' split) <;> first | assumption | (simp +contextual (maxDischargeDepth := 20) [*]; done)

@[simp] theorem memOk_State_tgath (s : State) (o : TgathOp) (fp : Bool) (hs : s.MemOk) :
    (State.tgath s o fp).MemOk := by
  unfold State.tgath
  simp +contextual (maxDischargeDepth := 20) [*]

@[simp] theorem memOk_execTgathI32 (o : TgathOp) (s : State) (hs : s.MemOk) :
    OutOk (execTgathI32 o s) := by
  unfold execTgathI32
  simp +contextual (maxDischargeDepth := 20) [*]

@[simp] theorem memOk_execTgathF32 (o : TgathOp) (s : State) (hs : s.MemOk) :
    OutOk (execTgathF32 o s) := by
  unfold execTgathF32
  simp +contextual (maxDischargeDepth := 20) [*]

end Sys2Proof.Machine
end

