-- ==== Sys2Proof/Laws/KeptSparse.lean ====
section
/-! SUPPORT. Every instruction and event of the tensor and sparse unit keeps the canonical form of memory. -/

namespace Sys2Proof.Machine

set_option linter.all false
theorem memOk_State_runStep {α : Type} (s : State) (c : Nat) (r : Region) (x : Step α) (hs : s.MemOk) (y : α × State)
    (h : State.runStep s c r x = .ok y) : y.2.MemOk := by
  unfold State.runStep at h
  split at h
  · contradiction
  · split at h
    · contradiction
    · dsimp only at h
      injection h with h
      subst h
      simp +contextual (maxDischargeDepth := 20) [hs]

theorem memOk_State_storeKey (s : State) (c : Nat) (r : Region) (key v : Nat) (hs : s.MemOk) (t : State)
    (h : State.storeKey s c r key v = .ok t) : t.MemOk := by
  unfold State.storeKey at h
  split at h
  · contradiction
  · next h2 =>
    split at h
    · contradiction
    · injection h with h; subst h; exact memOk_State_runStep _ _ _ _ hs _ h2

/-- A fold keeps what its step keeps. -/
theorem foldl_inv {α β : Type} (P : β → Prop) (f : β → α → β) (hf : ∀ b a, P b → P (f b a)) (xs : List α) {b : β}
    (h : P b) : P (xs.foldl f b) := by
  induction xs generalizing b with
  | nil => exact h
  | cons x xs ih => exact ih (hf _ _ h)

theorem memOk_SpLanes_stop (x : SpLanes) (g : Gang) (c l shard key : Nat) (e : SpStop) (h : x.s.MemOk) :
    (x.stop g c l shard key e).s.MemOk := by
  unfold SpLanes.stop
  split <;> first | exact h | simp [h]

theorem memOk_State_sparseLanes (s : State) (g : Gang) (r : Region) (ls : List Nat) (key : Nat → Option Nat)
    (act : State → Nat → Nat → Except SpStop State) (hs : s.MemOk)
    (ha : ∀ s l k t, s.MemOk → act s l k = .ok t → t.MemOk) : (s.sparseLanes g r ls key act).s.MemOk := by
  unfold State.sparseLanes
  refine foldl_inv (fun x : SpLanes => x.s.MemOk) _ (fun x l h => ?_) ls hs
  dsimp only
  split
  · exact h
  · split
    · exact h
    · split
      · next h2 => exact ha _ _ _ _ h h2
      · exact memOk_SpLanes_stop _ _ _ _ _ _ _ h

theorem memOk_SpLanes_outcome (x : SpLanes) (complete : State → State) (h : x.s.MemOk)
    (hc : ∀ s, s.MemOk → (complete s).MemOk) : (SpLanes.outcome x complete).MemOk := by
  unfold SpLanes.outcome
  dsimp only
  (repeat' split) <;> first | exact hc _ (by simp [h]) | simp [h]

theorem memOk_State_sparse (s : State) (h : Nat) (d : Option Dst) (wide : Region → Bool)
    (regsOk : Gang → Region → Bool) (body : State → Gang → Region → List Nat → SpLanes) (hs : s.MemOk)
    (hb : ∀ s g r ls, s.MemOk → (body s g r ls).s.MemOk) : (State.sparse s h d wide regsOk body).MemOk := by
  unfold State.sparse
  refine memOk_State_issue _ _ _ hs (fun g => ?_)
  dsimp only
  split
  · (repeat' split) <;> simp [hs]
  split
  · exact hs
  · refine memOk_State_onEntry _ _ _ _ hs ?_
    split
    · simp [hs]
    · split
      · simp [hs]
      · split
        · simp [hs]
        · refine memOk_SpLanes_outcome _ _ (hb _ _ _ _ (by simp [hs])) (fun t ht => ?_)
          (repeat' split) <;> simp [ht]

theorem memOk_map {α : Type} (e : Except SpStop (α × State)) (f : α × State → State) (t : State)
    (he : ∀ y, e = .ok y → y.2.MemOk) (hf : ∀ y, y.2.MemOk → (f y).MemOk) (h : e.map f = .ok t) : t.MemOk := by
  cases e with
  | error _ => simp [Except.map] at h
  | ok y => simp only [Except.map, Except.ok.injEq] at h; subst h; exact hf y (he y rfl)

@[simp] theorem memOk_execSpld (o : SpldOp) (s : State) (hs : s.MemOk) : OutOk (execSpld o s) := by
  unfold execSpld
  refine outOk_finish _ (memOk_State_sparse _ _ _ _ _ _ hs (fun s g r ls hs => ?_))
  refine memOk_State_sparseLanes _ _ _ _ _ _ hs (fun s l k t hs h => ?_)
  exact memOk_map _ _ t (fun y hy => memOk_State_runStep _ _ _ _ hs y hy) (fun y hy => by simp [hy]) h

@[simp] theorem memOk_execSpst (o : SpstOp) (s : State) (hs : s.MemOk) : OutOk (execSpst o s) := by
  unfold execSpst
  refine outOk_finish _ (memOk_State_sparse _ _ _ _ _ _ hs (fun s g r ls hs => ?_))
  exact memOk_State_sparseLanes _ _ _ _ _ _ hs (fun s l k t hs h => memOk_State_storeKey _ _ _ _ _ hs t h)

@[simp] theorem memOk_execSpnext (o : SpldOp) (s : State) (hs : s.MemOk) : OutOk (execSpnext o s) := by
  unfold execSpnext
  refine outOk_finish _ (memOk_State_sparse _ _ _ _ _ _ hs (fun s g r ls hs => ?_))
  refine memOk_State_sparseLanes _ _ _ _ _ _ hs (fun s l k t hs h => ?_)
  exact memOk_map _ _ t (fun y hy => memOk_State_runStep _ _ _ _ hs y hy) (fun y hy => by simp [hy]) h

@[simp] theorem memOk_State_leafOut (s : State) (g : Gang) (c : Nat) (r : Region) (x : Option (Nat × List Byte))
    (hs : s.MemOk) : (State.leafOut s g c r x).1.MemOk := by
  unfold State.leafOut
  split <;> simp [hs]

@[simp] theorem memOk_execSpleaf (o : SpldOp) (s : State) (hs : s.MemOk) : OutOk (execSpleaf o s) := by
  unfold execSpleaf
  refine outOk_finish _ (memOk_State_sparse _ _ _ _ _ _ hs (fun s g r ls hs => ?_))
  refine memOk_State_sparseLanes _ _ _ _ _ _ hs (fun s l k t hs h => ?_)
  exact memOk_map _ _ t (fun y hy => memOk_State_runStep _ _ _ _ hs y hy) (fun y hy => by simp [hy]) h

@[simp] theorem memOk_State_sparseEngine (s : State) (isImport : Bool) (o : SpEngineOp) (hs : s.MemOk) :
    (State.sparseEngine s isImport o).MemOk := by
  unfold State.sparseEngine
  simp +contextual (maxDischargeDepth := 20) [*]

@[simp] theorem memOk_execSpdense (o : SpEngineOp) (s : State) (hs : s.MemOk) :
    OutOk (execSpdense o s) := by
  unfold execSpdense
  simp +contextual (maxDischargeDepth := 20) [*]

@[simp] theorem memOk_execSpimport (o : SpEngineOp) (s : State) (hs : s.MemOk) :
    OutOk (execSpimport o s) := by
  unfold execSpimport
  simp +contextual (maxDischargeDepth := 20) [*]

theorem memOk_State_denseWrite (s : State) (c : Nat) (x : SparseOp) (n : Nat) (hs : s.MemOk) (t : State)
    (h : State.denseWrite s c x n = .ok t) : t.MemOk := by
  unfold State.denseWrite at h
  split at h
  · contradiction
  · split at h
    · contradiction
    · dsimp only at h
      injection h with h
      subst h
      refine foldl_fst_memOk _ _ _ (fun y p hy => by simp [hy]) ?_
      simp +contextual (maxDischargeDepth := 20) [hs]

@[simp] theorem memOk_State_denseAll (s : State) (c : Nat) (x : SparseOp) (keep : Nat → Bool) (hs : s.MemOk) :
    (State.denseAll s c x keep).MemOk := by
  unfold State.denseAll
  refine foldl_memOk _ _ _ (fun y n h => ?_) hs
  split
  · next h2 => exact memOk_State_denseWrite _ _ _ _ h _ h2
  · exact h

@[simp] theorem memOk_State_sparseSignal (s : State) (c : Nat) (i : Nat) (x : SparseOp) (n : Nat) (hs : s.MemOk) :
    (State.sparseSignal s c i x n).MemOk := by
  unfold State.sparseSignal
  try dsimp only
  (repeat' split) <;> first | assumption | (simp +contextual (maxDischargeDepth := 20) [*]; done)

@[simp] theorem memOk_State_sparseHeld (s : State) (c : Nat) (who : Issuer) (e : SpStop) (hs : s.MemOk) :
    (State.sparseHeld s c who e).MemOk := by
  unfold State.sparseHeld
  split <;> simp [hs]

@[simp] theorem memOk_State_spdenseComplete (s : State) (c : Nat) (i : Nat) (hs : s.MemOk) :
    (State.spdenseComplete s c i).MemOk := by
  unfold State.spdenseComplete
  try dsimp only
  (repeat' split) <;> first | assumption | (simp +contextual (maxDischargeDepth := 20) [*]; done)

@[simp] theorem memOk_execSpdenseComplete (core : Nat) (index : Nat) (s : State) (hs : s.MemOk) :
    OutOk (execSpdenseComplete core index s) := by
  unfold execSpdenseComplete
  simp +contextual (maxDischargeDepth := 20) [*]

@[simp] theorem memOk_State_arrayRead (s : State) (c : Nat) (ctx : Nat) (va : Nat) (n : Nat) (hs : s.MemOk) :
    (State.arrayRead s c ctx va n).1.MemOk := by
  unfold State.arrayRead
  try dsimp only
  (repeat' split) <;> first | assumption | (simp +contextual (maxDischargeDepth := 20) [*]; done)

@[simp] theorem memOk_State_rowCheck (s : State) (c : Nat) (x : SparseOp) (k : Nat) (hs : s.MemOk) :
    (State.rowCheck s c x k).1.MemOk := by
  unfold State.rowCheck
  dsimp only
  split
  · exact memOk_of_fst (by assumption) (by simp [hs])
  · have h1 := memOk_of_fst (by assumption) (memOk_State_arrayRead s c x.who.ctx (imRp x.dw + 8 * k) 16 hs)
    split
    · exact h1
    · split
      · exact memOk_of_fst (by assumption) (by simp [h1])
      · have h2 := memOk_of_fst (by assumption) (memOk_State_arrayRead _ c x.who.ctx _ _ h1)
        (repeat' split) <;> exact h2

@[simp] theorem memOk_State_importEntry (s : State) (c : Nat) (x : SparseOp) (k e : Nat) (hs : s.MemOk) :
    (State.importEntry s c x k e).1.MemOk := by
  unfold State.importEntry
  dsimp only
  split
  · exact memOk_of_fst (by assumption) (by simp [hs])
  · have h1 := memOk_of_fst (by assumption) (memOk_State_arrayRead s c x.who.ctx (imCi x.dw + 4 * e) 4 hs)
    split
    · exact memOk_of_fst (by assumption) (by simp [h1])
    · have h2 := memOk_of_fst (by assumption) (memOk_State_arrayRead _ c x.who.ctx _ _ h1)
      split
      · next h3 => exact memOk_State_storeKey _ _ _ _ _ h2 _ h3
      all_goals exact h2

@[simp] theorem memOk_State_importRow (s : State) (c : Nat) (x : SparseOp) (k n e : Nat) (hs : s.MemOk) :
    (State.importRow s c x k n e).1.MemOk := by
  induction n generalizing s e with
  | zero => exact hs
  | succ n ih =>
    unfold State.importRow
    split
    · exact ih _ _ (memOk_of_fst (by assumption) (by simp [hs]))
    · exact memOk_of_fst (by assumption) (by simp [hs])
    · exact memOk_of_fst (by assumption) (by simp [hs])

@[simp] theorem memOk_State_importRows (s : State) (c n : Nat) (x : SparseOp) (hs : s.MemOk) :
    (State.importRows s c n x).1.MemOk := by
  induction n generalizing s x with
  | zero => exact hs
  | succ n ih =>
    unfold State.importRows
    dsimp only
    have hc : (match x.entry_ with
      | some y => (s, Except.ok (Sum.inr y))
      | none => s.rowCheck c x x.row).1.MemOk := by
      split <;> simp [hs]
    split
    · exact memOk_of_fst (by assumption) hc
    · exact memOk_of_fst (by assumption) hc
    · have h1 := memOk_of_fst (by assumption) hc
      split
      · next h2 => exact ih _ _ (memOk_of_fst h2 (by simp [h1]))
      · simp [h1]

@[simp] theorem memOk_State_importRun (s : State) (c : Nat) (x : SparseOp) (hs : s.MemOk) :
    (State.importRun s c x).1.MemOk := by
  unfold State.importRun
  dsimp only
  have hc : (match x.status with
    | some w => (s, x, ImportEnd.rows w)
    | none => s.importRows c (imRows x.dw - x.row) x).1.MemOk := by
    split <;> simp [hs]
  (repeat' split) <;> first | exact hc | simp [hs] | skip
  all_goals simp_all +contextual (maxDischargeDepth := 20)

@[simp] theorem memOk_State_spimportComplete (s : State) (c : Nat) (i : Nat) (hs : s.MemOk) :
    (State.spimportComplete s c i).MemOk := by
  unfold State.spimportComplete
  try dsimp only
  (repeat' split) <;> first | assumption | (simp +contextual (maxDischargeDepth := 20) [*]; done)

@[simp] theorem memOk_execSpimportComplete (core : Nat) (index : Nat) (s : State) (hs : s.MemOk) :
    OutOk (execSpimportComplete core index s) := by
  unfold execSpimportComplete
  simp +contextual (maxDischargeDepth := 20) [*]

@[simp] theorem memOk_State_sparseFail (s : State) (c : Nat) (i : Nat) (who : Issuer) (e : SpStop) (hs : s.MemOk) :
    (State.sparseFail s c i who e).MemOk := by
  unfold State.sparseFail
  try dsimp only
  (repeat' split) <;> first | assumption | (simp +contextual (maxDischargeDepth := 20) [*]; done)

@[simp] theorem memOk_State_sparseDeferred (s : State) (c : Nat) (i : Nat) (hs : s.MemOk) :
    (State.sparseDeferred s c i).MemOk := by
  unfold State.sparseDeferred
  try dsimp only
  (repeat' split) <;> first | assumption | (simp +contextual (maxDischargeDepth := 20) [*]; done)

@[simp] theorem memOk_execDeferredFault (core : Nat) (unit : EngineUnit) (index : Nat) (s : State) (hs : s.MemOk) :
    OutOk (execDeferredFault core unit index s) := by
  unfold execDeferredFault
  try dsimp only
  (repeat' split) <;> first | assumption | (simp +contextual (maxDischargeDepth := 20) [*]; done)

end Sys2Proof.Machine
end

