-- ==== Sys2Proof/Laws/KeptWork.lean ====
section
/-! SUPPORT. Queues, placement, dispatch and waits keep the canonical form of memory. -/

namespace Sys2Proof.Machine

set_option linter.all false
@[simp] theorem memOk_State_queueDone (s : State) (part : Nat) (q : Nat) (code : Nat) (hs : s.MemOk) :
    (State.queueDone s part q code).MemOk := by
  unfold State.queueDone
  simp +contextual (maxDischargeDepth := 20) [*]

@[simp] theorem memOk_State_queueWrite (s : State) (part : Nat) (val : DWord) (hs : s.MemOk) :
    (State.queueWrite s part val).MemOk := by
  exact hs

@[simp] theorem memOk_State_queueCreate (s : State) (part : Nat) (q : Nat) (hs : s.MemOk) :
    (State.queueCreate s part q).MemOk := by
  unfold State.queueCreate
  try dsimp only
  (repeat' split) <;> first | assumption | (simp +contextual (maxDischargeDepth := 20) [*]; done)

@[simp] theorem memOk_State_queueDestroy (s : State) (part : Nat) (q : Nat) (hs : s.MemOk) :
    (State.queueDestroy s part q).MemOk := by
  unfold State.queueDestroy
  try dsimp only
  (repeat' split) <;> first | assumption | (simp +contextual (maxDischargeDepth := 20) [*]; done)

@[simp] theorem memOk_execQueueCreate (part : Nat) (q : Nat) (s : State) (hs : s.MemOk) :
    OutOk (execQueueCreate part q s) := by
  unfold execQueueCreate
  refine outOk_finish _ ?_
  (repeat' split) <;> simp [hs]

@[simp] theorem memOk_execQueueDestroy (part : Nat) (q : Nat) (s : State) (hs : s.MemOk) :
    OutOk (execQueueDestroy part q s) := by
  unfold execQueueDestroy
  refine outOk_finish _ ?_
  (repeat' split) <;> simp [hs]

@[simp] theorem memOk_State_queueSignal (s : State) (c : Nat) (ctx : Nat) (va : Nat) (hs : s.MemOk) :
    (State.queueSignal s c ctx va).MemOk := by
  unfold State.queueSignal
  simp +contextual (maxDischargeDepth := 20) [*]

@[simp] theorem memOk_State_onQueue (s : State) (regs : List Nat) (q : Nat) (moves : Queue → Bool)
    (obj : Queue → Nat) (k : Gang → LaneMask → Nat → State) (hs : s.MemOk) (hk : ∀ g p n, (k g p n).MemOk) :
    (State.onQueue s regs q moves obj k).MemOk := by
  unfold State.onQueue
  refine memOk_State_issue _ _ _ hs (fun g => ?_)
  dsimp only
  (repeat' split) <;> simp [hs, hk]

@[simp] theorem memOk_State_enqLane (s : State) (c : Nat) (ctx : Nat) (key : Nat) (item : List Word) (hs : s.MemOk) :
    (State.enqLane s c ctx key item).1.MemOk := by
  unfold State.enqLane
  try dsimp only
  (repeat' split) <;> first | assumption | (simp +contextual (maxDischargeDepth := 20) [*]; done)

@[simp] theorem memOk_State_deqLane (s : State) (c : Nat) (ctx : Nat) (key : Nat) (hs : s.MemOk) :
    (State.deqLane s c ctx key).1.MemOk := by
  unfold State.deqLane
  try dsimp only
  (repeat' split) <;> first | assumption | (simp +contextual (maxDischargeDepth := 20) [*]; done)

@[simp] theorem memOk_State_enqLanes (s : State) (g : Gang) (key : Nat) (v : Src) (ls : List Nat) (hs : s.MemOk) :
    (State.enqLanes s g key v ls).1.MemOk := by
  unfold State.enqLanes
  simp +contextual (maxDischargeDepth := 20) [*]

@[simp] theorem memOk_execEnq (o : EnqOp) (s : State) (hs : s.MemOk) :
    OutOk (execEnq o s) := by
  unfold execEnq
  simp +contextual (maxDischargeDepth := 20) [*]

@[simp] theorem memOk_State_deqInto (s : State) (d : Dst) (g : Gang) (key : Nat) (l : Nat) (hs : s.MemOk) :
    (State.deqInto s d g key l).MemOk := by
  unfold State.deqInto
  simp +contextual (maxDischargeDepth := 20) [*]

@[simp] theorem memOk_execDeq (o : DeqOp) (s : State) (hs : s.MemOk) :
    OutOk (execDeq o s) := by
  unfold execDeq
  simp +contextual (maxDischargeDepth := 20) [*]

@[simp] theorem memOk_execQstat (o : QstatOp) (s : State) (hs : s.MemOk) :
    OutOk (execQstat o s) := by
  unfold execQstat
  refine outOk_finish _ ?_
  try refine memOk_State_issue _ _ _ hs (fun g => ?_)
  try dsimp only
  (repeat' split) <;> first | assumption | (simp +contextual (maxDischargeDepth := 20) [*]; done)

@[simp] theorem memOk_State_placePart (s : State) (c : Nat) (f : Fit) (l : Launch) (n : Nat) (team : Nat)
    (number : Nat) (cores : List Nat) (hs : s.MemOk) :
    (State.placePart s c f l n team number cores).MemOk := by
  unfold State.placePart
  simp +contextual (maxDischargeDepth := 20) [*]

@[simp] theorem memOk_State_notePlaced (s : State) (n : Nat) (team : Nat) (hs : s.MemOk) :
    (State.notePlaced s n team).MemOk := by
  unfold State.notePlaced
  try dsimp only
  (repeat' split) <;> first | assumption | (simp +contextual (maxDischargeDepth := 20) [*]; done)

theorem memOk_State_placeTeam (s : State) (c : Nat) (n : Nat) (l : Launch) (team : Nat) (hs : s.MemOk) :
    ∀ t, (State.placeTeam s c n l team) = some t → t.MemOk := by
  unfold State.placeTeam
  simp +contextual (maxDischargeDepth := 20) [*]

theorem memOk_State_placeParts (s : State) (n : Nat) (l : Launch) (team : Nat) (cores cs : List Nat) (k : Nat)
    (hs : s.MemOk) : ∀ t, State.placeParts s n l team cores cs k = some t → t.MemOk := by
  induction cs generalizing s k with
  | nil => intro t h; simp only [State.placeParts, Option.some.injEq] at h; subst h; simp [hs]
  | cons c cs ih =>
    intro t h
    unfold State.placeParts at h
    split at h
    · contradiction
    · exact ih _ _ (by simp [hs]) t h

theorem memOk_State_placeWide (s : State) (size n : Nat) (l : Launch) (team : Nat) (hs : s.MemOk) :
    ∀ t, State.placeWide s size n l team = some t → t.MemOk := by
  intro t h
  unfold State.placeWide at h
  dsimp only at h
  split at h
  · contradiction
  · exact memOk_State_placeParts _ _ _ _ _ _ _ hs t h

theorem memOk_State_placeWideTeams (s : State) (size n : Nat) (l : Launch) (ts : List Nat) (hs : s.MemOk) :
    ∀ t, State.placeWideTeams s size n l ts = some t → t.MemOk := by
  induction ts generalizing s with
  | nil => intro t h; simp only [State.placeWideTeams, Option.some.injEq] at h; subst h; exact hs
  | cons a ts ih =>
    intro t h
    simp only [State.placeWideTeams, Option.bind_eq_some_iff] at h
    obtain ⟨u, hu, h⟩ := h
    exact ih u (memOk_State_placeWide _ _ _ _ _ hs u hu) t h

@[simp] theorem memOk_State_placeRound (s : State) (n : Nat) (l : Launch) (cs ts : List Nat) (hs : s.MemOk) :
    (State.placeRound s n l cs ts).1.MemOk := by
  induction cs generalizing s ts with
  | nil => exact hs
  | cons c cs ih =>
    cases ts with
    | nil => exact hs
    | cons t ts =>
      unfold State.placeRound
      split
      · next h => exact ih _ _ (memOk_State_placeTeam _ _ _ _ _ hs _ h)
      · exact ih _ _ hs

theorem memOk_State_placeRounds (s : State) (n : Nat) (l : Launch) (cores : List Nat) (k : Nat) (ts : List Nat)
    (hs : s.MemOk) : ∀ t, State.placeRounds s n l cores k ts = some t → t.MemOk := by
  induction k generalizing s ts with
  | zero =>
    intro t h
    cases ts with
    | nil => simp only [State.placeRounds, Option.some.injEq] at h; subst h; exact hs
    | cons _ _ => simp [State.placeRounds] at h
  | succ k ih =>
    intro t h
    cases ts with
    | nil => simp only [State.placeRounds, Option.some.injEq] at h; subst h; exact hs
    | cons a ts =>
      simp only [State.placeRounds] at h
      split at h
      · contradiction
      · exact ih _ _ (by simp [hs]) t h

theorem memOk_State_placeAll (s : State) (size n : Nat) (l : Launch) (hs : s.MemOk) :
    ∀ t, State.placeAll s size n l = some t → t.MemOk := by
  intro t h
  unfold State.placeAll at h
  dsimp only at h
  split at h
  · contradiction
  · split at h
    · exact memOk_State_placeRounds _ _ _ _ _ _ hs t h
    · exact memOk_State_placeWideTeams _ _ _ _ _ hs t h

@[simp] theorem memOk_State_emptied (s : State) (p : Nat) (size : Nat) (hs : s.MemOk) :
    (State.emptied s p size).MemOk := by
  unfold State.emptied
  simp +contextual (maxDischargeDepth := 20) [*]

@[simp] theorem memOk_State_offer (s : State) (p : Nat) (est : Nat) (hs : s.MemOk) :
    (State.offer s p est).1.MemOk := by
  unfold State.offer
  try dsimp only
  (repeat' split) <;> first | assumption | (simp +contextual (maxDischargeDepth := 20) [*]; done)

@[simp] theorem memOk_State_prefetchTo (s : State) (c : Nat) (n : Nat) (team : Nat) (hs : s.MemOk) :
    (State.prefetchTo s c n team).MemOk := by
  unfold State.prefetchTo
  simp +contextual (maxDischargeDepth := 20) [*]

@[simp] theorem memOk_State_placeAdmitted (s : State) (p est : Nat) (placed : State → Option State) (hs : s.MemOk)
    (hp : ∀ s t, s.MemOk → placed s = some t → t.MemOk) : (State.placeAdmitted s p est placed).1.MemOk := by
  unfold State.placeAdmitted
  dsimp only
  split
  · exact hs
  · have h1 : (s.offer p est).1.MemOk := by simp [hs]
    split
    · cases h : placed (s.offer p est).1 with
      | none => exact h1
      | some t => exact hp _ _ h1 h
    · exact h1

@[simp] theorem memOk_State_sendOne (s : State) (p size n : Nat) (l : Launch) (hs : s.MemOk) :
    (State.sendOne s p size n l).1.MemOk := by
  have h1 := memOk_State_placeAdmitted s p (l.estimate * tcbTeams l.dw) (fun s => s.placeAll size n l) hs
    (fun s t h => memOk_State_placeAll s size n l h t)
  have h2 := memOk_State_placeAdmitted s p l.estimate (fun s => s.placeWide size n l l.nextTeam) hs
    (fun s t h => memOk_State_placeWide s size n l _ h t)
  unfold State.sendOne
  dsimp only
  (repeat' split) <;> simp [hs, h1, h2]

@[simp] theorem memOk_State_sendFirst (s : State) (p size : Nat) (ns : List Nat) (hs : s.MemOk) :
    (State.sendFirst s p size ns).1.MemOk := by
  induction ns generalizing s with
  | nil => exact hs
  | cons n ns ih =>
    unfold State.sendFirst
    split
    · exact ih _ hs
    · dsimp only
      split
      · simp [hs]
      · split
        · simp [hs]
        · exact ih _ (by simp [hs])

@[simp] theorem memOk_State_recall (s : State) (p : Nat) (x : Partition) (hs : s.MemOk) :
    (State.recall s p x).1.MemOk := by
  unfold State.recall
  (repeat' split) <;> simp +contextual (maxDischargeDepth := 20) [hs]

@[simp] theorem memOk_State_nextSend (s : State) (p : Nat) (hs : s.MemOk) : (State.nextSend s p).1.MemOk := by
  unfold State.nextSend
  split
  · exact hs
  · split
    · exact hs
    · dsimp only
      split <;> simp [hs]

@[simp] theorem memOk_State_senders (s : State) (d : Nat) (hs : s.MemOk) : (State.senders s d).1.MemOk := by
  unfold State.senders
  refine foldl_fst_memOk _ _ _ (fun x y h => ?_) hs
  dsimp only
  split <;> simp [h]

@[simp] theorem memOk_State_decision (s : State) (d : Nat) (hs : s.MemOk) :
    (State.decision s d).1.MemOk := by
  unfold State.decision
  try dsimp only
  (repeat' split) <;> first | assumption | (simp +contextual (maxDischargeDepth := 20) [*]; done)

@[simp] theorem memOk_State_dispatchDecision (s : State) (d : Nat) (hs : s.MemOk) :
    (State.dispatchDecision s d).MemOk := by
  unfold State.dispatchDecision
  simp +contextual (maxDischargeDepth := 20) [*]

@[simp] theorem memOk_execDispatchDecision (die : Nat) (s : State) (hs : s.MemOk) :
    OutOk (execDispatchDecision die s) := by
  unfold execDispatchDecision
  simp +contextual (maxDischargeDepth := 20) [*]

@[simp] theorem memOk_State_holdTimeout (s : State) (p : Nat) (hs : s.MemOk) :
    (State.holdTimeout s p).MemOk := by
  unfold State.holdTimeout
  try dsimp only
  (repeat' split) <;> first | assumption | (simp +contextual (maxDischargeDepth := 20) [*]; done)

@[simp] theorem memOk_execDispatchHoldTimeout (s : State) (hs : s.MemOk) :
    OutOk (execDispatchHoldTimeout s) := by
  unfold execDispatchHoldTimeout
  simp +contextual (maxDischargeDepth := 20) [*]

@[simp] theorem memOk_State_prefetchRequest (s : State) (c : Nat) (hs : s.MemOk) :
    (State.prefetchRequest s c).MemOk := by
  unfold State.prefetchRequest
  try dsimp only
  (repeat' split) <;> first | assumption | (simp +contextual (maxDischargeDepth := 20) [*]; done)

@[simp] theorem memOk_execPrefetchRequest (core : Nat) (s : State) (hs : s.MemOk) :
    OutOk (execPrefetchRequest core s) := by
  unfold execPrefetchRequest
  simp +contextual (maxDischargeDepth := 20) [*]

@[simp] theorem memOk_State_teamPlacement (s : State) (c : Nat) (hs : s.MemOk) : (State.teamPlacement s c).MemOk := by
  have h1 (p est : Nat) (l : Launch) (y : Prefetched) :
      (s.placeAdmitted p est (fun s => s.placeTeam c y.launch l y.team)).1.MemOk :=
    memOk_State_placeAdmitted s p est _ hs (fun s t h => memOk_State_placeTeam s c y.launch l y.team h t)
  unfold State.teamPlacement
  (repeat' split) <;> (try dsimp only) <;> (repeat' split) <;> first | exact hs | simp [h1]

@[simp] theorem memOk_execTeamPlacement (core : Nat) (s : State) (hs : s.MemOk) :
    OutOk (execTeamPlacement core s) := by
  unfold execTeamPlacement
  simp +contextual (maxDischargeDepth := 20) [*]

@[simp] theorem memOk_State_sendKind (s : State) (p : Nat) (kind : Launch → Bool) (hs : s.MemOk) :
    (State.sendKind s p kind).MemOk := by
  unfold State.sendKind
  try dsimp only
  (repeat' split) <;> first | assumption | (simp +contextual (maxDischargeDepth := 20) [*]; done)

@[simp] theorem memOk_execWideTeamPlacement (part : Nat) (s : State) (hs : s.MemOk) :
    OutOk (execWideTeamPlacement part s) := by
  unfold execWideTeamPlacement
  simp +contextual (maxDischargeDepth := 20) [*]

@[simp] theorem memOk_execCoresidentPlacement (part : Nat) (s : State) (hs : s.MemOk) :
    OutOk (execCoresidentPlacement part s) := by
  unfold execCoresidentPlacement
  simp +contextual (maxDischargeDepth := 20) [*]

@[simp] theorem memOk_State_launchComplete (s : State) (p : Nat) (hs : s.MemOk) :
    (State.launchComplete s p).MemOk := by
  unfold State.launchComplete
  try dsimp only
  (repeat' split) <;> first | assumption | (simp +contextual (maxDischargeDepth := 20) [*]; done)

@[simp] theorem memOk_execLaunchComplete (part : Nat) (s : State) (hs : s.MemOk) :
    OutOk (execLaunchComplete part s) := by
  unfold execLaunchComplete
  simp +contextual (maxDischargeDepth := 20) [*]

@[simp] theorem memOk_State_windowStart (s : State) (hs : s.MemOk) :
    (State.windowStart s).MemOk := by
  unfold State.windowStart
  simp +contextual (maxDischargeDepth := 20) [*]

@[simp] theorem memOk_execEnergyWindowStart (s : State) (hs : s.MemOk) :
    OutOk (execEnergyWindowStart s) := by
  unfold execEnergyWindowStart
  simp +contextual (maxDischargeDepth := 20) [*]

@[simp] theorem memOk_State_waitOn (s : State) (c slot : Nat) (g : Gang) (x : Nat × Place) (hs : s.MemOk) :
    (State.waitOn s c slot g x).MemOk := by
  unfold State.waitOn
  (repeat' split) <;> simp +contextual (maxDischargeDepth := 20) [hs]

@[simp] theorem memOk_State_waitAgain (s : State) (c slot : Nat) (g : Gang) (cs : List (Nat × Check)) (hs : s.MemOk) :
    (State.waitAgain s c slot g cs).MemOk := by
  unfold State.waitAgain
  split
  · simp [hs]
  · have h1 : ((oksOf cs).foldl (fun s x => s.waitOn c slot g x) ((badsOf cs).foldl State.noteBad s)).MemOk :=
      foldl_memOk _ _ _ (fun s x h => memOk_State_waitOn s c slot g x h)
        (foldl_memOk _ _ _ (fun s x h => memOk_State_noteBad h x) hs)
    dsimp only
    (repeat' split) <;> first | exact h1 | (simp [h1]; done) | exact foldl_memOk _ _ _ (fun s x h => memOk_State_fqPost s g.part x h) h1

@[simp] theorem memOk_State_rewait (s : State) (c slot : Nat) (hs : s.MemOk) :
    (State.rewait s c slot).MemOk := by
  unfold State.rewait
  (repeat' split) <;> simp [hs]

@[simp] theorem memOk_State_woken (s : State) (c slot l : Nat) (g : Gang) (w : BWait) (hs : s.MemOk) :
    (State.woken s c slot l g w).MemOk := by
  unfold State.woken
  dsimp only
  split <;> simp +contextual (maxDischargeDepth := 20) [hs]

@[simp] theorem memOk_State_wakeOne (s : State) (c : Nat) (slot : Nat) (l : Nat) (hs : s.MemOk) :
    (State.wakeOne s c slot l).MemOk := by
  unfold State.wakeOne
  (repeat' split) <;> first | exact hs | simp [hs] | skip
  all_goals
    have h1 := memOk_of_fst (by assumption) (memOk_State_objRead s c _ _ hs)
    simp [h1]

@[simp] theorem memOk_State_bwaitWake (s : State) (c : Nat) (slot : Nat) (hs : s.MemOk) :
    (State.bwaitWake s c slot).MemOk := by
  unfold State.bwaitWake
  try dsimp only
  (repeat' split) <;> first | assumption | (simp +contextual (maxDischargeDepth := 20) [*]; done)

@[simp] theorem memOk_execBwaitWake (core : Nat) (slot : Nat) (s : State) (hs : s.MemOk) :
    OutOk (execBwaitWake core slot s) := by
  unfold execBwaitWake
  simp +contextual (maxDischargeDepth := 20) [*]

@[simp] theorem memOk_State_wdogTrap (s : State) (c : Nat) (slot : Nat) (hs : s.MemOk) :
    (State.wdogTrap s c slot).MemOk := by
  unfold State.wdogTrap
  try dsimp only
  (repeat' split) <;> first | assumption | (simp +contextual (maxDischargeDepth := 20) [*]; done)

@[simp] theorem memOk_execWdog (core : Nat) (slot : Nat) (s : State) (hs : s.MemOk) :
    OutOk (execWdog core slot s) := by
  unfold execWdog
  simp +contextual (maxDischargeDepth := 20) [*]

@[simp] theorem memOk_State_lightFault (s : State) (c : Nat) (slot : Nat) (hs : s.MemOk) :
    (State.lightFault s c slot).MemOk := by
  unfold State.lightFault
  try dsimp only
  (repeat' split) <;> first | assumption | (simp +contextual (maxDischargeDepth := 20) [*]; done)

@[simp] theorem memOk_execLightFault (core : Nat) (slot : Nat) (s : State) (hs : s.MemOk) :
    OutOk (execLightFault core slot s) := by
  unfold execLightFault
  simp +contextual (maxDischargeDepth := 20) [*]

@[simp] theorem memOk_State_nresRetry (s : State) (c : Nat) (slot : Nat) (hs : s.MemOk) :
    (State.nresRetry s c slot).MemOk := by
  unfold State.nresRetry
  try dsimp only
  (repeat' split) <;> first | assumption | (simp +contextual (maxDischargeDepth := 20) [*]; done)

@[simp] theorem memOk_execNresRetry (core : Nat) (slot : Nat) (s : State) (hs : s.MemOk) :
    OutOk (execNresRetry core slot s) := by
  unfold execNresRetry
  simp +contextual (maxDischargeDepth := 20) [*]

@[simp] theorem memOk_State_fetchFill (s : State) (c : Nat) (hs : s.MemOk) :
    (State.fetchFill s c).MemOk := by
  unfold State.fetchFill
  try dsimp only
  (repeat' split) <;> first | assumption | (simp +contextual (maxDischargeDepth := 20) [*]; done)

@[simp] theorem memOk_execFetchFill (core : Nat) (s : State) (hs : s.MemOk) :
    OutOk (execFetchFill core s) := by
  unfold execFetchFill
  simp +contextual (maxDischargeDepth := 20) [*]

@[simp] theorem memOk_State_promotion (s : State) (c : Nat) (slot : Nat) (hs : s.MemOk) :
    (State.promotion s c slot).MemOk := by
  unfold State.promotion
  try dsimp only
  (repeat' split) <;> first | assumption | (simp +contextual (maxDischargeDepth := 20) [*]; done)

@[simp] theorem memOk_execPromotion (core : Nat) (slot : Nat) (s : State) (hs : s.MemOk) :
    OutOk (execPromotion core slot s) := by
  unfold execPromotion
  simp +contextual (maxDischargeDepth := 20) [*]

@[simp] theorem memOk_State_promotionTimeout (s : State) (c : Nat) (slot : Nat) (hs : s.MemOk) :
    (State.promotionTimeout s c slot).MemOk := by
  unfold State.promotionTimeout
  try dsimp only
  (repeat' split) <;> first | assumption | (simp +contextual (maxDischargeDepth := 20) [*]; done)

@[simp] theorem memOk_execPromotionTimeout (core : Nat) (slot : Nat) (s : State) (hs : s.MemOk) :
    OutOk (execPromotionTimeout core slot s) := by
  unfold execPromotionTimeout
  simp +contextual (maxDischargeDepth := 20) [*]

end Sys2Proof.Machine
end

