-- ==== Sys2Proof/Laws/KeptControl.lean ====
section
/-! SUPPORT. Partition control, exchanges, resets and rings keep the canonical form of memory. -/

namespace Sys2Proof.Machine

set_option linter.all false
@[simp] theorem memOk_State_removePart (s : State) (p : Nat) (hs : s.MemOk) :
    (State.removePart s p).MemOk := by
  unfold State.removePart
  simp +contextual (maxDischargeDepth := 20) [*]

@[simp] theorem memOk_State_makePart (s : State) (p : Nat) (n : Nat) (hs : s.MemOk) :
    (State.makePart s p n).MemOk := by
  unfold State.makePart
  simp +contextual (maxDischargeDepth := 20) [*]

@[simp] theorem memOk_State_partmapWrite (s : State) (val : DWord) (hs : s.MemOk) :
    (State.partmapWrite s val).MemOk := by
  unfold State.partmapWrite
  simp +contextual (maxDischargeDepth := 20) [*]

@[simp] theorem memOk_execPartmapWrite (val : DWord) (s : State) (hs : s.MemOk) :
    OutOk (execPartmapWrite val s) := by
  unfold execPartmapWrite
  simp +contextual (maxDischargeDepth := 20) [*]

@[simp] theorem memOk_State_qbanksWrite (s : State) (p : Nat) (val : DWord) (hs : s.MemOk) :
    (State.qbanksWrite s p val).MemOk := by
  unfold State.qbanksWrite
  try dsimp only
  (repeat' split) <;> first | assumption | (simp +contextual (maxDischargeDepth := 20) [*]; done)

@[simp] theorem memOk_execQbanksWrite (part : Nat) (val : DWord) (s : State) (hs : s.MemOk) :
    OutOk (execQbanksWrite part val s) := by
  unfold execQbanksWrite
  simp +contextual (maxDischargeDepth := 20) [*]

@[simp] theorem memOk_State_modPartCores (s : State) (p : Nat) (f : Core → Core) (hs : s.MemOk) :
    (State.modPartCores s p f).MemOk := by
  unfold State.modPartCores
  simp +contextual (maxDischargeDepth := 20) [*]

@[simp] theorem memOk_State_freeze (s : State) (p : Nat) (hs : s.MemOk) :
    (State.freeze s p).MemOk := by
  unfold State.freeze
  try dsimp only
  (repeat' split) <;> first | assumption | (simp +contextual (maxDischargeDepth := 20) [*]; done)

@[simp] theorem memOk_State_setStop (s : State) (p : Nat) (hs : s.MemOk) :
    (State.setStop s p).MemOk := by
  unfold State.setStop
  try dsimp only
  (repeat' split) <;> first | assumption | (simp +contextual (maxDischargeDepth := 20) [*]; done)

@[simp] theorem memOk_execStop (who : Party) (part : Nat) (s : State) (hs : s.MemOk) :
    OutOk (execStop who part s) := by
  unfold execStop
  simp +contextual (maxDischargeDepth := 20) [*]

@[simp] theorem memOk_execFrz (who : Party) (part : Nat) (s : State) (hs : s.MemOk) :
    OutOk (execFrz who part s) := by
  unfold execFrz
  simp +contextual (maxDischargeDepth := 20) [*]

@[simp] theorem memOk_State_stopdlExpire (s : State) (p : Nat) (hs : s.MemOk) :
    (State.stopdlExpire s p).MemOk := by
  unfold State.stopdlExpire
  try dsimp only
  (repeat' split) <;> first | assumption | (simp +contextual (maxDischargeDepth := 20) [*]; done)

@[simp] theorem memOk_execStopdlExpire (part : Nat) (s : State) (hs : s.MemOk) :
    OutOk (execStopdlExpire part s) := by
  unfold execStopdlExpire
  simp +contextual (maxDischargeDepth := 20) [*]

@[simp] theorem memOk_State_clearStop (s : State) (p : Nat) (stop : Bool) (frz : Bool) (hs : s.MemOk) :
    (State.clearStop s p stop frz).MemOk := by
  unfold State.clearStop
  try dsimp only
  (repeat' split) <;> first | assumption | (simp +contextual (maxDischargeDepth := 20) [*]; done)

@[simp] theorem memOk_execPartitionResume (who : Party) (part : Nat) (s : State) (hs : s.MemOk) :
    OutOk (execPartitionResume who part s) := by
  unfold execPartitionResume
  simp +contextual (maxDischargeDepth := 20) [*]

@[simp] theorem memOk_State_freeSeals (s : State) (ctx : Nat) (hs : s.MemOk) :
    (State.freeSeals s ctx).MemOk := by
  unfold State.freeSeals
  try dsimp only
  (repeat' split) <;> first | assumption | (simp +contextual (maxDischargeDepth := 20) [*]; done)

@[simp] theorem memOk_State_ctxCreate (s : State) (ctx : Nat) (hs : s.MemOk) :
    (State.ctxCreate s ctx).MemOk := by
  unfold State.ctxCreate
  simp +contextual (maxDischargeDepth := 20) [*]

@[simp] theorem memOk_State_ctxFree (s : State) (ctx : Nat) (hs : s.MemOk) :
    (State.ctxFree s ctx).MemOk := by
  unfold State.ctxFree
  simp +contextual (maxDischargeDepth := 20) [*]

@[simp] theorem memOk_State_stateWrite (s : State) (ctx : Nat) (val : Nat) (hs : s.MemOk) :
    (State.stateWrite s ctx val).MemOk := by
  unfold State.stateWrite
  try dsimp only
  (repeat' split) <;> first | assumption | (simp +contextual (maxDischargeDepth := 20) [*]; done)

@[simp] theorem memOk_State_stateWriteBy (s : State) (who : Party) (part : Nat) (ctx : Nat) (val : Nat)
    (hs : s.MemOk) :
    (State.stateWriteBy s who part ctx val).MemOk := by
  unfold State.stateWriteBy
  simp +contextual (maxDischargeDepth := 20) [*]

@[simp] theorem memOk_execContextCreate (who : Party) (part : Nat) (ctx : Nat) (s : State) (hs : s.MemOk) :
    OutOk (execContextCreate who part ctx s) := by
  unfold execContextCreate
  simp +contextual (maxDischargeDepth := 20) [*]

@[simp] theorem memOk_execContextFree (who : Party) (part : Nat) (ctx : Nat) (s : State) (hs : s.MemOk) :
    OutOk (execContextFree who part ctx s) := by
  unfold execContextFree
  simp +contextual (maxDischargeDepth := 20) [*]

@[simp] theorem memOk_State_purge (s : State) (p : Nat) (frames : List (Nat × Nat)) (hs : s.MemOk) :
    (State.purge s p frames).MemOk := by
  unfold State.purge
  simp +contextual (maxDischargeDepth := 20) [*]

@[simp] theorem memOk_State_shootdown (s : State) (p : Nat) (hs : s.MemOk) :
    (State.shootdown s p).MemOk := by
  unfold State.shootdown
  try dsimp only
  (repeat' split) <;> first | assumption | (simp +contextual (maxDischargeDepth := 20) [*]; done)

@[simp] theorem memOk_State_sdWrite (s : State) (p : Nat) (val : DWord) (hs : s.MemOk) :
    (State.sdWrite s p val).MemOk := by
  unfold State.sdWrite
  try dsimp only
  (repeat' split) <;> first | assumption | (simp +contextual (maxDischargeDepth := 20) [*]; done)

@[simp] theorem memOk_execShootdown (who : Party) (part : Nat) (val : DWord) (s : State) (hs : s.MemOk) :
    OutOk (execShootdown who part val s) := by
  unfold execShootdown
  simp +contextual (maxDischargeDepth := 20) [*]

@[simp] theorem memOk_execShootdownPurge (who : Party) (part : Nat) (val : DWord) (s : State) (hs : s.MemOk) :
    OutOk (execShootdownPurge who part val s) := by
  unfold execShootdownPurge
  simp +contextual (maxDischargeDepth := 20) [*]

@[simp] theorem memOk_State_retryCtx (s : State) (ctx : Nat) (hs : s.MemOk) :
    (State.retryCtx s ctx).MemOk := by
  unfold State.retryCtx
  simp +contextual (maxDischargeDepth := 20) [*]

@[simp] theorem memOk_State_resumeEnd (s : State) (ctx : Nat) (hs : s.MemOk) :
    (State.resumeEnd s ctx).MemOk := by
  unfold State.resumeEnd
  simp +contextual (maxDischargeDepth := 20) [*]

@[simp] theorem memOk_execResume (who : Party) (part : Nat) (ctx : Nat) (s : State) (hs : s.MemOk) :
    OutOk (execResume who part ctx s) := by
  unfold execResume
  simp +contextual (maxDischargeDepth := 20) [*]

@[simp] theorem memOk_execResumeEnd (who : Party) (part : Nat) (ctx : Nat) (s : State) (hs : s.MemOk) :
    OutOk (execResumeEnd who part ctx s) := by
  unfold execResumeEnd
  simp +contextual (maxDischargeDepth := 20) [*]

@[simp] theorem memOk_State_kill (s : State) (ctx : Nat) (hs : s.MemOk) :
    (State.kill s ctx).MemOk := by
  unfold State.kill
  simp +contextual (maxDischargeDepth := 20) [*]

@[simp] theorem memOk_execKill (who : Party) (part : Nat) (ctx : Nat) (s : State) (hs : s.MemOk) :
    OutOk (execKill who part ctx s) := by
  unfold execKill
  simp +contextual (maxDischargeDepth := 20) [*]

@[simp] theorem memOk_State_writeFree (s : State) (a : Nat) (n : Nat) (hs : s.MemOk) :
    (State.writeFree s a n).MemOk := by
  unfold State.writeFree
  simp +contextual (maxDischargeDepth := 20) [*]

@[simp] theorem memOk_State_saveHandlers (s : State) (c p hs ctx : Nat) (h : s.MemOk) :
    (State.saveHandlers s c p hs ctx).MemOk := by
  unfold State.saveHandlers
  refine foldl_memOk _ _ _ (fun x y h => ?_) h
  dsimp only
  split <;> simp [h]

@[simp] theorem memOk_State_l1ToHomes (s : State) (c : Nat) (hs : s.MemOk) :
    (State.l1ToHomes s c).MemOk := by
  unfold State.l1ToHomes
  simp +contextual (maxDischargeDepth := 20) [*]

@[simp] theorem memOk_State_saveOn (s : State) (p hs o c : Nat) (h : s.MemOk) : (State.saveOn s p hs o c).MemOk := by
  unfold State.saveOn
  dsimp only
  split <;> simp (maxDischargeDepth := 20) [h]

@[simp] theorem memOk_State_restoreOn (s : State) (i : Nat) (c : Nat) (hs : s.MemOk) :
    (State.restoreOn s i c).MemOk := by
  unfold State.restoreOn
  try dsimp only
  (repeat' split) <;> first | assumption | (simp +contextual (maxDischargeDepth := 20) [*]; done)

@[simp] theorem memOk_State_exchangeOn (s : State) (p : Nat) (x : Partition) (c : Nat) (hs : s.MemOk) :
    (State.exchangeOn s p x c).MemOk := by
  unfold State.exchangeOn
  dsimp only
  (repeat' split) <;> simp [hs]

@[simp] theorem memOk_State_exDone (s : State) (p : Nat) (code : Nat) (hs : s.MemOk) :
    (State.exDone s p code).MemOk := by
  unfold State.exDone
  simp +contextual (maxDischargeDepth := 20) [*]

@[simp] theorem memOk_State_exchange (s : State) (p : Nat) (hs : s.MemOk) :
    (State.exchange s p).MemOk := by
  unfold State.exchange
  try dsimp only
  (repeat' split) <;> first | assumption | (simp +contextual (maxDischargeDepth := 20) [*]; done)

@[simp] theorem memOk_State_writeImage (s : State) (base hs bank ctx : Nat) (k : Core) (h : s.MemOk) :
    (State.writeImage s base hs bank ctx k).MemOk := by
  unfold State.writeImage
  dsimp only
  refine foldl_memOk _ _ _ (fun x y h => by simp [h]) ?_
  refine foldl_memOk _ _ _ (fun x y h => by simp [h]) ?_
  refine memOk_State_writeFree _ _ _ ?_
  refine foldl_memOk _ _ _ (fun x y h => by simp [h]) ?_
  refine foldl_memOk _ _ _ (fun x y h => by simp [h]) ?_
  refine foldl_memOk _ _ _ (fun x y h => by simp [h]) ?_
  refine foldl_memOk _ _ _ (fun x y h => by simp [h]) ?_
  exact foldl_memOk _ _ _ (fun x y h => by simp [h]) h

@[simp] theorem memOk_State_spillOn (s : State) (p : Nat) (x : Partition) (o c : Nat) (hs : s.MemOk) :
    (State.spillOn s p x o c).MemOk := by
  unfold State.spillOn
  dsimp only
  split
  · exact hs
  · exact memOk_State_writeImage s _ _ _ _ _ hs

@[simp] theorem memOk_State_spill (s : State) (p : Nat) (hs : s.MemOk) :
    (State.spill s p).MemOk := by
  unfold State.spill
  try dsimp only
  (repeat' split) <;> first | assumption | (simp +contextual (maxDischargeDepth := 20) [*]; done)

@[simp] theorem memOk_State_fillOn (s : State) (p n : Nat) (x : Partition) (y : Spilled) (hs : s.MemOk) :
    (State.fillOn s p n x y).MemOk := by
  unfold State.fillOn
  dsimp only
  split
  · exact memOk_State_modCore _ _ _ (foldl_memOk _ _ _ (fun s z h => by simp [h]) hs)
  · exact hs

@[simp] theorem memOk_State_fill (s : State) (p : Nat) (hs : s.MemOk) :
    (State.fill s p).MemOk := by
  unfold State.fill
  split
  · exact hs
  · dsimp only
    have h1 (n : Nat) (x : Partition) (ys : List Spilled) :
        (ys.foldl (fun (s : State) y => s.fillOn p n x y) s).MemOk :=
      foldl_memOk _ _ _ (fun s y h => memOk_State_fillOn s p n x y h) hs
    (repeat' split) <;> first | exact memOk_State_exDone _ _ _ hs | exact memOk_State_exDone _ _ _ (h1 _ _ _)

@[simp] theorem memOk_State_exWrite (s : State) (p : Nat) (val : DWord) (hs : s.MemOk) :
    (State.exWrite s p val).MemOk := by
  unfold State.exWrite
  try dsimp only
  (repeat' split) <;> first | assumption | (simp +contextual (maxDischargeDepth := 20) [*]; done)

@[simp] theorem memOk_State_exRun (s : State) (p : Nat) (hs : s.MemOk) :
    (State.exRun s p).MemOk := by
  unfold State.exRun
  try dsimp only
  (repeat' split) <;> first | assumption | (simp +contextual (maxDischargeDepth := 20) [*]; done)

@[simp] theorem memOk_State_exEvent (s : State) (who : Party) (p : Nat) (val : DWord) (hs : s.MemOk) :
    (State.exEvent s who p val).MemOk := by
  unfold State.exEvent
  try dsimp only
  (repeat' split) <;> first | assumption | (simp +contextual (maxDischargeDepth := 20) [*]; done)

@[simp] theorem memOk_execExchange (who : Party) (part : Nat) (val : DWord) (s : State) (hs : s.MemOk) :
    OutOk (execExchange who part val s) := by
  unfold execExchange
  simp +contextual (maxDischargeDepth := 20) [*]

@[simp] theorem memOk_execSpill (who : Party) (part : Nat) (val : DWord) (s : State) (hs : s.MemOk) :
    OutOk (execSpill who part val s) := by
  unfold execSpill
  simp +contextual (maxDischargeDepth := 20) [*]

@[simp] theorem memOk_execFill (who : Party) (part : Nat) (val : DWord) (s : State) (hs : s.MemOk) :
    OutOk (execFill who part val s) := by
  unfold execFill
  simp +contextual (maxDischargeDepth := 20) [*]

@[simp] theorem memOk_State_returnTeams (s : State) (xs : List Prefetched) (hs : s.MemOk) :
    (State.returnTeams s xs).MemOk := by
  unfold State.returnTeams
  simp +contextual (maxDischargeDepth := 20) [*]

@[simp] theorem memOk_State_dropInterrupted (s : State) (hs : s.MemOk) :
    (State.dropInterrupted s).MemOk := by
  unfold State.dropInterrupted
  simp +contextual (maxDischargeDepth := 20) [*]

@[simp] theorem memOk_State_spillL1 (s : State) (c : Nat) (hs : s.MemOk) :
    (State.spillL1 s c).MemOk := by
  unfold State.spillL1
  simp +contextual (maxDischargeDepth := 20) [*]

@[simp] theorem memOk_State_dieDown (s : State) (d : Nat) (hs : s.MemOk) :
    (State.dieDown s d).MemOk := by
  unfold State.dieDown
  simp +contextual (maxDischargeDepth := 20) [*]

@[simp] theorem memOk_State_endPartWork (s : State) (hit : Nat → Bool) (hs : s.MemOk) :
    (State.endPartWork s hit).MemOk := by
  unfold State.endPartWork
  simp +contextual (maxDischargeDepth := 20) [*]

@[simp] theorem memOk_State_beginReset (s : State) (cause : Nat) (kind : Nat) (target : Nat) (hs : s.MemOk) :
    (State.beginReset s cause kind target).MemOk := by
  unfold State.beginReset
  simp +contextual (maxDischargeDepth := 20) [*]

@[simp] theorem memOk_State_resetRequest (s : State) (kind : Nat) (target : Nat) (hs : s.MemOk) :
    (State.resetRequest s kind target).MemOk := by
  unfold State.resetRequest
  simp +contextual (maxDischargeDepth := 20) [*]

@[simp] theorem memOk_execResetCore (target : Nat) (s : State) (hs : s.MemOk) :
    OutOk (execResetCore target s) := by
  unfold execResetCore
  simp +contextual (maxDischargeDepth := 20) [*]

@[simp] theorem memOk_execResetCluster (target : Nat) (s : State) (hs : s.MemOk) :
    OutOk (execResetCluster target s) := by
  unfold execResetCluster
  simp +contextual (maxDischargeDepth := 20) [*]

@[simp] theorem memOk_execResetDie (target : Nat) (s : State) (hs : s.MemOk) :
    OutOk (execResetDie target s) := by
  unfold execResetDie
  simp +contextual (maxDischargeDepth := 20) [*]

@[simp] theorem memOk_State_moduleFault (s : State) (hs : s.MemOk) :
    (State.moduleFault s).MemOk := by
  unfold State.moduleFault
  simp +contextual (maxDischargeDepth := 20) [*]

@[simp] theorem memOk_State_heard (s : State) (kind target : Nat) (hs : s.MemOk) :
    (State.heard s kind target).MemOk := by
  exact hs

@[simp] theorem memOk_State_deviceReset (s : State) (cause : Nat) (kind : PartKind) (target : Nat) (hs : s.MemOk) :
    (State.deviceReset s cause kind target).MemOk := by
  unfold State.deviceReset
  simp +contextual (maxDischargeDepth := 20) [*]

@[simp] theorem memOk_execUncorrectableStateError (kind : PartKind) (target : Nat) (s : State) (hs : s.MemOk) :
    OutOk (execUncorrectableStateError kind target s) := by
  unfold execUncorrectableStateError
  simp +contextual (maxDischargeDepth := 20) [*]

@[simp] theorem memOk_execUnresponsiveTimeout (kind : PartKind) (target : Nat) (s : State) (hs : s.MemOk) :
    OutOk (execUnresponsiveTimeout kind target s) := by
  unfold execUnresponsiveTimeout
  simp +contextual (maxDischargeDepth := 20) [*]

@[simp] theorem memOk_State_nextReset (s : State) (hs : s.MemOk) :
    (State.nextReset s).MemOk := by
  unfold State.nextReset
  try dsimp only
  (repeat' split) <;> first | assumption | (simp +contextual (maxDischargeDepth := 20) [*]; done)

@[simp] theorem memOk_State_resetComplete (s : State) (hs : s.MemOk) :
    (State.resetComplete s).MemOk := by
  unfold State.resetComplete
  simp +contextual (maxDischargeDepth := 20) [*]

@[simp] theorem memOk_execResetComplete (s : State) (hs : s.MemOk) :
    OutOk (execResetComplete s) := by
  unfold execResetComplete
  simp +contextual (maxDischargeDepth := 20) [*]

@[simp] theorem memOk_State_accept (s : State) (p : Nat) (r : Nat) (x : Ring) (hs : s.MemOk) :
    (State.accept s p r x).MemOk := by
  unfold State.accept
  simp +contextual (maxDischargeDepth := 20) [*]

@[simp] theorem memOk_State_takeItems (s : State) (p r n : Nat) (hs : s.MemOk) : (State.takeItems s p r n).MemOk := by
  induction n generalizing s with
  | zero => exact hs
  | succ n ih =>
    unfold State.takeItems
    (repeat' split) <;> (try dsimp only) <;> (repeat' split) <;> first | exact hs | exact ih _ (by simp [hs]) | simp [hs]

@[simp] theorem memOk_State_checkRing (s : State) (p r : Nat) (hs : s.MemOk) : (State.checkRing s p r).MemOk := by
  unfold State.checkRing
  exact memOk_State_takeItems _ _ _ _ hs

@[simp] theorem memOk_State_ringRecheck (s : State) (p : Nat) (hs : s.MemOk) : (State.ringRecheck s p).MemOk := by
  unfold State.ringRecheck
  split
  · exact hs
  · refine foldl_memOk _ _ _ (fun x y h => ?_) hs
    (repeat' split) <;> simp [h]

@[simp] theorem memOk_execRingRecheck (s : State) (hs : s.MemOk) :
    OutOk (execRingRecheck s) := by
  unfold execRingRecheck
  simp +contextual (maxDischargeDepth := 20) [*]

@[simp] theorem memOk_State_landedIn (s : State) (p a n : Nat) (hs : s.MemOk) : (State.landedIn s p a n).MemOk := by
  unfold State.landedIn
  split
  · exact hs
  · refine foldl_memOk _ _ _ (fun x y h => ?_) hs
    (repeat' split) <;> simp [h]

@[simp] theorem memOk_State_landed (s : State) (a : Nat) (n : Nat) (hs : s.MemOk) :
    (State.landed s a n).MemOk := by
  unfold State.landed
  simp +contextual (maxDischargeDepth := 20) [*]

@[simp] theorem memOk_State_kick (s : State) (p : Nat) (r : Nat) (producer : Nat) (hs : s.MemOk) :
    (State.kick s p r producer).MemOk := by
  unfold State.kick
  try dsimp only
  (repeat' split) <;> first | assumption | (simp +contextual (maxDischargeDepth := 20) [*]; done)

@[simp] theorem memOk_State_kickOf (s : State) (payload : List Byte) (hs : s.MemOk) :
    (State.kickOf s payload).MemOk := by
  unfold State.kickOf
  simp +contextual (maxDischargeDepth := 20) [*]

@[simp] theorem memOk_State_completeItem (s : State) (p : Nat) (j : Job) (status : Nat) (hs : s.MemOk) :
    (State.completeItem s p j status).MemOk := by
  unfold State.completeItem
  try dsimp only
  (repeat' split) <;> first | assumption | (simp +contextual (maxDischargeDepth := 20) [*]; done)

@[simp] theorem memOk_State_runJob (s : State) (p : Nat) (mine : Nat → Bool) (run : State → Job → State × Nat)
    (hs : s.MemOk) (hr : ∀ s j, s.MemOk → (run s j).1.MemOk) : (State.runJob s p mine run).MemOk := by
  unfold State.runJob
  (repeat' split) <;> (try dsimp only) <;> (repeat' split) <;>
    first | exact hs | exact memOk_State_completeItem _ _ _ _ (hr _ _ (by simp [hs]))

@[simp] theorem memOk_execSubmit (part : Nat) (s : State) (hs : s.MemOk) :
    OutOk (execSubmit part s) := by
  unfold execSubmit
  simp +contextual (maxDischargeDepth := 20) [*]

@[simp] theorem memOk_execNop (part : Nat) (s : State) (hs : s.MemOk) :
    OutOk (execNop part s) := by
  unfold execNop
  simp +contextual (maxDischargeDepth := 20) [*]

@[simp] theorem memOk_execUnknownRingOp (part : Nat) (s : State) (hs : s.MemOk) :
    OutOk (execUnknownRingOp part s) := by
  unfold execUnknownRingOp
  simp +contextual (maxDischargeDepth := 20) [*]

end Sys2Proof.Machine
end

