-- ==== Sys2Proof/Laws/KeptSystem.lean ====
section
/-! SUPPORT. The board, the registers, the system instructions, the link and the agenda keep the canonical form of memory. -/

namespace Sys2Proof.Machine

set_option linter.all false
@[simp] theorem memOk_State_reply (s : State) (d : Nat) (status : Nat) (data : Nat → Byte) (hs : s.MemOk) :
    (State.reply s d status data).MemOk := by
  unfold State.reply
  simp +contextual (maxDischargeDepth := 20) [*]

@[simp] theorem memOk_State_retirePage (s : State) (d : Nat) (hs : s.MemOk) :
    (State.retirePage s d).MemOk := by
  unfold State.retirePage
  simp +contextual (maxDischargeDepth := 20) [*]

@[simp] theorem memOk_State_firmwareVersion (s : State) (d : Nat) (hs : s.MemOk) :
    (State.firmwareVersion s d).MemOk := by
  unfold State.firmwareVersion
  simp +contextual (maxDischargeDepth := 20) [*]

@[simp] theorem memOk_State_dieTelemetry (s : State) (d : Nat) (hs : s.MemOk) :
    (State.dieTelemetry s d).MemOk := by
  unfold State.dieTelemetry
  simp +contextual (maxDischargeDepth := 20) [*]

@[simp] theorem memOk_State_unknownOp (s : State) (d : Nat) (hs : s.MemOk) :
    (State.unknownOp s d).MemOk := by
  unfold State.unknownOp
  simp +contextual (maxDischargeDepth := 20) [*]

@[simp] theorem memOk_State_serve (s : State) (d : Nat) (mine : Nat → Bool) (k : Nat → State → State) (hs : s.MemOk)
    (hk : ∀ n s, s.MemOk → (k n s).MemOk) : (State.serve s d mine k).MemOk := by
  unfold State.serve
  (repeat' split) <;> first | exact hs | exact hk _ _ (by simp [hs])

@[simp] theorem memOk_State_mailboxOp (d : Nat) (op : Nat) (s : State) (hs : s.MemOk) :
    (State.mailboxOp d op s).MemOk := by
  unfold State.mailboxOp
  try dsimp only
  (repeat' split) <;> first | assumption | (simp +contextual (maxDischargeDepth := 20) [*]; done)

@[simp] theorem memOk_execMailboxTake (die : Nat) (s : State) (hs : s.MemOk) :
    OutOk (execMailboxTake die s) := by
  unfold execMailboxTake
  simp +contextual (maxDischargeDepth := 20) [*]

@[simp] theorem memOk_execRetirePage (die : Nat) (s : State) (hs : s.MemOk) :
    OutOk (execRetirePage die s) := by
  unfold execRetirePage
  simp +contextual (maxDischargeDepth := 20) [*]

@[simp] theorem memOk_execReadFirmwareVersion (die : Nat) (s : State) (hs : s.MemOk) :
    OutOk (execReadFirmwareVersion die s) := by
  unfold execReadFirmwareVersion
  simp +contextual (maxDischargeDepth := 20) [*]

@[simp] theorem memOk_execReadDieTelemetry (die : Nat) (s : State) (hs : s.MemOk) :
    OutOk (execReadDieTelemetry die s) := by
  unfold execReadDieTelemetry
  simp +contextual (maxDischargeDepth := 20) [*]

@[simp] theorem memOk_execMailboxUnknownOp (die : Nat) (s : State) (hs : s.MemOk) :
    OutOk (execMailboxUnknownOp die s) := by
  unfold execMailboxUnknownOp
  simp +contextual (maxDischargeDepth := 20) [*]

@[simp] theorem memOk_State_reportFrame (s : State) (addr : Nat) (hs : s.MemOk) :
    (State.reportFrame s addr).MemOk := by
  unfold State.reportFrame
  simp +contextual (maxDischargeDepth := 20) [*]

@[simp] theorem memOk_State_correctedError (s : State) (addr : Nat) (hs : s.MemOk) :
    (State.correctedError s addr).MemOk := by
  unfold State.correctedError
  simp +contextual (maxDischargeDepth := 20) [*]

@[simp] theorem memOk_State_memoryErrorAt (s : State) (addr : Nat) (corrected : Bool) (hs : s.MemOk) :
    (State.memoryErrorAt s addr corrected).MemOk := by
  unfold State.memoryErrorAt
  simp +contextual (maxDischargeDepth := 20) [*]

@[simp] theorem memOk_State_runImage (s : State) (image : List Byte) (copyB : Bool) (hs : s.MemOk) :
    (State.runImage s image copyB).MemOk := hs

@[simp] theorem memOk_State_memoryReady (s : State) (hs : s.MemOk) : (State.memoryReady s).MemOk := rfl

@[simp] theorem memOk_State_poweredOn (s : State) (hs : s.MemOk) : (State.poweredOn s).MemOk := rfl

@[simp] theorem memOk_State_boot (s : State) (hs : s.MemOk) :
    (State.boot s).MemOk := by
  unfold State.boot
  (repeat' split) <;> first | exact hs | simp [hs]

@[simp] theorem memOk_State_powerOn (s : State) (hs : s.MemOk) :
    (State.powerOn s).MemOk := by
  unfold State.powerOn
  (repeat' split) <;> first | exact hs | simp [hs]

@[simp] theorem memOk_execPowerOn (s : State) (hs : s.MemOk) :
    OutOk (execPowerOn s) := by
  unfold execPowerOn
  simp +contextual (maxDischargeDepth := 20) [*]

@[simp] theorem memOk_State_powerOff (s : State) (hs : s.MemOk) :
    (State.powerOff s).MemOk := by
  unfold State.powerOff
  simp +contextual (maxDischargeDepth := 20) [*]

@[simp] theorem memOk_execMainPowerOff (s : State) (hs : s.MemOk) :
    OutOk (execMainPowerOff s) := by
  unfold execMainPowerOff
  simp +contextual (maxDischargeDepth := 20) [*]

@[simp] theorem memOk_State_linkUp (s : State) (hs : s.MemOk) :
    (State.linkUp s).MemOk := by
  unfold State.linkUp
  simp +contextual (maxDischargeDepth := 20) [*]

@[simp] theorem memOk_execLinkUp (s : State) (hs : s.MemOk) :
    OutOk (execLinkUp s) := by
  unfold execLinkUp
  simp +contextual (maxDischargeDepth := 20) [*]

@[simp] theorem memOk_State_recoveryGo (s : State) (hs : s.MemOk) :
    (State.recoveryGo s).MemOk := by
  unfold State.recoveryGo
  (repeat' split) <;> first | exact hs | simp [hs]

@[simp] theorem memOk_execRecoveryGo (s : State) (hs : s.MemOk) :
    OutOk (execRecoveryGo s) := by
  unfold execRecoveryGo
  simp +contextual (maxDischargeDepth := 20) [*]

@[simp] theorem memOk_State_attest (s : State) (hs : s.MemOk) :
    (State.attest s).MemOk := by
  unfold State.attest
  simp +contextual (maxDischargeDepth := 20) [*]

@[simp] theorem memOk_execAttestationGo (s : State) (hs : s.MemOk) :
    OutOk (execAttestationGo s) := by
  unfold execAttestationGo
  simp +contextual (maxDischargeDepth := 20) [*]

@[simp] theorem memOk_State_countStretch (s : State) (n : Nat) (hs : s.MemOk) :
    (State.countStretch s n).MemOk := by
  unfold State.countStretch
  simp +contextual (maxDischargeDepth := 20) [*]

@[simp] theorem memOk_State_supplySag (s : State) (n : Nat) (hs : s.MemOk) :
    (State.supplySag s n).MemOk := by
  unfold State.supplySag
  simp +contextual (maxDischargeDepth := 20) [*]

@[simp] theorem memOk_execSupplySag (cluster : Nat) (s : State) (hs : s.MemOk) :
    OutOk (execSupplySag cluster s) := by
  unfold execSupplySag
  simp +contextual (maxDischargeDepth := 20) [*]

@[simp] theorem memOk_State_stretchEnd (s : State) (n : Nat) (hs : s.MemOk) :
    (State.stretchEnd s n).MemOk := by
  unfold State.stretchEnd
  simp +contextual (maxDischargeDepth := 20) [*]

@[simp] theorem memOk_execStretchEnd (cluster : Nat) (s : State) (hs : s.MemOk) :
    OutOk (execStretchEnd cluster s) := by
  unfold execStretchEnd
  simp +contextual (maxDischargeDepth := 20) [*]

@[simp] theorem memOk_State_smbusWord (s : State) (x : Nat) (hs : s.MemOk) :
    (State.smbusWord s x).MemOk := by
  unfold State.smbusWord
  simp +contextual (maxDischargeDepth := 20) [*]

@[simp] theorem memOk_execSmbusReadPhase (s : State) (hs : s.MemOk) :
    OutOk (execSmbusReadPhase s) := by
  unfold execSmbusReadPhase
  simp +contextual (maxDischargeDepth := 20) [*]

@[simp] theorem memOk_execSmbusReadPower (s : State) (hs : s.MemOk) :
    OutOk (execSmbusReadPower s) := by
  unfold execSmbusReadPower
  simp +contextual (maxDischargeDepth := 20) [*]

@[simp] theorem memOk_execSmbusReadTemperature (s : State) (hs : s.MemOk) :
    OutOk (execSmbusReadTemperature s) := by
  unfold execSmbusReadTemperature
  simp +contextual (maxDischargeDepth := 20) [*]

@[simp] theorem memOk_execSmbusReadEnergy (s : State) (hs : s.MemOk) :
    OutOk (execSmbusReadEnergy s) := by
  unfold execSmbusReadEnergy
  simp +contextual (maxDischargeDepth := 20) [*]

@[simp] theorem memOk_execSmbusCommandNotListed (command : Nat) (s : State) (hs : s.MemOk) :
    OutOk (execSmbusCommandNotListed command s) := by
  unfold execSmbusCommandNotListed
  simp +contextual (maxDischargeDepth := 20) [*]

@[simp] theorem memOk_State_refuseOp (s : State) (x : SentOp) (hs : s.MemOk) : (State.refuseOp s x).MemOk := by
  unfold State.refuseOp
  split <;> simp [hs]

@[simp] theorem memOk_State_failOps (s : State) (c : Nat) (hs : s.MemOk) : (State.failOps s c).MemOk := by
  unfold State.failOps
  dsimp only
  exact foldl_memOk _ _ _ (fun x y h => memOk_State_refuseOp x y h) hs

@[simp] theorem memOk_State_setConnState (s : State) (c : Nat) (st : Nat) (hs : s.MemOk) :
    (State.setConnState s c st).MemOk := by
  unfold State.setConnState
  try dsimp only
  (repeat' split) <;> first | assumption | (simp +contextual (maxDischargeDepth := 20) [*]; done)

@[simp] theorem memOk_State_connClose (s : State) (c : Nat) (hs : s.MemOk) :
    (State.connClose s c).MemOk := by
  unfold State.connClose
  simp +contextual (maxDischargeDepth := 20) [*]

@[simp] theorem memOk_State_connOpenCmd (s : State) (c : Nat) (hs : s.MemOk) :
    (State.connOpenCmd s c).MemOk := by
  unfold State.connOpenCmd
  try dsimp only
  (repeat' split) <;> first | assumption | (simp +contextual (maxDischargeDepth := 20) [*]; done)

@[simp] theorem memOk_execConnectionOpen (conn : Nat) (s : State) (hs : s.MemOk) :
    OutOk (execConnectionOpen conn s) := by
  unfold execConnectionOpen
  simp +contextual (maxDischargeDepth := 20) [*]

@[simp] theorem memOk_execConnectionClose (conn : Nat) (s : State) (hs : s.MemOk) :
    OutOk (execConnectionClose conn s) := by
  unfold execConnectionClose
  simp +contextual (maxDischargeDepth := 20) [*]

@[simp] theorem memOk_State_modDev (s : State) (f : Device → Device) (hs : s.MemOk) :
    (State.modDev s f).MemOk := by
  unfold State.modDev
  simp +contextual (maxDischargeDepth := 20) [*]

@[simp] theorem memOk_State_writeReset (s : State) (val : DWord) (hs : s.MemOk) :
    (State.writeReset s val).MemOk := by
  unfold State.writeReset
  simp +contextual (maxDischargeDepth := 20) [*]

@[simp] theorem memOk_State_writeLink (s : State) (off : Nat) (val : DWord) (hs : s.MemOk) :
    (State.writeLink s off val).MemOk := by
  unfold State.writeLink
  try dsimp only
  (repeat' split) <;> first | assumption | (simp +contextual (maxDischargeDepth := 20) [*]; done)

@[simp] theorem memOk_State_writeAttestation (s : State) (off : Nat) (val : DWord) (hs : s.MemOk) :
    (State.writeAttestation s off val).MemOk := by
  unfold State.writeAttestation
  split
  · exact hs
  · split
    · exact hs
    · split <;> simp [hs]
    · exact hs

@[simp] theorem memOk_State_writeMailbox (s : State) (off : Nat) (val : DWord) (hs : s.MemOk) :
    (State.writeMailbox s off val).MemOk := by
  unfold State.writeMailbox
  try dsimp only
  (repeat' split) <;> first | assumption | (simp +contextual (maxDischargeDepth := 20) [*]; done)

@[simp] theorem memOk_State_writeDevice (s : State) (off : Nat) (val : DWord) (hs : s.MemOk) :
    (State.writeDevice s off val).MemOk := by
  unfold State.writeDevice
  split
  · split
    · simp [hs]
    · exact hs
    · simp [hs]
    · exact hs
  · split
    · simp [hs]
    · split
      · simp [hs]
      · split
        · simp [hs]
        · exact hs

@[simp] theorem memOk_State_writeRun (s : State) (who : Party) (p : Nat) (x : Partition) (val : DWord)
    (hs : s.MemOk) :
    (State.writeRun s who p x val).MemOk := by
  unfold State.writeRun
  simp +contextual (maxDischargeDepth := 20) [*]

@[simp] theorem memOk_State_writeControl (s : State) (who : Party) (p : Nat) (x : Partition) (off : Nat)
    (val : DWord) (hs : s.MemOk) :
    (State.writeControl s who p x off val).MemOk := by
  unfold State.writeControl
  try dsimp only
  (repeat' split) <;> first | assumption | (simp +contextual (maxDischargeDepth := 20) [*]; done)

@[simp] theorem memOk_State_writeDescriptor (s : State) (who : Party) (p : Nat) (ctx : Nat) (word : Nat)
    (val : DWord) (hs : s.MemOk) :
    (State.writeDescriptor s who p ctx word val).MemOk := by
  unfold State.writeDescriptor
  try dsimp only
  (repeat' split) <;> first | assumption | (simp +contextual (maxDischargeDepth := 20) [*]; done)

@[simp] theorem memOk_State_writeTail (s : State) (off : Nat) (val : DWord) (hs : s.MemOk) :
    (State.writeTail s off val).MemOk := by
  unfold State.writeTail
  try dsimp only
  (repeat' split) <;> first | assumption | (simp +contextual (maxDischargeDepth := 20) [*]; done)

@[simp] theorem memOk_State_privWrite (s : State) (who : Party) (addr : Nat) (val : DWord) (hs : s.MemOk) :
    (State.privWrite s who addr val).MemOk := by
  unfold State.privWrite
  (repeat' split) <;> first | exact hs | (simp (maxDischargeDepth := 20) [hs]; done)

@[simp] theorem memOk_execPrivilegedRegisterWrite (who : Party) (addr : DWord) (val : DWord) (s : State)
    (hs : s.MemOk) :
    OutOk (execPrivilegedRegisterWrite who addr val s) := by
  unfold execPrivilegedRegisterWrite
  simp +contextual (maxDischargeDepth := 20) [*]

@[simp] theorem memOk_execTrap (o : TrapOp) (s : State) (hs : s.MemOk) :
    OutOk (execTrap o s) := by
  unfold execTrap
  simp +contextual (maxDischargeDepth := 20) [*]

@[simp] theorem memOk_execUndefinedWord (s : State) (hs : s.MemOk) :
    OutOk (execUndefinedWord s) := by
  unfold execUndefinedWord
  simp +contextual (maxDischargeDepth := 20) [*]

@[simp] theorem memOk_State_tramp (s : State) (hs : s.MemOk) :
    (State.tramp s).MemOk := by
  unfold State.tramp
  simp +contextual (maxDischargeDepth := 20) [*]

@[simp] theorem memOk_execTramp (_o : TrampOp) (s : State) (hs : s.MemOk) :
    OutOk (execTramp _o s) := by
  unfold execTramp
  simp +contextual (maxDischargeDepth := 20) [*]

@[simp] theorem memOk_State_handlerReturn (s : State) (kind : HandlerFrame → Bool)
    (dest : HandlerFrame → VAddr) (write : Gang → Nat → HandlerFrame → Gang) (hs : s.MemOk) :
    (State.handlerReturn s kind dest write).MemOk := by
  unfold State.handlerReturn
  simp +contextual (maxDischargeDepth := 20) [*]

@[simp] theorem memOk_execTret (s : State) (hs : s.MemOk) :
    OutOk (execTret s) := by
  unfold execTret
  simp +contextual (maxDischargeDepth := 20) [*]

@[simp] theorem memOk_execEmret (o : EmretOp) (s : State) (hs : s.MemOk) :
    OutOk (execEmret o s) := by
  unfold execEmret
  simp +contextual (maxDischargeDepth := 20) [*]

@[simp] theorem memOk_execSrd (o : SrdOp) (s : State) (hs : s.MemOk) :
    OutOk (execSrd o s) := by
  unfold execSrd
  try dsimp only
  (repeat' split) <;> first | assumption | (simp +contextual (maxDischargeDepth := 20) [*]; done)

@[simp] theorem memOk_State_srWrite (s : State) (g : Gang) (p : LaneMask) (n : Nat) (v : Nat → DWord) (hs : s.MemOk) :
    (State.srWrite s g p n v).MemOk := by
  unfold State.srWrite
  try dsimp only
  (repeat' split) <;> first | assumption | (simp +contextual (maxDischargeDepth := 20) [*]; done)

@[simp] theorem memOk_execSwr (o : SwrOp) (s : State) (hs : s.MemOk) :
    OutOk (execSwr o s) := by
  unfold execSwr
  try dsimp only
  (repeat' split) <;> first | assumption | (simp +contextual (maxDischargeDepth := 20) [*]; done)

@[simp] theorem memOk_execPsrd (o : SS) (s : State) (hs : s.MemOk) :
    OutOk (execPsrd o s) := by
  unfold execPsrd
  simp +contextual (maxDischargeDepth := 20) [*]

@[simp] theorem memOk_execPswr (o : SS) (s : State) (hs : s.MemOk) :
    OutOk (execPswr o s) := by
  unfold execPswr
  simp +contextual (maxDischargeDepth := 20) [*]

@[simp] theorem memOk_execInvpg (o : InvpgOp) (s : State) (hs : s.MemOk) :
    OutOk (execInvpg o s) := by
  unfold execInvpg
  simp +contextual (maxDischargeDepth := 20) [*]

@[simp] theorem memOk_State_acked (s : State) (m : Datagram) (hs : s.MemOk) :
    (State.acked s m).MemOk := by
  unfold State.acked
  simp +contextual (maxDischargeDepth := 20) [*]

@[simp] theorem memOk_State_wltAck (s : State) (m : Datagram) (hs : s.MemOk) :
    (State.wltAck s m).MemOk := by
  unfold State.wltAck
  try dsimp only
  (repeat' split) <;> first | assumption | (simp +contextual (maxDischargeDepth := 20) [*]; done)

@[simp] theorem memOk_execWltAck (m : Datagram) (s : State) (hs : s.MemOk) :
    OutOk (execWltAck m s) := by
  unfold execWltAck
  try dsimp only
  (repeat' split) <;> first | assumption | (simp +contextual (maxDischargeDepth := 20) [*]; done)

@[simp] theorem memOk_State_touchSpan (s : State) (m : Datagram) (hs : s.MemOk) : (State.touchSpan s m).MemOk := by
  unfold State.touchSpan
  dsimp only
  split <;> simp [hs]

@[simp] theorem memOk_State_landWrite (s : State) (m : Datagram) (hs : s.MemOk) :
    (State.landWrite s m).MemOk := by
  unfold State.landWrite
  dsimp only
  split <;> simp (maxDischargeDepth := 20) [hs]

@[simp] theorem memOk_State_performRead (s : State) (k : Conn) (m : Datagram) (hs : s.MemOk) :
    (State.performRead s k m).MemOk := by
  unfold State.performRead
  dsimp only
  split <;> simp [hs]

@[simp] theorem memOk_State_performWrite (s : State) (k : Conn) (m : Datagram) (hs : s.MemOk) :
    (State.performWrite s k m).MemOk := by
  unfold State.performWrite
  simp +contextual (maxDischargeDepth := 20) [*]

@[simp] theorem memOk_State_performSend (s : State) (k : Conn) (m : Datagram) (hs : s.MemOk) :
    (State.performSend s k m).MemOk := by
  unfold State.performSend
  simp +contextual (maxDischargeDepth := 20) [*]

@[simp] theorem memOk_State_perform (s : State) (op : Nat) (m : Datagram) (hs : s.MemOk) :
    (State.perform s op m).MemOk := by
  unfold State.perform
  try dsimp only
  (repeat' split) <;> first | assumption | (simp +contextual (maxDischargeDepth := 20) [*]; done)

@[simp] theorem memOk_State_performHeld (s : State) (c n : Nat) (hs : s.MemOk) : (State.performHeld s c n).MemOk := by
  induction n generalizing s with
  | zero => exact hs
  | succ n ih =>
    unfold State.performHeld
    dsimp only
    split
    · exact ih _ (memOk_State_perform _ _ _ hs)
    · exact hs

@[simp] theorem memOk_State_receive (s : State) (op : Nat) (m : Datagram) (hs : s.MemOk) :
    (State.receive s op m).MemOk := by
  unfold State.receive
  split
  · exact hs
  · have h1 : (s.acked m).MemOk := by simp [hs]
    dsimp only
    (repeat' split) <;>
      first
      | exact memOk_State_performHeld _ _ _ (memOk_State_perform _ _ _ h1)
      | exact memOk_State_sendReply _ _ _ _ _ _ _ h1
      | exact h1

@[simp] theorem memOk_execWltWrite (m : Datagram) (s : State) (hs : s.MemOk) :
    OutOk (execWltWrite m s) := by
  unfold execWltWrite
  simp +contextual (maxDischargeDepth := 20) [*]

@[simp] theorem memOk_execWltRead (m : Datagram) (s : State) (hs : s.MemOk) :
    OutOk (execWltRead m s) := by
  unfold execWltRead
  simp +contextual (maxDischargeDepth := 20) [*]

@[simp] theorem memOk_execWltSendKick (m : Datagram) (s : State) (hs : s.MemOk) :
    OutOk (execWltSendKick m s) := by
  unfold execWltSendKick
  simp +contextual (maxDischargeDepth := 20) [*]

@[simp] theorem memOk_State_deliver (s : State) (w : Requester) (bs : List Byte) (hs : s.MemOk) :
    (State.deliver s w bs).MemOk := by
  unfold State.deliver
  simp +contextual (maxDischargeDepth := 20) [*]

@[simp] theorem memOk_State_wltReadresp (s : State) (m : Datagram) (hs : s.MemOk) :
    (State.wltReadresp s m).MemOk := by
  unfold State.wltReadresp
  try dsimp only
  (repeat' split) <;> first | assumption | (simp +contextual (maxDischargeDepth := 20) [*]; done)

@[simp] theorem memOk_execWltReadresp (m : Datagram) (s : State) (hs : s.MemOk) :
    OutOk (execWltReadresp m s) := by
  unfold execWltReadresp
  simp +contextual (maxDischargeDepth := 20) [*]

@[simp] theorem memOk_State_connFail (s : State) (c : Nat) (hs : s.MemOk) :
    (State.connFail s c).MemOk := by
  unfold State.connFail
  simp +contextual (maxDischargeDepth := 20) [*]

@[simp] theorem memOk_State_timeout (s : State) (c : Nat) (hs : s.MemOk) :
    (State.timeout s c).MemOk := by
  unfold State.timeout
  simp +contextual (maxDischargeDepth := 20) [*]

@[simp] theorem memOk_execWltRetransmitTimeout (conn : Nat) (s : State) (hs : s.MemOk) :
    OutOk (execWltRetransmitTimeout conn s) := by
  unfold execWltRetransmitTimeout
  simp +contextual (maxDischargeDepth := 20) [*]

@[simp] theorem memOk_execArpRequest (m : ArpRequest) (s : State) (hs : s.MemOk) :
    OutOk (execArpRequest m s) := by
  unfold execArpRequest
  simp +contextual (maxDischargeDepth := 20) [*]

@[simp] theorem memOk_execNeighbourSolicitation (m : Solicitation) (s : State) (hs : s.MemOk) :
    OutOk (execNeighbourSolicitation m s) := by
  unfold execNeighbourSolicitation
  simp +contextual (maxDischargeDepth := 20) [*]

@[simp] theorem memOk_execIcmpEchoRequest (m : EchoRequest) (s : State) (hs : s.MemOk) :
    OutOk (execIcmpEchoRequest m s) := by
  unfold execIcmpEchoRequest
  simp +contextual (maxDischargeDepth := 20) [*]

@[simp] theorem memOk_State_runQueue (s : State) (p : Nat) (hs : s.MemOk) : (State.runQueue s p).MemOk := by
  unfold State.runQueue
  split <;> simp [hs]

@[simp] theorem memOk_State_runCommands (s : State) (p : Nat) (hs : s.MemOk) : (State.runCommands s p).MemOk := by
  unfold State.runCommands
  dsimp only
  split <;> simp [hs]

theorem memOk_State_runMove (s : State) (m : Move) (hs : s.MemOk) : (State.runMove s m).MemOk := by
  unfold State.runMove
  split <;> first | exact hs | (simp [hs]; done) | skip
  all_goals simp only [Plan.memOk_done]; split <;> exact hs

theorem memOk_State_planMove (s : State) (m : Move) (hs : s.MemOk) : (State.planMove s m).MemOk := by
  unfold State.planMove
  split
  · exact memOk_State_runMove s m hs
  · exact hs

theorem memOk_State_pop (s : State) (hs : s.MemOk) : (State.pop s).2.MemOk := by
  unfold State.pop
  dsimp only
  (repeat' split) <;> exact hs

theorem memOk_State_putBack (s : State) (m : Move) (hs : s.MemOk) : (State.putBack s m).MemOk := by
  unfold State.putBack
  dsimp only
  (repeat' split) <;> exact hs

end Sys2Proof.Machine
end

