-- ==== Sys2Proof/Laws/PerInstr.lean ====
section
/-! SUPPORT. Every well-formed instruction word has an encoding of 32 bits, and no event has one: one
lemma for each operand shape, then one for each constructor of Instr.
-/

namespace Sys2Proof
set_option linter.all false

/-! Bounds of the fields. -/

theorem Src.ok_lt {x : Src} (h : x.ok = true) : x.enc < 128 := by
  cases x <;> simp_all [Src.ok, Src.enc] <;> omega

theorem Src.pairOk_lt {x : Src} (h : x.pairOk = true) : x.enc < 128 := by
  cases x <;> simp_all [Src.pairOk, Src.enc] <;> omega

theorem Src.quadOk_lt {x : Src} (h : x.quadOk = true) : x.enc < 128 := by
  cases x <;> simp_all [Src.quadOk, Src.enc] <;> omega

theorem Src.okAt_lt {n : Nat} {x : Src} (h : x.okAt n = true) : x.enc < 128 := by
  unfold Src.okAt at h
  split at h
  · exact quadOk_lt h
  · split at h
    · exact pairOk_lt h
    · exact ok_lt h

theorem Dst.ok_lt {x : Dst} (h : x.ok = true) : x.enc < 128 := by
  cases x <;> simp_all [Dst.ok, Dst.enc] <;> omega

theorem Dst.pairOk_lt {x : Dst} (h : x.pairOk = true) : x.enc < 128 := by
  cases x <;> simp_all [Dst.pairOk, Dst.enc] <;> omega

theorem Dst.quadOk_lt {x : Dst} (h : x.quadOk = true) : x.enc < 128 := by
  cases x <;> simp_all [Dst.quadOk, Dst.enc] <;> omega

theorem Dst.okAt_lt {n : Nat} {x : Dst} (h : x.okAt n = true) : x.enc < 128 := by
  unfold Dst.okAt at h
  split at h
  · exact quadOk_lt h
  · split at h
    · exact pairOk_lt h
    · exact ok_lt h

theorem unsignedField_lt (n : Nat) (i : Int) : unsignedField n i < 2 ^ n := by
  have h : (0 : Int) < ((2 ^ n : Nat) : Int) := Int.natCast_pos.mpr (Nat.two_pow_pos n)
  have := Int.emod_lt_of_pos i h
  have := Int.emod_nonneg i (Int.ne_of_gt h)
  unfold unsignedField
  omega

theorem NumType.code_lt (x : NumType) : x.code < 8 := by cases x <;> decide

theorem Narrow.code_lt (x : Narrow) : x.code < 4 := by cases x <;> decide

theorem LoadSize.code_lt (x : LoadSize) : x.code < 8 := by cases x <;> decide

theorem StoreSize.code_lt (x : StoreSize) : x.code < 8 := by cases x <;> decide

theorem AtomicFn.code_lt (x : AtomicFn) : x.code < 8 := by cases x <;> decide

theorem AtomicType.code_lt (x : AtomicType) : x.code < 8 := by cases x <;> decide

theorem Scope.code_lt (x : Scope) : x.code < 6 := by cases x <;> decide

theorem Order.code_lt (x : Order) : x.code < 3 := by cases x <;> decide

theorem Space.code_lt (x : Space) : x.code < 3 := by cases x <;> decide

theorem FenceKind.code_lt (x : FenceKind) : x.code < 4 := by cases x <;> decide

theorem AcvtTarget.code_lt (x : AcvtTarget) : x.code < 4 := by cases x <;> decide

theorem EmretMode.code_lt (x : EmretMode) : x.code < 3 := by cases x <;> decide

theorem LoadMode.fn_lt (m : LoadMode) : m.fn < 8 := by
  rcases m with s | ⟨w, c⟩
  · exact s.code_lt
  · exact Nat.lt_of_lt_of_le c.code_lt (by decide)

theorem LoadMode.sc_le (m : LoadMode) : m.sc ≤ 2 := by
  rcases m with s | ⟨w, c⟩ <;> simp only [LoadMode.sc] <;> (try split) <;> decide

theorem StoreMode.fn_lt (m : StoreMode) : m.fn < 8 := by
  rcases m with s | ⟨w, c⟩
  · exact s.code_lt
  · exact Nat.lt_of_lt_of_le c.code_lt (by decide)

theorem StoreMode.sc_le (m : StoreMode) : m.sc ≤ 2 := by
  rcases m with s | ⟨w, c⟩ <;> simp only [StoreMode.sc] <;> (try split) <;> decide

theorem Scope.bankOk_lt {x : Scope} (h : x.bankOk = true) : x.code < 3 := by
  cases x <;> first | decide | cases h

theorem SOperand.sb_lt {x : SOperand} (h : x.ok = true) : x.sb < 64 := by
  cases x <;> simpa [SOperand.ok, SOperand.sb] using h

theorem SOperand.x_le (x : SOperand) : x.x ≤ 16 := by cases x <;> simp [SOperand.x]

theorem objOk_lt {sp : Space} {x : Src} (h : objOk sp x = true) : x.enc < 128 := by
  cases sp
  · exact Src.pairOk_lt h
  · exact Src.ok_lt h
  · exact Src.ok_lt h

theorem GiveTarget.code_lt (x : GiveTarget) : x.kind * 16 + x.owner * 4 < 64 := by
  rcases x with x | _
  · cases x <;> decide
  · decide

theorem EnqOp.v_lt {o : EnqOp} (h : o.wf = true) : o.v.enc < 128 := by
  rcases o with ⟨d, v, q⟩
  cases v <;> simp_all [EnqOp.wf, Src.enc]
  omega

theorem packE_lt {a b c : Nat} (ha : a < 128) (hb : b < 128) (hc : c < 64) : packE 0 a b c < 1048576 := by
  unfold packE
  omega

/-! The encoding of each operand shape, below the base that the map supplies. -/

theorem RRR.enc_lt {o : RRR} {dw aw bw : Nat} (h0 : o.wf dw aw bw = true) : o.enc < 8388608 := by
  have h := h0
  simp only [RRR.wf, Bool.and_eq_true, decide_eq_true_eq, and_assoc] at h
  obtain ⟨h1, h2, h3⟩ := h
  have := Dst.okAt_lt h1
  have := Src.okAt_lt h2
  have := Src.okAt_lt h3
  have := Bool.toNat_le o.w
  have := Bool.toNat_le o.g
  simp only [RRR.enc, packA]
  omega

theorem RR.enc_lt {o : RR} (h0 : o.wf = true) : o.enc < 8388608 := by
  have h := h0
  simp only [RR.wf, Bool.and_eq_true, decide_eq_true_eq, and_assoc] at h
  obtain ⟨h1, h2⟩ := h
  have := Dst.ok_lt h1
  have := Src.ok_lt h2
  have := Bool.toNat_le o.w
  have := Bool.toNat_le o.g
  simp only [RR.enc, packA]
  omega

theorem PRR.enc_lt {o : PRR} {sw : Nat} (h0 : o.wf sw = true) : o.enc < 8388608 := by
  have h := h0
  simp only [PRR.wf, Bool.and_eq_true, decide_eq_true_eq, and_assoc] at h
  obtain ⟨h1, h2, h3⟩ := h
  have := Src.okAt_lt h2
  have := Src.okAt_lt h3
  have := Bool.toNat_le o.g
  simp only [PRR.enc, packA]
  omega

theorem PR.enc_lt {o : PR} (h0 : o.wf = true) : o.enc < 8388608 := by
  have h := h0
  simp only [PR.wf, Bool.and_eq_true, decide_eq_true_eq, and_assoc] at h
  obtain ⟨h1, h2⟩ := h
  have := Src.ok_lt h2
  have := Bool.toNat_le o.g
  simp only [PR.enc, packA]
  omega

theorem PPP.enc_lt {o : PPP} (h0 : o.wf = true) : o.enc < 8388608 := by
  have h := h0
  simp only [PPP.wf, Bool.and_eq_true, decide_eq_true_eq, and_assoc] at h
  obtain ⟨h1, h2, h3⟩ := h
  have := Bool.toNat_le o.g
  simp only [PPP.enc, packA]
  omega

theorem RW.enc_lt {o : RW} (h0 : o.wf = true) : o.enc < 8388608 := by
  have h := h0
  simp only [RW.wf, Bool.and_eq_true, decide_eq_true_eq, and_assoc] at h
  have h1 := h
  have := Dst.ok_lt h1
  have := Bool.toNat_le o.w
  have := Bool.toNat_le o.g
  simp only [RW.enc, packA]
  omega

theorem RP.enc_lt {o : RP} (h0 : o.wf = true) : o.enc < 8388608 := by
  have h := h0
  simp only [RP.wf, Bool.and_eq_true, decide_eq_true_eq, and_assoc] at h
  obtain ⟨h1, h2⟩ := h
  have := Dst.ok_lt h1
  have := Bool.toNat_le o.w
  have := Bool.toNat_le o.g
  simp only [RP.enc, packA]
  omega

theorem RS.enc_lt {o : RS} (h0 : o.wf = true) : o.enc < 8388608 := by
  have h := h0
  simp only [RS.wf, Bool.and_eq_true, decide_eq_true_eq, and_assoc] at h
  obtain ⟨h1, h2⟩ := h
  have := Dst.ok_lt h1
  have := Bool.toNat_le o.w
  have := Bool.toNat_le o.g
  simp only [RS.enc, packA]
  omega

theorem SRR.enc_lt {o : SRR} (h0 : o.wf = true) : o.enc < 8388608 := by
  have h := h0
  simp only [SRR.wf, Bool.and_eq_true, decide_eq_true_eq, and_assoc] at h
  obtain ⟨h1, h2, h3⟩ := h
  have := Src.ok_lt h2
  have := Src.ok_lt h3
  have := Bool.toNat_le o.g
  simp only [SRR.enc, packA]
  omega

theorem SelOp.enc_lt {o : SelOp} (h0 : o.wf = true) : o.enc < 8388608 := by
  have h := h0
  simp only [SelOp.wf, Bool.and_eq_true, decide_eq_true_eq, and_assoc] at h
  obtain ⟨h1, h2, h3⟩ := h
  have := Dst.ok_lt h1
  have := Src.ok_lt h2
  have := Src.ok_lt h3
  have := Bool.toNat_le o.w
  simp only [SelOp.enc, packA]
  omega

theorem RRI.enc_lt {o : RRI} (h0 : o.wf = true) : o.enc < 8388608 := by
  have h := h0
  simp only [RRI.wf, Bool.and_eq_true, decide_eq_true_eq, and_assoc] at h
  obtain ⟨h1, h2, h3⟩ := h
  have := Dst.ok_lt h1
  have := Src.ok_lt h2
  have := unsignedField_lt 9 o.imm
  simp only [RRI.enc, packI]
  omega

theorem RRI.shiftWf_lt {o : RRI} (h0 : o.shiftWf = true) : o.enc < 8388608 := by
  have h := h0
  simp only [RRI.shiftWf, Bool.and_eq_true, decide_eq_true_eq, and_assoc] at h
  obtain ⟨h1, h2, h3, h4⟩ := h
  have := Dst.ok_lt h1
  have := Src.ok_lt h2
  have := unsignedField_lt 9 o.imm
  simp only [RRI.enc, packI]
  omega

theorem RI.enc_lt {o : RI} (h0 : o.wf = true) : o.enc < 8388608 := by
  have h := h0
  simp only [RI.wf, Bool.and_eq_true, decide_eq_true_eq, and_assoc] at h
  obtain ⟨h1, h2⟩ := h
  have := Dst.ok_lt h1
  have := unsignedField_lt 9 o.imm
  simp only [RI.enc, packI]
  omega

theorem CvtOp.enc_lt {o : CvtOp} (h0 : o.wf = true) : o.enc < 67108864 := by
  have h := h0
  simp only [CvtOp.wf, Bool.and_eq_true, decide_eq_true_eq, and_assoc] at h
  obtain ⟨h1, h2, h3, h4, h5⟩ := h
  have := Dst.okAt_lt h1
  have := Src.okAt_lt h2
  have := NumType.code_lt o.target
  have := NumType.code_lt o.source
  have := Narrow.code_lt o.narrow
  have := Bool.toNat_le o.sat
  have := Bool.toNat_le o.w
  have := Bool.toNat_le o.g
  simp only [CvtOp.enc, packE]
  omega

theorem SSS.enc_lt {o : SSS} (h0 : o.wf = true) : o.enc < 8388608 := by
  have h := h0
  simp only [SSS.wf, Bool.and_eq_true, decide_eq_true_eq, and_assoc] at h
  obtain ⟨h1, h2, h3⟩ := h
  have := SOperand.sb_lt h3
  have := SOperand.x_le o.y
  simp only [SSS.enc, packS]
  omega

theorem SMovOp.enc_lt {o : SMovOp} (h0 : o.wf = true) : o.enc < 8388608 := by
  have h := h0
  simp only [SMovOp.wf, Bool.and_eq_true, decide_eq_true_eq, and_assoc] at h
  obtain ⟨h1, h2⟩ := h
  rcases o with ⟨d, y⟩
  cases y <;> simp_all [SMovOp.enc, packS, SOperand.ok] <;> omega

theorem SMemOp.enc_lt {o : SMemOp} (h0 : o.wf = true) : o.enc < 8388608 := by
  have h := h0
  simp only [SMemOp.wf, Bool.and_eq_true, decide_eq_true_eq, and_assoc] at h
  obtain ⟨h1, h2, h3⟩ := h
  simp only [SMemOp.enc, packS]
  omega

theorem LdgOp.enc_lt {o : LdgOp} (h0 : o.wf = true) : o.enc < 67108864 := by
  have h := h0
  simp only [LdgOp.wf, Bool.and_eq_true, decide_eq_true_eq, and_assoc] at h
  obtain ⟨h1, h2, h3, h4⟩ := h
  have := Dst.okAt_lt h1
  have := Src.pairOk_lt h2
  have := LoadMode.fn_lt o.mode
  have := LoadMode.sc_le o.mode
  have := Bool.toNat_le o.nf
  simp only [LdgOp.enc, packM]
  omega

theorem LdlOp.enc_lt {o : LdlOp} (h0 : o.wf = true) : o.enc < 67108864 := by
  have h := h0
  simp only [LdlOp.wf, Bool.and_eq_true, decide_eq_true_eq, and_assoc] at h
  obtain ⟨h1, h2, h3⟩ := h
  have := Dst.okAt_lt h1
  have := Src.ok_lt h2
  have := LoadSize.code_lt o.size
  simp only [LdlOp.enc, packM]
  omega

theorem LdsOp.enc_lt {o : LdsOp} (h0 : o.wf = true) : o.enc < 67108864 := by
  have h := h0
  simp only [LdsOp.wf, Bool.and_eq_true, decide_eq_true_eq, and_assoc] at h
  obtain ⟨h1, h2, h3⟩ := h
  have := Dst.okAt_lt h1
  have := Src.ok_lt h2
  have := LoadMode.fn_lt o.mode
  have := LoadMode.sc_le o.mode
  simp only [LdsOp.enc, packM]
  omega

theorem StOp.enc_lt {o : StOp} {aw : Nat} (h0 : o.wf aw = true) : o.enc < 67108864 := by
  have h := h0
  simp only [StOp.wf, Bool.and_eq_true, decide_eq_true_eq, and_assoc] at h
  obtain ⟨h1, h2, h3⟩ := h
  have := Src.okAt_lt h1
  have := Src.okAt_lt h2
  have := StoreMode.fn_lt o.mode
  have := StoreMode.sc_le o.mode
  simp only [StOp.enc, packM]
  omega

theorem StlOp.enc_lt {o : StlOp} (h0 : o.wf = true) : o.enc < 67108864 := by
  have h := h0
  simp only [StlOp.wf, Bool.and_eq_true, decide_eq_true_eq, and_assoc] at h
  obtain ⟨h1, h2, h3⟩ := h
  have := Src.okAt_lt h1
  have := Src.ok_lt h2
  have := StoreSize.code_lt o.size
  simp only [StlOp.enc, packM]
  omega

theorem AtomOp.enc_lt {o : AtomOp} (h0 : o.wf = true) : o.enc < 67108864 := by
  have h := h0
  simp only [AtomOp.wf, Bool.and_eq_true, decide_eq_true_eq, and_assoc] at h
  obtain ⟨h1, h2, h3⟩ := h
  have := AtomicFn.code_lt o.fn
  have := AtomicType.code_lt o.ty
  have := Scope.code_lt o.scope
  have := Order.code_lt o.order
  have := Dst.okAt_lt h2
  have := Src.pairOk_lt h3
  simp only [AtomOp.enc, packE]
  omega

theorem RedOp.enc_lt {o : RedOp} (h0 : o.wf = true) : o.enc < 67108864 := by
  have h := h0
  simp only [RedOp.wf, Bool.and_eq_true, decide_eq_true_eq, and_assoc] at h
  obtain ⟨h1, h2, h3, h4, h5, h6⟩ := h
  have := AtomicFn.code_lt o.fn
  have := AtomicType.code_lt o.ty
  have := Scope.code_lt o.scope
  have := Order.code_lt o.order
  have := Src.okAt_lt h2
  have := Src.pairOk_lt h3
  simp only [RedOp.enc, packE]
  omega

theorem AtomsOp.enc_lt {o : AtomsOp} (h0 : o.wf = true) : o.enc < 67108864 := by
  have h := h0
  simp only [AtomsOp.wf, Bool.and_eq_true, decide_eq_true_eq, and_assoc] at h
  obtain ⟨h1, h2, h3, h4⟩ := h
  have := AtomicFn.code_lt o.fn
  have := AtomicType.code_lt o.ty
  have := Order.code_lt o.order
  have := Dst.okAt_lt h2
  have := Src.ok_lt h3
  have := Scope.bankOk_lt h4
  have := Bool.toNat_le o.window
  simp only [AtomsOp.enc, packE]
  omega

theorem RedsOp.enc_lt {o : RedsOp} (h0 : o.wf = true) : o.enc < 67108864 := by
  have h := h0
  simp only [RedsOp.wf, Bool.and_eq_true, decide_eq_true_eq, and_assoc] at h
  obtain ⟨h1, h2, h3, h4, h5, h6, h7⟩ := h
  have := AtomicFn.code_lt o.fn
  have := AtomicType.code_lt o.ty
  have := Order.code_lt o.order
  have := Src.okAt_lt h2
  have := Src.ok_lt h3
  have := Scope.bankOk_lt h4
  have := Bool.toNat_le o.window
  simp only [RedsOp.enc, packE]
  omega

theorem RangeOp.enc_lt {o : RangeOp} (h0 : o.wf = true) : o.enc < 1048576 := by
  have h := h0
  simp only [RangeOp.wf, Bool.and_eq_true, decide_eq_true_eq, and_assoc] at h
  obtain ⟨h1, h2⟩ := h
  have := Src.pairOk_lt h1
  have := Src.pairOk_lt h2
  have := Scope.code_lt o.scope
  simp only [RangeOp.enc, packE]
  omega

theorem CprefOp.enc_lt {o : CprefOp} (h0 : o.wf = true) : o.enc < 1048576 := by
  have h := h0
  simp only [CprefOp.wf, Bool.and_eq_true, decide_eq_true_eq, and_assoc] at h
  obtain ⟨h1, h2⟩ := h
  have := Src.pairOk_lt h1
  have := Src.pairOk_lt h2
  simp only [CprefOp.enc, packE]
  omega

theorem SS.enc_lt {o : SS} {run : Nat} (h0 : o.wf run = true) : o.enc < 1048576 := by
  have h := h0
  simp only [SS.wf, Bool.and_eq_true, decide_eq_true_eq, and_assoc] at h
  obtain ⟨h1, h2, h3⟩ := h
  simp only [SS.enc, packE]
  omega

theorem BarOp.enc_lt {o : BarOp} (h0 : o.wf = true) : o.enc < 1048576 := by
  have h := h0
  simp only [BarOp.wf, Bool.and_eq_true, decide_eq_true_eq, and_assoc] at h
  obtain ⟨h1, h2⟩ := h
  have := Src.pairOk_lt h1
  have := objOk_lt h2
  have := Scope.code_lt o.scope
  have := Bool.toNat_le o.ordered
  have := Space.code_lt o.space
  simp only [BarOp.enc, packE]
  omega

theorem BrdOp.enc_lt {o : BrdOp} (h0 : o.wf = true) : o.enc < 1048576 := by
  have h := h0
  simp only [BrdOp.wf, Bool.and_eq_true, decide_eq_true_eq, and_assoc] at h
  obtain ⟨h1, h2⟩ := h
  have := Dst.pairOk_lt h1
  have := objOk_lt h2
  have := Scope.code_lt o.scope
  have := Bool.toNat_le o.ordered
  have := Space.code_lt o.space
  simp only [BrdOp.enc, packE]
  omega

theorem BindOp.enc_lt {o : BindOp} (h0 : o.wf = true) : o.enc < 1048576 := by
  have h := h0
  simp only [BindOp.wf, Bool.and_eq_true, decide_eq_true_eq, and_assoc] at h
  obtain ⟨h1, h2⟩ := h
  have := Scope.code_lt o.scope
  have := Space.code_lt o.space
  simp only [BindOp.enc, packE]
  omega

theorem UnbindOp.enc_lt {o : UnbindOp} (h0 : o.wf = true) : o.enc < 1048576 := by
  have h := h0
  simp only [UnbindOp.wf, Bool.and_eq_true, decide_eq_true_eq, and_assoc] at h
  have h1 := h
  simp only [UnbindOp.enc, packE]
  omega

theorem FenceOp.enc_lt (o : FenceOp) : o.enc < 1048576 := by
  have := Scope.code_lt o.scope
  have := FenceKind.code_lt o.kind
  simp only [FenceOp.enc, packE]
  omega

theorem TakeOp.enc_lt {o : TakeOp} (h0 : o.wf = true) : o.enc < 1048576 := by
  have h := h0
  simp only [TakeOp.wf, Bool.and_eq_true, decide_eq_true_eq, and_assoc] at h
  obtain ⟨h1, h2⟩ := h
  have := Dst.ok_lt h1
  have := Src.ok_lt h2
  have := Bool.toNat_le o.tile
  simp only [TakeOp.enc, packE]
  omega

theorem GiveOp.enc_lt {o : GiveOp} (h0 : o.wf = true) : o.enc < 1048576 := by
  have h := h0
  simp only [GiveOp.wf, Bool.and_eq_true, decide_eq_true_eq, and_assoc] at h
  obtain ⟨h1, h2⟩ := h
  exact packE_lt (by decide) (Src.ok_lt h1) (GiveTarget.code_lt o.target)

theorem CpyOp.enc_lt {o : CpyOp} (h0 : o.wf = true) : o.enc < 1048576 := by
  have h := h0
  simp only [CpyOp.wf, Bool.and_eq_true, decide_eq_true_eq, and_assoc] at h
  have h1 := h
  have := Scope.code_lt o.scope
  simp only [CpyOp.enc, packE]
  omega

theorem MmaOp.enc_lt {o : MmaOp} (h0 : o.wf = true) : o.enc < 1048576 := by
  have h := h0
  simp only [MmaOp.wf, Bool.and_eq_true, decide_eq_true_eq, and_assoc] at h
  obtain ⟨h1, h2, h3⟩ := h
  simp only [MmaOp.enc, packE]
  omega

theorem MleaseOp.enc_lt {o : MleaseOp} (h0 : o.wf = true) : o.enc < 1048576 := by
  have h := h0
  simp only [MleaseOp.wf, Bool.and_eq_true, decide_eq_true_eq, and_assoc] at h
  obtain ⟨h1, h2⟩ := h
  simp only [MleaseOp.enc, packE]
  omega

theorem MacqOp.enc_lt {o : MacqOp} (h0 : o.wf = true) : o.enc < 1048576 := by
  have h := h0
  simp only [MacqOp.wf, Bool.and_eq_true, decide_eq_true_eq, and_assoc] at h
  obtain ⟨h1, h2, h3⟩ := h
  simp only [MacqOp.enc, packE]
  omega

theorem TqryOp.enc_lt {o : TqryOp} (h0 : o.wf = true) : o.enc < 1048576 := by
  have h := h0
  simp only [TqryOp.wf, Bool.and_eq_true, decide_eq_true_eq, and_assoc] at h
  obtain ⟨h1, h2, h3⟩ := h
  simp only [TqryOp.enc, packE]
  omega

theorem SpEngineOp.enc_lt {o : SpEngineOp} (h0 : o.wf = true) : o.enc < 1048576 := by
  have h := h0
  simp only [SpEngineOp.wf, Bool.and_eq_true, decide_eq_true_eq, and_assoc] at h
  obtain ⟨h1, h2⟩ := h
  simp only [SpEngineOp.enc, packE]
  omega

theorem QstatOp.enc_lt {o : QstatOp} (h0 : o.wf = true) : o.enc < 1048576 := by
  have h := h0
  simp only [QstatOp.wf, Bool.and_eq_true, decide_eq_true_eq, and_assoc] at h
  obtain ⟨h1, h2⟩ := h
  simp only [QstatOp.enc, packE]
  omega

theorem AcvtOp.enc_lt {o : AcvtOp} (h0 : o.wf = true) : o.enc < 1048576 := by
  have h := h0
  simp only [AcvtOp.wf, Bool.and_eq_true, decide_eq_true_eq, and_assoc] at h
  obtain ⟨h1, h2⟩ := h
  have := AcvtTarget.code_lt o.target
  simp only [AcvtOp.enc, packE]
  omega

theorem AldOp.enc_lt {o : AldOp} (h0 : o.wf = true) : o.enc < 1048576 := by
  have h := h0
  simp only [AldOp.wf, Bool.and_eq_true, decide_eq_true_eq, and_assoc] at h
  obtain ⟨h1, h2, h3⟩ := h
  have := Dst.pairOk_lt h1
  have := Src.ok_lt h2
  simp only [AldOp.enc, packE]
  omega

theorem AstOp.enc_lt {o : AstOp} (h0 : o.wf = true) : o.enc < 1048576 := by
  have h := h0
  simp only [AstOp.wf, Bool.and_eq_true, decide_eq_true_eq, and_assoc] at h
  obtain ⟨h1, h2, h3⟩ := h
  have := Src.pairOk_lt h1
  have := Src.ok_lt h2
  simp only [AstOp.enc, packE]
  omega

theorem TgathOp.enc_lt {o : TgathOp} (h0 : o.wf = true) : o.enc < 1048576 := by
  have h := h0
  simp only [TgathOp.wf, Bool.and_eq_true, decide_eq_true_eq, and_assoc] at h
  obtain ⟨h1, h2, h3⟩ := h
  have := Dst.ok_lt h1
  have := Src.ok_lt h2
  simp only [TgathOp.enc, packE]
  omega

theorem SpldOp.enc_lt {o : SpldOp} (h0 : o.wf = true) : o.enc < 1048576 := by
  have h := h0
  simp only [SpldOp.wf, Bool.and_eq_true, decide_eq_true_eq, and_assoc] at h
  obtain ⟨h1, h2, h3, h4⟩ := h
  have := Dst.ok_lt h1
  have := Src.ok_lt h2
  simp only [SpldOp.enc, packE]
  omega

theorem SpldOp.nextWf_lt {o : SpldOp} (h0 : o.nextWf = true) : o.enc < 1048576 := by
  have h := h0
  simp only [SpldOp.nextWf, Bool.and_eq_true, decide_eq_true_eq, and_assoc] at h
  obtain ⟨h1, h2, h3⟩ := h
  have := Dst.ok_lt h1
  have := Src.pairOk_lt h2
  simp only [SpldOp.enc, packE]
  omega

theorem SpstOp.enc_lt {o : SpstOp} (h0 : o.wf = true) : o.enc < 1048576 := by
  have h := h0
  simp only [SpstOp.wf, Bool.and_eq_true, decide_eq_true_eq, and_assoc] at h
  obtain ⟨h1, h2, h3, h4⟩ := h
  have := Src.ok_lt h1
  have := Src.ok_lt h2
  simp only [SpstOp.enc, packE]
  omega

theorem EnqOp.enc_lt {o : EnqOp} (h0 : o.wf = true) : o.enc < 1048576 := by
  have h := h0
  simp only [EnqOp.wf, Bool.and_eq_true, decide_eq_true_eq, and_assoc] at h
  obtain ⟨h1, h2, h3⟩ := h
  have := Dst.ok_lt h1
  have := EnqOp.v_lt h0
  simp only [EnqOp.enc, packE]
  omega

theorem DeqOp.enc_lt {o : DeqOp} (h0 : o.wf = true) : o.enc < 1048576 := by
  have h := h0
  simp only [DeqOp.wf, Bool.and_eq_true, decide_eq_true_eq, and_assoc] at h
  obtain ⟨h1, h2⟩ := h
  have := Dst.quadOk_lt h1
  simp only [DeqOp.enc, packE]
  omega

theorem PreqOp.enc_lt {o : PreqOp} (h0 : o.wf = true) : o.enc < 1048576 := by
  have h := h0
  simp only [PreqOp.wf, Bool.and_eq_true, decide_eq_true_eq, and_assoc] at h
  have h1 := h
  have := Src.pairOk_lt h1
  simp only [PreqOp.enc, packE]
  omega

theorem BrOp.enc_lt {o : BrOp} (h0 : o.wf = true) : o.enc < 8388608 := by
  have h := h0
  simp only [BrOp.wf, Bool.and_eq_true, decide_eq_true_eq, and_assoc] at h
  have h1 := h
  have := unsignedField_lt 20 o.disp
  simp only [BrOp.enc, packB]
  omega

theorem BrpOp.enc_lt {o : BrpOp} (h0 : o.wf = true) : o.enc < 8388608 := by
  have h := h0
  simp only [BrpOp.wf, Bool.and_eq_true, decide_eq_true_eq, and_assoc] at h
  obtain ⟨h1, h2⟩ := h
  have := unsignedField_lt 20 o.disp
  simp only [BrpOp.enc, packB]
  omega

theorem CallOp.enc_lt {o : CallOp} (h0 : o.wf = true) : o.enc < 8388608 := by
  have h := h0
  simp only [CallOp.wf, Bool.and_eq_true, decide_eq_true_eq, and_assoc] at h
  obtain ⟨h1, h2⟩ := h
  have := unsignedField_lt 20 o.disp
  simp only [CallOp.enc, packB]
  omega

theorem JumpOp.enc_lt {o : JumpOp} (h0 : o.wf = true) : o.enc < 8388608 := by
  have h := h0
  simp only [JumpOp.wf, Bool.and_eq_true, decide_eq_true_eq, and_assoc] at h
  have h1 := h
  have := Src.pairOk_lt h1
  simp only [JumpOp.enc, packB]
  omega

theorem RegangOp.enc_lt {o : RegangOp} (h0 : o.wf = true) : o.enc < 1048576 := by
  have h := h0
  simp only [RegangOp.wf, Bool.and_eq_true, decide_eq_true_eq, and_assoc] at h
  have h1 := h
  simp only [RegangOp.enc]
  omega

theorem TrapOp.enc_lt {o : TrapOp} (h0 : o.wf = true) : o.enc < 1048576 := by
  have h := h0
  simp only [TrapOp.wf, Bool.and_eq_true, decide_eq_true_eq, and_assoc] at h
  have h1 := h
  simp only [TrapOp.enc]
  omega

theorem TrampOp.enc_lt {o : TrampOp} (h0 : o.wf = true) : o.enc < 67108864 := by
  have h := h0
  simp only [TrampOp.wf, Bool.and_eq_true, decide_eq_true_eq, and_assoc] at h
  have h1 := h
  simp only [TrampOp.enc]
  omega

theorem EmretOp.enc_lt (o : EmretOp) : o.enc < 1048576 := by
  have := EmretMode.code_lt o.mode
  have := Bool.toNat_le o.honourW
  simp only [EmretOp.enc, packE]
  omega

theorem SrdOp.enc_lt {o : SrdOp} (h0 : o.wf = true) : o.enc < 1048576 := by
  have h := h0
  simp only [SrdOp.wf, Bool.and_eq_true, decide_eq_true_eq, and_assoc] at h
  obtain ⟨h1, h2⟩ := h
  have := Dst.ok_lt h1
  simp only [SrdOp.enc, packE]
  omega

theorem SwrOp.enc_lt {o : SwrOp} (h0 : o.wf = true) : o.enc < 1048576 := by
  have h := h0
  simp only [SwrOp.wf, Bool.and_eq_true, decide_eq_true_eq, and_assoc] at h
  obtain ⟨h1, h2⟩ := h
  have := Src.ok_lt h1
  simp only [SwrOp.enc, packE]
  omega

theorem InvpgOp.enc_lt {o : InvpgOp} (h0 : o.wf = true) : o.enc < 1048576 := by
  have h := h0
  simp only [InvpgOp.wf, Bool.and_eq_true, decide_eq_true_eq, and_assoc] at h
  have h1 := h
  have := Scope.code_lt o.scope
  simp only [InvpgOp.enc, packE]
  omega

/-- A base and the fields below it make a word of 32 bits. -/
theorem word_lt {b e k : Nat} (hb : b + k ≤ 4294967296) (he : e < k) : b + e < 4294967296 := by omega

/-- A well-formed instruction has a word of 32 bits (06 R217). -/
def Laws.Encoding.Statement (i : Instr) : Prop := i.wf = true → ∃ w, encodeWord i = some w ∧ w < 4294967296

theorem Laws.Encoding.iadd (o : RRR) : Statement (.iadd o) :=
  fun h => ⟨_, rfl, word_lt (by decide) (RRR.enc_lt h)⟩

theorem Laws.Encoding.isub (o : RRR) : Statement (.isub o) :=
  fun h => ⟨_, rfl, word_lt (by decide) (RRR.enc_lt h)⟩

theorem Laws.Encoding.imul (o : RRR) : Statement (.imul o) :=
  fun h => ⟨_, rfl, word_lt (by decide) (RRR.enc_lt h)⟩

theorem Laws.Encoding.imulh (o : RRR) : Statement (.imulh o) :=
  fun h => ⟨_, rfl, word_lt (by decide) (RRR.enc_lt h)⟩

theorem Laws.Encoding.imad (o : RRR) : Statement (.imad o) :=
  fun h => ⟨_, rfl, word_lt (by decide) (RRR.enc_lt h)⟩

theorem Laws.Encoding.imin (o : RRR) : Statement (.imin o) :=
  fun h => ⟨_, rfl, word_lt (by decide) (RRR.enc_lt h)⟩

theorem Laws.Encoding.imax (o : RRR) : Statement (.imax o) :=
  fun h => ⟨_, rfl, word_lt (by decide) (RRR.enc_lt h)⟩

theorem Laws.Encoding.iabs (o : RR) : Statement (.iabs o) :=
  fun h => ⟨_, rfl, word_lt (by decide) (RR.enc_lt h)⟩

theorem Laws.Encoding.iaddSat (o : RRR) : Statement (.iaddSat o) :=
  fun h => ⟨_, rfl, word_lt (by decide) (RRR.enc_lt h)⟩

theorem Laws.Encoding.isubSat (o : RRR) : Statement (.isubSat o) :=
  fun h => ⟨_, rfl, word_lt (by decide) (RRR.enc_lt h)⟩

theorem Laws.Encoding.imulhU (o : RRR) : Statement (.imulhU o) :=
  fun h => ⟨_, rfl, word_lt (by decide) (RRR.enc_lt h)⟩

theorem Laws.Encoding.iminU (o : RRR) : Statement (.iminU o) :=
  fun h => ⟨_, rfl, word_lt (by decide) (RRR.enc_lt h)⟩

theorem Laws.Encoding.imaxU (o : RRR) : Statement (.imaxU o) :=
  fun h => ⟨_, rfl, word_lt (by decide) (RRR.enc_lt h)⟩

theorem Laws.Encoding.ineg (o : RR) : Statement (.ineg o) :=
  fun h => ⟨_, rfl, word_lt (by decide) (RR.enc_lt h)⟩

theorem Laws.Encoding.idiv (o : RRR) : Statement (.idiv o) :=
  fun h => ⟨_, rfl, word_lt (by decide) (RRR.enc_lt h)⟩

theorem Laws.Encoding.irem (o : RRR) : Statement (.irem o) :=
  fun h => ⟨_, rfl, word_lt (by decide) (RRR.enc_lt h)⟩

theorem Laws.Encoding.iadd64 (o : RRR) : Statement (.iadd64 o) :=
  fun h => ⟨_, rfl, word_lt (by decide) (RRR.enc_lt h)⟩

theorem Laws.Encoding.isub64 (o : RRR) : Statement (.isub64 o) :=
  fun h => ⟨_, rfl, word_lt (by decide) (RRR.enc_lt h)⟩

theorem Laws.Encoding.imul64 (o : RRR) : Statement (.imul64 o) :=
  fun h => ⟨_, rfl, word_lt (by decide) (RRR.enc_lt h)⟩

theorem Laws.Encoding.imad64 (o : RRR) : Statement (.imad64 o) :=
  fun h => ⟨_, rfl, word_lt (by decide) (RRR.enc_lt h)⟩

theorem Laws.Encoding.imin64 (o : RRR) : Statement (.imin64 o) :=
  fun h => ⟨_, rfl, word_lt (by decide) (RRR.enc_lt h)⟩

theorem Laws.Encoding.imax64 (o : RRR) : Statement (.imax64 o) :=
  fun h => ⟨_, rfl, word_lt (by decide) (RRR.enc_lt h)⟩

theorem Laws.Encoding.idivU (o : RRR) : Statement (.idivU o) :=
  fun h => ⟨_, rfl, word_lt (by decide) (RRR.enc_lt h)⟩

theorem Laws.Encoding.iremU (o : RRR) : Statement (.iremU o) :=
  fun h => ⟨_, rfl, word_lt (by decide) (RRR.enc_lt h)⟩

theorem Laws.Encoding.and (o : RRR) : Statement (.and o) :=
  fun h => ⟨_, rfl, word_lt (by decide) (RRR.enc_lt h)⟩

theorem Laws.Encoding.or (o : RRR) : Statement (.or o) :=
  fun h => ⟨_, rfl, word_lt (by decide) (RRR.enc_lt h)⟩

theorem Laws.Encoding.xor (o : RRR) : Statement (.xor o) :=
  fun h => ⟨_, rfl, word_lt (by decide) (RRR.enc_lt h)⟩

theorem Laws.Encoding.shl (o : RRR) : Statement (.shl o) :=
  fun h => ⟨_, rfl, word_lt (by decide) (RRR.enc_lt h)⟩

theorem Laws.Encoding.shr (o : RRR) : Statement (.shr o) :=
  fun h => ⟨_, rfl, word_lt (by decide) (RRR.enc_lt h)⟩

theorem Laws.Encoding.sar (o : RRR) : Statement (.sar o) :=
  fun h => ⟨_, rfl, word_lt (by decide) (RRR.enc_lt h)⟩

theorem Laws.Encoding.rot (o : RRR) : Statement (.rot o) :=
  fun h => ⟨_, rfl, word_lt (by decide) (RRR.enc_lt h)⟩

theorem Laws.Encoding.ishrr (o : RRR) : Statement (.ishrr o) :=
  fun h => ⟨_, rfl, word_lt (by decide) (RRR.enc_lt h)⟩

theorem Laws.Encoding.bfx (o : RRR) : Statement (.bfx o) :=
  fun h => ⟨_, rfl, word_lt (by decide) (RRR.enc_lt h)⟩

theorem Laws.Encoding.bfxU (o : RRR) : Statement (.bfxU o) :=
  fun h => ⟨_, rfl, word_lt (by decide) (RRR.enc_lt h)⟩

theorem Laws.Encoding.bfi (o : RRR) : Statement (.bfi o) :=
  fun h => ⟨_, rfl, word_lt (by decide) (RRR.enc_lt h)⟩

theorem Laws.Encoding.clz (o : RR) : Statement (.clz o) :=
  fun h => ⟨_, rfl, word_lt (by decide) (RR.enc_lt h)⟩

theorem Laws.Encoding.popc (o : RR) : Statement (.popc o) :=
  fun h => ⟨_, rfl, word_lt (by decide) (RR.enc_lt h)⟩

theorem Laws.Encoding.brev (o : RR) : Statement (.brev o) :=
  fun h => ⟨_, rfl, word_lt (by decide) (RR.enc_lt h)⟩

theorem Laws.Encoding.lea (o : RRR) : Statement (.lea o) :=
  fun h => ⟨_, rfl, word_lt (by decide) (RRR.enc_lt h)⟩

theorem Laws.Encoding.iaddImm (o : RRI) : Statement (.iaddImm o) :=
  fun h => ⟨_, rfl, word_lt (by decide) (RRI.enc_lt h)⟩

theorem Laws.Encoding.imulImm (o : RRI) : Statement (.imulImm o) :=
  fun h => ⟨_, rfl, word_lt (by decide) (RRI.enc_lt h)⟩

theorem Laws.Encoding.andImm (o : RRI) : Statement (.andImm o) :=
  fun h => ⟨_, rfl, word_lt (by decide) (RRI.enc_lt h)⟩

theorem Laws.Encoding.orImm (o : RRI) : Statement (.orImm o) :=
  fun h => ⟨_, rfl, word_lt (by decide) (RRI.enc_lt h)⟩

theorem Laws.Encoding.xorImm (o : RRI) : Statement (.xorImm o) :=
  fun h => ⟨_, rfl, word_lt (by decide) (RRI.enc_lt h)⟩

theorem Laws.Encoding.shlImm (o : RRI) : Statement (.shlImm o) :=
  fun h => ⟨_, rfl, word_lt (by decide) (RRI.shiftWf_lt h)⟩

theorem Laws.Encoding.shrImm (o : RRI) : Statement (.shrImm o) :=
  fun h => ⟨_, rfl, word_lt (by decide) (RRI.shiftWf_lt h)⟩

theorem Laws.Encoding.sarImm (o : RRI) : Statement (.sarImm o) :=
  fun h => ⟨_, rfl, word_lt (by decide) (RRI.shiftWf_lt h)⟩

theorem Laws.Encoding.isetEq (o : PRR) : Statement (.isetEq o) :=
  fun h => ⟨_, rfl, word_lt (by decide) (PRR.enc_lt h)⟩

theorem Laws.Encoding.isetNe (o : PRR) : Statement (.isetNe o) :=
  fun h => ⟨_, rfl, word_lt (by decide) (PRR.enc_lt h)⟩

theorem Laws.Encoding.isetLt (o : PRR) : Statement (.isetLt o) :=
  fun h => ⟨_, rfl, word_lt (by decide) (PRR.enc_lt h)⟩

theorem Laws.Encoding.isetLe (o : PRR) : Statement (.isetLe o) :=
  fun h => ⟨_, rfl, word_lt (by decide) (PRR.enc_lt h)⟩

theorem Laws.Encoding.isetLtU (o : PRR) : Statement (.isetLtU o) :=
  fun h => ⟨_, rfl, word_lt (by decide) (PRR.enc_lt h)⟩

theorem Laws.Encoding.isetLeU (o : PRR) : Statement (.isetLeU o) :=
  fun h => ⟨_, rfl, word_lt (by decide) (PRR.enc_lt h)⟩

theorem Laws.Encoding.isetEq64 (o : PRR) : Statement (.isetEq64 o) :=
  fun h => ⟨_, rfl, word_lt (by decide) (PRR.enc_lt h)⟩

theorem Laws.Encoding.isetLt64 (o : PRR) : Statement (.isetLt64 o) :=
  fun h => ⟨_, rfl, word_lt (by decide) (PRR.enc_lt h)⟩

theorem Laws.Encoding.faddF32 (o : RRR) : Statement (.faddF32 o) :=
  fun h => ⟨_, rfl, word_lt (by decide) (RRR.enc_lt h)⟩

theorem Laws.Encoding.fsubF32 (o : RRR) : Statement (.fsubF32 o) :=
  fun h => ⟨_, rfl, word_lt (by decide) (RRR.enc_lt h)⟩

theorem Laws.Encoding.fmulF32 (o : RRR) : Statement (.fmulF32 o) :=
  fun h => ⟨_, rfl, word_lt (by decide) (RRR.enc_lt h)⟩

theorem Laws.Encoding.ffmaF32 (o : RRR) : Statement (.ffmaF32 o) :=
  fun h => ⟨_, rfl, word_lt (by decide) (RRR.enc_lt h)⟩

theorem Laws.Encoding.fdivF32 (o : RRR) : Statement (.fdivF32 o) :=
  fun h => ⟨_, rfl, word_lt (by decide) (RRR.enc_lt h)⟩

theorem Laws.Encoding.fminF32 (o : RRR) : Statement (.fminF32 o) :=
  fun h => ⟨_, rfl, word_lt (by decide) (RRR.enc_lt h)⟩

theorem Laws.Encoding.fmaxF32 (o : RRR) : Statement (.fmaxF32 o) :=
  fun h => ⟨_, rfl, word_lt (by decide) (RRR.enc_lt h)⟩

theorem Laws.Encoding.fclassF32 (o : RR) : Statement (.fclassF32 o) :=
  fun h => ⟨_, rfl, word_lt (by decide) (RR.enc_lt h)⟩

theorem Laws.Encoding.frcpF32 (o : RR) : Statement (.frcpF32 o) :=
  fun h => ⟨_, rfl, word_lt (by decide) (RR.enc_lt h)⟩

theorem Laws.Encoding.frsqF32 (o : RR) : Statement (.frsqF32 o) :=
  fun h => ⟨_, rfl, word_lt (by decide) (RR.enc_lt h)⟩

theorem Laws.Encoding.fsqrtF32 (o : RR) : Statement (.fsqrtF32 o) :=
  fun h => ⟨_, rfl, word_lt (by decide) (RR.enc_lt h)⟩

theorem Laws.Encoding.fexp2F32 (o : RR) : Statement (.fexp2F32 o) :=
  fun h => ⟨_, rfl, word_lt (by decide) (RR.enc_lt h)⟩

theorem Laws.Encoding.flog2F32 (o : RR) : Statement (.flog2F32 o) :=
  fun h => ⟨_, rfl, word_lt (by decide) (RR.enc_lt h)⟩

theorem Laws.Encoding.faddBf16x2 (o : RRR) : Statement (.faddBf16x2 o) :=
  fun h => ⟨_, rfl, word_lt (by decide) (RRR.enc_lt h)⟩

theorem Laws.Encoding.fsubBf16x2 (o : RRR) : Statement (.fsubBf16x2 o) :=
  fun h => ⟨_, rfl, word_lt (by decide) (RRR.enc_lt h)⟩

theorem Laws.Encoding.fmulBf16x2 (o : RRR) : Statement (.fmulBf16x2 o) :=
  fun h => ⟨_, rfl, word_lt (by decide) (RRR.enc_lt h)⟩

theorem Laws.Encoding.ffmaBf16x2 (o : RRR) : Statement (.ffmaBf16x2 o) :=
  fun h => ⟨_, rfl, word_lt (by decide) (RRR.enc_lt h)⟩

theorem Laws.Encoding.fminBf16x2 (o : RRR) : Statement (.fminBf16x2 o) :=
  fun h => ⟨_, rfl, word_lt (by decide) (RRR.enc_lt h)⟩

theorem Laws.Encoding.fmaxBf16x2 (o : RRR) : Statement (.fmaxBf16x2 o) :=
  fun h => ⟨_, rfl, word_lt (by decide) (RRR.enc_lt h)⟩

theorem Laws.Encoding.faddF16x2 (o : RRR) : Statement (.faddF16x2 o) :=
  fun h => ⟨_, rfl, word_lt (by decide) (RRR.enc_lt h)⟩

theorem Laws.Encoding.fsubF16x2 (o : RRR) : Statement (.fsubF16x2 o) :=
  fun h => ⟨_, rfl, word_lt (by decide) (RRR.enc_lt h)⟩

theorem Laws.Encoding.fmulF16x2 (o : RRR) : Statement (.fmulF16x2 o) :=
  fun h => ⟨_, rfl, word_lt (by decide) (RRR.enc_lt h)⟩

theorem Laws.Encoding.ffmaF16x2 (o : RRR) : Statement (.ffmaF16x2 o) :=
  fun h => ⟨_, rfl, word_lt (by decide) (RRR.enc_lt h)⟩

theorem Laws.Encoding.fminF16x2 (o : RRR) : Statement (.fminF16x2 o) :=
  fun h => ⟨_, rfl, word_lt (by decide) (RRR.enc_lt h)⟩

theorem Laws.Encoding.fmaxF16x2 (o : RRR) : Statement (.fmaxF16x2 o) :=
  fun h => ⟨_, rfl, word_lt (by decide) (RRR.enc_lt h)⟩

theorem Laws.Encoding.fsetEq (o : PRR) : Statement (.fsetEq o) :=
  fun h => ⟨_, rfl, word_lt (by decide) (PRR.enc_lt h)⟩

theorem Laws.Encoding.fsetNe (o : PRR) : Statement (.fsetNe o) :=
  fun h => ⟨_, rfl, word_lt (by decide) (PRR.enc_lt h)⟩

theorem Laws.Encoding.fsetLt (o : PRR) : Statement (.fsetLt o) :=
  fun h => ⟨_, rfl, word_lt (by decide) (PRR.enc_lt h)⟩

theorem Laws.Encoding.fsetLe (o : PRR) : Statement (.fsetLe o) :=
  fun h => ⟨_, rfl, word_lt (by decide) (PRR.enc_lt h)⟩

theorem Laws.Encoding.fsetGt (o : PRR) : Statement (.fsetGt o) :=
  fun h => ⟨_, rfl, word_lt (by decide) (PRR.enc_lt h)⟩

theorem Laws.Encoding.fsetGe (o : PRR) : Statement (.fsetGe o) :=
  fun h => ⟨_, rfl, word_lt (by decide) (PRR.enc_lt h)⟩

theorem Laws.Encoding.fsetUn (o : PRR) : Statement (.fsetUn o) :=
  fun h => ⟨_, rfl, word_lt (by decide) (PRR.enc_lt h)⟩

theorem Laws.Encoding.fsetOrd (o : PRR) : Statement (.fsetOrd o) :=
  fun h => ⟨_, rfl, word_lt (by decide) (PRR.enc_lt h)⟩

theorem Laws.Encoding.cvt (o : CvtOp) : Statement (.cvt o) :=
  fun h => ⟨_, rfl, word_lt (by decide) (CvtOp.enc_lt h)⟩

theorem Laws.Encoding.quantRn8F32 (o : RRR) : Statement (.quantRn8F32 o) :=
  fun h => ⟨_, rfl, word_lt (by decide) (RRR.enc_lt h)⟩

theorem Laws.Encoding.quantRn8Bf16 (o : RRR) : Statement (.quantRn8Bf16 o) :=
  fun h => ⟨_, rfl, word_lt (by decide) (RRR.enc_lt h)⟩

theorem Laws.Encoding.quantRn12F32 (o : RRR) : Statement (.quantRn12F32 o) :=
  fun h => ⟨_, rfl, word_lt (by decide) (RRR.enc_lt h)⟩

theorem Laws.Encoding.quantRn12Bf16 (o : RRR) : Statement (.quantRn12Bf16 o) :=
  fun h => ⟨_, rfl, word_lt (by decide) (RRR.enc_lt h)⟩

theorem Laws.Encoding.dquantRn8 (o : RRR) : Statement (.dquantRn8 o) :=
  fun h => ⟨_, rfl, word_lt (by decide) (RRR.enc_lt h)⟩

theorem Laws.Encoding.dquantRn12 (o : RRR) : Statement (.dquantRn12 o) :=
  fun h => ⟨_, rfl, word_lt (by decide) (RRR.enc_lt h)⟩

theorem Laws.Encoding.trchk (o : RRR) : Statement (.trchk o) :=
  fun h => ⟨_, rfl, word_lt (by decide) (RRR.enc_lt h)⟩

theorem Laws.Encoding.shflIdx (o : RRR) : Statement (.shflIdx o) :=
  fun h => ⟨_, rfl, word_lt (by decide) (RRR.enc_lt h)⟩

theorem Laws.Encoding.shflUp (o : RRR) : Statement (.shflUp o) :=
  fun h => ⟨_, rfl, word_lt (by decide) (RRR.enc_lt h)⟩

theorem Laws.Encoding.shflDown (o : RRR) : Statement (.shflDown o) :=
  fun h => ⟨_, rfl, word_lt (by decide) (RRR.enc_lt h)⟩

theorem Laws.Encoding.shflXor (o : RRR) : Statement (.shflXor o) :=
  fun h => ⟨_, rfl, word_lt (by decide) (RRR.enc_lt h)⟩

theorem Laws.Encoding.matchLanes (o : RR) : Statement (.matchLanes o) :=
  fun h => ⟨_, rfl, word_lt (by decide) (RR.enc_lt h)⟩

theorem Laws.Encoding.voteBallot (o : RR) : Statement (.voteBallot o) :=
  fun h => ⟨_, rfl, word_lt (by decide) (RR.enc_lt h)⟩

theorem Laws.Encoding.ppfx (o : RRR) : Statement (.ppfx o) :=
  fun h => ⟨_, rfl, word_lt (by decide) (RRR.enc_lt h)⟩

theorem Laws.Encoding.isect (o : RRR) : Statement (.isect o) :=
  fun h => ⟨_, rfl, word_lt (by decide) (RRR.enc_lt h)⟩

theorem Laws.Encoding.voteAny (o : PR) : Statement (.voteAny o) :=
  fun h => ⟨_, rfl, word_lt (by decide) (PR.enc_lt h)⟩

theorem Laws.Encoding.voteAll (o : PR) : Statement (.voteAll o) :=
  fun h => ⟨_, rfl, word_lt (by decide) (PR.enc_lt h)⟩

theorem Laws.Encoding.lpfxAddI32 (o : RR) : Statement (.lpfxAddI32 o) :=
  fun h => ⟨_, rfl, word_lt (by decide) (RR.enc_lt h)⟩

theorem Laws.Encoding.lpfxAddF32 (o : RR) : Statement (.lpfxAddF32 o) :=
  fun h => ⟨_, rfl, word_lt (by decide) (RR.enc_lt h)⟩

theorem Laws.Encoding.lredAddI32 (o : RR) : Statement (.lredAddI32 o) :=
  fun h => ⟨_, rfl, word_lt (by decide) (RR.enc_lt h)⟩

theorem Laws.Encoding.lredAddF32 (o : RR) : Statement (.lredAddF32 o) :=
  fun h => ⟨_, rfl, word_lt (by decide) (RR.enc_lt h)⟩

theorem Laws.Encoding.lredMinF32 (o : RR) : Statement (.lredMinF32 o) :=
  fun h => ⟨_, rfl, word_lt (by decide) (RR.enc_lt h)⟩

theorem Laws.Encoding.lredMaxF32 (o : RR) : Statement (.lredMaxF32 o) :=
  fun h => ⟨_, rfl, word_lt (by decide) (RR.enc_lt h)⟩

theorem Laws.Encoding.lredMulF32 (o : RR) : Statement (.lredMulF32 o) :=
  fun h => ⟨_, rfl, word_lt (by decide) (RR.enc_lt h)⟩

theorem Laws.Encoding.lredMinI32 (o : RR) : Statement (.lredMinI32 o) :=
  fun h => ⟨_, rfl, word_lt (by decide) (RR.enc_lt h)⟩

theorem Laws.Encoding.lredMaxI32 (o : RR) : Statement (.lredMaxI32 o) :=
  fun h => ⟨_, rfl, word_lt (by decide) (RR.enc_lt h)⟩

theorem Laws.Encoding.lredAnd (o : RR) : Statement (.lredAnd o) :=
  fun h => ⟨_, rfl, word_lt (by decide) (RR.enc_lt h)⟩

theorem Laws.Encoding.lredOr (o : RR) : Statement (.lredOr o) :=
  fun h => ⟨_, rfl, word_lt (by decide) (RR.enc_lt h)⟩

theorem Laws.Encoding.lredXor (o : RR) : Statement (.lredXor o) :=
  fun h => ⟨_, rfl, word_lt (by decide) (RR.enc_lt h)⟩

theorem Laws.Encoding.mov (o : RR) : Statement (.mov o) :=
  fun h => ⟨_, rfl, word_lt (by decide) (RR.enc_lt h)⟩

theorem Laws.Encoding.sel (o : SelOp) : Statement (.sel o) :=
  fun h => ⟨_, rfl, word_lt (by decide) (SelOp.enc_lt h)⟩

theorem Laws.Encoding.movs (o : RS) : Statement (.movs o) :=
  fun h => ⟨_, rfl, word_lt (by decide) (RS.enc_lt h)⟩

theorem Laws.Encoding.movsGet (o : SRR) : Statement (.movsGet o) :=
  fun h => ⟨_, rfl, word_lt (by decide) (SRR.enc_lt h)⟩

theorem Laws.Encoding.psetAnd (o : PPP) : Statement (.psetAnd o) :=
  fun h => ⟨_, rfl, word_lt (by decide) (PPP.enc_lt h)⟩

theorem Laws.Encoding.psetOr (o : PPP) : Statement (.psetOr o) :=
  fun h => ⟨_, rfl, word_lt (by decide) (PPP.enc_lt h)⟩

theorem Laws.Encoding.psetXor (o : PPP) : Statement (.psetXor o) :=
  fun h => ⟨_, rfl, word_lt (by decide) (PPP.enc_lt h)⟩

theorem Laws.Encoding.psetAndn (o : PPP) : Statement (.psetAndn o) :=
  fun h => ⟨_, rfl, word_lt (by decide) (PPP.enc_lt h)⟩

theorem Laws.Encoding.pmov (o : RW) : Statement (.pmov o) :=
  fun h => ⟨_, rfl, word_lt (by decide) (RW.enc_lt h)⟩

theorem Laws.Encoding.pmovTov (o : RP) : Statement (.pmovTov o) :=
  fun h => ⟨_, rfl, word_lt (by decide) (RP.enc_lt h)⟩

theorem Laws.Encoding.pmovFromv (o : PR) : Statement (.pmovFromv o) :=
  fun h => ⟨_, rfl, word_lt (by decide) (PR.enc_lt h)⟩

theorem Laws.Encoding.movi (o : RI) : Statement (.movi o) :=
  fun h => ⟨_, rfl, word_lt (by decide) (RI.enc_lt h)⟩

theorem Laws.Encoding.sadd (o : SSS) : Statement (.sadd o) :=
  fun h => ⟨_, rfl, word_lt (by decide) (SSS.enc_lt h)⟩

theorem Laws.Encoding.ssub (o : SSS) : Statement (.ssub o) :=
  fun h => ⟨_, rfl, word_lt (by decide) (SSS.enc_lt h)⟩

theorem Laws.Encoding.smul (o : SSS) : Statement (.smul o) :=
  fun h => ⟨_, rfl, word_lt (by decide) (SSS.enc_lt h)⟩

theorem Laws.Encoding.sand (o : SSS) : Statement (.sand o) :=
  fun h => ⟨_, rfl, word_lt (by decide) (SSS.enc_lt h)⟩

theorem Laws.Encoding.sor (o : SSS) : Statement (.sor o) :=
  fun h => ⟨_, rfl, word_lt (by decide) (SSS.enc_lt h)⟩

theorem Laws.Encoding.sxor (o : SSS) : Statement (.sxor o) :=
  fun h => ⟨_, rfl, word_lt (by decide) (SSS.enc_lt h)⟩

theorem Laws.Encoding.sshl (o : SSS) : Statement (.sshl o) :=
  fun h => ⟨_, rfl, word_lt (by decide) (SSS.enc_lt h)⟩

theorem Laws.Encoding.sshr (o : SSS) : Statement (.sshr o) :=
  fun h => ⟨_, rfl, word_lt (by decide) (SSS.enc_lt h)⟩

theorem Laws.Encoding.ssetEq (o : SSS) : Statement (.ssetEq o) :=
  fun h => ⟨_, rfl, word_lt (by decide) (SSS.enc_lt h)⟩

theorem Laws.Encoding.ssetNe (o : SSS) : Statement (.ssetNe o) :=
  fun h => ⟨_, rfl, word_lt (by decide) (SSS.enc_lt h)⟩

theorem Laws.Encoding.ssetLt (o : SSS) : Statement (.ssetLt o) :=
  fun h => ⟨_, rfl, word_lt (by decide) (SSS.enc_lt h)⟩

theorem Laws.Encoding.ssetLe (o : SSS) : Statement (.ssetLe o) :=
  fun h => ⟨_, rfl, word_lt (by decide) (SSS.enc_lt h)⟩

theorem Laws.Encoding.ssetLtU (o : SSS) : Statement (.ssetLtU o) :=
  fun h => ⟨_, rfl, word_lt (by decide) (SSS.enc_lt h)⟩

theorem Laws.Encoding.ssetLeU (o : SSS) : Statement (.ssetLeU o) :=
  fun h => ⟨_, rfl, word_lt (by decide) (SSS.enc_lt h)⟩

theorem Laws.Encoding.smov (o : SMovOp) : Statement (.smov o) :=
  fun h => ⟨_, rfl, word_lt (by decide) (SMovOp.enc_lt h)⟩

theorem Laws.Encoding.sldg (o : SMemOp) : Statement (.sldg o) :=
  fun h => ⟨_, rfl, word_lt (by decide) (SMemOp.enc_lt h)⟩

theorem Laws.Encoding.sstg (o : SMemOp) : Statement (.sstg o) :=
  fun h => ⟨_, rfl, word_lt (by decide) (SMemOp.enc_lt h)⟩

theorem Laws.Encoding.ldg (o : LdgOp) : Statement (.ldg o) :=
  fun h => ⟨_, rfl, word_lt (by decide) (LdgOp.enc_lt h)⟩

theorem Laws.Encoding.ldl (o : LdlOp) : Statement (.ldl o) :=
  fun h => ⟨_, rfl, word_lt (by decide) (LdlOp.enc_lt h)⟩

theorem Laws.Encoding.lds (o : LdsOp) : Statement (.lds o) :=
  fun h => ⟨_, rfl, word_lt (by decide) (LdsOp.enc_lt h)⟩

theorem Laws.Encoding.ldw (o : LdsOp) : Statement (.ldw o) :=
  fun h => ⟨_, rfl, word_lt (by decide) (LdsOp.enc_lt h)⟩

theorem Laws.Encoding.stg (o : StOp) : Statement (.stg o) :=
  fun h => ⟨_, rfl, word_lt (by decide) (StOp.enc_lt h)⟩

theorem Laws.Encoding.stl (o : StlOp) : Statement (.stl o) :=
  fun h => ⟨_, rfl, word_lt (by decide) (StlOp.enc_lt h)⟩

theorem Laws.Encoding.sts (o : StOp) : Statement (.sts o) :=
  fun h => ⟨_, rfl, word_lt (by decide) (StOp.enc_lt h)⟩

theorem Laws.Encoding.stw (o : StOp) : Statement (.stw o) :=
  fun h => ⟨_, rfl, word_lt (by decide) (StOp.enc_lt h)⟩

theorem Laws.Encoding.atom (o : AtomOp) : Statement (.atom o) :=
  fun h => ⟨_, rfl, word_lt (by decide) (AtomOp.enc_lt h)⟩

theorem Laws.Encoding.red (o : RedOp) : Statement (.red o) :=
  fun h => ⟨_, rfl, word_lt (by decide) (RedOp.enc_lt h)⟩

theorem Laws.Encoding.atoms (o : AtomsOp) : Statement (.atoms o) :=
  fun h => ⟨_, rfl, word_lt (by decide) (AtomsOp.enc_lt h)⟩

theorem Laws.Encoding.reds (o : RedsOp) : Statement (.reds o) :=
  fun h => ⟨_, rfl, word_lt (by decide) (RedsOp.enc_lt h)⟩

theorem Laws.Encoding.cflush (o : RangeOp) : Statement (.cflush o) :=
  fun h => ⟨_, rfl, word_lt (by decide) (RangeOp.enc_lt h)⟩

theorem Laws.Encoding.cinv (o : RangeOp) : Statement (.cinv o) :=
  fun h => ⟨_, rfl, word_lt (by decide) (RangeOp.enc_lt h)⟩

theorem Laws.Encoding.cpref (o : CprefOp) : Statement (.cpref o) :=
  fun h => ⟨_, rfl, word_lt (by decide) (CprefOp.enc_lt h)⟩

theorem Laws.Encoding.seal (o : SS) : Statement (.seal o) :=
  fun h => ⟨_, rfl, word_lt (by decide) (SS.enc_lt h)⟩

theorem Laws.Encoding.unseal (o : SS) : Statement (.unseal o) :=
  fun h => ⟨_, rfl, word_lt (by decide) (SS.enc_lt h)⟩

theorem Laws.Encoding.bsig (o : BarOp) : Statement (.bsig o) :=
  fun h => ⟨_, rfl, word_lt (by decide) (BarOp.enc_lt h)⟩

theorem Laws.Encoding.bwait (o : BarOp) : Statement (.bwait o) :=
  fun h => ⟨_, rfl, word_lt (by decide) (BarOp.enc_lt h)⟩

theorem Laws.Encoding.brd (o : BrdOp) : Statement (.brd o) :=
  fun h => ⟨_, rfl, word_lt (by decide) (BrdOp.enc_lt h)⟩

theorem Laws.Encoding.bind (o : BindOp) : Statement (.bind o) :=
  fun h => ⟨_, rfl, word_lt (by decide) (BindOp.enc_lt h)⟩

theorem Laws.Encoding.unbind (o : UnbindOp) : Statement (.unbind o) :=
  fun h => ⟨_, rfl, word_lt (by decide) (UnbindOp.enc_lt h)⟩

theorem Laws.Encoding.fence (o : FenceOp) : Statement (.fence o) :=
  fun _ => ⟨_, rfl, word_lt (by decide) (FenceOp.enc_lt o)⟩

theorem Laws.Encoding.take (o : TakeOp) : Statement (.take o) :=
  fun h => ⟨_, rfl, word_lt (by decide) (TakeOp.enc_lt h)⟩

theorem Laws.Encoding.give (o : GiveOp) : Statement (.give o) :=
  fun h => ⟨_, rfl, word_lt (by decide) (GiveOp.enc_lt h)⟩

theorem Laws.Encoding.ownq (o : TakeOp) : Statement (.ownq o) :=
  fun h => ⟨_, rfl, word_lt (by decide) (TakeOp.enc_lt h)⟩

theorem Laws.Encoding.cpy (o : CpyOp) : Statement (.cpy o) :=
  fun h => ⟨_, rfl, word_lt (by decide) (CpyOp.enc_lt h)⟩

theorem Laws.Encoding.cpys (o : CpyOp) : Statement (.cpys o) :=
  fun h => ⟨_, rfl, word_lt (by decide) (CpyOp.enc_lt h)⟩

theorem Laws.Encoding.cpym (o : CpyOp) : Statement (.cpym o) :=
  fun h => ⟨_, rfl, word_lt (by decide) (CpyOp.enc_lt h)⟩

theorem Laws.Encoding.cpyw (o : CpyOp) : Statement (.cpyw o) :=
  fun h => ⟨_, rfl, word_lt (by decide) (CpyOp.enc_lt h)⟩

theorem Laws.Encoding.cpyb (o : CpyOp) : Statement (.cpyb o) :=
  fun h => ⟨_, rfl, word_lt (by decide) (CpyOp.enc_lt h)⟩

theorem Laws.Encoding.mmaA33 (o : MmaOp) : Statement (.mmaA33 o) :=
  fun h => ⟨_, rfl, word_lt (by decide) (MmaOp.enc_lt h)⟩

theorem Laws.Encoding.mmaA48 (o : MmaOp) : Statement (.mmaA48 o) :=
  fun h => ⟨_, rfl, word_lt (by decide) (MmaOp.enc_lt h)⟩

theorem Laws.Encoding.mmazA33 (o : MmaOp) : Statement (.mmazA33 o) :=
  fun h => ⟨_, rfl, word_lt (by decide) (MmaOp.enc_lt h)⟩

theorem Laws.Encoding.mmazA48 (o : MmaOp) : Statement (.mmazA48 o) :=
  fun h => ⟨_, rfl, word_lt (by decide) (MmaOp.enc_lt h)⟩

theorem Laws.Encoding.mlease (o : MleaseOp) : Statement (.mlease o) :=
  fun h => ⟨_, rfl, word_lt (by decide) (MleaseOp.enc_lt h)⟩

theorem Laws.Encoding.macq (o : MacqOp) : Statement (.macq o) :=
  fun h => ⟨_, rfl, word_lt (by decide) (MacqOp.enc_lt h)⟩

theorem Laws.Encoding.acvt (o : AcvtOp) : Statement (.acvt o) :=
  fun h => ⟨_, rfl, word_lt (by decide) (AcvtOp.enc_lt h)⟩

theorem Laws.Encoding.ald (o : AldOp) : Statement (.ald o) :=
  fun h => ⟨_, rfl, word_lt (by decide) (AldOp.enc_lt h)⟩

theorem Laws.Encoding.ast (o : AstOp) : Statement (.ast o) :=
  fun h => ⟨_, rfl, word_lt (by decide) (AstOp.enc_lt h)⟩

theorem Laws.Encoding.tdef (o : SS) : Statement (.tdef o) :=
  fun h => ⟨_, rfl, word_lt (by decide) (SS.enc_lt h)⟩

theorem Laws.Encoding.tdrop (o : SS) : Statement (.tdrop o) :=
  fun h => ⟨_, rfl, word_lt (by decide) (SS.enc_lt h)⟩

theorem Laws.Encoding.tqry (o : TqryOp) : Statement (.tqry o) :=
  fun h => ⟨_, rfl, word_lt (by decide) (TqryOp.enc_lt h)⟩

theorem Laws.Encoding.tgathI32 (o : TgathOp) : Statement (.tgathI32 o) :=
  fun h => ⟨_, rfl, word_lt (by decide) (TgathOp.enc_lt h)⟩

theorem Laws.Encoding.tgathF32 (o : TgathOp) : Statement (.tgathF32 o) :=
  fun h => ⟨_, rfl, word_lt (by decide) (TgathOp.enc_lt h)⟩

theorem Laws.Encoding.spld (o : SpldOp) : Statement (.spld o) :=
  fun h => ⟨_, rfl, word_lt (by decide) (SpldOp.enc_lt h)⟩

theorem Laws.Encoding.spst (o : SpstOp) : Statement (.spst o) :=
  fun h => ⟨_, rfl, word_lt (by decide) (SpstOp.enc_lt h)⟩

theorem Laws.Encoding.spnext (o : SpldOp) : Statement (.spnext o) :=
  fun h => ⟨_, rfl, word_lt (by decide) (SpldOp.nextWf_lt h)⟩

theorem Laws.Encoding.spleaf (o : SpldOp) : Statement (.spleaf o) :=
  fun h => ⟨_, rfl, word_lt (by decide) (SpldOp.enc_lt h)⟩

theorem Laws.Encoding.spdense (o : SpEngineOp) : Statement (.spdense o) :=
  fun h => ⟨_, rfl, word_lt (by decide) (SpEngineOp.enc_lt h)⟩

theorem Laws.Encoding.spimport (o : SpEngineOp) : Statement (.spimport o) :=
  fun h => ⟨_, rfl, word_lt (by decide) (SpEngineOp.enc_lt h)⟩

theorem Laws.Encoding.enq (o : EnqOp) : Statement (.enq o) :=
  fun h => ⟨_, rfl, word_lt (by decide) (EnqOp.enc_lt h)⟩

theorem Laws.Encoding.deq (o : DeqOp) : Statement (.deq o) :=
  fun h => ⟨_, rfl, word_lt (by decide) (DeqOp.enc_lt h)⟩

theorem Laws.Encoding.qstat (o : QstatOp) : Statement (.qstat o) :=
  fun h => ⟨_, rfl, word_lt (by decide) (QstatOp.enc_lt h)⟩

theorem Laws.Encoding.preq (o : PreqOp) : Statement (.preq o) :=
  fun h => ⟨_, rfl, word_lt (by decide) (PreqOp.enc_lt h)⟩

theorem Laws.Encoding.br (o : BrOp) : Statement (.br o) :=
  fun h => ⟨_, rfl, word_lt (by decide) (BrOp.enc_lt h)⟩

theorem Laws.Encoding.brpAny (o : BrpOp) : Statement (.brpAny o) :=
  fun h => ⟨_, rfl, word_lt (by decide) (BrpOp.enc_lt h)⟩

theorem Laws.Encoding.brpAll (o : BrpOp) : Statement (.brpAll o) :=
  fun h => ⟨_, rfl, word_lt (by decide) (BrpOp.enc_lt h)⟩

theorem Laws.Encoding.brpLane (o : BrpOp) : Statement (.brpLane o) :=
  fun h => ⟨_, rfl, word_lt (by decide) (BrpOp.enc_lt h)⟩

theorem Laws.Encoding.call (o : CallOp) : Statement (.call o) :=
  fun h => ⟨_, rfl, word_lt (by decide) (CallOp.enc_lt h)⟩

theorem Laws.Encoding.ret (o : JumpOp) : Statement (.ret o) :=
  fun h => ⟨_, rfl, word_lt (by decide) (JumpOp.enc_lt h)⟩

theorem Laws.Encoding.jmpi (o : JumpOp) : Statement (.jmpi o) :=
  fun h => ⟨_, rfl, word_lt (by decide) (JumpOp.enc_lt h)⟩

theorem Laws.Encoding.regang (o : RegangOp) : Statement (.regang o) :=
  fun h => ⟨_, rfl, word_lt (by decide) (RegangOp.enc_lt h)⟩

theorem Laws.Encoding.trap (o : TrapOp) : Statement (.trap o) :=
  fun h => ⟨_, rfl, word_lt (by decide) (TrapOp.enc_lt h)⟩

theorem Laws.Encoding.emret (o : EmretOp) : Statement (.emret o) :=
  fun _ => ⟨_, rfl, word_lt (by decide) (EmretOp.enc_lt o)⟩

theorem Laws.Encoding.srd (o : SrdOp) : Statement (.srd o) :=
  fun h => ⟨_, rfl, word_lt (by decide) (SrdOp.enc_lt h)⟩

theorem Laws.Encoding.swr (o : SwrOp) : Statement (.swr o) :=
  fun h => ⟨_, rfl, word_lt (by decide) (SwrOp.enc_lt h)⟩

theorem Laws.Encoding.psrd (o : SS) : Statement (.psrd o) :=
  fun h => ⟨_, rfl, word_lt (by decide) (SS.enc_lt h)⟩

theorem Laws.Encoding.pswr (o : SS) : Statement (.pswr o) :=
  fun h => ⟨_, rfl, word_lt (by decide) (SS.enc_lt h)⟩

theorem Laws.Encoding.invpg (o : InvpgOp) : Statement (.invpg o) :=
  fun h => ⟨_, rfl, word_lt (by decide) (InvpgOp.enc_lt h)⟩

theorem Laws.Encoding.tramp (o : TrampOp) : Statement (.tramp o) :=
  fun h => ⟨_, rfl, word_lt (by decide) (TrampOp.enc_lt h)⟩

theorem Laws.Encoding.deferredFault (core : Nat) (unit : EngineUnit) (index : Nat) : Statement (.deferredFault core unit index) :=
  fun h => Bool.noConfusion (show false = true from h)

theorem Laws.Encoding.copyComplete (core index : Nat) : Statement (.copyComplete core index) :=
  fun h => Bool.noConfusion (show false = true from h)

theorem Laws.Encoding.mmaExecute (core : Nat) : Statement (.mmaExecute core) :=
  fun h => Bool.noConfusion (show false = true from h)

theorem Laws.Encoding.acvtExecute (core : Nat) : Statement (.acvtExecute core) :=
  fun h => Bool.noConfusion (show false = true from h)

theorem Laws.Encoding.spdenseComplete (core index : Nat) : Statement (.spdenseComplete core index) :=
  fun h => Bool.noConfusion (show false = true from h)

theorem Laws.Encoding.spimportComplete (core index : Nat) : Statement (.spimportComplete core index) :=
  fun h => Bool.noConfusion (show false = true from h)

theorem Laws.Encoding.bwaitWake (core slot : Nat) : Statement (.bwaitWake core slot) :=
  fun h => Bool.noConfusion (show false = true from h)

theorem Laws.Encoding.wdog (core slot : Nat) : Statement (.wdog core slot) :=
  fun h => Bool.noConfusion (show false = true from h)

theorem Laws.Encoding.matrixLeaseGrant (core : Nat) : Statement (.matrixLeaseGrant core) :=
  fun h => Bool.noConfusion (show false = true from h)

theorem Laws.Encoding.leaseIdleEnd (core : Nat) : Statement (.leaseIdleEnd core) :=
  fun h => Bool.noConfusion (show false = true from h)

theorem Laws.Encoding.promotion (core slot : Nat) : Statement (.promotion core slot) :=
  fun h => Bool.noConfusion (show false = true from h)

theorem Laws.Encoding.promotionTimeout (core slot : Nat) : Statement (.promotionTimeout core slot) :=
  fun h => Bool.noConfusion (show false = true from h)

theorem Laws.Encoding.launchComplete (part : Nat) : Statement (.launchComplete part) :=
  fun h => Bool.noConfusion (show false = true from h)

theorem Laws.Encoding.dispatchDecision (die : Nat) : Statement (.dispatchDecision die) :=
  fun h => Bool.noConfusion (show false = true from h)

theorem Laws.Encoding.teamPlacement (core : Nat) : Statement (.teamPlacement core) :=
  fun h => Bool.noConfusion (show false = true from h)

theorem Laws.Encoding.wideTeamPlacement (part : Nat) : Statement (.wideTeamPlacement part) :=
  fun h => Bool.noConfusion (show false = true from h)

theorem Laws.Encoding.coresidentPlacement (part : Nat) : Statement (.coresidentPlacement part) :=
  fun h => Bool.noConfusion (show false = true from h)

theorem Laws.Encoding.lightFault (core slot : Nat) : Statement (.lightFault core slot) :=
  fun h => Bool.noConfusion (show false = true from h)

theorem Laws.Encoding.fetchFill (core : Nat) : Statement (.fetchFill core) :=
  fun h => Bool.noConfusion (show false = true from h)

theorem Laws.Encoding.stopdlExpire (part : Nat) : Statement (.stopdlExpire part) :=
  fun h => Bool.noConfusion (show false = true from h)

theorem Laws.Encoding.mailboxTake (die : Nat) : Statement (.mailboxTake die) :=
  fun h => Bool.noConfusion (show false = true from h)

theorem Laws.Encoding.wltRetransmitTimeout (conn : Nat) : Statement (.wltRetransmitTimeout conn) :=
  fun h => Bool.noConfusion (show false = true from h)

theorem Laws.Encoding.submit (part : Nat) : Statement (.submit part) :=
  fun h => Bool.noConfusion (show false = true from h)

theorem Laws.Encoding.nop (part : Nat) : Statement (.nop part) :=
  fun h => Bool.noConfusion (show false = true from h)

theorem Laws.Encoding.unknownRingOp (part : Nat) : Statement (.unknownRingOp part) :=
  fun h => Bool.noConfusion (show false = true from h)

theorem Laws.Encoding.stretchEnd (cluster : Nat) : Statement (.stretchEnd cluster) :=
  fun h => Bool.noConfusion (show false = true from h)

theorem Laws.Encoding.prefetchRequest (core : Nat) : Statement (.prefetchRequest core) :=
  fun h => Bool.noConfusion (show false = true from h)

theorem Laws.Encoding.nresRetry (core slot : Nat) : Statement (.nresRetry core slot) :=
  fun h => Bool.noConfusion (show false = true from h)

theorem Laws.Encoding.partmapWrite (val : DWord) : Statement (.partmapWrite val) :=
  fun h => Bool.noConfusion (show false = true from h)

theorem Laws.Encoding.qbanksWrite (part : Nat) (val : DWord) : Statement (.qbanksWrite part val) :=
  fun h => Bool.noConfusion (show false = true from h)

theorem Laws.Encoding.stop (who : Party) (part : Nat) : Statement (.stop who part) :=
  fun h => Bool.noConfusion (show false = true from h)

theorem Laws.Encoding.frz (who : Party) (part : Nat) : Statement (.frz who part) :=
  fun h => Bool.noConfusion (show false = true from h)

theorem Laws.Encoding.partitionResume (who : Party) (part : Nat) : Statement (.partitionResume who part) :=
  fun h => Bool.noConfusion (show false = true from h)

theorem Laws.Encoding.contextCreate (who : Party) (part ctx : Nat) : Statement (.contextCreate who part ctx) :=
  fun h => Bool.noConfusion (show false = true from h)

theorem Laws.Encoding.contextFree (who : Party) (part ctx : Nat) : Statement (.contextFree who part ctx) :=
  fun h => Bool.noConfusion (show false = true from h)

theorem Laws.Encoding.shootdown (who : Party) (part : Nat) (val : DWord) : Statement (.shootdown who part val) :=
  fun h => Bool.noConfusion (show false = true from h)

theorem Laws.Encoding.shootdownPurge (who : Party) (part : Nat) (val : DWord) : Statement (.shootdownPurge who part val) :=
  fun h => Bool.noConfusion (show false = true from h)

theorem Laws.Encoding.resume (who : Party) (part ctx : Nat) : Statement (.resume who part ctx) :=
  fun h => Bool.noConfusion (show false = true from h)

theorem Laws.Encoding.resumeEnd (who : Party) (part ctx : Nat) : Statement (.resumeEnd who part ctx) :=
  fun h => Bool.noConfusion (show false = true from h)

theorem Laws.Encoding.queueCreate (part q : Nat) : Statement (.queueCreate part q) :=
  fun h => Bool.noConfusion (show false = true from h)

theorem Laws.Encoding.queueDestroy (part q : Nat) : Statement (.queueDestroy part q) :=
  fun h => Bool.noConfusion (show false = true from h)

theorem Laws.Encoding.kill (who : Party) (part ctx : Nat) : Statement (.kill who part ctx) :=
  fun h => Bool.noConfusion (show false = true from h)

theorem Laws.Encoding.exchange (who : Party) (part : Nat) (val : DWord) : Statement (.exchange who part val) :=
  fun h => Bool.noConfusion (show false = true from h)

theorem Laws.Encoding.spill (who : Party) (part : Nat) (val : DWord) : Statement (.spill who part val) :=
  fun h => Bool.noConfusion (show false = true from h)

theorem Laws.Encoding.fill (who : Party) (part : Nat) (val : DWord) : Statement (.fill who part val) :=
  fun h => Bool.noConfusion (show false = true from h)

theorem Laws.Encoding.resetCore (target : Nat) : Statement (.resetCore target) :=
  fun h => Bool.noConfusion (show false = true from h)

theorem Laws.Encoding.resetCluster (target : Nat) : Statement (.resetCluster target) :=
  fun h => Bool.noConfusion (show false = true from h)

theorem Laws.Encoding.resetDie (target : Nat) : Statement (.resetDie target) :=
  fun h => Bool.noConfusion (show false = true from h)

theorem Laws.Encoding.uncorrectableStateError (kind : PartKind) (target : Nat) : Statement (.uncorrectableStateError kind target) :=
  fun h => Bool.noConfusion (show false = true from h)

theorem Laws.Encoding.unresponsiveTimeout (kind : PartKind) (target : Nat) : Statement (.unresponsiveTimeout kind target) :=
  fun h => Bool.noConfusion (show false = true from h)

theorem Laws.Encoding.retirePage (die : Nat) : Statement (.retirePage die) :=
  fun h => Bool.noConfusion (show false = true from h)

theorem Laws.Encoding.readFirmwareVersion (die : Nat) : Statement (.readFirmwareVersion die) :=
  fun h => Bool.noConfusion (show false = true from h)

theorem Laws.Encoding.readDieTelemetry (die : Nat) : Statement (.readDieTelemetry die) :=
  fun h => Bool.noConfusion (show false = true from h)

theorem Laws.Encoding.mailboxUnknownOp (die : Nat) : Statement (.mailboxUnknownOp die) :=
  fun h => Bool.noConfusion (show false = true from h)

theorem Laws.Encoding.connectionOpen (conn : Nat) : Statement (.connectionOpen conn) :=
  fun h => Bool.noConfusion (show false = true from h)

theorem Laws.Encoding.connectionClose (conn : Nat) : Statement (.connectionClose conn) :=
  fun h => Bool.noConfusion (show false = true from h)

theorem Laws.Encoding.wltWrite (m : Datagram) : Statement (.wltWrite m) :=
  fun h => Bool.noConfusion (show false = true from h)

theorem Laws.Encoding.wltRead (m : Datagram) : Statement (.wltRead m) :=
  fun h => Bool.noConfusion (show false = true from h)

theorem Laws.Encoding.wltReadresp (m : Datagram) : Statement (.wltReadresp m) :=
  fun h => Bool.noConfusion (show false = true from h)

theorem Laws.Encoding.wltAck (m : Datagram) : Statement (.wltAck m) :=
  fun h => Bool.noConfusion (show false = true from h)

theorem Laws.Encoding.wltSendKick (m : Datagram) : Statement (.wltSendKick m) :=
  fun h => Bool.noConfusion (show false = true from h)

theorem Laws.Encoding.arpRequest (m : ArpRequest) : Statement (.arpRequest m) :=
  fun h => Bool.noConfusion (show false = true from h)

theorem Laws.Encoding.neighbourSolicitation (m : Solicitation) : Statement (.neighbourSolicitation m) :=
  fun h => Bool.noConfusion (show false = true from h)

theorem Laws.Encoding.icmpEchoRequest (m : EchoRequest) : Statement (.icmpEchoRequest m) :=
  fun h => Bool.noConfusion (show false = true from h)

theorem Laws.Encoding.supplySag (cluster : Nat) : Statement (.supplySag cluster) :=
  fun h => Bool.noConfusion (show false = true from h)

theorem Laws.Encoding.privilegedRegisterWrite (who : Party) (addr val : DWord) : Statement (.privilegedRegisterWrite who addr val) :=
  fun h => Bool.noConfusion (show false = true from h)

theorem Laws.Encoding.smbusCommandNotListed (command : Nat) : Statement (.smbusCommandNotListed command) :=
  fun h => Bool.noConfusion (show false = true from h)

theorem Laws.Encoding.mrel : Statement .mrel :=
  fun _ => ⟨_, rfl, by decide⟩

theorem Laws.Encoding.exit : Statement .exit :=
  fun _ => ⟨_, rfl, by decide⟩

theorem Laws.Encoding.yield : Statement .yield :=
  fun _ => ⟨_, rfl, by decide⟩

theorem Laws.Encoding.ppt : Statement .ppt :=
  fun _ => ⟨_, rfl, by decide⟩

theorem Laws.Encoding.tret : Statement .tret :=
  fun _ => ⟨_, rfl, by decide⟩

theorem Laws.Encoding.undefinedWord : Statement .undefinedWord :=
  fun h => Bool.noConfusion (show false = true from h)

theorem Laws.Encoding.dispatchHoldTimeout : Statement .dispatchHoldTimeout :=
  fun h => Bool.noConfusion (show false = true from h)

theorem Laws.Encoding.energyWindowStart : Statement .energyWindowStart :=
  fun h => Bool.noConfusion (show false = true from h)

theorem Laws.Encoding.resetComplete : Statement .resetComplete :=
  fun h => Bool.noConfusion (show false = true from h)

theorem Laws.Encoding.ringRecheck : Statement .ringRecheck :=
  fun h => Bool.noConfusion (show false = true from h)

theorem Laws.Encoding.attestationGo : Statement .attestationGo :=
  fun h => Bool.noConfusion (show false = true from h)

theorem Laws.Encoding.recoveryGo : Statement .recoveryGo :=
  fun h => Bool.noConfusion (show false = true from h)

theorem Laws.Encoding.powerOn : Statement .powerOn :=
  fun h => Bool.noConfusion (show false = true from h)

theorem Laws.Encoding.mainPowerOff : Statement .mainPowerOff :=
  fun h => Bool.noConfusion (show false = true from h)

theorem Laws.Encoding.smbusReadPhase : Statement .smbusReadPhase :=
  fun h => Bool.noConfusion (show false = true from h)

theorem Laws.Encoding.smbusReadPower : Statement .smbusReadPower :=
  fun h => Bool.noConfusion (show false = true from h)

theorem Laws.Encoding.smbusReadTemperature : Statement .smbusReadTemperature :=
  fun h => Bool.noConfusion (show false = true from h)

theorem Laws.Encoding.smbusReadEnergy : Statement .smbusReadEnergy :=
  fun h => Bool.noConfusion (show false = true from h)

theorem Laws.Encoding.linkUp : Statement .linkUp :=
  fun h => Bool.noConfusion (show false = true from h)

end Sys2Proof
end

