-- ==== Sys2Proof/Laws/Results.lean ====
section
/-! SUPPORT. Everything the shared predicate, scalar and branch shapes do. -/

namespace Sys2Proof.Machine

theorem getLsbD_one_shift (l k : Nat) (hl : l < 32) : (((1 : LaneMask) <<< l).getLsbD k) = decide (k = l) := by
  rw [BitVec.getLsbD_shiftLeft]
  by_cases e : k = l
  · subst e; simp [hl]
  · by_cases h : k < l
    · simp [h, e]
    · have h1 : (1#32).getLsbD (k - l) = false := by
        rw [BitVec.getLsbD_one]; simp only [Bool.and_eq_false_iff, decide_eq_false_iff_not]; omega
      rw [show (1 : LaneMask) = 1#32 from rfl, h1]; simp [e]

theorem getLsbD_maskSet (m : LaneMask) (l k : Nat) (b : Bool) (hl : l < 32) :
    (maskSet m l b).getLsbD k = if k = l then b else m.getLsbD k := by
  unfold maskSet
  have h1 := getLsbD_one_shift l k hl
  by_cases hk : k < 32
  · cases b
    · simp only [Bool.false_eq_true, if_false, BitVec.getLsbD_and, BitVec.getLsbD_not, h1, hk, decide_true]
      by_cases e : k = l <;> simp [e]
    · simp only [if_true, BitVec.getLsbD_or, h1]
      by_cases e : k = l <;> simp [e]
  · have hkl : k ≠ l := by omega
    rw [BitVec.getLsbD_of_ge _ _ (by omega), if_neg hkl, BitVec.getLsbD_of_ge _ _ (by omega)]

theorem Gang.predAt_setPredAt (g : Gang) (n l : Nat) (b : Bool) (n' k : Nat) (hl : l < 32) :
    (g.setPredAt n l b).predAt n' k = if n' = n ∧ k = l then b else g.predAt n' k := by
  unfold Gang.setPredAt Gang.predAt Gang.pred
  simp only [mget_mput]
  by_cases e : n' = n
  · subst e
    simp only [if_true, true_and]
    exact getLsbD_maskSet _ _ _ _ hl
  · simp [e]

theorem Gang.predAt_writePred (g : Gang) (p : LaneMask) (n : Nat) (f : Nat → Bool) (n' k : Nat) :
    (g.writePred p n f).predAt n' k = if p.getLsbD k && n' == n then f k else g.predAt n' k := by
  unfold Gang.writePred
  have key : ∀ (ls : List Nat) (g : Gang), (∀ l ∈ ls, l < 32) →
      (ls.foldl (fun h l => h.setPredAt n l (f l)) g).predAt n' k =
        if k ∈ ls ∧ n' = n then f k else g.predAt n' k := by
    intro ls
    induction ls with
    | nil => intro g _; simp
    | cons l ls ih =>
      intro g hls
      simp only [List.foldl_cons]
      rw [ih _ (fun x hx => hls x (List.mem_cons_of_mem _ hx)),
        Gang.predAt_setPredAt _ _ _ _ _ _ (hls l (List.mem_cons_self ..))]
      by_cases e1 : k ∈ ls ∧ n' = n
      · simp [e1]
      · by_cases e2 : n' = n ∧ k = l
        · obtain ⟨rfl, rfl⟩ := e2; simp
        · rw [if_neg e1, if_neg e2, if_neg]
          rintro ⟨h1, h2⟩
          rcases List.mem_cons.1 h1 with h1 | h1
          · exact e2 ⟨h2, h1⟩
          · exact e1 ⟨h1, h2⟩
  rw [key _ g (fun _ h => mem_lanesOf_lt h)]
  by_cases e : p.getLsbD k = true
  · by_cases e2 : n' = n <;> simp [e, e2, mem_lanesOf]
  · simp [e, mem_lanesOf]

theorem Gang.writePred_rest (g : Gang) (p : LaneMask) (n : Nat) (f : Nat → Bool) :
    (g.writePred p n f).lanes = g.lanes ∧ (g.writePred p n f).v = g.v ∧ (g.writePred p n f).s = g.s ∧
    (g.writePred p n f).fpflags = g.fpflags ∧ g.Stays (g.writePred p n f) := by
  have key : ∀ {γ : Type} (view : Gang → γ), (∀ (h : Gang) l b, view (h.setPredAt n l b) = view h) →
      view (g.writePred p n f) = view g := by
    intro γ view hv
    exact foldl_keeps (fun (h : Gang) l => h.setPredAt n l (f l)) view (fun h l => hv h l (f l)) _ g
  refine ⟨key _ (fun _ _ _ => rfl), key _ (fun _ _ _ => rfl), key _ (fun _ _ _ => rfl), key _ (fun _ _ _ => rfl), ?_⟩
  have h1 := key (fun h => h.fixed.1) (fun _ _ _ => rfl)
  exact Gang.stays_of_fixed h1

theorem Gang.stays_trans {a b c : Gang} (h1 : a.Stays b) (h2 : b.Stays c) : a.Stays c :=
  Eq.trans h2 h1

theorem Gang.stays_advance (g : Gang) (is : Issue) : g.Stays (g.advance is) :=
  Gang.stays_of_fixed (congrArg Prod.fst (Gang.fixed_advance g is))

theorem Gang.advance_rest (g : Gang) (is : Issue) :
    (g.advance is).preds = g.preds ∧ (g.advance is).s = g.s ∧ (g.advance is).fpflags = g.fpflags := by
  have := congrArg Prod.snd (Gang.fixed_advance g is)
  simpa [Gang.fixed] using this

theorem Gang.reg_advance_of (g v : Gang) (is : Issue) (r l : Nat) (hl : l < 32) (e : v.lanes = g.lanes) (ev : v.v = g.v)
    (h : g.pendingOn l r = false) : (v.advance is).reg r l = g.reg r l := by
  have e1 : v.pendingOn l r = g.pendingOn l r := by unfold Gang.pendingOn Gang.lane; rw [e]
  rw [Gang.reg_advance _ _ _ _ hl (e1.trans h)]
  unfold Gang.reg; rw [ev]

/-- Everything the shared predicate shape does. -/
theorem State.pred_result (s : State) (g : Gang) (i : Instr) (regs : List Nat) (p : Nat) (gbit : Bool)
    (f : Gang → LaneMask → Nat → Bool × Flags) (hi : s.Issues g) (hr : g.regsOk regs = true)
    (he : exec i s = finish (s.toPred regs p gbit f)) :
    PredicateResult s g i p gbit (fun l => (f g (g.parts s.cur gbit) l).1)
      (flagsOf (g.parts s.cur gbit) (fun l => (f g (g.parts s.cur gbit) l).2)) := by
  generalize hm : g.parts s.cur gbit = m
  generalize hx : (fun l => (f g m l).1) = x
  generalize hfl : flagsOf m (fun l => (f g m l).2) = fl
  have hexec : exec i s = .next (s.putGang (((g.writePred m p x).orFlags fl).advance s.cur)) := by
    rw [he]
    unfold State.toPred State.issue finish
    simp only [hi.1, hr, if_true, hm, hx, hfl]
    rw [show (s.putGang (((g.writePred m p x).orFlags fl).advance s.cur)).bad = none from hi.2]
  obtain ⟨w1, w2, w3, w4, w5⟩ := Gang.writePred_rest g m p x
  obtain ⟨a1, a2, a3⟩ := Gang.advance_rest ((g.writePred m p x).orFlags fl) s.cur
  refine ⟨_, hexec, ?_, ?_, fun l hl => Gang.pc_advance _ _ _ hl, a2.trans w3, ?_, ?_, fun a => rfl⟩
  · intro l n
    rw [hm, ← Gang.predAt_writePred g m p x n l]
    unfold Gang.predAt Gang.pred
    rw [a1]
    rfl
  · intro l r hl hp
    exact Gang.reg_advance_of g _ _ _ _ hl w1 w2 hp
  · rw [a3]; show (g.writePred m p x).fpflags ||| fl = _; rw [w4]
  · have h2 : g.Stays ((g.writePred m p x).orFlags fl) := w5
    exact Gang.stays_trans h2 (Gang.stays_advance _ _)

/-- Everything the shared scalar shape does. -/
theorem State.scalar_result (s : State) (g : Gang) (i : Instr) (o : SSS) (f : DWord → DWord → DWord) (hi : s.Issues g)
    (he : exec i s = finish (s.scalar o f)) :
    ScalarResult s g i o.d (f (g.sreg o.a) (g.scalarY s.cur.hints o.y)) := by
  generalize hx : f (g.sreg o.a) (g.scalarY s.cur.hints o.y) = x
  have hexec : exec i s = .next (s.putGang ((g.setSreg o.d x).advance s.cur)) := by
    rw [he]
    unfold State.scalar State.issue finish
    simp only [hi.1, hx, Gang.regsOk, List.all_nil, if_true]
    rw [show (s.putGang ((g.setSreg o.d x).advance s.cur)).bad = none from hi.2]
  obtain ⟨a1, a2, a3⟩ := Gang.advance_rest (g.setSreg o.d x) s.cur
  refine ⟨_, hexec, ?_, fun l r hl hp => Gang.reg_advance_of g _ _ _ _ hl rfl rfl hp,
    fun l hl => Gang.pc_advance _ _ _ hl, a1, a3, ?_, fun a => rfl⟩
  · intro n
    unfold Gang.sreg
    rw [a2]
    exact mget_mput _ _ _ _ _
  · have h2 : g.Stays (g.setSreg o.d x) := rfl
    exact Gang.stays_trans h2 (Gang.stays_advance _ _)

/-! Branches. -/

theorem Gang.goto_rest (g : Gang) (is : Issue) (pc : Nat → VAddr) :
    (g.goto is pc).preds = g.preds ∧ (g.goto is pc).s = g.s ∧ (g.goto is pc).fpflags = g.fpflags ∧
    g.Stays (g.goto is pc) := by
  have hf : (g.goto is pc).fixed = g.fixed := by unfold Gang.goto; simp
  have := congrArg Prod.snd hf
  simp only [Gang.fixed, Prod.mk.injEq] at this
  exact ⟨this.1, this.2.1, this.2.2, Gang.stays_of_fixed (congrArg Prod.fst hf)⟩

theorem Gang.pc_goto (g : Gang) (is : Issue) (pc : Nat → VAddr) (l : Nat) (h : is.active.getLsbD l = true) :
    ((g.goto is pc).lane l).pc = pc l := by
  unfold Gang.goto
  have e : ((g.modLanes (lanesOf is.active) (fun l x => { x with pc := pc l })).lane l).pc = pc l := by
    rw [Gang.lane_modLanes _ _ _ _ (nodup_lanesOf _), if_pos (mem_lanesOf.2 h)]
  rcases Gang.lane_complete (g.modLanes (lanesOf is.active) (fun l x => { x with pc := pc l })) is l with h | h <;> rw [h]
  · exact e
  · exact e

theorem Gang.reg_goto (g : Gang) (is : Issue) (pc : Nat → VAddr) (r l : Nat) (hl : l < 32) (h : g.pendingOn l r = false) :
    (g.goto is pc).reg r l = g.reg r l := by
  unfold Gang.goto
  rw [(Gang.switched_complete _ is).reg hl]
  · exact Gang.reg_modLanes g _ _ r l
  · unfold Gang.pendingOn at h ⊢
    rw [Gang.lane_modLanes _ _ _ _ (nodup_lanesOf _)]
    split
    · exact h
    · exact h

/-- Everything that sending the active lanes to new PCs does. -/
theorem State.branch_result (s : State) (g : Gang) (i : Instr) (pc : Nat → VAddr) (hi : s.Issues g)
    (he : exec i s = finish (s.putGang (g.goto s.cur pc))) : BranchResult s g i pc := by
  have hexec : exec i s = .next (s.putGang (g.goto s.cur pc)) := by
    rw [he]
    unfold finish
    rw [show (s.putGang (g.goto s.cur pc)).bad = none from hi.2]
  obtain ⟨a, b, c, d⟩ := Gang.goto_rest g s.cur pc
  exact ⟨_, hexec, fun l hl => Gang.pc_goto _ _ _ _ hl, fun l r hl hp => Gang.reg_goto _ _ _ _ _ hl hp, a, b, c, d,
    fun _ => rfl⟩

end Sys2Proof.Machine
end

