-- ==== Sys2Proof/Laws/Shapes.lean ====
section
/-! SUPPORT. One lemma for each shared form of register instruction: from the meaning's form to the form of
statement in Safety.lean.
-/

namespace Sys2Proof.Machine

theorem flagsOf_zero (p : LaneMask) : flagsOf p (fun _ => 0) = 0 := by
  unfold flagsOf
  generalize lanesOf p = ls
  induction ls with
  | nil => rfl
  | cons l ls ih => simp

theorem State.alu2_result {s : State} {g : Gang} {i : Instr} {o : RRR} {f h : Word → Word → Word}
    (e : exec i s = finish (s.alu2 o h)) (hf : ∀ a b, h a b = f a b) : TwoSources s g i o f := by
  intro hi hr
  unfold State.alu2 at e
  have := State.vector_result s g i _ o.d false o.w o.g _ hi hr e
  simpa only [flagsOf_zero, hf] using this

theorem State.alu1_result {s : State} {g : Gang} {i : Instr} {o : RR} {f h : Word → Word}
    (e : exec i s = finish (s.alu1 o h)) (hf : ∀ a, h a = f a) : OneSource s g i o f := by
  intro hi hr
  unfold State.alu1 at e
  have := State.vector_result s g i _ o.d false o.w o.g _ hi hr e
  simpa only [flagsOf_zero, hf] using this

theorem State.alu3_result {s : State} {g : Gang} {i : Instr} {o : RRR} {f h : Word → Word → Word → Word}
    (e : exec i s = finish (s.alu3 o h)) (hf : ∀ a b c, h a b c = f a b c) : ThreeSources s g i o f := by
  intro hi hr
  unfold State.alu3 at e
  have := State.vector_result s g i _ o.d false o.w o.g _ hi hr e
  simpa only [flagsOf_zero, hf] using this

theorem State.aluImm_result {s : State} {g : Gang} {i : Instr} {o : RRI} {f h : Word → Word → Word}
    (e : exec i s = finish (s.aluImm o h)) (hf : ∀ a b, h a b = f a b) : WithImmediate s g i o f := by
  intro hi hr
  unfold State.aluImm at e
  have := State.vector_result s g i _ o.d false false false _ hi hr e
  simpa only [flagsOf_zero, hf] using this

theorem State.alu64_result {s : State} {g : Gang} {i : Instr} {o : RRR} {f h : DWord → DWord → DWord}
    (e : exec i s = finish (s.alu64 o h)) (hf : ∀ a b, h a b = f a b) : TwoPairs s g i o f := by
  intro hi hr
  unfold State.alu64 at e
  have := State.vector_result s g i _ o.d true o.w o.g _ hi hr e
  simpa only [flagsOf_zero, hf] using this

theorem State.alu64x32_result {s : State} {g : Gang} {i : Instr} {o : RRR} {f : DWord → Word → DWord}
    {h : DWord → DWord → DWord} (e : exec i s = finish (s.alu64x32 o h))
    (hf : ∀ a (b : Word), h a (b.signExtend 64) = f a b) : PairAndWord s g i o f := by
  intro hi hr
  unfold State.alu64x32 at e
  have := State.vector_result s g i _ o.d true o.w o.g _ hi hr e
  simpa only [flagsOf_zero, hf] using this

theorem State.iset_result {s : State} {g : Gang} {i : Instr} {o : PRR} {f h : Word → Word → Bool}
    (e : exec i s = finish (s.iset o h)) (hf : ∀ a b, h a b = f a b) : Compares s g i o f := by
  intro hi hr
  unfold State.iset at e
  have := State.pred_result s g i _ o.p o.g _ hi hr e
  simpa only [flagsOf_zero, hf] using this

theorem State.iset64_result {s : State} {g : Gang} {i : Instr} {o : PRR} {f h : DWord → DWord → Bool}
    (e : exec i s = finish (s.iset64 o h)) (hf : ∀ a b, h a b = f a b) : ComparesPairs s g i o f := by
  intro hi hr
  unfold State.iset64 at e
  have := State.pred_result s g i _ o.p o.g _ hi hr e
  simpa only [flagsOf_zero, hf] using this

theorem State.fset_result {s : State} {g : Gang} {i : Instr} {o : PRR} {r : FpRel} {f : Word → Word → Bool × Flags}
    (e : exec i s = finish (s.fset o r)) (hf : ∀ a b, fp32.compare r a.toNat b.toNat = f a b) :
    ComparesFlags s g i o f := by
  intro hi hr
  unfold State.fset at e
  have := State.pred_result s g i _ o.p o.g _ hi hr e
  simpa only [hf] using this

theorem State.fp2_result {s : State} {g : Gang} {i : Instr} {o : RRR} {f : Word → Word → Nat × Flags}
    {h : Nat → Nat → Nat × Flags} (e : exec i s = finish (s.fp2 o h)) (hf : ∀ a b : Word, h a.toNat b.toNat = f a b) :
    TwoSourcesFlags s g i o f := by
  intro hi hr
  unfold State.fp2 State.float2 codeOf at e
  have := State.vector_result s g i _ o.d false o.w o.g _ hi hr e
  simpa only [hf] using this

theorem State.float2_result {s : State} {g : Gang} {i : Instr} {o : RRR} {f : Word → Word → Nat × Flags}
    {h : Word → Word → DWord × Flags} (e : exec i s = finish (s.float2 o h))
    (hf : ∀ a b : Word, h a b = (BitVec.ofNat 64 (f a b).1, (f a b).2)) : TwoSourcesFlags s g i o f := by
  intro hi hr
  unfold State.float2 at e
  have := State.vector_result s g i _ o.d false o.w o.g _ hi hr e
  simpa only [hf] using this

theorem State.fp1_result {s : State} {g : Gang} {i : Instr} {o : RR} {f : Word → Nat × Flags}
    {h : Nat → Nat × Flags} (e : exec i s = finish (s.fp1 o h)) (hf : ∀ a : Word, h a.toNat = f a) :
    OneSourceFlags s g i o f := by
  intro hi hr
  unfold State.fp1 codeOf at e
  have := State.vector_result s g i _ o.d false o.w o.g _ hi hr e
  simpa only [hf] using this

theorem State.float3_result {s : State} {g : Gang} {i : Instr} {o : RRR} {f : Word → Word → Word → Nat × Flags}
    {h : Word → Word → Word → DWord × Flags} (e : exec i s = finish (s.float3 o h))
    (hf : ∀ a b c : Word, h a b c = (BitVec.ofNat 64 (f a b c).1, (f a b c).2)) : ThreeSourcesFlags s g i o f := by
  intro hi hr
  unfold State.float3 at e
  have := State.vector_result s g i _ o.d false o.w o.g _ hi hr e
  simpa only [hf] using this

theorem State.cross1_result {s : State} {g : Gang} {i : Instr} {o : RR} {f : Nat → Word}
    {h : Gang → LaneMask → Nat → DWord × Flags} (e : exec i s = finish (s.cross1 o h))
    (hf : ∀ l, h g (g.parts s.cur o.g) l = ((f l).setWidth 64, 0)) : CrossLane s g i o f := by
  intro hi hr
  unfold State.cross1 at e
  have := State.vector_result s g i _ o.d false o.w o.g _ hi hr e
  simpa only [hf, flagsOf_zero] using this

end Sys2Proof.Machine
end

