-- ==== Sys2Proof/Tests/Slice0.lean ====
section
/-! SUPPORT. The model's own tests: terms that the encoding does not admit, words of each family, and for every
statement with hypotheses a concrete state and operands that meet them.
-/

namespace Sys2Proof.Tests
open Sys2Proof Sys2Proof.Machine
set_option Elab.async false

/-! The encoding. -/

/-- Whether every word of a list, laid out as 32 bits, reads as the instruction beside it. -/
def reads (l : List (Nat × Instr)) : Bool := l.all fun p => decodeTableWord 32 p.1 == some p.2

/-- Whether every term of a list is ill-formed. -/
def refused (l : List Instr) : Bool := l.all fun i => !i.wf

/-- 01 R43, 06 R218, R220, R223; 07 R254, R274, R283: registers, predicates, scalars, immediates. -/
theorem test_wf_compute : refused [
    .iadd ⟨.reg 120, .reg 1, .zero, false, false⟩, .iadd ⟨.none, .reg 120, .zero, false, false⟩,
    .iadd ⟨.none, .zero, .latch 4, false, false⟩, .iabs ⟨.reg 120, .zero, false, false⟩,
    .iadd64 ⟨.reg 3, .zero, .zero, false, false⟩, .iadd64 ⟨.reg 2, .reg 5, .zero, false, false⟩,
    .iadd64 ⟨.reg 2, .zero, .lane, false, false⟩, .isetEq ⟨8, .zero, .zero, false⟩,
    .isetEq64 ⟨0, .reg 1, .zero, false⟩, .voteAny ⟨8, .zero, false⟩, .psetAnd ⟨0, 8, 0, false⟩,
    .pmov ⟨.reg 120, false, false⟩, .pmovTov ⟨.none, 8, false, false⟩,
    .movs ⟨.none, 64, false, false⟩, .movsGet ⟨64, .zero, .zero, false⟩,
    .sel ⟨.reg 120, .zero, .zero, false⟩, .iaddImm ⟨.none, .zero, 256⟩,
    .iaddImm ⟨.none, .zero, -257⟩, .shlImm ⟨.none, .zero, 32⟩, .shlImm ⟨.none, .zero, -1⟩,
    .movi ⟨.none, 256⟩, .cvt ⟨.f32, .f32, .none, .zero, .i8, false, false, false⟩,
    .cvt ⟨.f32, .i32, .none, .zero, .i8, true, false, false⟩,
    .cvt ⟨.f32, .i32, .none, .zero, .u8, false, false, false⟩,
    .cvt ⟨.i64, .f32, .reg 1, .zero, .i8, false, false, false⟩,
    .sadd ⟨64, 0, .reg 0⟩, .sadd ⟨0, 64, .reg 0⟩, .sadd ⟨0, 0, .imm 64⟩, .smov ⟨0, .reg 64⟩,
    .sldg ⟨0, 0, 32⟩] = true := by decide +kernel

/-- 06 R221, R234; 08 R309, R313, R321, R329, R336, R343, R348: memory and synchronisation. -/
theorem test_wf_memory : refused [
    .ldg ⟨.plain .b64, .reg 1, .zero, 0, false⟩, .ldg ⟨.plain .b128, .reg 2, .zero, 0, false⟩,
    .ldg ⟨.plain .b32, .none, .reg 1, 0, false⟩, .ldg ⟨.plain .b32, .none, .zero, 64, false⟩,
    .ldg ⟨.ordered false .dev, .none, .zero, 0, true⟩, .ldl ⟨.b32, .none, .zero, 64⟩,
    .lds ⟨.ordered true .team, .reg 1, .zero, 0⟩, .stg ⟨.plain .b32, .zero, .reg 1, 0⟩,
    .stl ⟨.b128, .reg 2, .zero, 0⟩, .atom ⟨.xor, .f32, .none, .zero, .dev, .relaxed⟩,
    .atom ⟨.cas, .i64, .reg 2, .zero, .dev, .relaxed⟩,
    .red ⟨.exch, .i32, .zero, .zero, .dev, .relaxed⟩, .red ⟨.cas, .i32, .zero, .zero, .dev, .rel⟩,
    .red ⟨.add, .i32, .zero, .zero, .dev, .acq⟩,
    .atoms ⟨.add, .i32, .none, .zero, .die, .relaxed, false⟩,
    .reds ⟨.exch, .i32, .zero, .zero, .team, .relaxed, false⟩,
    .reds ⟨.add, .i32, .zero, .zero, .sys, .relaxed, true⟩, .cflush ⟨.reg 1, .zero, .dev⟩,
    .cpref ⟨.zero, .reg 1⟩, .seal ⟨0, 63⟩, .unseal ⟨64, 0⟩,
    .bsig ⟨.reg 1, .zero, .dev, false, .global⟩, .bwait ⟨.zero, .reg 1, .dev, false, .global⟩,
    .brd ⟨.reg 1, .zero, .dev, false, .window⟩, .bind ⟨62, 0, .dev, .global⟩,
    .bind ⟨0, 64, .dev, .global⟩, .unbind ⟨64⟩, .take ⟨.reg 120, .zero, false⟩,
    .ownq ⟨.none, .reg 120, false⟩, .give ⟨.zero, .granules .threads⟩] = true := by decide +kernel

/-- 06 R224, R236 to R240; 09 R360, R375, R383, R385, R386, R395: engines, control and system. -/
theorem test_wf_engines : refused [
    .cpy ⟨59, .dev⟩, .mmaA33 ⟨4, 0, 0⟩, .mmaA48 ⟨0, 64, 0⟩, .mmazA33 ⟨0, 0, 32⟩, .mlease ⟨0⟩,
    .mlease ⟨65⟩, .macq ⟨0, 0, 3⟩, .acvt ⟨4, 0, .i32⟩, .ald ⟨.reg 1, .zero, 0⟩, .ald ⟨.none, .zero, 4⟩,
    .ast ⟨.reg 1, .zero, 0⟩, .tdef ⟨0, 63⟩, .tqry ⟨0, 0, 8⟩, .tgathI32 ⟨.none, .zero, 64⟩,
    .spld ⟨.none, .zero, 0⟩, .spld ⟨.none, .latch 0, 0⟩, .spleaf ⟨.none, .lane, 0⟩,
    .spnext ⟨.none, .reg 1, 0⟩, .spst ⟨.zero, .zero, 0⟩, .spdense ⟨59, 0⟩, .spimport ⟨0, 64⟩,
    .enq ⟨.none, .reg 118, 0⟩, .enq ⟨.none, .zero, 0⟩, .deq ⟨.reg 2, 0⟩, .qstat ⟨64, 0⟩,
    .preq ⟨.reg 1⟩, .br ⟨524288⟩, .brpAny ⟨8, 0⟩, .brpAll ⟨0, -524289⟩, .call ⟨8, 0⟩, .ret ⟨.reg 1⟩,
    .jmpi ⟨.lane⟩, .regang ⟨1048576⟩, .trap ⟨8192⟩, .srd ⟨.none, 128⟩, .swr ⟨.zero, 128⟩,
    .psrd ⟨0, 64⟩, .invpg ⟨63, .dev⟩, .tramp ⟨67108864⟩, .undefinedWord, .powerOn,
    .copyComplete 0 0] = true := by decide +kernel

/-- 06 R241: words that are no instruction: a reserved major, an unassigned FN, a reserved value, the
register field 126, a hint word and the word of all ones. -/
theorem test_decode_refuses : ([0xE0090814, 0x17981850, 0xA070A220, 0x040503F8, 0xF8000000,
    0xFFFFFFFF].all fun w => (decodeTableWord 32 w).isNone) = true := by decide +kernel

/-- Words of 06 R217 to R240, each with the instruction it stands for. -/
theorem test_decode_integer1 : reads [
    (0x04181850, .iadd ⟨.reg 24, .reg 12, .reg 20, false, false⟩),
    (0x04981852, .isub ⟨.reg 24, .reg 12, .reg 20, true, false⟩),
    (0x05181851, .imul ⟨.reg 24, .reg 12, .reg 20, false, true⟩),
    (0x05981853, .imulh ⟨.reg 24, .reg 12, .reg 20, true, true⟩),
    (0x06181850, .imad ⟨.reg 24, .reg 12, .reg 20, false, false⟩),
    (0x06981852, .imin ⟨.reg 24, .reg 12, .reg 20, true, false⟩),
    (0x07181851, .imax ⟨.reg 24, .reg 12, .reg 20, false, true⟩),
    (0x079819F3, .iabs ⟨.reg 24, .reg 12, true, true⟩),
    (0x08181850, .iaddSat ⟨.reg 24, .reg 12, .reg 20, false, false⟩),
    (0x08981852, .isubSat ⟨.reg 24, .reg 12, .reg 20, true, false⟩),
    (0x09181851, .imulhU ⟨.reg 24, .reg 12, .reg 20, false, true⟩),
    (0x09981853, .iminU ⟨.reg 24, .reg 12, .reg 20, true, true⟩),
    (0x0A181850, .imaxU ⟨.reg 24, .reg 12, .reg 20, false, false⟩),
    (0x0A9819F2, .ineg ⟨.reg 24, .reg 12, true, false⟩),
    (0x0B181851, .idiv ⟨.reg 24, .reg 12, .reg 20, false, true⟩),
    (0x0B981853, .irem ⟨.reg 24, .reg 12, .reg 20, true, true⟩),
    (0x0C181850, .iadd64 ⟨.reg 24, .reg 12, .reg 20, false, false⟩),
    (0x0C981852, .isub64 ⟨.reg 24, .reg 12, .reg 20, true, false⟩),
    (0x0D181851, .imul64 ⟨.reg 24, .reg 12, .reg 20, false, true⟩),
    (0x0D981853, .imad64 ⟨.reg 24, .reg 12, .reg 20, true, true⟩),
    (0x0E181850, .imin64 ⟨.reg 24, .reg 12, .reg 20, false, false⟩),
    (0x0E981852, .imax64 ⟨.reg 24, .reg 12, .reg 20, true, false⟩),
    (0x0F181851, .idivU ⟨.reg 24, .reg 12, .reg 20, false, true⟩),
    (0x0F981853, .iremU ⟨.reg 24, .reg 12, .reg 20, true, true⟩),
    (0x10181850, .and ⟨.reg 24, .reg 12, .reg 20, false, false⟩),
    (0x10981852, .or ⟨.reg 24, .reg 12, .reg 20, true, false⟩),
    (0x11181851, .xor ⟨.reg 24, .reg 12, .reg 20, false, true⟩),
    (0x11981853, .shl ⟨.reg 24, .reg 12, .reg 20, true, true⟩),
    (0x12181850, .shr ⟨.reg 24, .reg 12, .reg 20, false, false⟩),
    (0x12981852, .sar ⟨.reg 24, .reg 12, .reg 20, true, false⟩),
    (0x13181851, .rot ⟨.reg 24, .reg 12, .reg 20, false, true⟩),
    (0x13981853, .ishrr ⟨.reg 24, .reg 12, .reg 20, true, true⟩),
    (0x14181850, .bfx ⟨.reg 24, .reg 12, .reg 20, false, false⟩),
    (0x14981852, .bfxU ⟨.reg 24, .reg 12, .reg 20, true, false⟩),
    (0x15181851, .bfi ⟨.reg 24, .reg 12, .reg 20, false, true⟩),
    (0x159819F3, .clz ⟨.reg 24, .reg 12, true, true⟩),
    (0x161819F0, .popc ⟨.reg 24, .reg 12, false, false⟩),
    (0x169819F2, .brev ⟨.reg 24, .reg 12, true, false⟩),
    (0x17181851, .lea ⟨.reg 24, .reg 12, .reg 20, false, true⟩),
    (0x181819FB, .iaddImm ⟨.reg 24, .reg 12, -5⟩)] = true := by
  decide +kernel

/-- Words of 06 R217 to R240, each with the instruction it stands for. -/
theorem test_decode_integer2 : reads [
    (0x189819FB, .imulImm ⟨.reg 24, .reg 12, -5⟩),
    (0x191819FB, .andImm ⟨.reg 24, .reg 12, -5⟩),
    (0x199819FB, .orImm ⟨.reg 24, .reg 12, -5⟩),
    (0x1A1819FB, .xorImm ⟨.reg 24, .reg 12, -5⟩),
    (0x1A98181D, .shlImm ⟨.reg 24, .reg 12, 29⟩),
    (0x1B18181D, .shrImm ⟨.reg 24, .reg 12, 29⟩),
    (0x1B98181D, .sarImm ⟨.reg 24, .reg 12, 29⟩)] = true := by
  decide +kernel

/-- Words of 06 R217 to R240, each with the instruction it stands for. -/
theorem test_decode_floatAndConvert1 : reads [
    (0x1C051851, .isetEq ⟨5, .reg 12, .reg 20, true⟩),
    (0x1C851850, .isetNe ⟨5, .reg 12, .reg 20, false⟩),
    (0x1D051850, .isetLt ⟨5, .reg 12, .reg 20, false⟩),
    (0x1D851851, .isetLe ⟨5, .reg 12, .reg 20, true⟩),
    (0x1E051851, .isetLtU ⟨5, .reg 12, .reg 20, true⟩),
    (0x1E851850, .isetLeU ⟨5, .reg 12, .reg 20, false⟩),
    (0x1F051850, .isetEq64 ⟨5, .reg 12, .reg 20, false⟩),
    (0x1F851851, .isetLt64 ⟨5, .reg 12, .reg 20, true⟩),
    (0x20181853, .faddF32 ⟨.reg 24, .reg 12, .reg 20, true, true⟩),
    (0x20981850, .fsubF32 ⟨.reg 24, .reg 12, .reg 20, false, false⟩),
    (0x21181852, .fmulF32 ⟨.reg 24, .reg 12, .reg 20, true, false⟩),
    (0x21981851, .ffmaF32 ⟨.reg 24, .reg 12, .reg 20, false, true⟩),
    (0x22181853, .fdivF32 ⟨.reg 24, .reg 12, .reg 20, true, true⟩),
    (0x22981850, .fminF32 ⟨.reg 24, .reg 12, .reg 20, false, false⟩),
    (0x23181852, .fmaxF32 ⟨.reg 24, .reg 12, .reg 20, true, false⟩),
    (0x239819F1, .fclassF32 ⟨.reg 24, .reg 12, false, true⟩),
    (0x241819F3, .frcpF32 ⟨.reg 24, .reg 12, true, true⟩),
    (0x249819F0, .frsqF32 ⟨.reg 24, .reg 12, false, false⟩),
    (0x251819F2, .fsqrtF32 ⟨.reg 24, .reg 12, true, false⟩),
    (0x259819F1, .fexp2F32 ⟨.reg 24, .reg 12, false, true⟩),
    (0x261819F3, .flog2F32 ⟨.reg 24, .reg 12, true, true⟩),
    (0x28181850, .faddBf16x2 ⟨.reg 24, .reg 12, .reg 20, false, false⟩),
    (0x28981852, .fsubBf16x2 ⟨.reg 24, .reg 12, .reg 20, true, false⟩),
    (0x29181851, .fmulBf16x2 ⟨.reg 24, .reg 12, .reg 20, false, true⟩),
    (0x29981853, .ffmaBf16x2 ⟨.reg 24, .reg 12, .reg 20, true, true⟩),
    (0x2A181850, .fminBf16x2 ⟨.reg 24, .reg 12, .reg 20, false, false⟩),
    (0x2A981852, .fmaxBf16x2 ⟨.reg 24, .reg 12, .reg 20, true, false⟩),
    (0x2C181851, .faddF16x2 ⟨.reg 24, .reg 12, .reg 20, false, true⟩),
    (0x2C981853, .fsubF16x2 ⟨.reg 24, .reg 12, .reg 20, true, true⟩),
    (0x2D181850, .fmulF16x2 ⟨.reg 24, .reg 12, .reg 20, false, false⟩),
    (0x2D981852, .ffmaF16x2 ⟨.reg 24, .reg 12, .reg 20, true, false⟩),
    (0x2E181851, .fminF16x2 ⟨.reg 24, .reg 12, .reg 20, false, true⟩),
    (0x2E981853, .fmaxF16x2 ⟨.reg 24, .reg 12, .reg 20, true, true⟩),
    (0x30051850, .fsetEq ⟨5, .reg 12, .reg 20, false⟩),
    (0x30851850, .fsetNe ⟨5, .reg 12, .reg 20, false⟩),
    (0x31051851, .fsetLt ⟨5, .reg 12, .reg 20, true⟩),
    (0x31851851, .fsetLe ⟨5, .reg 12, .reg 20, true⟩),
    (0x32051850, .fsetGt ⟨5, .reg 12, .reg 20, false⟩),
    (0x32851850, .fsetGe ⟨5, .reg 12, .reg 20, false⟩),
    (0x33051851, .fsetUn ⟨5, .reg 12, .reg 20, true⟩)] = true := by
  decide +kernel

/-- Words of 06 R217 to R240, each with the instruction it stands for. -/
theorem test_decode_floatAndConvert2 : reads [
    (0x33851851, .fsetOrd ⟨5, .reg 12, .reg 20, true⟩),
    (0x43D30316, .cvt ⟨.narrow, .bf16, .reg 24, .reg 12, .i16, true, true, false⟩),
    (0x44181852, .quantRn8F32 ⟨.reg 24, .reg 12, .reg 20, true, false⟩),
    (0x44981851, .quantRn8Bf16 ⟨.reg 24, .reg 12, .reg 20, false, true⟩),
    (0x45181853, .quantRn12F32 ⟨.reg 24, .reg 12, .reg 20, true, true⟩),
    (0x45981850, .quantRn12Bf16 ⟨.reg 24, .reg 12, .reg 20, false, false⟩),
    (0x46181852, .dquantRn8 ⟨.reg 24, .reg 12, .reg 20, true, false⟩),
    (0x46981851, .dquantRn12 ⟨.reg 24, .reg 12, .reg 20, false, true⟩),
    (0x47181853, .trchk ⟨.reg 24, .reg 12, .reg 20, true, true⟩)] = true := by
  decide +kernel

/-- Words of 06 R217 to R240, each with the instruction it stands for. -/
theorem test_decode_crossLaneAndMove : reads [
    (0x50181850, .shflIdx ⟨.reg 24, .reg 12, .reg 20, false, false⟩),
    (0x50981852, .shflUp ⟨.reg 24, .reg 12, .reg 20, true, false⟩),
    (0x51181851, .shflDown ⟨.reg 24, .reg 12, .reg 20, false, true⟩),
    (0x51981853, .shflXor ⟨.reg 24, .reg 12, .reg 20, true, true⟩),
    (0x521819F0, .matchLanes ⟨.reg 24, .reg 12, false, false⟩),
    (0x529819F2, .voteBallot ⟨.reg 24, .reg 12, true, false⟩),
    (0x53181851, .ppfx ⟨.reg 24, .reg 12, .reg 20, false, true⟩),
    (0x53981853, .isect ⟨.reg 24, .reg 12, .reg 20, true, true⟩),
    (0x540519F0, .voteAny ⟨5, .reg 12, false⟩),
    (0x548519F0, .voteAll ⟨5, .reg 12, false⟩),
    (0x551819F1, .lpfxAddI32 ⟨.reg 24, .reg 12, false, true⟩),
    (0x559819F3, .lpfxAddF32 ⟨.reg 24, .reg 12, true, true⟩),
    (0x561819F0, .lredAddI32 ⟨.reg 24, .reg 12, false, false⟩),
    (0x569819F2, .lredAddF32 ⟨.reg 24, .reg 12, true, false⟩),
    (0x571819F1, .lredMinF32 ⟨.reg 24, .reg 12, false, true⟩),
    (0x579819F3, .lredMaxF32 ⟨.reg 24, .reg 12, true, true⟩),
    (0x581819F0, .lredMulF32 ⟨.reg 24, .reg 12, false, false⟩),
    (0x589819F2, .lredMinI32 ⟨.reg 24, .reg 12, true, false⟩),
    (0x591819F1, .lredMaxI32 ⟨.reg 24, .reg 12, false, true⟩),
    (0x599819F3, .lredAnd ⟨.reg 24, .reg 12, true, true⟩),
    (0x5A1819F0, .lredOr ⟨.reg 24, .reg 12, false, false⟩),
    (0x5A9819F2, .lredXor ⟨.reg 24, .reg 12, true, false⟩),
    (0x601819F1, .mov ⟨.reg 24, .reg 12, false, true⟩),
    (0x60981852, .sel ⟨.reg 24, .reg 12, .reg 20, true⟩),
    (0x61184BF1, .movs ⟨.reg 24, 37, false, true⟩),
    (0x61A51851, .movsGet ⟨37, .reg 12, .reg 20, true⟩),
    (0x64050619, .psetAnd ⟨5, 3, 6, true⟩),
    (0x64850619, .psetOr ⟨5, 3, 6, true⟩),
    (0x65050618, .psetXor ⟨5, 3, 6, false⟩),
    (0x65850618, .psetAndn ⟨5, 3, 6, false⟩),
    (0x6618F9F2, .pmov ⟨.reg 24, true, false⟩),
    (0x669807F2, .pmovTov ⟨.reg 24, 3, true, false⟩),
    (0x670519F0, .pmovFromv ⟨5, .reg 12, false⟩),
    (0x6818F9FB, .movi ⟨.reg 24, -5⟩)] = true := by
  decide +kernel

/-- Words of 06 R217 to R240, each with the instruction it stands for. -/
theorem test_decode_scalar : reads [
    (0x704A9120, .sadd ⟨37, 18, .reg 9⟩),
    (0x70CA9130, .ssub ⟨37, 18, .imm 9⟩),
    (0x714A9120, .smul ⟨37, 18, .reg 9⟩),
    (0x71CA9130, .sand ⟨37, 18, .imm 9⟩),
    (0x724A9120, .sor ⟨37, 18, .reg 9⟩),
    (0x72CA9130, .sxor ⟨37, 18, .imm 9⟩),
    (0x734A9120, .sshl ⟨37, 18, .reg 9⟩),
    (0x73CA9130, .sshr ⟨37, 18, .imm 9⟩),
    (0x744A9120, .ssetEq ⟨37, 18, .reg 9⟩),
    (0x74CA9130, .ssetNe ⟨37, 18, .imm 9⟩),
    (0x754A9120, .ssetLt ⟨37, 18, .reg 9⟩),
    (0x75CA9130, .ssetLe ⟨37, 18, .imm 9⟩),
    (0x764A9120, .ssetLtU ⟨37, 18, .reg 9⟩),
    (0x76CA9130, .ssetLeU ⟨37, 18, .imm 9⟩),
    (0x784A0130, .smov ⟨37, .imm 9⟩),
    (0x78CA900B, .sldg ⟨37, 18, 11⟩),
    (0x794A900B, .sstg ⟨37, 18, 11⟩)] = true := by
  decide +kernel

/-- Words of 06 R217 to R240, each with the instruction it stands for. -/
theorem test_decode_memory : reads [
    (0x83181969, .ldg ⟨.plain .b128, .reg 24, .reg 12, 45, true⟩),
    (0x85181968, .ldl ⟨.i16, .reg 24, .reg 12, 45⟩),
    (0x8898196C, .lds ⟨.ordered true .team, .reg 24, .reg 12, 45⟩),
    (0x8D981968, .ldw ⟨.plain .ui16, .reg 24, .reg 12, 45⟩),
    (0x9298196A, .stg ⟨.ordered false .sys, .reg 24, .reg 12, 45⟩),
    (0x96181968, .stl ⟨.b128, .reg 24, .reg 12, 45⟩),
    (0x98981968, .sts ⟨.plain .b16, .reg 24, .reg 12, 45⟩),
    (0x9C981968, .stw ⟨.plain .b16, .reg 24, .reg 12, 45⟩),
    (0xA393031A, .atom ⟨.cas, .i64, .reg 24, .reg 12, .die, .acq⟩),
    (0xA563032C, .red ⟨.max, .ui64, .reg 24, .reg 12, .sys, .rel⟩),
    (0xAB230319, .atoms ⟨.exch, .f32, .reg 24, .reg 12, .team, .rel, true⟩),
    (0xA8430322, .reds ⟨.add, .f16x2, .reg 24, .reg 12, .clus, .relaxed, false⟩),
    (0xAC030318, .cflush ⟨.reg 24, .reg 12, .die⟩),
    (0xAC130318, .cinv ⟨.reg 24, .reg 12, .die⟩),
    (0xAC230300, .cpref ⟨.reg 24, .reg 12⟩),
    (0xAC34A480, .seal ⟨37, 18⟩),
    (0xAC44A480, .unseal ⟨37, 18⟩)] = true := by
  decide +kernel

/-- Words of 06 R217 to R240, each with the instruction it stands for. -/
theorem test_decode_syncAndOwnership : reads [
    (0xB0030316, .bsig ⟨.reg 24, .reg 12, .clus, true, .window⟩),
    (0xB0130316, .bwait ⟨.reg 24, .reg 12, .clus, true, .window⟩),
    (0xB0230320, .brd ⟨.reg 24, .reg 12, .dev, false, .global⟩),
    (0xB034A489, .bind ⟨37, 18, .team, .scratch⟩),
    (0xB0400480, .unbind ⟨18⟩),
    (0xB400001C, .fence ⟨.die, .rel⟩),
    (0xB4130300, .take ⟨.reg 24, .reg 12, false⟩),
    (0xB420030C, .give ⟨.reg 12, .granules .sparseUnit⟩),
    (0xB4330310, .ownq ⟨.reg 24, .reg 12, true⟩)] = true := by
  decide +kernel

/-- Words of 06 R217 to R240, each with the instruction it stands for. -/
theorem test_decode_engines : reads [
    (0xB804A010, .cpy ⟨37, .clus⟩),
    (0xB814A010, .cpys ⟨37, .clus⟩),
    (0xB824A010, .cpym ⟨37, .clus⟩),
    (0xB834A010, .cpyw ⟨37, .clus⟩),
    (0xB844A010, .cpyb ⟨37, .clus⟩),
    (0xBC004495, .mmaA33 ⟨2, 18, 21⟩),
    (0xBC104495, .mmaA48 ⟨2, 18, 21⟩),
    (0xBC204495, .mmazA33 ⟨2, 18, 21⟩),
    (0xBC304495, .mmazA48 ⟨2, 18, 21⟩),
    (0xBC40003F, .mlease ⟨64⟩),
    (0xBC500000, .mrel),
    (0xBC64A081, .macq ⟨37, 2, 1⟩),
    (0xBC704483, .acvt ⟨2, 18, .rn12⟩),
    (0xBC830302, .ald ⟨.reg 24, .reg 12, 2⟩),
    (0xBC930302, .ast ⟨.reg 24, .reg 12, 2⟩),
    (0xC004A480, .tdef ⟨37, 18⟩),
    (0xC014A480, .tdrop ⟨37, 18⟩),
    (0xC024A485, .tqry ⟨37, 18, 5⟩),
    (0xC0330325, .tgathI32 ⟨.reg 24, .reg 12, 37⟩),
    (0xC0430325, .tgathF32 ⟨.reg 24, .reg 12, 37⟩),
    (0xC4030325, .spld ⟨.reg 24, .reg 12, 37⟩),
    (0xC4130325, .spst ⟨.reg 24, .reg 12, 37⟩),
    (0xC4230325, .spnext ⟨.reg 24, .reg 12, 37⟩),
    (0xC4330325, .spleaf ⟨.reg 24, .reg 12, 37⟩),
    (0xC4424025, .spdense ⟨18, 37⟩),
    (0xC4524025, .spimport ⟨18, 37⟩),
    (0xC8030325, .enq ⟨.reg 24, .reg 12, 37⟩),
    (0xC8130025, .deq ⟨.reg 24, 37⟩),
    (0xC824A012, .qstat ⟨37, 18⟩),
    (0xCC000300, .preq ⟨.reg 12⟩)] = true := by
  decide +kernel

/-- Words of 06 R217 to R240, each with the instruction it stands for. -/
theorem test_decode_control : reads [
    (0xD00FFFF7, .br ⟨-9⟩),
    (0xD0D004B4, .brpAny ⟨5, 1204⟩),
    (0xD15004B5, .brpAll ⟨5, 1205⟩),
    (0xD1D004B6, .brpLane ⟨5, 1206⟩),
    (0xD267FFFF, .call ⟨6, 524287⟩),
    (0xD2818000, .ret ⟨.reg 12⟩),
    (0xD3018000, .jmpi ⟨.reg 12⟩),
    (0xD40AAE61, .regang ⟨700001⟩),
    (0xD4100000, .exit),
    (0xD4200000, .yield),
    (0xD4300000, .ppt)] = true := by
  decide +kernel

/-- Words of 06 R217 to R240, each with the instruction it stands for. -/
theorem test_decode_system : reads [
    (0xF0001FFE, .trap ⟨8190⟩),
    (0xF0100000, .tret),
    (0xF0200006, .emret ⟨.reexecute, true⟩),
    (0xF0331340, .srd ⟨.reg 24, 77⟩),
    (0xF0431340, .swr ⟨.reg 24, 77⟩),
    (0xF054A480, .psrd ⟨37, 18⟩),
    (0xF064A480, .pswr ⟨37, 18⟩),
    (0xF0700498, .invpg ⟨18, .die⟩),
    (0xF6345678, .tramp ⟨36984440⟩)] = true := by
  decide +kernel

/-! Helpers of the witnesses. -/

/-- What holds of every set bit below 32 holds of every set bit. -/
theorem lanes_all {m : LaneMask} {P : Nat → Prop} (h : ∀ l, l < 32 → m.getLsbD l = true → P l) :
    ∀ l, m.getLsbD l = true → P l := fun l hl => by
  by_cases h32 : l < 32
  · exact h l h32 hl
  · rw [BitVec.getLsbD_of_ge _ _ (by omega)] at hl; cases hl

/-- What holds of every listed value and of the default holds at every key. -/
theorem mget_all {α : Type} {P : α → Prop} {d : α} {m : Map α} (hd : P d) (h : ∀ x ∈ m, P x.2) (n : Nat) :
    P (mget d m n) := by
  induction m with
  | nil => exact hd
  | cons y ys ih =>
    obtain ⟨k, v⟩ := y
    simp only [mget, mfind?]
    split
    · exact h (k, v) (List.mem_cons_self ..)
    · exact ih (fun x hx => h x (List.mem_cons_of_mem _ hx))

/-- A gang of 32 lanes with both handlers. -/
def gang : Gang := { placedGang with trapEntry := 0x1000, emuEntry := 0x2000 }

/-- A machine on which a gang issues at address 0, with a mask of active lanes and hints. -/
def issuing (g : Gang) (active : LaneMask) (hs : List Hint) : State :=
  { State.reset.placeWord 0 with cur := ⟨0, 0, 0, 0, 0, 4, 0, hs, active⟩ }.putGang g

/-- Lane 0 alone issues. -/
def one : State := issuing gang 1 []

/-- All lanes issue. -/
def full : State := issuing gang 0xFFFFFFFF []

theorem one_issues : one.Issues gang := by unfold State.Issues; decide +kernel

theorem full_issues : full.Issues gang := by unfold State.Issues; decide +kernel

theorem handles_of {g : Gang} {kind : Nat} {m : LaneMask}
    (h1 : (if kind = 0 then g.trapEntry else g.emuEntry) ≠ 0xFFFFFFFF)
    (h2 : ∀ x ∈ g.lanes, x.2.level < 2) : g.handles kind m :=
  ⟨h1, fun l _ => mget_all (P := fun (x : Lane) => x.level < 2) (by decide) h2 l⟩

theorem diesUp_of {s : State} (h : s.dev.resetReg.busy = false) : s.DiesUp := fun d => by
  simp [State.dieAway, h]

theorem noCached_of {s : State} (h1 : ∀ x ∈ s.cores, x.2.l1 = []) (h2 : ∀ x ∈ s.dies, x.2.rdc = []) : s.NoCached :=
  ⟨mget_all (P := fun (x : Core) => x.l1 = []) rfl h1, mget_all (P := fun (x : Die) => x.rdc = []) rfl h2⟩

theorem noDirty_of {s : State} {c : Nat} (h1 : cacheDirty allBytes (s.core c).l1 = [])
    (h2 : ∀ x ∈ s.dies, cacheDirty allBytes x.2.rdc = []) : s.NoDirty c :=
  ⟨h1, mget_all (P := fun (x : Die) => cacheDirty allBytes x.rdc = []) rfl h2⟩

/-- A gang whose register 0 of lane 0 holds 1. -/
def odd : Gang := { gang with v := [(0, 1)] }

/-! Witnesses: a state and operands that meet the hypotheses of a statement together. -/

theorem witness_IntegerResults : one.Issues gang ∧
    gang.regsOk (useDst 1 (.reg 119) ++ useSrc 1 (.reg 118) ++ useSrc 1 (.latch 3) ++
      useSrc 1 (third (.reg 119) one.cur.hints)) = true ∧
    gang.regsOk (useDst 1 .none ++ useSrc 1 .zero) = true := ⟨one_issues, by decide +kernel⟩

theorem witness_ShiftAndFieldResults : full.Issues gang ∧
    gang.regsOk (useDst 1 (.reg 0) ++ useSrc 1 .lane ++ useSrc 1 (.reg 119) ++
      useSrc 1 (third (.reg 0) full.cur.hints)) = true := ⟨full_issues, by decide +kernel⟩

theorem witness_Integer64Results : one.Issues gang ∧
    gang.regsOk (useDst 2 (.reg 118) ++ useSrc 2 (.reg 116) ++ useSrc 2 .zero ++
      useSrc 2 (third (.reg 118) one.cur.hints)) = true := ⟨one_issues, by decide +kernel⟩

/-- Lane 1 divides by its lane number. -/
theorem witness_DivisionResults : (issuing gang 2 []).Issues gang ∧
    gang.regsOk (useDst 1 (.reg 119) ++ useSrc 1 .zero ++ useSrc 1 .lane) = true ∧
    ∀ l, gang.takesPart (issuing gang 2 []).cur false l → gang.src l .lane ≠ 0 :=
  ⟨by unfold State.Issues; decide +kernel, by decide +kernel, lanes_all (by decide +kernel)⟩

theorem witness_IntegerComparisons : one.Issues gang ∧
    gang.regsOk (useSrc 1 (.reg 119) ++ useSrc 1 .lane) = true ∧
    gang.regsOk (useSrc 2 (.reg 118) ++ useSrc 2 (.latch 0)) = true := ⟨one_issues, by decide +kernel⟩

theorem witness_Fp32Results : full.Issues gang ∧
    gang.regsOk (useDst 1 .none ++ useSrc 1 (.reg 0) ++ useSrc 1 (.reg 119) ++
      useSrc 1 (third .none full.cur.hints)) = true := ⟨full_issues, by decide +kernel⟩

theorem witness_PackedResults : full.Issues gang ∧
    gang.regsOk (useDst 1 (.reg 5) ++ useSrc 1 (.reg 5) ++ useSrc 1 .lane ++
      useSrc 1 (third (.reg 5) full.cur.hints)) = true := ⟨full_issues, by decide +kernel⟩

theorem witness_Fp32Comparisons : full.Issues gang ∧
    gang.regsOk (useSrc 1 (.reg 0) ++ useSrc 1 .zero) = true := ⟨full_issues, by decide +kernel⟩

/-- Both zeros, and the least positive number. -/
theorem witness_ComparisonFollowsNumbers :
    (∃ m e, fp32.read 0 = .fin false m e) ∧ (∃ m e, fp32.read 0x80000000 = .fin true m e) ∧
    ∃ m e, fp32.read 1 = .fin false m e := ⟨⟨_, _, rfl⟩, ⟨_, _, rfl⟩, ⟨_, _, rfl⟩⟩

theorem witness_ExactUnlessInexact :
    (fp32.round .rne false 3 (-149) false).2 &&& fNX = 0 ∧ (bf16.round .rdn true 255 120 false).2 &&& fNX = 0 ∧
    (fp16.round .rup false 1 (-24) false).2 &&& fNX = 0 := by decide +kernel

/-- NaNs of both kinds, infinities, an infinity times zero, a number below 0, 4, and 1.5. -/
theorem witness_Fp32SpecialInputs :
    fp32.read 0x7F800001 = .nan true ∧ bf16.read 0x7FC0 = .nan false ∧ fp16.read 0x7C00 = .inf false ∧
    fp16.read 0xFC00 = .inf true ∧ (∃ e, fp16.read 0 = .fin false 0 e) ∧
    (∃ m e, fp32.read 0xBF800000 = .fin true m e ∧ m ≠ 0) ∧ (fp32.read 0x40800000).rat = (2 : Rat) ^ (2 : Int) ∧
    ∃ m e, fp32.read 0x3FC00000 = .fin false m e :=
  ⟨rfl, rfl, rfl, rfl, ⟨_, rfl⟩, ⟨_, _, rfl, by decide⟩, by decide +kernel, _, _, rfl⟩

/-- Also an RN8 code that holds 5, and the values 1.0 in lane 0 and a NaN in the others at scale base 127. -/
theorem witness_ConversionResults : one.Issues gang ∧
    gang.regsOk (useDst (NumType.regs .i64) (.reg 118) ++ useSrc (NumType.regs .f32) (.reg 117)) = true ∧
    gang.regsOk (useDst 1 (.reg 119) ++ useSrc 1 (.reg 118) ++ useSrc 1 .zero) = true ∧
    ((5 % 3 * 64 + 5 % 7 * 8 + 5 % 8 : Nat) : Int) = residueCode true 5 ∧
    (quantBlock 83 127 1 (fun l => if l = 0 then fp32.read 0x3F800000 else .nan false)).elem 0 = (some 1, false, 0) :=
  ⟨one_issues, by decide +kernel⟩

theorem witness_CrossLaneResults : full.Issues gang ∧
    gang.regsOk (useDst 1 (.reg 119) ++ useSrc 1 (.reg 118) ++ useSrc 1 .lane) = true ∧
    gang.regsOk (useDst 1 (.reg 119) ++ useSrc 2 (.reg 118) ++ useSrc 2 .zero) = true :=
  ⟨full_issues, by decide +kernel⟩

theorem witness_LaneReductions : full.Issues gang ∧ gang.regsOk (useDst 1 (.reg 119) ++ useSrc 1 .lane) = true :=
  ⟨full_issues, by decide +kernel⟩

theorem witness_MoveAndScalarResults : one.Issues gang ∧
    gang.regsOk (useDst 1 (.reg 119) ++ useSrc 1 (.reg 118) ++ useSrc 1 .lane ++
      ((thirdSource one.cur.hints).map (useSrc 1)).getD []) = true := ⟨one_issues, by decide +kernel⟩

/-- The link pair v118, v119, and a jump to the highest aligned address below 2^48. -/
def jumper : Gang := { gang with v := [(118 * 32, 0xFFFFFFFC), (119 * 32, 0xFFFF)] }

theorem witness_BranchResults : (issuing jumper 1 []).Issues jumper ∧ jumper.regsOk [2 * 59, 2 * 59 + 1] = true ∧
    jumper.regsOk (useSrc 2 (.reg 118)) = true ∧
    ∀ l, jumper.takesPart (issuing jumper 1 []).cur false l →
      (jumper.src64 l (.reg 118)).toNat % 4 = 0 ∧ (jumper.src64 l (.reg 118)).toNat < 2 ^ 48 :=
  ⟨by unfold State.Issues; decide +kernel, by decide +kernel, by decide +kernel, lanes_all (by decide +kernel)⟩

/-- Pairs of lane 0 and lane 1: 2^48 and 4. -/
def beyond : Gang := { gang with v := [(0, 0), (1, 4), (32, 0x10000), (33, 0)] }

/-- The aligned target 2^48, and a misaligned one. -/
theorem witness_JumpTraps : (issuing beyond 3 []).Issues beyond ∧ beyond.regsOk (useSrc 2 (.reg 0)) = true ∧
    (∀ l, (beyond.parts (issuing beyond 3 []).cur false).getLsbD l = true → (beyond.src64 l (.reg 0)).toNat % 4 = 0) ∧
    beyond.parts (issuing beyond 3 []).cur false &&& maskWhere (fun l => decide (2 ^ 48 ≤ (beyond.src64 l (.reg 0)).toNat)) = 1 ∧
    beyond.handles 0 1 ∧ odd.handles 0 1 ∧
    (∀ l, (odd.parts (issuing odd 1 []).cur false).getLsbD l = true →
      (odd.src64 l (.reg 0)).toNat % 4 = 0 → (odd.src64 l (.reg 0)).toNat < 2 ^ 48) ∧
    odd.parts (issuing odd 1 []).cur false &&& maskWhere (fun l => (odd.src64 l (.reg 0)).toNat % 4 != 0) = 1 :=
  ⟨by unfold State.Issues; decide +kernel, by decide +kernel, lanes_all (by decide +kernel), by decide +kernel,
    handles_of (by decide) (by decide +kernel), handles_of (by decide) (by decide +kernel),
    lanes_all (by decide +kernel), by decide +kernel⟩

theorem witness_DivisionByZeroTraps : full.Issues gang ∧
    gang.regsOk (useDst 1 (.reg 0) ++ useSrc 1 (.reg 1) ++ useSrc 1 .lane) = true ∧
    gang.parts full.cur false &&& maskWhere (fun l => gang.src l .lane == 0) ≠ 0 ∧ gang.handles 0 1 :=
  ⟨full_issues, by decide +kernel, by decide +kernel, handles_of (by decide) (by decide +kernel)⟩

theorem witness_TrapInstruction : full.Issues gang ∧ gang.parts full.cur false ≠ 0 ∧
    gang.handles 0 (gang.parts full.cur false) :=
  ⟨full_issues, by decide +kernel, handles_of (by decide) (by decide +kernel)⟩

/-- A gang with 8 registers. -/
def few : Gang := { gang with vregs := 8 }

theorem witness_EmulationEntries : (issuing few 1 []).Issues few ∧ (issuing few 1 []).cur.active ≠ 0 ∧
    few.handles 1 (issuing few 1 []).cur.active ∧
    few.regsOk (useDst 1 (.reg 8) ++ useSrc 1 .zero ++ useSrc 1 .zero) = false ∧
    few.regsOk (useSrc 1 (.reg 7) ++ useSrc 1 (.reg 119)) = false ∧
    few.regsOk (useDst (regsOf (LoadMode.bytes (.plain .b64))) (.reg 8) ++ useSrc 2 .zero) = false ∧
    few.regsOk [2 * 4, 2 * 4 + 1] = false :=
  ⟨by unfold State.Issues; decide +kernel, by decide +kernel, handles_of (by decide) (by decide +kernel),
    by decide +kernel⟩

theorem witness_AlignmentTraps : (issuing odd 1 []).Issues odd ∧
    odd.parts (issuing odd 1 []).cur false ≠ 0 ∧ odd.todo (issuing odd 1 []).cur = 1 ∧ odd.handles 0 1 ∧
    odd.regsOk (useSrc 2 (.reg 0) ++ useDst 4 (.reg 116) ++ useSrc 4 (.reg 116)) = true ∧
    (∀ l, (1 : LaneMask).getLsbD l = true → (odd.src64 l (.reg 0)).toNat % 4 ≠ 0) ∧
    (∀ l, (1 : LaneMask).getLsbD l = true →
      odd.address .global (.reg 0) ((issuing odd 1 []).offsetOf 63 16) l % (16 : Nat) ≠ 0) ∧
    ∀ l, (1 : LaneMask).getLsbD l = true →
      odd.address .scratch (.reg 0) ((issuing odd 1 []).offsetOf 0 2) l % (2 : Nat) ≠ 0 :=
  ⟨by unfold State.Issues; decide +kernel, by decide +kernel, by decide +kernel,
    handles_of (by decide) (by decide +kernel), by decide +kernel, lanes_all (by decide +kernel),
    lanes_all (by decide +kernel), lanes_all (by decide +kernel)⟩

/-! States of the memory statements. -/

/-- Context 0 maps the addresses below 1 GiB onto themselves, with every permission. -/
def mapping (s : State) : State :=
  (s.modCtx 0 (fun x => { x with ptBase := 0x10000000, hwm := 4096 })).setDword 0x10000000 0x11000001
    |>.setDword 0x11000000 0x0A0000000000017F

/-- Lane 0 issues in a context with that page. -/
def mapped : State := mapping one

/-- The L1 of core 0 holds the words 60 to 63 of frame 3. -/
def cached : State :=
  mapped.modCore 0 (fun k => { k with
    l1 := [(3, [⟨3, 60, 63, 0, (List.range 16).map (fun i => (240 + i, ⟨7, false⟩)), 0, none, 0⟩])] })

/-- That page. -/
def giant : Leaf :=
  { ctx := 0, va := 0, pa := 0, size := 2 ^ 30, r := true, w := true, x := true, sysp := false, res := true, a := true,
    d := true, head := 0x11000000 }

theorem passes_one {n l : Nat} {p : Place} {cs : List (Nat × Check)} (h : cs = [(l, .ok p)]) (hp : Place.inMemory n p) :
    Passes n cs := by
  subst h
  intro x hx
  simp only [List.mem_singleton] at hx
  exact ⟨p, by rw [hx], hp⟩

theorem of_one {l : Nat} {p : Place} {cs : List (Nat × Check)} {P : Place → Prop} (h : cs = [(l, .ok p)]) (hp : P p) :
    ∀ k q, (k, Check.ok q) ∈ cs → P q := by
  subst h
  intro k q hq
  simp only [List.mem_singleton, Prod.mk.injEq, Check.ok.injEq] at hq
  rw [hq.2]
  exact hp

theorem page_inMemory {n va : Nat} {l : Leaf}
    (h : l.sysp = false ∧ l.pa + (va - l.va) + n ≤ memoryEnd ∧ (l.pa + (va - l.va)) % n = 0) :
    Place.inMemory n (.page va l) := h

/-- A quad at the last offset of the immediate, on a page and in a scratchpad. -/
theorem witness_AccessesComplete : cached.Issues gang ∧
    gang.regsOk (useDst 4 (.reg 116) ++ useSrc 4 (.reg 116) ++ useSrc 2 .zero) = true ∧
    Passes 16 (cached.laneChecks gang .global .zero (cached.offsetOf 63 16) 16 .load) ∧
    Passes 16 (cached.laneChecks gang .global .zero (cached.offsetOf 63 16) 16 .store) ∧
    Passes 4 (cached.laneChecks gang .priv .zero (cached.offsetOf 0 4) 4 .load) ∧
    Passes 16 (cached.laneChecks gang .scratch .zero (cached.offsetOf 63 16) 16 .load) ∧
    Passes 8 (cached.laneChecks gang .window .zero (cached.offsetOf 63 8) 8 .store) ∧
    ∀ o ∈ [ObjLoc.global 1008, .bank 0 1008, .bank 0 504], ∀ release, cached.Unhindered gang [o] .sys release :=
  ⟨by unfold State.Issues; decide +kernel, by decide +kernel,
    passes_one (l := 0) (p := .page 1008 giant) (by decide +kernel) (page_inMemory (by decide +kernel)),
    passes_one (l := 0) (p := .page 1008 giant) (by decide +kernel) (page_inMemory (by decide +kernel)),
    passes_one (l := 0) (p := .page 0 giant) (by decide +kernel) (page_inMemory (by decide +kernel)),
    passes_one (l := 0) (p := .bank 0 1008) (by decide +kernel) trivial,
    passes_one (l := 0) (p := .bank 0 504) (by decide +kernel) trivial,
    by unfold State.Unhindered; decide +kernel⟩

/-- The part has bound addresses 768 to 1023 to the object at 1016, and to one in the scratchpad. -/
def bound : State :=
  mapped.modCore 0 (fun k => { k with
    binds := [(0, ⟨768, 256, .global 1016, .dev⟩), (3, ⟨768, 256, .bank 0 504, .clus⟩)] })

theorem bound_once : ∀ o ∈ [ObjLoc.global 1016, .bank 0 504], ∃ b, (bound.core 0).boundTo placedPart o = [b] ∧
    scopeLevel placedPart.wide (widerScope .team b.scope) ≠ 0 := by
  simp only [List.mem_cons, List.not_mem_nil, or_false, forall_eq_or_imp, forall_eq]
  exact ⟨⟨⟨768, 256, .global 1016, .dev⟩, by decide +kernel⟩, ⟨⟨768, 256, .bank 0 504, .clus⟩, by decide +kernel⟩⟩

/-- On words that the L1 holds; on an absent frame; ordered, at the highest word of a bound range and in a scratchpad. -/
theorem witness_PlainLoadResults :
    (let cs := cached.laneChecks gang .global .zero (cached.offsetOf 63 16) 16 .load;
      cached.Issues gang ∧ gang.regsOk (useDst 4 (.reg 116) ++ useSrc 2 .zero) = true ∧ Passes 16 cs ∧
      ∀ l p, (l, Check.ok p) ∈ cs → cached.l1Has cached.cur.core 16 p) ∧
    (mapped.Issues gang ∧
      mapped.laneChecks gang .global .zero (mapped.offsetOf 63 16) 16 .load = [(0, .ok (.page 1008 giant))] ∧
      Place.inMemory 16 (.page 1008 giant) ∧ mapped.FrameAbsent 0 3 ∧ mapped.SetsClean 0 3) ∧
    bound.Issues gang ∧ (bound.core 0).partOf gang = some placedPart ∧
    bound.laneChecks gang .global .zero (bound.offsetOf 127 8) 8 .load = [(0, .ok (.page 1016 giant))] ∧
    bound.laneChecks gang .scratch .zero (bound.offsetOf 63 8) 8 .load = [(0, .ok (.bank 0 504))] ∧
    Place.inMemory 8 (.page 1016 giant) ∧
    ∀ o ∈ [ObjLoc.global 1016, .bank 0 504], bound.Unhindered gang [o] .team false :=
  have h : cached.laneChecks gang .global .zero (cached.offsetOf 63 16) 16 .load = [(0, .ok (.page 1008 giant))] := by
    decide +kernel
  ⟨⟨by unfold State.Issues; decide +kernel, by decide +kernel, passes_one h (page_inMemory (by decide +kernel)),
    of_one h (by unfold State.l1Has; decide +kernel)⟩,
    ⟨by unfold State.Issues; decide +kernel, by decide +kernel, page_inMemory (by decide +kernel),
      by unfold State.FrameAbsent; decide +kernel, by unfold State.SetsClean; decide +kernel⟩,
    by unfold State.Issues; decide +kernel, by decide +kernel, by decide +kernel, by decide +kernel,
    page_inMemory (by decide +kernel), by unfold State.Unhindered; decide +kernel⟩

/-- A plain store; an ordered one of a lane, and of all lanes on one word. -/
theorem witness_PlainStoreResults :
    (let cs := cached.laneChecks gang .global .zero (cached.offsetOf 63 16) 16 .store;
      cached.Issues gang ∧ gang.regsOk (useSrc 4 (.reg 116) ++ useSrc 2 .zero) = true ∧ Passes 16 cs ∧
      ∀ l p, (l, Check.ok p) ∈ cs → cached.l1Covers cached.cur.core 16 p) ∧
    (mapped.laneChecks gang .global .zero (mapped.offsetOf 63 16) 16 .store = [(0, .ok (.page 1008 giant))] ∧
      mapped.FrameAbsent 0 3 ∧ mapped.SetsClean 0 3) ∧
    bound.Issues gang ∧ (bound.core 0).partOf gang = some placedPart ∧
    (∀ o ∈ [ObjLoc.global 1016, .bank 0 504], ∀ sc ∈ [Scope.gang, .sys], bound.Unhindered gang [o] sc true) ∧
    bound.laneChecks gang .global .zero (bound.offsetOf 127 8) 8 .store = [(0, .ok (.page 1016 giant))] ∧
    bound.laneChecks gang .scratch .zero (bound.offsetOf 63 8) 8 .store = [(0, .ok (.bank 0 504))] ∧
    bound.dev.badTransfers = [] ∧ bound.MemOk ∧ bound.Unsealed 0 (.page 1016 giant) ∧
    (mapping full).laneChecks gang .global .zero 0 8 .store = (List.range 32).map (fun l => (l, .ok (.page 0 giant))) ∧
    (mapping full).Unhindered gang [.global 0] .sys true ∧ (mapping full).NoDirty 0 :=
  have h : cached.laneChecks gang .global .zero (cached.offsetOf 63 16) 16 .store = [(0, .ok (.page 1008 giant))] := by
    decide +kernel
  ⟨⟨by unfold State.Issues; decide +kernel, by decide +kernel, passes_one h (page_inMemory (by decide +kernel)),
    of_one h (by unfold State.l1Covers; decide +kernel)⟩,
    ⟨by decide +kernel, by unfold State.FrameAbsent; decide +kernel, by unfold State.SetsClean; decide +kernel⟩,
    by unfold State.Issues; decide +kernel, by decide +kernel, by unfold State.Unhindered; decide +kernel,
    by decide +kernel, by decide +kernel, by decide +kernel, by unfold State.MemOk; decide +kernel,
    by unfold State.Unsealed; decide +kernel, by decide +kernel, by unfold State.Unhindered; decide +kernel,
    noDirty_of (by decide +kernel) (by decide +kernel)⟩

/-- s[1] + 8 * 31, on the cached words. -/
def pointer : Gang := { gang with s := [(1, 760)] }

def pointing (s : State) : State := s.putGang pointer

theorem witness_ScalarMemoryResults : (∀ s ∈ [cached, mapped], (pointing s).issuer = some pointer ∧
      (pointing s).bad = none ∧ (pointing s).cur.active ≠ 0 ∧ ∀ kind ∈ [AccKind.load, .store],
        ((pointing s).checkGlobal pointer (lowest (pointing s).cur.active) ((pointer.sreg 1).toNat + 8 * 31) 8 kind).2 =
          .ok (.page 1008 giant)) ∧
    Place.inMemory 8 (.page 1008 giant) ∧ (pointing cached).l1Has 0 8 (.page 1008 giant) ∧
    (pointing cached).l1Covers 0 8 (.page 1008 giant) ∧ (pointing mapped).FrameAbsent 0 3 ∧ (pointing mapped).SetsClean 0 3 :=
  ⟨by decide +kernel, page_inMemory (by decide +kernel), by unfold State.l1Has; decide +kernel,
    by unfold State.l1Covers; decide +kernel, by unfold State.FrameAbsent; decide +kernel,
    by unfold State.SetsClean; decide +kernel⟩

/-- v0 of lane 0 is 2. -/
def pairer : Gang := { gang with v := [(0, 2)] }

/-- The first half of the pair of lane 0 is applied, or is the one that the next issue applies. -/
def halving (h : Option Half) (n : Option Nat) : State :=
  { issuing (pairer.modLane 0 (fun x => { x with half := h })) 1 [] with split := n }

/-- Every lane on the first word of memory and of the scratchpad, with a whole and a packed type; a packed pair that
spans two words, whole, in the issue that applies its first half, and after it. -/
theorem witness_AtomicResults : (mapping full).Issues gang ∧ ((mapping full).core 0).partOf gang = some placedPart ∧
    (∀ sc ∈ [Scope.gang, .sys], ∀ o ∈ [ObjLoc.global 0, .bank 0 0], (mapping full).Unhindered gang [o] sc true) ∧
    (mapping full).dev.badTransfers = [] ∧ (mapping full).NoDirty 0 ∧ (mapping full).MemOk ∧
    (mapping full).split = none ∧ (mapping full).Unsealed 0 (.page 0 giant) ∧
    (Instr.red ⟨.add, .f32, .reg 119, .zero, .sys, .rel⟩).wf = true ∧
    (Instr.atom ⟨.cas, .i64, .reg 116, .zero, .dev, .acq⟩).wf = true ∧
    (Instr.atoms ⟨.add, .bf16x2, .reg 119, .zero, .clus, .relaxed, true⟩).wf = true ∧
    gang.regsOk (useSrc (atomicRegs .cas .i64) (asSrc (.reg 116)) ++ useSrc 2 .zero) = true ∧
    (∀ l ∈ List.range 32, gang.address .global .zero 0 l % 4 = 0 ∧ (gang.lane l).half = none) ∧
    (mapping full).laneChecks gang .global .zero 0 8 .atomic = (List.range 32).map (fun l => (l, .ok (.page 0 giant))) ∧
    (mapping full).laneChecks gang .scratch .zero 0 2 .atomic = (List.range 32).map (fun l => (l, .ok (.bank 0 0))) ∧
    Place.inMemory 8 (.page 0 giant) ∧
    ∀ x ∈ [(none, none), (none, some 1), (some (⟨0, .bank 0 0, some 0, 4⟩ : Half), none)],
      let s := halving x.1 x.2
      let g := pairer.modLane 0 (fun y => { y with half := x.1 })
      s.Issues g ∧ s.split = x.2 ∧ (g.lane 0).half = x.1 ∧ (s.core 0).partOf g = some placedPart ∧
      (Instr.reds ⟨.add, .f16x2, .reg 119, .reg 0, .team, .relaxed, false⟩).wf = true ∧
      lanesOf (g.todo s.cur) = [0] ∧ g.address .scratch (.reg 0) 0 0 % 4 = 2 ∧
      (s.checkLane g .scratch (g.address .scratch (.reg 0) 0 0) 2 .atomic 0).2 = .ok (.bank 0 2) ∧
      (s.checkLane g .scratch (g.address .scratch (.reg 0) 0 0 + 2) 2 .atomic 0).2 = .ok (.bank 0 4) := by
  refine ⟨by unfold State.Issues; decide +kernel, ?_, by unfold State.Unhindered; decide +kernel, ?_,
    noDirty_of (by decide +kernel) (by decide +kernel), by unfold State.MemOk; decide +kernel, ?_,
    by unfold State.Unsealed; decide +kernel, ?_, ?_, ?_, ?_, ?_, ?_, ?_,
    page_inMemory (by decide +kernel), by unfold State.Issues; decide +kernel⟩ <;> decide +kernel

/-- A length pair v2, v3 that ends a range at 2^48. -/
def ranger : Gang := { gang with v := [(3 * 32, 0x10000)] }

def ranging : State := (mapping one).putGang ranger

/-- The page of context 0 is not resident. -/
def absent : State := ranging.setDword 0x11000000 0x0A0000000000007F

/-- The highest words of frame 3 are dirty in the L1. -/
def dirtied (s : State) : State :=
  s.modCore 0 (fun k => { k with
    l1 := [(3, [⟨3, 62, 63, 0, (List.range 8).map (fun i => (248 + i, ⟨7, true⟩)), 0, none, 0⟩])] })

/-- A cache that holds one block. -/
theorem cacheOk_one {setOf : Nat → Nat} {n : Nat} {b : Block} (h : setOf b.frame = n ∧ mapSorted b.bytes = true ∧
    ∀ y ∈ b.bytes, y.1 < 256 ∧ b.first ≤ y.1 / 4 ∧ y.1 / 4 ≤ b.last) : CacheOk setOf [(n, [b])] :=
  ⟨rfl, by simpa using h⟩

theorem cacheOk_nil {setOf : Nat → Nat} : CacheOk setOf [] := ⟨rfl, by simp⟩

theorem dirtied_ok : (dirtied ranging).MemOk ∧ (dirtied ranging).CachesOk 0 ∧ (dirtied ranging).DiesUp :=
  ⟨by unfold State.MemOk; decide +kernel, ⟨cacheOk_one (by decide +kernel), cacheOk_nil, by decide +kernel⟩,
    diesUp_of (by decide +kernel)⟩

/-- CFLUSH and CINV of lane 0, and of two lanes; PREQ of a resident page, of an absent one, and of every lane. -/
theorem witness_CacheControlResults : (dirtied ranging).Issues ranger ∧
    (let s := mapping (issuing ranger 3 []);
      s.Issues ranger ∧ lanesOf (ranger.todo s.cur) = [0, 1] ∧ ∀ l ∈ [0, 1],
        (ranger.src64 l .zero).toNat + (ranger.src64 l (.reg 2)).toNat ≤ 2 ^ 48 ∧
        s.walkError ranger.ctxKey (ranger.src64 l .zero).toNat (ranger.src64 l (.reg 2)).toNat = none) ∧
    (dirtied ranging).walkError ranger.ctxKey 0 (2 ^ 48) = none ∧
    (∀ l ∈ [0, 1], (mapping (issuing ranger 3 [])).requestError ranger (ranger.src64 l (.reg 2)).toNat = none) ∧
    ranger.regsOk (useSrc 2 (.reg 2) ++ useSrc 2 .zero) = true ∧ lanesOf (ranger.todo (dirtied ranging).cur) = [0] ∧
    (ranger.src64 0 .zero).toNat + (ranger.src64 0 (.reg 2)).toNat ≤ 2 ^ 48 ∧
    setByte? (mget [] ((dirtied ranging).core 0).l1 (l1Set 3)) 3 255 = some ⟨7, true⟩ ∧
    meetsRanges ((dirtied ranging).physRanges ranger.ctxKey 0 (2 ^ 48)) 1023 = true ∧
    (dirtied ranging).sealedWord ranger.part 1023 = false ∧
    lanesOf (ranger.parts ranging.cur false) = [0] ∧ (ranger.src64 0 .zero).toNat < 2 ^ 48 ∧
    ranging.part? ranger.part = some (Partition.reset 1) ∧ field (Partition.reset 1).fqBase 47 0 + 8192 ≤ memoryEnd ∧
    ranging.walk ranger.ctxKey 0 = .leaf giant [⟨0, 4, 0, 0x11000000⟩] ∧ absent.Issues ranger ∧
    absent.walk ranger.ctxKey 0 = .leaf { giant with res := false } [⟨0, 4, 0, 0x11000000⟩] ∧
    absent.part? ranger.part = some (Partition.reset 1) := by
  unfold State.Issues; decide +kernel

/-- Lane 0 of a gang with a base in s[6] and a length in s[7], beside some sealed ranges. -/
def sealer (base len : DWord) : Gang := { gang with s := [(6, base), (7, len)] }

def sealing (base len : DWord) (xs : List Seal) : State :=
  (issuing (sealer base len) 1 []).modPart 0 (fun x => { x with seals := xs })

/-- A range that is refused; one that is sealed; a seventeenth; the highest range. -/
theorem witness_SealResults :
    (sealing 1 256 []).Issues (sealer 1 256) ∧ (sealer 1 256).parts (sealing 1 256 []).cur false ≠ 0 ∧
    (sealing 1 256 []).part? 0 = some (Partition.reset 1) ∧ ((sealer 1 256).sreg 6).toNat % 256 ≠ 0 ∧
    (let x := { Partition.reset 1 with seals := [⟨0, 0, 512, []⟩] };
      (sealing 256 256 x.seals).part? 0 = some x ∧ (sealing 256 256 x.seals).Issues (sealer 256 256) ∧
      ∃ y ∈ x.seals, y.ctx = 0 ∧ ((sealer 256 256).sreg 6).toNat < y.base + y.len ∧
        y.base < ((sealer 256 256).sreg 6).toNat + ((sealer 256 256).sreg 7).toNat) ∧
    (let x := { Partition.reset 1 with seals := List.replicate 16 ⟨0, 0, 256, []⟩ };
      (sealing 256 256 x.seals).part? 0 = some x ∧ 16 ≤ x.seals.length ∧
      ¬∃ y ∈ x.seals, y.ctx = 0 ∧ ((sealer 256 256).sreg 6).toNat < y.base + y.len ∧
        y.base < ((sealer 256 256).sreg 6).toNat + ((sealer 256 256).sreg 7).toNat) ∧
    (let base := (sealer (2 ^ 48 - 256) 256).sreg 6
      let len := (sealer (2 ^ 48 - 256) 256).sreg 7
      ¬(base.toNat % 256 ≠ 0 ∨ len.toNat % 256 ≠ 0 ∨ len.toNat < 256 ∨ 2 ^ 40 < len.toNat ∨
        2 ^ 48 < base.toNat + len.toNat) ∧
      (sealing (2 ^ 48 - 256) 256 []).Issues (sealer (2 ^ 48 - 256) 256) ∧
      (sealing (2 ^ 48 - 256) 256 []).walkError 0 (2 ^ 48 - 256) 256 = none ∧
      (sealing (2 ^ 48 - 256) 256 []).engineWrites ⟨0, 2 ^ 48 - 256, 256, []⟩ = false ∧
      (sealing (2 ^ 48 - 256) 256 []).physRanges 0 (2 ^ 48 - 256) 256 = []) ∧
    let named := fun (y : Seal) => y.ctx = 0 ∧ y.base = ((sealer 256 256).sreg 6).toNat ∧
      y.len = ((sealer 256 256).sreg 7).toNat
    named ⟨0, 256, 256, []⟩ ∧ (∀ z ∈ ([⟨0, 0, 256, []⟩] : List Seal), ¬ named z) ∧
    (⟨0, 256, 256, []⟩ : Seal) ∉ ([⟨0, 0, 256, []⟩] : List Seal) ++ [⟨1, 256, 256, []⟩] := by
  unfold State.Issues; decide +kernel

/-- The target in v0, v1 is 1, the object holds 0: a wait that blocks; target 0: one that passes. In a scratchpad and in
memory. -/
theorem witness_BarrierResults : let s := mapping (issuing odd 1 [])
    s.Issues odd ∧ (s.core 0).partOf odd = some placedPart ∧ s.MemOk ∧
    (∀ sc ∈ [Scope.gang, .sys], ∀ o ∈ [ObjLoc.global 0, .bank 0 0], ∀ release, s.Unhindered odd [o] sc release) ∧
    odd.regsOk (useSrc (Space.lane .scratch).width .zero ++ useSrc (Space.lane .global).width .zero) = true ∧
    odd.regsOk (useSrc 2 (.reg 0) ++ useDst 2 (.reg 118)) = true ∧
    (∀ kind ∈ [AccKind.signal, .observe],
      s.laneChecks odd (Space.lane .scratch) .zero 0 8 kind = [(0, .ok (.bank 0 0))] ∧
      s.laneChecks odd (Space.lane .global) .zero 0 8 kind = [(0, .ok (.page 0 giant))]) ∧
    Place.inMemory 8 (.page 0 giant) ∧ odd.parts s.cur false = odd.todo s.cur ∧
    (∀ p ∈ [Place.bank 0 0, .page 0 giant], ofBytes ((s.homed p).placeBytes 8 p) < (odd.src64 0 (.reg 0)).toNat ∧
      (odd.src64 0 .zero).toNat ≤ ofBytes ((s.homed p).placeBytes 8 p)) ∧ s.dev.badTransfers = [] :=
  ⟨by unfold State.Issues; decide +kernel, by decide +kernel, by unfold State.MemOk; decide +kernel,
    by unfold State.Unhindered; decide +kernel, by decide +kernel, by decide +kernel, by decide +kernel, page_inMemory (by decide +kernel), by decide +kernel⟩

/-- The longest range, from 2^47. -/
def binder : Gang := { gang with s := [(4, 2 ^ 47), (5, 2 ^ 47), (6, 8)] }

theorem witness_BindingResults : (issuing binder 1 []).Issues binder ∧
    binder.parts (issuing binder 1 []).cur false ≠ 0 ∧
    ((issuing binder 1 []).core 0).partOf binder = some placedPart ∧ 0 ∈ placedPart.cores ∧ 3 < placedPart.binds ∧
    placedPart.binds ≤ 4 ∧
    (let base := (binder.sreg 4).toNat
      let len := (binder.sreg 5).toNat
      let obj := (binder.sreg 6).toNat
      base % 8 = 0 ∧ len % 8 = 0 ∧ obj % 8 = 0 ∧ 8 ≤ len ∧ len ≤ 2 ^ 47 ∧ base + len ≤ 2 ^ 48 ∧
      (issuing binder 1 []).bindObject binder .scratch obj = .ok (.bank 0 8)) ∧
    binder.handles 0 (binder.parts (issuing binder 1 []).cur false) := by
  refine ⟨by unfold State.Issues; decide +kernel, ?_, ?_, ?_, ?_, ?_, ?_, handles_of (by decide) (by decide +kernel)⟩ <;> decide +kernel

theorem witness_FenceResults : let s := dirtied ranging
    s.Issues ranger ∧ ranger.parts s.cur false ≠ 0 ∧ (s.core s.cur.core).partOf ranger = some placedPart ∧
    s.mustWait ranger [] .sys = false ∧ scopeLevel placedPart.wide .dev ≠ 0 ∧ s.sealedWord ranger.part 1023 = false ∧
    s.MemOk ∧ s.CachesOk s.cur.core ∧ s.DiesUp :=
  ⟨by unfold State.Issues; decide +kernel, by decide +kernel, by decide +kernel, by decide +kernel, by decide +kernel,
    by decide +kernel, dirtied_ok⟩

/-- v0 names granules 1 to 7 of the part, all that follow the first, and tile 1. -/
def owner : Gang := { gang with v := [(0, 0x601)] }

/-- A copy is at work on granule 2, tile 1 is another gang's, its own or free, and the part has so many tiles. -/
def owning (o : Owner) (n : Nat) (token : Option Nat) (tiles : Nat) : State :=
  (issuing owner 1 []).modCore 0 (fun k => { k with
    granules := [(2, ⟨o, false, n, none⟩)], tiles := [(1, { Tile.reset with token := token })]
    parts := [{ placedPart with tiles := tiles }] })

theorem witness_OwnershipResults :
    (∀ x ∈ [(Owner.threads, none, 4), (.copyEngine, some 0, 2), (.copyEngine, some 7, 2), (.threads, none, 1)],
      let s := owning x.1 1 x.2.1 x.2.2
      s.issuer = some owner ∧ s.bad = none ∧ owner.parts s.cur false ≠ 0 ∧
        (s.core 0).partOf owner = some { placedPart with tiles := x.2.2 } ∧ ((s.core 0).tile 1).token = x.2.1 ∧
        (s.core 0).tileBusy 1 = false) ∧
    owner.regsOk (useDst 1 (.reg 119) ++ useSrc 1 (.reg 0)) = true ∧
    1 + ((owner.src 0 (.reg 0)).toNat / 256 % 128 + 1) ≤ placedPart.granules ∧
    { placedPart with scratch := 4096 }.granules < 1 + ((owner.src 0 (.reg 0)).toNat / 256 % 128 + 1) ∧
    (owner.src 0 (.reg 0)).toNat % 4 = 1 ∧
    (∀ i, i < 7 → (((owning .threads 1 none 4).core 0).granule (0 + 1 + i)).owner = .threads) ∧
    ((((owning .copyEngine 1 none 4).core 0).granule (0 + 1 + 1)).owner ≠ .threads ∧
      (((owning .copyEngine 1 none 4).core 0).granule (0 + 1 + 1)).inflight ≠ 0) ∧
    (((owning .copyEngine 1 none 4).core 0).granule (0 + 1 + 0)).owner = .threads ∧
    owner.handles 0 (owner.parts (owning .copyEngine 1 none 4).cur false) := by
  refine ⟨?_, ?_, ?_, ?_, ?_, ?_, ?_, ?_, handles_of (by decide) (by decide +kernel)⟩ <;> decide +kernel

/-- A lease of a core at a core cycle. -/
def leasing (le : Lease) (cycle : Nat) : State :=
  { one.modCore 0 (fun k => { k with lease := le }) with clusters := [(0, { Cluster.reset with clock := cycle })] }

theorem witness_LeaseResults :
    (∀ le ∈ [(⟨none, 0, [], 31, 0⟩ : Lease), ⟨some 0, 3, [(1, 8)], 31, 0⟩, ⟨some 0, 3, [], 31, 0⟩, ⟨some 1, 1, [], 31, 0⟩],
      (leasing le 0).issuer = some gang ∧ (leasing le 0).bad = none ∧ gang.parts (leasing le 0).cur false ≠ 0) ∧
    (let le : Lease := ⟨none, 0, [(0, 8), (3, 64), (31, 1)], 31, 0⟩;
      (leasing le 0).bad = none ∧ ((leasing le 0).core 0).lease = le ∧ (leasing le 0).leasesRun 0 = true ∧
      mapSorted le.requests = true ∧
      (∀ r ∈ le.requests, (r.1 + 31 - le.last) % 32 ≥ (0 + 31 - le.last) % 32 ∧ r.1 < 32) ∧ le.last < 32) ∧
    let le : Lease := ⟨some 0, 3, [(1, 8)], 31, 0⟩;
    ((leasing le 2048).core 0).lease = le ∧ (∃ r ∈ le.requests, some r.1 ≠ le.holder) ∧
      le.lastMma + 2048 ≤ (leasing le 2048).clockOf 0 := by decide +kernel

/-- The matrix unit owns the part's granules; an A image of 16 KiB in format RN8 stands at offset 0. -/
def imaged (s : State) : State :=
  s.modCore 0 (fun k => { k with
    granules := (List.range 8).map (fun i => (i, ⟨.matrixUnit, false, 0, none⟩)), scratch := [(16640, 1)]
    lease := ⟨some 0, 1, [], 31, 0⟩ })

/-- s[4] names that image. -/
def grinder : Gang := { gang with s := [(4, 2 ^ 40)] }

def grinding : State := imaged (issuing grinder 0xFFFFFFFF [])

/-- An MMA on the last tile and slot of the part; a conversion of that tile; a gang with an inactive lane. -/
theorem witness_MatrixIssue : grinding.Issues grinder ∧ (grinding.core 0).partOf grinder = some placedPart ∧
    grinder.fullyGanged = true ∧ grinding.cur.active = BitVec.allOnes 32 ∧
    mmaFails (grinding.core 0) placedPart ⟨3, 4, 3⟩ (grinder.sreg 4) = [] ∧
    (grinding.core 0).lease.holder = some grinder.slot ∧ (grinding.core 0).mx.length < 4 ∧
    grinder.parts grinding.cur false ≠ 0 ∧ (grinding.core 0).tileMma (0 + 3) = false ∧
    acvtFails (grinding.core 0) placedPart false ⟨3, 5, .rn12⟩ (grinder.sreg 5) = [] ∧
    (issuing grinder 1 []).Issues grinder ∧ (issuing grinder 1 []).cur.active ≠ BitVec.allOnes 32 ∧
    (issuing grinder 1 []).cur.active ≠ 0 ∧ grinder.handles 0 (issuing grinder 1 []).cur.active := by
  refine ⟨by unfold State.Issues; decide +kernel, ?_, ?_, ?_, ?_, ?_, ?_, ?_, ?_, ?_,
    by unfold State.Issues; decide +kernel, ?_, ?_, handles_of (by decide) (by decide +kernel)⟩ <;> decide +kernel

/-- Lane 0 of the gang of core 0 as an engine's issuer. -/
def issuer : Issuer := ⟨0, 0, 0, 0, 0, 0, 0⟩

def queued (op : MxOp) : State := (imaged one).modCore 0 (fun k => { k with mx := [op] })

theorem witness_MatrixExecution :
    ∀ op ∈ [MxOp.mma false true true 3 0 127 3 issuer, .acvt .rn12 3 0 0 127 issuer],
      (queued op).bad = none ∧ ((queued op).core 0).mx = [op] ∧ (queued op).engineRuns 0 issuer.ctx = true ∧
        (queued op).issuerGang issuer = some gang := by decide +kernel

/-- The largest codes of the channels. -/
theorem witness_AccumulatorAddition : ∀ a48, let e : Elem := ⟨false, 2 ^ accK a48 - 1, 2 ^ accK a48 - 1, 2 ^ accK a48⟩;
    e.nar = false ∧ e.c1 < 2 ^ accK a48 ∧ e.c2 < 2 ^ accK a48 ∧ e.c3 ≤ 2 ^ accK a48 := by decide +kernel

/-- v0 of lane 0 is the last element's index; the gang holds the token of tile 3. -/
def reader : Gang := { gang with v := [(0, 16383)] }

def reading : State :=
  (issuing reader 1 []).modCore 0 (fun k => { k with tiles := [(3, { Tile.reset with token := some 0 })] })

theorem witness_AccumulatorAccess : reading.Issues reader ∧ (reading.core 0).partOf reader = some placedPart ∧
    reader.parts reading.cur false ≠ 0 ∧ 3 < placedPart.tiles ∧ (reading.core 0).tileBusy (0 + 3) = false ∧
    reader.regsOk (useDst 2 (.reg 118) ++ useSrc 1 (.reg 0)) = true ∧
    reader.regsOk (useSrc 2 (.reg 118) ++ useSrc 1 (.reg 0)) = true ∧ lanesOf (reader.todo reading.cur) = [0] ∧
    ((reading.core 0).tile (0 + 3)).token = some reader.slot ∧ (reader.src 0 (.reg 0)).toNat < 16384 ∧
    (mget Elem.zero ((reading.core 0).tile (0 + 3)).elems 16383).nar = false := by
  unfold State.Issues; decide +kernel

/-- What holds of lane 0 holds of the lanes of mask 1. -/
theorem lane_zero {P : Nat → Prop} (h : P 0) : ∀ l, (1 : LaneMask).getLsbD l = true → P l :=
  lanes_all fun l hl h1 => by
    have : ∀ l, l < 32 → (1 : LaneMask).getLsbD l = true → l = 0 := by decide +kernel
    rw [this l hl h1]
    exact h

theorem apart_of {g : Gang} {is : Issue} {st : Stream} (h : g.streams = [st]) (h0 : is.stream = 0)
    (hs : ∀ l, l < 32 → is.active.getLsbD l = true → bitAt st.slices (l / 4) = true) : g.WaitersApart is := by
  refine ⟨lanes_all fun l hl h1 => ?_, fun j hj t pc c n hw => ?_⟩
  · rw [h0]; simpa [Gang.streamAt, h] using hs l hl h1
  · have : (g.streamAt j).wait = .run := by
      rw [h0] at hj
      obtain ⟨k, rfl⟩ := Nat.exists_eq_succ_of_ne_zero hj
      simp [Gang.streamAt, h]
    rw [this] at hw; cases hw

/-- A gang in two streams: slice 0, the others. -/
def parted : Gang := { gang with streams := [⟨1, .run⟩, ⟨254, .run⟩] }

def stopping (s : State) : State := s.modPart 0 (fun x => { x with stop := true })

theorem witness_StreamControlResults : one.Issues gang ∧ (issuing parted 1 []).Issues parted ∧
    one.stopping gang.part = false ∧ one.cur.stream < gang.streams.length ∧ (∀ l, (gang.lane l).handlers = []) ∧
    (∃ j ∈ parted.liveSlices, bitAt (parted.streamAt 0).slices j = false ∧
      ∀ st ∈ parted.streams, st.waitsAt 4095 = true → bitAt st.slices j = false) ∧
    gang.liveSlices ≠ [] ∧ (∀ j ∈ gang.liveSlices, bitAt (gang.streamAt 0).slices j = true) ∧
    (∃ a, ∀ j ∈ gang.liveSlices, gang.issuePoint j = some a ∧ gang.sliceActive j = gang.candidates j) ∧
    (∃ l, l < 32 ∧ (gang.lane l).live = true ∧ (gang.parts one.cur false).getLsbD l = false) ∧
    gang.WaitersApart one.cur ∧ full.Issues gang ∧
    (∀ l, l < 32 → (gang.lane l).live = true → (gang.parts full.cur false).getLsbD l = true) ∧
    (stopping one).Issues gang ∧
    (stopping one).part? gang.part = some { Partition.reset 1 with stop := true } :=
  ⟨one_issues, by unfold State.Issues; decide +kernel, by decide +kernel, by decide +kernel,
    fun l => mget_all (P := fun (x : Lane) => x.handlers = []) (by decide) (by decide +kernel) l,
    ⟨1, by decide +kernel⟩, by decide +kernel, by decide +kernel, ⟨0, by decide +kernel⟩, ⟨1, by decide +kernel⟩,
    apart_of (st := ⟨255, .run⟩) (by decide +kernel) rfl (by decide +kernel), full_issues, by decide +kernel,
    by unfold State.Issues; decide +kernel, by decide +kernel⟩

/-- A handler frame of a kind, entered from address 64. -/
def frame (kind : Nat) : HandlerFrame :=
  { entry := 0, kind := kind, cause := .emu, delivered := .emu, deferred := false, pc := 64, addr := 0, resume := 64,
    after := 68, done := false, result := 0, emu := some ⟨0x04050208, 64, 64, [], 0, 5, 1, 2, 1⟩, w0 := 9, w1 := 0,
    w2 := 0, w3 := 0, hist := [⟨7, []⟩] }

/-- Lane 0 in a handler of a kind. -/
def handling (kind : Nat) : Gang := gang.modLane 0 (fun x => { x with handlers := [frame kind] })

theorem witness_HandlerInstructionResults : (issuing gang 0 []).Issues gang ∧ gang.parts (issuing gang 0 []).cur false = 0 ∧
    one.Issues gang ∧ gang.parts one.cur false ≠ 0 ∧ gang.handles 2 (gang.parts one.cur false) ∧
    (∀ k ∈ [0, 1, 2], (issuing (handling k) 1 []).issuer = some (handling k) ∧ (issuing (handling k) 1 []).bad = none) ∧
    (∀ k ∈ [0, 1, 2], ∀ l, (issuing (handling k) 1 []).cur.active.getLsbD l = true →
      ∃ f fs, ((handling k).lane l).handlers = f :: fs ∧ f.kind = k) ∧
    (∀ k ∈ [0, 1, 2], (handling k).WaitersApart (issuing (handling k) 1 []).cur) ∧
    (∃ e, (frame 1).emu = some e ∧ e.dst < 120 ∧ e.dst < (handling 1).vregs) ∧
    (issuing (handling 1) 1 []).cur.active ≠ 0 ∧ (handling 1).handles 1 (issuing (handling 1) 1 []).cur.active ∧
    ∃ l, (issuing (handling 1) 1 []).cur.active.getLsbD l = true ∧
      ∀ f, ((handling 1).lane l).handlers.head? = some f → f.kind ≠ 0 := by
  have hf : ∀ k ∈ [0, 1, 2], ((handling k).lane 0).handlers = [frame k] ∧ (frame k).kind = k := by decide +kernel
  refine ⟨by unfold State.Issues; decide +kernel, by decide +kernel, one_issues, by decide +kernel,
    handles_of (by decide) (by decide +kernel), by decide +kernel,
    fun k hk => lane_zero ⟨frame k, [], hf k hk⟩, ?_, ⟨_, rfl, by decide +kernel, by decide +kernel⟩, by decide +kernel,
    handles_of (by decide) (by decide +kernel), 0, by decide +kernel, ?_⟩
  · have : ∀ k ∈ [0, 1, 2], (handling k).streams = [⟨255, .run⟩] := by decide +kernel
    exact fun k hk => apart_of (this k hk) rfl (by show ∀ l, l < 32 → one.cur.active.getLsbD l = true → _; decide +kernel)
  · intro f h
    rw [(hf 1 (by decide)).1] at h
    cases h
    decide

/-- s[4] holds an address and s[5] a length; the context of the gang has the system flag, or not. -/
def user (a n : DWord) : Gang := { gang with s := [(4, a), (5, n)] }

def system (a n : DWord) (own : Bool) : State := (issuing (user a n) 1 []).modCtx 0 (fun x => { x with sys := own })

theorem witness_RegisterInstructionResults :
    (∀ a n own, (system a n own).Issues (user a n) ∧ (user a n).parts (system a n own).cur false ≠ 0) ∧
    (∀ own, ((system 4 4096 own).ctx (user 4 4096).ctxKey).sys = own) ∧
    (user 4 4096).handles 0 ((user 4 4096).parts (system 4 4096 false).cur false) ∧
    srInfo 0x08 = some ⟨true, false⟩ ∧ (user 4 4096).regsOk (useDst 2 (.reg 118)) = true ∧ 118 % 2 = 0 ∧
    srInfo 0x0D = some ⟨true, false⟩ ∧ (user 4 4096).regsOk (useSrc 2 (.reg 118)) = true ∧
    ((user 4 4096).sreg 4).toNat % 8 ≠ 0 ∧ ((user 4 4096).sreg 4).toNat % 4096 ≠ 0 ∧
    (system 0x00200000 4096 true).regPlace ((user 0x00200000 4096).sreg 4).toNat = .nothing ∧
    (system 0x00000018 4096 true).regPlace ((user 0x00000018 4096).sreg 4).toNat = .device 0x18 ∧
    (system 0x00100040 4096 true).regPlace ((user 0x00100040 4096).sreg 4).toNat = .control 0 0x40 ∧
    (system 0x00100040 4096 true).part? 0 = some (Partition.reset 1) ∧
    (system 0x00100040 4096 true).powered = true ∧
    (let g := user (2 ^ 48 - 4096) 4096;
      (g.sreg 4).toNat % 4096 = 0 ∧ (g.sreg 5).toNat % 4096 = 0 ∧ (g.sreg 4).toNat + (g.sreg 5).toNat ≤ 2 ^ 48 ∧
        0 < (g.sreg 5).toNat) ∧
    ∃ f fs, ((handling 1).lane 0).handlers = f :: fs ∧ f.emu.isSome = true := by
  refine ⟨fun a n own => ⟨⟨rfl, rfl⟩, by show gang.parts one.cur false ≠ 0; decide +kernel⟩, ?_,
    handles_of (by decide) (by decide +kernel), ?_, ?_, ?_, ?_, ?_, ?_, ?_, ?_, ?_, ?_, ?_, ?_, ?_, frame 1, [], ?_⟩ <;> decide +kernel

/-! States of the engine statements. -/

/-- The cells of bytes at an address. -/
def cellsAt (a : Nat) (bs : List Byte) : List Host.Cell :=
  bs.zipIdx.filterMap (fun x => if x.1 = 0 then none else some (a + x.2, x.1))

/-- The page of the address space, and the entries of three tensors: 16 numbers in FP32, a quantised tile, a sparse vector
of 64 keys in FP32 with a tree, which is empty. -/
def tablesOver (tree : List Host.Cell) (s : State) : State :=
  { s.modCtx 0 (fun x => { x with ptBase := 0x10000000, hwm := 4096, ttBase := 0x20000000 }) with
    mem := tree ++ cellsAt 0x10000000 (bytesOf 8 0x11000001) ++
      cellsAt 0x11000000 (bytesOf 8 0x0A0000000000017F) ++
      cellsAt 0x20000000 ([0x11001, 0x20000, 0, 16, 0, 0, 0, 0, 0x7F020101, 0x40000, 0x48000, 0x80000080, 0, 0x41100000008,
        0, 0, 0x11005, 0x30000, 0, 64, 0, 0, 0, 0x1000000031000].flatMap (bytesOf 8)) }

def tables : State → State := tablesOver (cellsAt 0x30000 (emptyRoot 16 0))

/-- Engines own granules 0 and 1. -/
def engineOwned (s : State) : State :=
  s.modCore 0 (fun k => { k with granules :=
    [(0, ⟨.copyEngine, false, 0, none⟩), (1, ⟨.copyEngine, false, 0, none⟩)] })

/-- Descriptors of a copy of 16 numbers, of a multicast to core 0 alone, of a window copy of 16 bytes into granule 1, of
a tile for the last cream slot, and of a copy whose handle is not current. Their object is the last doubleword of
the part's scratchpad. -/
def copier : Gang :=
  { gang with s := [(0, 0x1001000000000), (4, 0x1000000007FF8), (6, 0x1001000000000), (10, 0x1000000007FF8), (11, 1),
    (12, 16), (13, 4096), (16, 0x1000000007FF8), (18, 0x0000000000100000), (21, 0x4000000000003),
    (22, 0x1000000007FF8), (24, 0x0001001000000001), (28, 0x1000000007FF8)] }

def copying : State := engineOwned (tables (issuing copier 1 []))

theorem witness_CopyIssueResults : copying.Issues copier ∧ copier.parts copying.cur false ≠ 0 ∧
    (copying.core 0).partOf copier = some placedPart ∧ (copying.core 0).copiesHere.length < 16 ∧
    mfind? (copying.core 0).copies (16 * placedPart.bank + 15) = none ∧
    (∀ x ∈ [(CopyForm.load, 0), (.multicast, 6), (.window, 12), (.cream, 18)],
      let dw := copier.descriptor x.2;
      let e := if x.1 = .window then [] else copying.ttEntry 0 (handleSlot (cdHandle dw));
      (x.1 = .window ∨ copying.handleOk 0 (cdHandle dw) = true) ∧
        copying.copyFails copier placedPart x.1 dw (copyShape x.1 e dw) = [] ∧
        copying.engineObject copier (cdOsp dw) (cdOaddr dw) = .ok (.bank 0 0x7FF8)) ∧
    (let dw := copier.descriptor 0;
      copying.copyFails copier placedPart .store dw (copyShape .store (copying.ttEntry 0 0) dw) = []) ∧
    copying.handleOk 0 (cdHandle (copier.descriptor 24)) = false ∧
    (∀ n ∈ [0, 1, 2], copying.entryError 0 0 n = none) ∧ copier.handles 0 (copier.parts copying.cur false) := by
  refine ⟨⟨by decide +kernel, by decide +kernel⟩, ?_, ?_, ?_, ?_, ?_, ?_, ?_, ?_,
    handles_of (by decide) (by decide +kernel)⟩ <;> decide +kernel

/-- A copy in flight of lane 0 of numbers or of the tile, into the part's scratchpad, with its object at the end. -/
def copyOp (tile : Bool) (form : CopyForm) : CopyOp :=
  { form := form, who := issuer, dw := copier.descriptor (if tile then 18 else 0)
    entry := (tables one).ttEntry 0 (if tile then 1 else 0), handle := if tile then 0x100000 else 0
    obj := ⟨.bank 0 0x7FF8, .team, none⟩, src := 0, dsts := if form = .load ∨ form = .window then [(0, 4096)] else [], slot := 31
    names := [(0, 1, .matrixUnit)], landed := false
    length := if form = .window then 16 else if tile then 16656 else 64, span := if form = .window then 16 else 64
    held := [], links := [] }

def inFlight (s : State) (x : CopyOp) : State := s.modCore 0 (fun k => { k with
  copies := [(0, x)], granules := [(1, ⟨.copyEngine, false, 1, none⟩)], cream := [(31, (k.creamSlot 31))] })

theorem piecesReady_of {s : State} {ctx : Nat} {kind : AccKind} {ps : List (Nat × Nat × Nat)}
    (h : ∀ p ∈ ps, p.1 < 2 ^ 48 ∧ (match s.engineAccess ctx p.1 p.2.2 kind with
      | .ok _ l => !l.sysp
      | _ => false) = true) : s.PiecesReady ctx kind ps := fun p hp => by
  obtain ⟨h1, h2⟩ := h p hp
  refine ⟨h1, ?_⟩
  split at h2
  · exact ⟨_, _, by assumption, by simpa using h2⟩
  · cases h2

/-- Every core whose part list is not empty has its gang. -/
theorem partsHeld_of {s : State} (h : ∀ y ∈ s.cores, ∀ t ∈ y.2.parts, t.ended = true ∨ y.2.partLive t = true) :
    s.PartsHeld := h

/-- A densify of one element into the tensor of numbers; an import of one row at 0x50000, with its status word at
0x60000. -/
def written (isImport finished : Bool) (status : Option Nat) (row : Nat) : SparseOp :=
  { isImport := isImport, who := issuer, dw := if isImport then [1, 0x50000, 0, 0, 0x60000, 0] else [0, 0, 0, 1, 0, 0],
    entry := [0x11005, 0x30000, 0, 64, 0, 0, 0, 0x1000000031000], handle := 0x200000
    dst := if isImport then [] else [0x11001, 0x20000, 0, 16, 0, 0, 0, 0], dstHandle := 0
    obj := ⟨.bank 0 0x7FF8, .team, none⟩, row := row, entry_ := none, status := status, finished := finished }

/-- Row 0 of the import would end before it starts. -/
def ending (x : SparseOp) : State :=
  ((tables one).setDword 0x50000 8).modCore 0 (fun k => { k with sparse := [(0, x)] })

/-- An access to a page whose bits are set, or to none, changes nothing. -/
theorem engineTouch_still {s : State} {ctx va : Nat} {write : Bool} (h : (match s.walk ctx va with
    | .leaf l _ => l.sysp || !l.res || (l.a && (!write || l.d))
    | _ => true) = true) : s.engineTouch ctx va write = s := by
  unfold State.engineTouch
  split
  · rename_i l es hw
    rw [hw] at h
    revert h
    cases h1 : l.sysp <;> cases h2 : l.res <;> cases h3 : l.a <;> cases h4 : l.d <;> cases write <;> simp [h1, h2, h3, h4]
  · rfl

/-- A node that lies on one page whose A bit is set. -/
theorem nodeAt_of {s : State} {r : Region} {va n : Nat} {b : List Byte} (h : s.unitRead r.ctx va n = .ok b)
    (ht : ∀ p ∈ pagePieces va n, (match s.walk r.ctx p.1 with
      | .leaf l _ => l.sysp || !l.res || l.a
      | _ => true) = true) : s.NodeAt r va n b :=
  ⟨h, fun p hp => engineTouch_still (by simpa using ht p hp)⟩

theorem denseElem_of {y : Except SpStop (Nat × Nat × Map Node)} {a : Nat} (h : (match y with
    | .ok x => x.2.1 == a
    | .error _ => false) = true) : ∃ v buf, y = .ok (v, a, buf) := by
  split at h
  · rename_i x
    exact ⟨x.1, x.2.2, by rw [← eq_of_beq h]⟩
  · cases h

theorem ending_noCached (b f : Bool) : (ending (written b f none 0)).NoCached :=
  noCached_of (by cases b <;> cases f <;> decide +kernel) (by cases b <;> cases f <;> decide +kernel)

/-- A window copy, a load, a store and a cream copy; a load of a tile whose code is wrong; a load of a page that the
context does not map. -/
theorem witness_EngineCompletionResults :
    (∀ x ∈ [copyOp false .window, copyOp false .load, copyOp false .store, copyOp true .load, copyOp true .cream],
      let s := inFlight (tables one) x;
      s.bad = none ∧ mfind? (s.core 0).copies 0 = some x ∧ s.engineRuns 0 x.who.ctx = true ∧ x.landed = false ∧
        x.obj.loc = .bank 0 0x7FF8 ∧ (∀ y ∈ s.cores, ∀ z ∈ y.2.copies, z.2.landed = false) ∧
        s.signalError 0 x.who x.obj = none ∧ s.copyUnacked 0 0 x = false ∧
        (x.names.map (fun m => (m.1, m.2.1))).Nodup ∧ x.held = [] ∧ x.links = [] ∧
        ∀ k ∈ x.slots, s.reaches (s.ttAddr k.1 k.2) 8 = true ∧ teState (s.ttEntry k.1 k.2) ≠ 2) ∧
    (copyOp false .window).dsts = [(0, 4096)] ∧ Apart 4096 (copyOp false .window).length 0x7FF8 8 ∧
    (∀ b, let x := copyOp b .load;
      (inFlight (tables one) x).PiecesReady 0 .load x.pieces ∧ (x.dsts.map (fun d => d.1)).Nodup ∧
        x.pieces.Pairwise (fun a b => Apart a.2.1 a.2.2 b.2.1 b.2.2) ∧
        (∀ p ∈ x.pieces, (dwAt x.dw 3).toNat % 2 ^ 19 ≤ p.2.1 ∧
          ∀ d ∈ x.dsts, d.1 = 0 → Apart (d.2 + (p.2.1 - (dwAt x.dw 3).toNat % 2 ^ 19)) p.2.2 0x7FF8 8) ∧
        ((dwAt x.dw 3).getLsbD 50 = b) ∧
        (inFlight (tables one) x).PartsHeld) ∧
    (let x := copyOp false .store;
      let s := inFlight (tables one) x;
      x.pieces = [(0x20000, 0, 64)] ∧ (dwAt x.dw 3).toNat % 2 ^ 19 ≤ 0 ∧
        s.engineAccess 0 0x20000 64 .store = .ok 0x20000 giant ∧ giant.sysp = false ∧ s.reaches 0x20000 64 = true ∧
        s.MemOk ∧ s.NoCached ∧ s.NoErrors ∧ ∀ k ∈ x.slots, Apart 0x20000 64 (s.ttAddr k.1 k.2) 64) ∧
    (let x := copyOp true .cream;
      let s := inFlight (tables one) x;
      (dwAt x.dw 3).getLsbD 50 = true ∧ s.PiecesReady 0 .load x.pieces ∧ (s.core 0).creamRead x.slot = false ∧
        ((s.core 0).cream.any (fun y => y.1 == x.slot)) = true) ∧
    (let x := copyOp false .load;
      let s := inFlight one x;
      x.pieces = [(0x20000, 0, 64)] ∧ s.engineAccess 0 0x20000 64 .load = .cause .perm ∧
        s.issuerGang issuer = some gang ∧ (gang.lane 0).live = true) ∧
    (∀ b f, let x := written b f none 0;
      let s := ending x;
      s.bad = none ∧ mfind? (s.core 0).sparse 0 = some x ∧ s.engineRuns 0 x.who.ctx = true ∧
        x.obj.loc = .bank 0 0x7FF8 ∧ s.NoCached ∧ s.MemOk ∧ s.NoErrors ∧ s.signalError 0 x.who x.obj = none ∧
        ∀ k ∈ x.slots, s.reaches (s.ttAddr k.1 k.2) 8 = true) ∧
    (let x := written false false none 0;
      let s := ending x;
      s.denseStop 0 x = none ∧ (s.denseAll 0 x (fun _ => true)).bad = none ∧ x.elems = 1 ∧
        (∃ v buf, s.denseElem x 0 = .ok (v, 0x20000, buf)) ∧
        s.unitPieces 0 0x20000 4 .store = .ok [(0x20000, 4)] ∧ s.reaches 0x20000 4 = true ∧
        ∀ k ∈ x.slots, Apart 0x20000 4 (s.ttAddr k.1 k.2) 8) ∧
    (∀ y ∈ [(none, 1), (some (3 * 2 ^ 56 + 7), 0)], (written true false y.1 y.2).entry_ = none) ∧
    (let x := written true false none 0;
      let s := ending x;
      x.row < (dwAt x.dw 0).toNat % 2 ^ 32 ∧
        (dwAt x.dw 1).toNat % 2 ^ 48 + 8 * x.row + 16 ≤ 2 ^ 48 ∧
        (∃ b, s.NodeAt ⟨0, x.entry⟩ ((dwAt x.dw 1).toNat % 2 ^ 48 + 8 * x.row) 16 b ∧ num b 8 8 < num b 0 8) ∧
        s.unitAccess 0 ((dwAt x.dw 4).toNat % 2 ^ 48) 8 .store = .ok 0x60000 ∧
        s.engineTouch 0 ((dwAt x.dw 4).toNat % 2 ^ 48) true = s ∧ s.reaches 0x60000 8 = true ∧
        ∀ k ∈ x.slots, Apart 0x60000 8 (s.ttAddr k.1 k.2) 8) := by
  refine ⟨by decide +kernel, by decide +kernel, .inl (by decide +kernel), ?_, ?_, ?_, by decide +kernel, ?_, ?_,
    by decide +kernel, ?_⟩
  · intro b
    cases b <;> exact ⟨piecesReady_of (by decide +kernel), by decide +kernel, by unfold Apart; decide +kernel,
      by unfold Apart; decide +kernel, by decide +kernel, partsHeld_of (by decide +kernel)⟩
  · exact ⟨by decide +kernel, by decide +kernel, by decide +kernel, by decide +kernel, by decide +kernel,
      by unfold State.MemOk; decide +kernel, noCached_of (by decide +kernel) (by decide +kernel), by unfold State.NoErrors; decide +kernel,
      by unfold Apart; decide +kernel⟩
  · exact ⟨by decide +kernel, piecesReady_of (by decide +kernel), by decide +kernel, by decide +kernel⟩
  · intro b f
    refine ⟨?_, ?_, ?_, rfl, ending_noCached b f, by unfold State.MemOk; cases b <;> cases f <;> decide +kernel,
      by unfold State.NoErrors; cases b <;> cases f <;> decide +kernel, ?_⟩ <;>
      (cases b <;> cases f <;> decide +kernel)
  · exact ⟨by decide +kernel, by decide +kernel, by decide +kernel, denseElem_of (by decide +kernel), by decide +kernel,
      by decide +kernel, by unfold Apart; decide +kernel⟩
  · exact ⟨by decide +kernel, by decide +kernel,
      ⟨bytesOf 16 8, nodeAt_of (by decide +kernel) (by decide +kernel), by decide +kernel⟩, by decide +kernel,
      engineTouch_still (by decide +kernel), by decide +kernel, by unfold Apart; decide +kernel⟩

/-- A description in s[0] to s[7] that is right, in slot 3; one in slot 1; one without a format; a sparse one; a handle of
slot 0, one that is not current and that of the tile; a vector index in v0. -/
def definer (dw0 base : DWord) : Gang :=
  { gang with
    s := [(0, dw0), (1, base), (3, 64), (7, if dw0 = 0x0030000000011004 then 0x1000000031000 else 0), (8, 0), (9, 1),
      (10, 0x100000)]
    lanes := gang.lanes.map (fun x => (x.1, { x.2 with lastPage := some giant })) }

def defining (dw0 base : DWord) : State := tables (issuing (definer dw0 base) 1 [])

/-- The description of a gang in s[0] to s[7]. -/
def described (g : Gang) : List DWord := (List.range 8).map (fun i => g.sreg (0 + i))

/-- What TDEF of a region answers: its structures are right and its entry reads as before; they are wrong; its page is
not mapped. -/
def defines (s : State) (desc : List DWord) : Option Bool :=
  let u := s.beforeTdef 0 0 desc
  match u.sparseValid 0 desc with
  | .ok (true, rs) =>
    let w := u.lightPieces 0 .load (rs.flatMap (fun r => (pagePieces r.1 r.2).map (fun x => (x.1, 0, x.2))))
    if w.bad = none ∧ w.entryError 0 0 3 = none ∧ w.ttEntry 0 3 = s.ttEntry 0 3 then some true else none
  | .ok (false, _) => some false
  | .error _ => none

/-- The L1 of core 0 holds the first element of the tile and its block's offset. -/
def gathering : State :=
  (defining 0x0030000000011000 0x30000).modCore 0 (fun k => { k with
    l1 := [(0, [⟨0x400, 0, 1, 0, (List.range 8).map (fun i => (i, ⟨7, false⟩)), 0, none, 0⟩,
      ⟨0x480, 0, 1, 2, (List.range 8).map (fun i => (i, ⟨7, false⟩)), 0, none, 0⟩])] })

theorem defining_ok : ∀ a ∈ [0x0030000000011000, 0x0010000000011000, 0x0030000000010000, 0x0030000000011004],
    let g := definer (BitVec.ofNat 64 a) 0x30000;
    let s := defining (BitVec.ofNat 64 a) 0x30000;
    s.issuer = some g ∧ s.bad = none ∧ g.parts s.cur false ≠ 0 ∧ Memory.wf s.mem = true ∧
      field (s.ctx 0).ttBase 47 0 + 262144 ≤ memoryEnd ∧ s.dev.badTransfers = [] ∧ s.entryError 0 0 3 = none := by
  decide +kernel

theorem witness_TensorResults :
    (let g := definer 0x0030000000011000 0x30000;
      let s := defining 0x0030000000011000 0x30000;
      s.DiesUp ∧ s.NoCached ∧ descOk (described g) = true ∧ teClass (described g) = 0 ∧ teState (s.ttEntry 0 3) = 0 ∧
        g.handles 0 (g.parts s.cur false) ∧ s.entryError 0 0 0 = none ∧ s.handleOk 0 0 = true ∧ s.handleOk 0 1 = false) ∧
    (let s := defining 0x0010000000011000 0x30000;
      let desc := described (definer 0x0010000000011000 0x30000);
      descOk desc = true ∧ teClass desc = 0 ∧ teState (s.ttEntry 0 1) ≠ 0 ∧ s.entryError 0 0 1 = none) ∧
    descOk (described (definer 0x0030000000010000 0x30000)) = false ∧
    (∀ b ∈ [0x30000, 0x20000, 0x40000000], let desc := described (definer 0x0030000000011004 (BitVec.ofNat 64 b));
      descOk desc = true ∧ teClass desc = 1) ∧
    (∀ x ∈ [(0x30000, true), (0x20000, false)], defines (defining 0x0030000000011004 (BitVec.ofNat 64 x.1))
      (described (definer 0x0030000000011004 (BitVec.ofNat 64 x.1))) = some x.2) ∧
    (let s := defining 0x0030000000011004 0x40000000;
      let desc := described (definer 0x0030000000011004 0x40000000);
      s.NoCached ∧ (match (s.beforeTdef 0 0 desc).sparseValid 0 desc with
        | .error e => some e
        | .ok _ => none) = some (.cause .perm 0x40000000)) ∧
    (let s := gathering;
      let g := definer 0x0030000000011000 0x30000;
      let e := s.ttEntry 0 1;
      s.issuer = some g ∧ s.bad = none ∧ g.regsOk (useDst 1 (.reg 119) ++ useSrc 1 (.reg 0)) = true ∧
        lanesOf (g.todo s.cur) = [0] ∧ s.entryError 0 0 1 = none ∧ s.entryError 0 0 0 = none ∧ g.handles 0 (g.todo s.cur) ∧
        isResidue (teFmt (s.ttEntry 0 0)) = false ∧
        s.handleOk 0 0x100000 = true ∧ teClass e = 0 ∧ isResidue (teFmt e) = true ∧
        (g.src 0 (.reg 0)).toNat < teSpace e ∧ (g.lane 0).lastPage = some giant ∧ (g.lane 0).link = .none ∧
        giant.sysp = false ∧ ∀ a ∈ gatherAddrs e 0, a < 2 ^ 48 ∧ giant.maps 0 a = true ∧
          s.checkLeaf giant .load a 1 = .ok (giant.pa + (a - giant.va)) giant ∧
          (setByte? (mget [] (s.core 0).l1 (l1Set (a / 256))) (a / 256) (a % 256)).isSome = true) := by
  refine ⟨⟨diesUp_of (by decide +kernel), noCached_of (by decide +kernel) (by decide +kernel), ?_, ?_, ?_,
      handles_of (by decide) (by decide +kernel), ?_⟩,
    ?_, ?_, ?_, ?_, ⟨noCached_of (by decide +kernel) (by decide +kernel), by decide +kernel⟩, ?_, ?_, ?_, ?_, ?_, ?_,
    handles_of (by decide) (by decide +kernel), ?_⟩ <;> decide +kernel

/-- The region of the sparse vector, and a tree of one level with key 5. -/
def vector : Region := ⟨0, [0x11005, 0x30000, 0, 64, 0, 0, 0, 0x1000000031000]⟩

/-- v0 of lane 0 is a key, s[0] the region's handle; s[1] to s[6] describe the densify of keys 0 to 3, or an import. -/
def walker (key : Nat) : Gang :=
  { gang with v := [(0, BitVec.ofNat 32 key)], s := [(0, 0x200000), (4, 4), (6, 0x1000000007FF8)] }

def walking (key : Nat) : State := tables (issuing (walker key) 1 [])

/-- Key 5 alone, of value 1.0. -/
def leafNow : List Byte := makeLeaf vector.unit vector.size 0 (2 ^ 5) [0x3F800000]

def planted : State :=
  tablesOver ([(0x30000, 16), (0x30008, 1), (0x30009, 1), (0x300C8, 255), (0x300C9, 255), (0x300CA, 255), (0x300CB, 255),
    (0x300D0, 1)] ++ cellsAt 0x31000 leafNow) (issuing (walker 5) 1 [])

def importer : Gang := { gang with s := [(0, 0x200000), (6, 0x1000000007FF8)] }

/-- Whether a step of the unit ends well. -/
def endsWell {α : Type} : Except SpStop (α × State) → Bool
  | .ok x => decide (x.2.bad = none)
  | .error _ => false

/-- The root of the planted tree. -/
def rootNow : List Byte := planted.readHome 0x30000 256

/-- The unit has the region's entry at hand (03 R135). -/
def met (s : State) : State := s.ttTouch 0 0 2

theorem leafOf_walking (key : Nat) (h : key = 5 ∨ key = 64) :
    (met (walking key)).LeafOf vector 5 (emptyRoot 16 0) none :=
  ⟨by decide +kernel, nodeAt_of (by rcases h with rfl | rfl <;> decide +kernel) (by rcases h with rfl | rfl <;> decide +kernel),
    0, emptyRoot 16 0, nodeAt_of (by rcases h with rfl | rfl <;> decide +kernel)
      (by rcases h with rfl | rfl <;> decide +kernel),
    by simp, by decide +kernel, .inl ⟨by decide +kernel, rfl⟩⟩

theorem leafOf_planted : (met planted).LeafOf vector 5 rootNow (some (0x31000, leafNow)) :=
  ⟨by decide +kernel, nodeAt_of (by decide +kernel) (by decide +kernel), 0, rootNow,
    nodeAt_of (by decide +kernel) (by decide +kernel), by simp, by decide +kernel, .inr ⟨by decide +kernel, leafNow,
      nodeAt_of (by decide +kernel) (by decide +kernel), by decide +kernel, by decide +kernel, by decide +kernel⟩⟩

theorem witness_SparseResults :
    ((met (walking 5)).LeafOf vector 5 (emptyRoot 16 0) none ∧
      (∀ u, u < num (emptyRoot 16 0) 0 4 → vector.unitVa u ≠ teBase vector.e) ∧
      (match writeKey (met (walking 5)) vector 5 7 [] with
        | .ok _ => true
        | .error _ => false) = true ∧
      (met planted).LeafOf vector 5 rootNow (some (0x31000, leafNow)) ∧ leafOf leafNow = leafKey 5 ∧
      leafMap leafNow = 2 ^ (5 % 64) ∧ nodeLevel rootNow = 1 ∧ nodeCount rootNow = 0) ∧
    (∀ s ∈ [walking 5, planted], s.issuer = some (walker 5) ∧ s.bad = none ∧ lanesOf ((walker 5).todo s.cur) = [0] ∧
      (walker 5).treeWaits s.cur = false ∧
      s.entryError 0 0 2 = none ∧ s.handleOk 0 0x200000 = true ∧ s.ttEntry 0 2 = vector.e ∧
      (∀ x ∈ s.cores, x.2.l1 = []) ∧ (∀ x ∈ s.dies, x.2.rdc = []) ∧ Memory.wf s.mem = true ∧ s.dev.badTransfers = []) ∧
    teClass vector.e = 1 ∧
    (let g := walker 5;
      let v := met (walking 5);
      g.regsOk (coordRegs vector (.reg 0) ++ useDst vector.width (.reg 119)) = true ∧
        valueOk vector (Dst.pairOk (.reg 119)) = true ∧ valueOk vector (Src.pairOk (.reg 119)) = true ∧
        g.regsOk (useSrc 2 (.reg 0) ++ useDst 4 (.reg 116)) = true ∧
        quadOk (.reg 116) = true ∧ g.laneKey vector (.reg 0) 0 = some 5 ∧
        endsWell (v.runStep 0 vector (readKey v vector 5)) = true ∧
        endsWell (v.runStep 0 vector (nextKey v vector 5)) = true ∧
        endsWell (v.runStep 0 vector (findLeaf v vector 5)) = true ∧
        (match v.storeKey 0 vector 5 7 with
          | .ok u => decide (u.bad = none)
          | .error _ => false) = true ∧
        (g.src64 0 (.reg 0)).toNat < teSpace vector.e) ∧
    (let v := met planted;
      v.unitPieces 0 0x31000 vector.unit .store = .ok [(0x31000, vector.unit)] ∧ v.engineTouch 0 0x31000 true = v ∧
        v.regionSeal vector = none ∧ planted.reaches 0x31000 vector.unit = true ∧
        meetsRanges (v.physRanges 0 0x31000 vector.unit) 0x31000 = true ∧ v.sealedWord 0 0x31000 = false) ∧
    ((walking 64).issuer = some (walker 64) ∧ (walker 64).laneKey vector (.reg 0) 0 = none ∧
      teSpace vector.e ≤ ((walker 64).src64 0 (.reg 0)).toNat) ∧
    (walker 64).handles 0 ((walker 64).todo (walking 64).cur) ∧
    (let s := walking 5;
      let g := walker 5;
      let dw := g.descriptor 1;
      g.parts s.cur false ≠ 0 ∧ g.treeWaits s.cur = false ∧ s.entryError 0 0 2 = none ∧ s.entryError 0 0 0 = none ∧ s.handleOk 0 0 = true ∧ s.handleOk 0 1 = false ∧
        sparseEngineFails false vector (s.ttEntry 0 0) dw = [] ∧
        s.engineObject g (seOsp dw) (seOaddr dw) = .ok (.bank 0 0x7FF8)) ∧
    (let s := tables (issuing importer 1 []);
      let dw := importer.descriptor 1;
      s.issuer = some importer ∧ importer.parts s.cur false ≠ 0 ∧ importer.treeWaits s.cur = false ∧
        s.entryError 0 0 2 = none ∧ s.handleOk 0 0x200000 = true ∧
        sparseEngineFails true vector [] dw = [] ∧
        s.engineObject importer (seOsp dw) (seOaddr dw) = .ok (.bank 0 0x7FF8)) :=
  ⟨⟨leafOf_walking 5 (.inl rfl), by decide +kernel, by decide +kernel, leafOf_planted, by decide +kernel⟩,
    by decide +kernel, by decide +kernel, by decide +kernel,
    ⟨by decide +kernel, engineTouch_still (by decide +kernel), by decide +kernel⟩, by decide +kernel,
    handles_of (by decide) (by decide +kernel), by decide +kernel, by decide +kernel⟩


/-- A store copy in flight: a SEAL of another range of its partition waits. -/
theorem witness_SealWaits : let s := inFlight (sealing 256 256 []) (copyOp false .store)
    s.Issues (sealer 256 256) ∧ s.walkError 0 256 256 = none ∧ s.engineWrites ⟨0, 256, 256, []⟩ = true := by
  unfold State.Issues; decide +kernel

/-- s[9] names queue 1 of the context, s[10] none. -/
def queuer : Gang := { gang with s := [(9, 1), (10, 4096)] }

/-- A queue of two items, whose objects lie on the page of the context, or on none. -/
def queueOfTwo (at_ : Nat) (items : List (List Word)) : Queue :=
  { part := 0, ctx := 0, cap := 2, die := 0, bank := 0, iobj := at_, sobj := at_ + 8, items := items }

def queueing (at_ : Nat) (items : List (List Word)) : State :=
  { mapping (issuing queuer 1 []) with queues := [(queueKey 0 1, queueOfTwo at_ items)] }

/-- The partition has 16 queue banks, a command in progress or none, and entry 4095 of its table asks for n items of
bank 15. -/
def queueBlock (busy : Bool) (op : Nat) : Partition :=
  { Partition.reset 1 with qbanks := 16, qBusy := busy, qOp := op, qNum := 4095 }

def queueEntries (busy : Bool) (op n : Nat) : State :=
  (mapping one).modPart 0 (fun _ => queueBlock busy op)
    |>.setDword (32 * 4095) (BitVec.ofNat 64 (n * 2 ^ 32 + 15 * 2 ^ 14))

/-- Queue 4095 is there, or another that fills its bank. -/
def queueStands (n : Nat) (q : Queue) : State := { queueEntries true 1 4096 with queues := [(n, q)] }

theorem witness_QueueResults :
    (∀ items ∈ [[], [[1, 2, 3], [4, 5, 6]]], let s := queueing 0x20000 items;
      s.issuer = some queuer ∧ s.bad = none ∧ lanesOf (queuer.parts s.cur false) = [0] ∧
        s.queueOf queuer 9 = some (queueKey 0 1, queueOfTwo 0x20000 items) ∧
        s.litAccess 0 0x20000 8 .signal = .ok 0x20000 giant ∧ s.litAccess 0 0x20008 8 .signal = .ok 0x20008 giant ∧
        Memory.wf s.mem = true ∧ (s.engineTouch 0 0x20000 true).objPa 0 0x20000 .signal = some 0x20000 ∧
        s.queueOf queuer 10 = none) ∧
    (∀ items ∈ [[], [[1, 2, 3], [4, 5, 6]]], let s := queueing 0x40000000 items;
      s.queueOf queuer 9 = some (queueKey 0 1, queueOfTwo 0x40000000 items) ∧
        s.litAccess 0 0x40000000 8 .signal = .cause .perm ∧ s.litAccess 0 0x40000008 8 .signal = .cause .perm) ∧
    queuer.regsOk (useDst 1 (.reg 119) ++ useSrc 3 (.reg 0)) = true ∧ queuer.regsOk (useDst 4 (.reg 116)) = true ∧
    queuer.handles 0 (queuer.parts (queueing 0x20000 []).cur false) ∧
    (∀ b ∈ [true, false], ∀ op ∈ [0, 1, 2], (queueEntries b op 0).powered = true ∧
      (queueEntries b op 0).regPlace 0x00100090 = .control 0 0x90 ∧
      (queueEntries b op 0).part? 0 = some (queueBlock b op)) ∧
    (∀ n ∈ [0, 4096], let s := queueEntries true 1 n;
      s.bad = none ∧ s.dev.resetReg.busy = false ∧ Memory.wf s.mem = true ∧ s.queue? 0 4095 = none ∧
        (let d0 := s.dword (32 * 4095);
          let cap := field d0 44 32;
          field d0 61 45 = 0 ∧ field d0 31 18 = 0 ∧ field d0 11 8 = 0 ∧ (1 ≤ cap ↔ n ≠ 0) ∧ cap ≤ 4096 ∧ field d0 17 14 = 15 ∧
            0 / 4 = field d0 13 12 ∧ s.dword (32 * 4095 + 8) = 0 ∧ s.dword (32 * 4095 + 16) = 0 ∧
            s.dword (32 * 4095 + 24) = 0)) ∧
    field (queueBlock true 1).qtBase 47 0 + 131072 ≤ memoryEnd ∧
    (queueStands 4095 (queueOfTwo 0 [])).queue? 0 4095 = some (queueOfTwo 0 []) ∧
    (queueStands 0 { queueOfTwo 0 [] with bank := 15 }).queue? 0 4095 = none ∧
    4096 < ((((queueStands 0 { queueOfTwo 0 [] with bank := 15 }).queues.filter (fun q => q.2.part == 0 && q.2.die == 0 &&
      q.2.bank == 15)).map (fun q => q.2.cap)).sum) + 4096 :=
  ⟨by decide +kernel, by decide +kernel, by decide +kernel, by decide +kernel,
    handles_of (by decide) (by decide +kernel), by decide +kernel⟩

/-- Lane 0 of a gang is blocked at a BWAIT that acquires an object, to which the last kilobyte of the page was bound. -/
def block (o : ObjLoc) (a : Nat) (target : DWord) (again : Bool) (count : Nat) : BWait :=
  ⟨o, a, target, true, .clus, 4, [⟨0x3FFFFC00, 0x400, o, .dev⟩], again, count, 1024⟩

def blocked (w : BWait) : Gang := gang.modLane 0 (fun x => { x with wait := some w })

/-- Lane 0 is the gang's only one. -/
def alone (w : BWait) : Gang :=
  { gang with lanes := [(0, { gang.lane 0 with wait := some w })], streams := [⟨1, .run⟩] }

/-- The gang of core 0, with its stream in a wait. -/
def waiting (w : StreamWait) : Gang := { gang with streams := [⟨255, w⟩] }

/-- A gang stands in slot 0 of core 0. -/
def standing (g : Gang) : State := (mapping one).putGang g

/-- A gang that waits for its code, which core 0 does not hold. -/
def codeless : State := (standing (waiting .fetch)).modCore 0 (fun k => { k with icache := [] })

/-- A gang with triggers, beside four promoted gangs or none. -/
def held (ts : List Trigger) : Gang := { gang with held := ts }

def tailed (slot : Nat) : Gang := { gang with slot := slot, arrival := slot, promotion := some ⟨slot, .tail, slot, true⟩ }

def crowded (ts : List Trigger) (others : List Nat) : State :=
  (standing (held ts)).modCore 0 (fun k => { k with slots := (0, held ts) :: others.map (fun j => (j, tailed j)) })

/-- The launch has no team left to send. -/
def lastTeams : State :=
  { standing gang with launches := [(0, ⟨0, 0, 0x1000, List.replicate 10 0, [], 0, [], [0], [], [], 0, none, false, false⟩)] }

theorem quiet_of {s : State} {c : Nat} {g : Gang} (h : ∀ y ∈ g.lanes, y.2.wait.all
    (fun w => !w.again && (s.objError g.ctxKey w.obj).isNone && (s.wakeError c g w).isNone) = true) :
    ∀ l w, (g.lane l).wait = some w →
      w.again = false ∧ s.objError g.ctxKey w.obj = none ∧ s.wakeError c g w = none :=
  mget_all (P := fun (x : Lane) => ∀ w, x.wait = some w →
      w.again = false ∧ s.objError g.ctxKey w.obj = none ∧ s.wakeError c g w = none)
    (by intro w hw; cases hw) (fun y hy w hw => by simpa [hw, and_assoc] using h y hy)

/-- An older gang of the core has the same laggard trigger. -/
def older : State :=
  let g := held [.laggard (.bank 0 8)]
  (standing { g with arrival := 1 }).modCore 0 (fun k => { k with
    slots := [(0, { g with arrival := 1 }), (1, { g with slot := 1, arrival := 0 })] })

/-- Targets that are and are not reached, below and past the limit; one lane with a bound range; late lanes and streams;
a lane whose object is not mapped after a resume; light faults; absent pages and code; each trigger, with and without
room; a stop; a promotion of 4,096 cycles. -/
theorem witness_WaitEventResults :
    (∀ x ∈ [(0, 0), (1, 0), (0, 1025)], let w := block (.bank 0 0) 0 (BitVec.ofNat 64 x.1) false x.2;
      let g := blocked w;
      let s := standing g;
      s.gang? 0 0 = some g ∧ s.bad = none ∧ s.wakes 0 g = true ∧ (g.lane 0).live = true ∧
        (g.lane 0).level = g.sliceLevel (0 / 4) ∧ (s.objRead 0 0 w.obj).2 = some 0 ∧ g.promotion = none) ∧
    (let g := blocked (block (.bank 0 0) 0 0 false 0);
      (standing g).NoDirty 0 ∧ ∀ l x, (g.lane l).wait = some x →
        x.again = false ∧ (standing g).objError 0 x.obj = none ∧ (standing g).wakeError 0 g x = none) ∧
    (let w := block (.global 0x20000) 0x20000 0 false 1024;
      let g := alone w;
      let s := standing g;
      s.gang? 0 0 = some g ∧ s.wakes 0 g = true ∧ g.liveLanes = [0] ∧ w.count ≤ w.limit ∧
        (s.core 0).partOf g = some placedPart ∧ (s.objRead 0 0 w.obj).2 = some 0 ∧
        scopeLevel placedPart.wide (widerScope w.scope .dev) ≠ 0 ∧
        (∀ l x, (g.lane l).wait = some x → x.again = false ∧ s.objError 0 x.obj = none ∧ s.wakeError 0 g x = none) ∧
        let u := (s.objRead 0 0 w.obj).1
        u.wakeError 0 g w = none ∧ meetsRanges (u.physRanges 0 0x3FFFFC00 0x400) 0x3FFFFFFF = true ∧ u.sealedWord 0 0x3FFFFFFF = false) ∧
    (let g := blocked (block (.bank 0 0) 0 1 false 1025);
      (standing g).wakes 0 g = true ∧ g.handles 0 (BitVec.allOnes 32) ∧ g.lateLanes.head? = some 0 ∧
        ∃ st ∈ g.streams, bitAt st.slices (0 / 4) = true) ∧
    (let g := waiting (.regang 7 0 1025 1024);
      (standing g).gang? 0 0 = some g ∧ (standing g).wakes 0 g = true ∧ g.handles 0 (BitVec.allOnes 32) ∧
        g.lateLanes = [] ∧ g.lateStream = some ⟨255, .regang 7 0 1025 1024⟩ ∧ 0 ∈ g.sliceActive 0) ∧
    (let w := block (.global 0x40000000) 0x40000000 0 true 1024;
      let g := alone w;
      (standing g).gang? 0 0 = some g ∧ (standing g).wakes 0 g = true ∧ g.liveLanes = [0] ∧
        (standing g).recheck 0 g w = .cause .perm 0x40000000 none) ∧
    (let g := waiting (.light [⟨0x11000000, true⟩]);
      (standing g).gang? 0 0 = some g ∧ g.streams = [] ++ ⟨255, .light [⟨0x11000000, true⟩]⟩ :: [] ∧
        (standing g).reaches 0x11000000 8 = true ∧ Memory.wf (standing g).mem = true ∧
        (standing g).dev.badTransfers = []) ∧
    ((standing (waiting .nres)).wakes 0 (waiting .nres) = true ∧
      (standing (waiting .nres)).part? 0 = some (Partition.reset 1)) ∧
    (codeless.gang? 0 0 = some (waiting .fetch) ∧ codeless.fetchWait 0 = some (waiting .fetch, 0) ∧
      codeless.fetchTranslate 0 0 0 = .ok 0 giant ∧ codeless.missing 0 (waiting .fetch) ⟨255, .fetch⟩ = some 0) ∧
    (∀ t ∈ [Trigger.lock 0x20000, .laggard (.bank 0 8)], ∀ others ∈ [[], [1, 2, 3, 4]], let g := held [t];
      let s := crowded [t] others;
      s.gang? 0 0 = some g ∧ s.wakes 0 g = true ∧ g.promotion = none ∧ g.fullyGanged = true ∧
        s.olderLaggard (s.core 0) g t = false ∧ (g.held.find? (fun x => x.priority == t.priority)) = some t ∧
        ((s.core 0).promoted.length < 4 ↔ others = []) ∧
        (others ≠ [] → firstToYield (s.core 0).promoted = some (4, tailed 4) ∧ s.gang? 0 4 = some (tailed 4) ∧
          t.priority < Trigger.tail.priority)) ∧
    (lastTeams.gang? 0 0 = some gang ∧ lastTeams.wakes 0 gang = true ∧ (lastTeams.core 0).laggedOn gang = [] ∧
      (∃ l, mfind? lastTeams.launches gang.launch = some l ∧ l.toSend = false) ∧
      (∀ x ∈ lastTeams.cores, ∀ y ∈ x.2.prefetch, y.launch ≠ gang.launch) ∧
      ((lastTeams.core 0).slots.filter (fun x => x.2.launch == gang.launch)).length ≤ 4 ∧
      lastTeams.olderLaggard (lastTeams.core 0) gang .tail = false) ∧
    (let g := { held [.laggard (.bank 0 8)] with arrival := 1 };
      older.gang? 0 0 = some g ∧ older.wakes 0 g = true ∧ g.fullyGanged = true ∧
        older.olderLaggard (older.core 0) g (.laggard (.bank 0 8)) = true) ∧
    (stopping (standing gang)).stopping gang.part = true ∧
    (let s := { standing (tailed 0) with clusters := [(0, { Cluster.reset with clock := 4096 })] };
      s.gang? 0 0 = some (tailed 0) ∧ 0 + 4096 ≤ s.clockOf 0) := by
  refine ⟨?_, ⟨noDirty_of (by decide +kernel) (by decide +kernel), quiet_of (by decide +kernel)⟩,
    ⟨?_, ?_, ?_, ?_, ?_, ?_, ?_, quiet_of (by decide +kernel), ?_⟩,
    ⟨?_, handles_of (by decide) (by decide +kernel), ?_, ?_⟩,
    ⟨?_, ?_, handles_of (by decide) (by decide +kernel), ?_, ?_, ?_⟩, ?_, ?_, ?_, ?_, ?_,
    ⟨?_, ?_, ?_, ⟨_, rfl, ?_⟩, ?_⟩, ?_⟩ <;> decide +kernel

/-- A launch of partition 0: teams of one part with two gangs, or as said: wide, co-resident, more teams than fit. -/
def launchOf (teams parts : Nat) (cores : Bool) (next : Nat) : Launch :=
  { part := 0, ctx := 0, tcb := 0x4000
    dw := [if cores then 2 ^ 57 else 0, 0xFFFFFFFF00000000, 0x7FFFFFFFF, 0x0008000000000000,
      BitVec.ofNat 64 (2 ^ 48 + 2 ^ 32 + teams), BitVec.ofNat 64 (4096 * 2 ^ 40 + parts * 2 ^ 16 + 64), 0, 0x3000, 0, 2]
    succ := [], next := next, again := [], running := [], ended := [], lost := [], placed := 0, since := some 0,
    hold := false, interrupted := false }

/-- A partition of one cluster that dispatches. -/
def running (budget : Nat) : Partition :=
  { Partition.reset 1 with en := true, qbanks := 1, launches := [0], ebudget := budget, offered := true }

/-- A machine with that partition, a launch, and teams prefetched by some cores. -/
def dispatching (l : Launch) (budget : Nat) (fetched : List (Nat × Prefetched)) : State :=
  let s : State := { State.reset with
    parts := [(0, running budget)], launches := [(0, l)], time := 120000,
    cores := fetched.map (fun x => (x.1, { Core.reset with prefetch := [x.2] })) };
  (s.modCtx 0 (fun x => { x with state := .live })).setDword 0x4030 0x200000000

theorem recallable_nil {s : State} {p : Nat} {x : Partition} {c : Nat} (h : ∀ y ∈ s.cores, y.2.prefetch = []) :
    s.recallable p x c = [] := by
  have : ∀ d, (s.core d).prefetch = [] := mget_all (P := fun (k : Core) => k.prefetch = []) rfl h
  simp [State.recallable, this]

/-- A turn that goes on, that passes to the next partition, and from the last to the first; a higher PRIO; no turn yet. -/
theorem witness_PickClauses :
    let x := Partition.reset 1
    let d := fun (ts : Map (Nat × Nat)) => { Die.reset with turns := ts }
    let xs : List (Nat × Partition) := [(0, { x with weight := 2 }), (1, x), (3, { x with weight := 255 })]
    xs.Pairwise (fun a b => a.1 < b.1) ∧ (d [(0, (0, 1))]).pick xs = some (0, 2) ∧
      (d [(0, (0, 2))]).pick xs = some (1, 1) ∧
      (d [(0, (3, 255))]).pick xs = some (0, 1) ∧ (d [(7, (3, 1))]).pick xs = some (0, 1) ∧
      (d [(0, (0, 1))]).pick [(0, { x with weight := 2 }), (1, { x with prio := 7 })] = some (1, 1) := by
  decide +kernel

/-- Nothing in the die's decision but its turn is noted. -/
def decidedNow (s : State) : State :=
  s.modDie 0 (fun y => { y with turns := mput y.turns 0 (0, 1), decided := some s.time })

/-- A die that picks partition 0: alone, beside a partition that cannot send, and beside one of lower PRIO that can. -/
theorem nextSend_disabled (s : State) (p : Nat) (x : Partition) (h : s.part? p = some x) (e : x.en = false) :
    (s.nextSend p).1 = s := by
  simp [State.nextSend, h, e]

/-- A die with two partitions whose launches are sent, the first of a higher PRIO and the second as given. -/
def twoSending (y : Partition) : State :=
  let l := launchOf 2 1 false 0
  { (dispatching l 0 []).modCtx (ctxKey 1 0) (fun x => { x with state := .live }) with
    parts := [(0, { running 0 with prio := 1 }), (1, y)], launches := [(0, l), (1, { l with part := 1 })] }

theorem witness_Picks : (twoSending (Partition.reset 1)).Picks 0 0 1 :=
  ⟨by decide +kernel, by decide +kernel, by decide +kernel, fun y hy _ hp _ => by
    simp only [twoSending, List.mem_cons, List.not_mem_nil, or_false] at hy
    obtain rfl | rfl := hy
    · exact absurd rfl hp
    · exact nextSend_disabled _ _ _ rfl rfl⟩

theorem witness_PicksOfTwo : (twoSending { running 0 with launches := [1] }).Picks 0 0 1 :=
  ⟨by decide +kernel, by decide +kernel, by decide +kernel, fun y hy _ hp hn => by
    simp only [twoSending, List.mem_cons, List.not_mem_nil, or_false] at hy
    obtain rfl | rfl := hy
    · exact absurd rfl hp
    · exact absurd hn (by decide +kernel)⟩

theorem witness_DispatchResults :
    (let l := launchOf 2 1 false 0;
      let s := dispatching l 0 [];
      s.bad = none ∧ s.parts = [(0, running 0)] ∧ (running 0).en = true ∧ (running 0).frz = false ∧
        (running 0).qbanks ≠ 0 ∧ s.sendable 0 = [0] ∧ mfind? s.launches 0 = some l ∧
        (s.ctx (ctxKey 0 l.ctx)).state = .live ∧ tcbCores l.dw = false ∧ tcbParts l.dw ≤ 1 ∧
        s.requests 0 (running 0).size = 0 :: (List.range 63).map (fun c => c + 1) ∧
        (s.die 0).decided ≠ some s.time ∧ dispatchDie 0 (running 0) = 0 ∧ s.coreUp 0 = true ∧
        s.partOfCluster (clusterOfCore 0) = some (0, running 0) ∧
        ((s.die 0).pick [(0, running 0)]).getD (0, 0) = (0, 1) ∧
        s.rivals 0 0 = [(0, running 0)] ∧ ((decidedNow s).die 0).decided = some (decidedNow s).time) ∧
    (let s := dispatching (launchOf 2 1 false 2) 0 [(63, ⟨0, 1⟩)];
      s.bad = none ∧ s.parts = [(0, running 0)] ∧ s.sendable 0 = [] ∧
        (s.requests 0 (running 0).size).find? (fun d => !(s.recallable 0 (running 0) d).isEmpty) = some 0 ∧
        lowestTeam (s.recallable 0 (running 0) 0) = some (63, ⟨0, 1⟩)) ∧
    (let l := launchOf 2 65 false 0;
      let s := dispatching l 0 [];
      s.sendable 0 = [0] ∧ mfind? s.launches 0 = some l ∧ 1 < tcbParts l.dw ∧ l.since = some 0 ∧ 0 + 120000 ≤ s.time ∧
        (∀ k ∈ clustersOf l.part (running 0).size, (s.fitting l k).length < tcbParts l.dw) ∧
        ∀ c, s.recallable 0 (running 0) c = []) ∧
    (∀ budget ∈ [0, 1], let l := launchOf 2 1 false 2;
      let s := dispatching l budget [(0, ⟨0, 1⟩)];
      s.bad = none ∧ s.dev.resetReg.busy = false ∧ s.parts = [(0, running budget)] ∧ mfind? s.launches 0 = some l ∧
        l.part = 0 ∧ s.stopping 0 = false ∧ (s.ctx (ctxKey 0 l.ctx)).state = .live ∧ l.tcb + 128 ≤ memoryEnd ∧
        s.partOfCluster (clusterOfCore 0) = some (0, running budget) ∧ (s.core 0).prefetch = ⟨0, 1⟩ :: [] ∧
        (s.fitOn 0 l.dw).isSome = true ∧ s.tcbSt l.tcb = 2 ∧ Memory.wf s.mem = true ∧ s.dev.badTransfers = [] ∧
        (running budget).window = s.windowNow ∧
        ((running budget).ebudget = 0 ∨ ((running budget).ebudget < l.estimate + (running budget).used +
          (running budget).adm ∧ (running budget).offered = true)) ∧ (running budget).adm ≤ 0xFFFFFFFF) ∧
    (dispatching (launchOf 2 1 false 2) 0 [(0, ⟨0, 1⟩)]).NoCached ∧
    (let l := launchOf 2 2 false 0;
      let s := dispatching l 0 [];
      (s.sendable 0).head? = some 0 ∧ (s.die 0).decided ≠ some s.time ∧ tcbCores l.dw = false ∧ 1 < tcbParts l.dw ∧
        0 ∈ clustersOf 0 (running 0).size ∧ tcbParts l.dw ≤ (s.fitting l 0).length ∧
        (∀ j ∈ clustersOf 0 (running 0).size, j < 0 → (s.fitting l j).length < tcbParts l.dw) ∧
        (running 0).ebudget = 0 ∧ s.parts = [(0, running 0)] ∧ l.since = some 0 ∧ 0 + 120000 ≤ s.time) ∧
    (let l := launchOf 2 1 true 0;
      let s := dispatching l 0 [];
      tcbCores l.dw = true ∧ (∀ z ∈ [s, decidedNow s],
        ((z.emptied 0 (running 0).size).placeAll (running 0).size 0 l).isSome = true ∧
          (z.placeAll (running 0).size 0 l).isSome = true) ∧
        (match ((decidedNow s).offer 0 (l.estimate * tcbTeams l.dw)).1.placeAll (running 0).size 0 l with
          | some v => decide (v.bad = none)
          | none => false) = true) ∧
    (let l := launchOf 4096 1 true 0;
      let s := dispatching l 0 [];
      (∀ z ∈ [s, decidedNow s], (z.emptied 0 (running 0).size).placeAll (running 0).size 0 l = none) ∧
        tcbCrec l.dw + 32 ≤ memoryEnd ∧ s.dev.badTransfers = [] ∧ Memory.wf s.mem = true) ∧
    Apart (tcbCrec (launchOf 4096 1 true 0).dw) 32 (launchOf 4096 1 true 0).tcb 128 := by
  refine ⟨?_, ?_, ⟨?_, ?_, ?_, ?_, ?_, ?_, fun _ => recallable_nil (by decide +kernel)⟩, ?_,
    noCached_of (by decide +kernel) (by decide +kernel), ?_, ?_, ?_, .inl (by decide +kernel)⟩ <;> decide +kernel

/-- Partition 0 with an empty queue, a ring table at 0x8000 whose ring 0 has its items at 0x10000 and its completion
entries at 0x9000, and accepted commands. -/
def ringPart (jobs : List Job) : Partition := { Partition.reset 1 with crtBase := 0x8000, jobs := jobs }

/-- A machine with that partition, a live context 0, item cons of ring 0 next, and a block at 0x4000. -/
def ringing (jobs : List Job) (cons pred : Nat) : State :=
  let s : State := { State.reset with parts := [(0, ringPart jobs)] };
  let s := s.modCtx 0 (fun x => { x with state := .live });
  let s := (s.setDword 0x8000 0x8060000000010000).setDword 0x8008 0x9000;
  let s := (s.setDword 0x8010 (BitVec.ofNat 64 cons)).setDword 0x8038 1;
  let l := launchOf 2 1 false 0;
  let s := (List.range 10).foldl (fun (s : State) k => s.setDword (0x4000 + 8 * k) (tw l.dw k)) s;
  s.setDword 0x4030 (BitVec.ofNat 64 pred)

def ring0 (cons : Nat) : Ring := ⟨0x8000, 6, 0x10000, 0x9000, cons, 1⟩

/-- A finished launch, with one successor whose block at 0x5000 waits for two predecessors. -/
def finished (succ : List Nat) (interrupted : Bool) : Launch :=
  let l := launchOf 2 1 false 2;
  { l with
    dw := l.dw.set 7 (BitVec.ofNat 64 (succ.length * 2 ^ 48 + 0x3000)), succ := succ, placed := 2,
    ended := if interrupted then [0] else [0, 1], interrupted := interrupted }

def completing (l : Launch) : State :=
  let s := { ringing [] 0 0 with launches := [(0, l)] };
  (s.modPart 0 (fun x => { x with launches := [0] })).setDword 0x5030 0x100000002

theorem witness_RingAndLaunchResults :
    (∀ op ∈ [0, 1, 2], ∀ pred ∈ [0, 1], let j : Job := ⟨0, 0, op, 0x4000⟩;
      let s := ringing [j] 0 pred;
      s.bad = none ∧ s.dev.resetReg.busy = false ∧ Memory.wf s.mem = true ∧ s.dev.badTransfers = [] ∧ s.part? 0 = some (ringPart [j]) ∧
        (ringPart [j]).nen = false ∧
        field (s.dword ((ringPart [j]).ringEntry 0 + 8)) 47 0 +
          16 * (0 % 2 ^ field (s.dword ((ringPart [j]).ringEntry 0)) 56 52) + 16 ≤ memoryEnd ∧
        0x4000 + 128 ≤ memoryEnd ∧ 0x4000 % 128 = 0 ∧ s.tcbSt 0x4000 = 0 ∧ s.tcbPred 0x4000 = pred ∧
        tcbNovf (s.tcbWords 0x4000) = 0 ∧
        s.tcbValid 0 (s.tcbWords 0x4000) (s.tcbSucc 0x4000) = true) ∧
    Apart 0x4000 128 0x8000 64 ∧ Apart 0x4000 128 0x9000 16 ∧
    (let s := ringing [⟨0, 0, 1, 0x4040⟩] 0 0;
      s.part? 0 = some (ringPart [⟨0, 0, 1, 0x4040⟩]) ∧ ¬ 0x4040 % 128 = 0) ∧
    (let s := ringing [] 0 0;
      s.bad = none ∧ s.dev.resetReg.busy = false ∧ s.parts = [(0, ringPart [])] ∧ s.ring? (ringPart []) 0 = some (ring0 0) ∧
        (∀ k, k < 64 → k ≠ 0 → s.ring? (ringPart []) k = none) ∧ (ring0 0).entry + 64 ≤ memoryEnd ∧
        (ring0 0).base + 128 * 2 ^ (ring0 0).szLog ≤ memoryEnd ∧ (ring0 0).cons0 < (ring0 0).kick ∧
        s.itemValid (ring0 0) 0 = true ∧ s.itemValid (ring0 0) 1 = false) ∧
    Apart ((ring0 0).slot 1) 128 0x8000 64 ∧
    (∀ l ∈ [finished [] false, finished [0x5000] false, finished [] true], let s := completing l;
      s.bad = none ∧ s.dev.resetReg.busy = false ∧ Memory.wf s.mem = true ∧ s.dev.badTransfers = [] ∧
        s.part? 0 = some { ringPart [] with launches := [] ++ 0 :: [] } ∧ mfind? s.launches 0 = some l ∧
        l.finished = true ∧ l.part = 0 ∧ l.tcb + 128 ≤ memoryEnd ∧
        tcbCrec l.dw + (32 + 8 * (interruptedList l).length) ≤ memoryEnd ∧ tcbNovf l.dw = 0 ∧
        tcbCrec l.dw + (32 + 8 * (interruptedList l).length) ≤ l.tcb ∧ l.tcb + 128 ≤ 0x5000 ∧
        (s.ctx (ctxKey 0 (field (s.dword 0x5000) 55 48))).state ≠ .free ∧ 2 ≤ s.tcbPred 0x5000) ∧
    (finished [0x5000] false).succ = [0x5000] ∧ (finished [] false).succ = [] ∧ (finished [] true).interrupted = true ∧
    (let s := { ringing [] 0 0 with time := cyclesPerMs };
      s.bad = none ∧ s.part? 0 = some (ringPart []) ∧ (ringPart []).window ≠ s.windowNow) :=
  ⟨by decide +kernel, .inl (by decide +kernel), .inl (by decide +kernel), by decide +kernel, by decide +kernel,
    .inr (by decide +kernel), by decide +kernel, by decide +kernel, by decide +kernel, by decide +kernel,
    by decide +kernel⟩

/-- A machine in a phase of its start. -/
def phased (phase : Nat) (powered : Bool) : State :=
  { State.reset with dev := { Device.reset with phase := phase }, powered := powered }

/-- A gang in partition 0 whose stop was requested at time 0, at a time; with its stream at a PPT or not. -/
def controlled (wait : StreamWait) (stop : Bool) (time : Nat) : State :=
  { standing { waiting wait with liveness := some ⟨1, 0, 0⟩ } with
    parts := [(0, { Partition.reset 1 with stop := stop, stopAt := if stop then some 0 else none })], time := time }

theorem witness_PartitionControlResults :
    mapOk 0x6 = false ∧ mapOk 0x12 = false ∧ mapOk 0x2 = true ∧
    (∃ p ∈ one.mapChanges 0x2, one.partInUse p = true) ∧
    (∀ p ∈ State.reset.mapChanges 0x2, State.reset.partInUse p = false) ∧
    State.reset.bad = none ∧ State.reset.dev.phase ≠ 0xE0 ∧ (phased 0xE0 true).dev.phase = 0xE0 ∧
    mapSize 0x2 0 ≠ State.reset.partSize 0 ∧ mapSize 0x2 0 ≠ 0 ∧
    mapSize 0x2 15 = State.reset.partSize 15 ∧
    one.part? 0 = some (Partition.reset 1) ∧
    (∃ d, d < 4 ∧ coversDie 0 (Partition.reset 1).size d = true ∧ 16 < field (17 : DWord) 4 0 + one.banksOnDie d 0) ∧
    (¬∃ d, d < 4 ∧ coversDie 0 (Partition.reset 1).size d = true ∧ 16 < field (16 : DWord) 4 0 + one.banksOnDie d 0) ∧
    (let s := controlled .run false 0;
      s.bad = none ∧ s.part? 0 = some (Partition.reset 1) ∧ (Partition.reset 1).stopdl ≠ 0 ∧
        (Partition.reset 1).stop = false ∧ (Partition.reset 1).frz = false ∧ (s.core 0).bankSaved 0 = false ∧
        ({ Partition.reset 1 with stopdl := 0 } : Partition).stopdl = 0 ∧
        ∃ g, s.gang? 0 0 = some g ∧ g.atPpt = false) ∧
    (let s := controlled .stopped true 20000;
      s.part? 0 = some { Partition.reset 1 with stop := true, stopAt := some 0 } ∧
        (s.gang? 0 0).map (fun g => g.atPpt) = some true ∧ (s.gang? 0 0).map (fun g => g.liveness) = some (some ⟨1, 0, 0⟩) ∧
        (s.gang? 0 0).map (fun g => g.halted) = some true ∧ placedPart ∈ (s.core 0).parts ∧ placedPart.ended = false ∧
        (s.core 0).partNames placedPart = some ⟨1, 0, 0⟩ ∧ placedPart.hasGranule (placedPart.granule0 + 7) = true ∧
        bitAt 0 7 = false ∧ (∀ g ∈ (s.core 0).slots, ∀ st ∈ g.2.streams, ∀ k ∈ [0, 4095], st.waitsAt k = false)) ∧
    (let s := controlled .run true 24000;
      6 * (Partition.reset 1).stopdl ≤ 5 * (s.time - 0) ∧ s.stopped 0 = false) := by
  have room : ∀ d, d < 4 → ¬(coversDie 0 (Partition.reset 1).size d = true ∧
    16 < field (16 : DWord) 4 0 + one.banksOnDie d 0) := by decide +kernel
  refine ⟨?_, ?_, ?_, ?_, ?_, ?_, ?_, ?_, ?_, ?_, ?_, ?_, ⟨0, ?_⟩, fun ⟨d, hd, h⟩ => room d hd h,
    ⟨?_, ?_, ?_, ?_, ?_, ?_, ?_, _, rfl, ?_⟩, ?_, ?_⟩ <;> decide +kernel

theorem witness_PrivilegedWrites :
    one.bad = none ∧ one.powered = true ∧ one.regPlace 0x3 = .nothing ∧ one.regPlace 0x00200000 = .nothing ∧
    one.regPlace 0xFF8 = .device 0xFF8 ∧
    (∀ d, d < 4 → one.regPlace (0x110 + 0x20 * d) = .device (0x110 + 0x20 * d)) ∧
    one.regPlace 0x001000C8 = .control 0 0xC8 ∧ one.regPlace 0x00100068 = .control 0 0x68 ∧
    (Partition.reset 1).fqHeld = [] ∧ one.part? 0 = some (Partition.reset 1) ∧
    one.regPlace 0x00107FF0 = .descriptor 0 255 6 ∧ (one.ctx (ctxKey 0 255)).state = .free ∧
    one.regPlace 0x00104028 = .descriptor 0 0 5 ∧ (one.ctx (ctxKey 0 0)).state ≠ .free := by decide +kernel

/-- Context 1 of partition 0 in a state, with its fault record at 0x7000 and its table at 0x40000. -/
def contextOf (st : CtxState) : Ctx := { Ctx.reset with state := st, ttBase := 0x40000, frec := 0x7000 }

def contexts (st : CtxState) (x : Partition) : State :=
  (({ State.reset with parts := [(0, x)] }).modCtx 1 (fun _ => contextOf st)).setDword 0x40000 1

/-- A shootdown of the range from base, of a length, beside sealed ranges. -/
def shooting (base len : DWord) (busy : Bool) (seals : List Seal) : Partition :=
  { Partition.reset 1 with sdBase := base, sdLen := len, sdBusy := busy, seals := seals }

theorem witness_ContextEventResults :
    (∀ st ∈ [CtxState.free, .live, .faulted], let s := contexts st (Partition.reset 1);
      s.bad = none ∧ s.part? 0 = some (Partition.reset 1) ∧ s.ctx (ctxKey 0 (257 % 256)) = contextOf st ∧
        s.dev.resetReg.busy = false ∧ Memory.wf s.mem = true ∧ s.dev.badTransfers = [] ∧ s.ctxBusy 1 = false ∧
        (∀ x ∈ s.parts, x.2.nen = false) ∧ (∀ y ∈ s.cores, y.2.snapshotSlots.all (fun z => z.1 != 1) = true) ∧
        s.spilled = [] ∧ s.launches = [] ∧
        s.dword (field (contextOf st).frec 47 0) = 0) ∧
    mayHS .service = true ∧ mayHSP 0 (.system 0) = true ∧
    (contextOf .free).createOk = true ∧ ({ contextOf .free with frec := 0x7001 } : Ctx).createOk = false ∧
    field (contextOf .free).ttBase 47 0 + 262144 ≤ memoryEnd ∧ field (contextOf .live).frec 47 0 + 1024 ≤ memoryEnd ∧
    (contexts .live (Partition.reset 1)).NoCached ∧
    ((contexts .live (Partition.reset 1)).setDword 0x7000 0x100000006).dword 0x7000 ≠ 0 ∧
    (one.ctx (ctxKey 0 0)).state ≠ .free ∧ one.ctxBusy (ctxKey 0 0) = true ∧
    (shooting 0 0 true []).sdBusy = true ∧ (shooting 0 0 false []).sdLen.toNat = 0 ∧
    (shooting 0x1001 4096 false []).sdBase.toNat % 4096 ≠ 0 ∧
    (let x := shooting 0xFFFFFFFFF000 4096 false [];
      x.sdBase.toNat % 4096 = 0 ∧ x.sdLen.toNat % 4096 = 0 ∧ x.sdBase.toNat + x.sdLen.toNat ≤ 2 ^ 48 ∧ x.sdLen.toNat ≠ 0 ∧
        (contexts .live x).sdSealed { x with sdAllCtx := true, sdPurge := true } 0 x.sdBase.toNat x.sdLen.toNat
          ((contexts .live x).sdFrames 0 { x with sdAllCtx := true, sdPurge := true } x.sdBase.toNat x.sdLen.toNat) =
            false) ∧
    (let x := shooting 0 4096 false [⟨1, 0, 256, []⟩];
      (contexts .live x).sdSealed { x with sdAllCtx := true, sdPurge := true } 0 0 4096
        ((contexts .live x).sdFrames 0 { x with sdAllCtx := true, sdPurge := true } 0 4096) = true) := by
  refine ⟨?_, ?_, ?_, ?_, ?_, ?_, ?_, noCached_of (by decide +kernel) (by decide +kernel), ?_, ?_, ?_, ?_, ?_, ?_,
    ?_, ?_⟩ <;> decide +kernel

/-- The partition of an exchange, stopped. -/
def halted : Partition := { Partition.reset 1 with frz := true, swAddr := 0x1000, hsBase := 0x1000 }

/-- A partition as given of which context 0 runs, is saved, or was spilled from core 0, beside context 1. -/
def exchangingAs (x : Partition) (banks : Map Bank) (spilled : List Spilled) : State :=
  let s := one.modCore 0 (fun k => { k with banks := banks, slots := if spilled = [] then k.slots else [] });
  let s := { s with parts := [(0, x)], spilled := spilled };
  s.modCtx 1 (fun x => { x with state := .live })

def exchanging (banks : Map Bank) (spilled : List Spilled) : State := exchangingAs halted banks spilled

def outBank : Map Bank := [(0, ⟨some 0, false, true⟩), (1, ⟨some 1, true, false⟩)]

/-- What a spill of context 0 took. -/
def taken : Spilled := ⟨0, 0, 0, false, { Core.reset with slots := [(0, gang)] }⟩

/-- An operation of that partition that names an outgoing and an incoming context, as its write latches it or in progress. -/
def naming (o i : Option Nat) (op : Nat) (busy : Bool) : Partition :=
  { halted with
    outCtx := o.getD 0, inCtx := i.getD 0, haveOut := o.isSome, haveIn := i.isSome, xOut := o, xIn := i,
    xOp := if busy then op else 0, xBusy := busy }

/-- What the checks of an operation on some contexts pass on. -/
def passing (s : State) (names : List Nat) : Prop :=
  s.bad = none ∧ s.dev.resetReg.busy = false ∧ s.stopped 0 = true ∧ names ≠ [] ∧
    (∀ c ∈ names, (s.ctx (ctxKey 0 c)).state = .live ∧ names ≠ [c, c]) ∧
    (∀ z ∈ s.cores, ∀ b ∈ z.2.banks, b.2.saved = true → b.2.ctx.all (fun c => names.contains c) = true) ∧
    (∀ z ∈ s.cores, ∀ g ∈ z.2.slots, ∀ l ∈ g.2.lanes, l.2.handlers = []) ∧
    (∀ z ∈ s.spilled, ∀ g ∈ z.items.slots, ∀ l ∈ g.2.lanes, l.2.handlers = []) ∧
    ∃ x, s.part? 0 = some x ∧ field x.swAddr 47 0 ≠ 0 ∧ field x.swAddr 47 0 % 4096 = 0

theorem passing_of {s : State} {names : List Nat} {x : Partition} (hx : s.part? 0 = some x)
    (h : s.bad = none ∧ s.dev.resetReg.busy = false ∧ s.stopped 0 = true ∧ names ≠ [] ∧
      (∀ c ∈ names, (s.ctx (ctxKey 0 c)).state = .live ∧ names ≠ [c, c]) ∧
      (∀ z ∈ s.cores, ∀ b ∈ z.2.banks, b.2.saved = true → b.2.ctx.all (fun c => names.contains c) = true) ∧
      (∀ z ∈ s.cores, ∀ g ∈ z.2.slots, ∀ l ∈ g.2.lanes, l.2.handlers = []) ∧
      (∀ z ∈ s.spilled, ∀ g ∈ z.items.slots, ∀ l ∈ g.2.lanes, l.2.handlers = []) ∧
      field x.swAddr 47 0 ≠ 0 ∧ field x.swAddr 47 0 % 4096 = 0) : passing s names :=
  ⟨h.1, h.2.1, h.2.2.1, h.2.2.2.1, h.2.2.2.2.1, h.2.2.2.2.2.1, h.2.2.2.2.2.2.1, h.2.2.2.2.2.2.2.1, x, hx,
    h.2.2.2.2.2.2.2.2⟩

/-- An operation begins, its names latched as the write gives them. -/
theorem witness_ExchangeWrites :
    (let s := exchanging outBank [];
      passing s [0, 1] ∧ s.part? 0 = some halted ∧ mayHS .host = true ∧ halted.xBusy = false ∧ s.powered = true ∧
        s.regPlace 0x001000A0 = .control 0 0xA0 ∧
        { halted with
          xRefused := halted.xRefused && field (0x1000D : DWord) 62 62 == 0, inCtx := field (0x1000D : DWord) 23 16,
          outCtx := field (0x1000D : DWord) 15 8, haveIn := (0x1000D : DWord).getLsbD 3,
          haveOut := (0x1000D : DWord).getLsbD 2, xOut := some 0, xIn := some 1 } = naming (some 0) (some 1) 1 false ∧
        field (0x1000D : DWord) 1 0 = 1 ∧ field (4 : DWord) 1 0 = 0 ∧ (naming (some 0) (some 1) 1 true).xBusy = true) ∧
    (let s := exchanging [(0, ⟨some 7, true, false⟩)] [];
      s.stopped 0 = true ∧ (s.ctx (ctxKey 0 1)).state = .live ∧ (s.ctx (ctxKey 0 2)).state ≠ .live ∧
        ∃ z ∈ s.cores, ∃ b ∈ z.2.banks, b.2.saved = true ∧ b.2.ctx = some 7 ∧ 7 ∉ [0, 1]) ∧
    (one.stopped 0 = false ∧ field (Partition.reset 1).swAddr 47 0 = 0 ∧ field (Partition.reset 1).hsBase 47 0 = 0 ∧
      ∃ g ∈ ((standing (handling 0)).core 0).slots, g.2.ctxKey = 0 ∧
        ∃ l ∈ g.2.lanes, l.2.live = true ∧ l.2.handlers ≠ []) :=
  ⟨⟨passing_of rfl (by decide +kernel), by decide +kernel⟩, by decide +kernel, by decide +kernel⟩

/-- The events of an operation, which its write began or begins; out and in, out alone, in alone. -/
theorem witness_ExchangeResults :
    (∀ busy ∈ [false, true],
      (let s := exchangingAs (naming (some 0) (some 1) 1 busy) outBank [];
        passing s (naming (some 0) (some 1) 1 busy).exNames ∧ (s.core 0).banks = outBank ∧
          mapSorted (s.core 0).banks = true ∧ (s.core 0).bankOf 0 false = some 0 ∧ (s.core 0).bankOf 1 true = some 1) ∧
      (let s := exchangingAs (naming (some 0) none 1 busy) [(1, ⟨some 0, false, false⟩)] [];
        passing s (naming (some 0) none 1 busy).exNames ∧ s.cores = [(0, s.core 0)] ∧
          mapSorted (s.core 0).banks = true ∧ (s.core 0).bankOf 0 false = some 1 ∧ s.CachesOk 0 ∧ s.MemOk ∧
          s.dev.badTransfers = []) ∧
      (let s := exchangingAs (naming none (some 1) 1 busy) [(1, ⟨some 1, true, false⟩)] [];
        passing s (naming none (some 1) 1 busy).exNames ∧ mapSorted (s.core 0).banks = true ∧
          (s.core 0).bankOf 1 true = some 1) ∧
      (let s := exchangingAs (naming (some 0) none 2 busy) [(0, ⟨some 0, true, false⟩)] [];
        passing s (naming (some 0) none 2 busy).exNames ∧ s.MemOk ∧ (s.core 0).bankOf 0 true = some 0 ∧
          field halted.swAddr 47 0 + 64 * halted.size * 0x280000 ≤ memoryEnd ∧
          (∀ c, (s.core c).Positioned ∧ mapSorted (s.core c).slots = true ∧
            ∀ u ∈ (s.core c).parts, ctxKey u.part u.ctx = ctxKey 0 0 → (s.core c).bankOf 0 true = some u.bank) ∧
          s.gang? 0 0 = some gang) ∧
      (let s := exchangingAs (naming none (some 0) 3 busy) [] [taken];
        passing s (naming none (some 0) 3 busy).exNames ∧
          s.spilled.filter (fun z => z.ctx == ctxKey 0 0) = [taken] ∧ mapSorted taken.items.slots = true ∧
          s.fillPlace taken = some (0, taken.items.rebank 0 0)) ∧
      (let s := exchangingAs (naming none (some 0) 3 busy) [(0, ⟨some 1, false, false⟩), (1, ⟨some 2, false, false⟩)]
          [taken];
        passing s (naming none (some 0) 3 busy).exNames ∧ s.fillPlace taken = none)) := by
  intro busy hb
  simp only [List.mem_cons, List.not_mem_nil, or_false] at hb
  have ok : ∀ x bs, mapSorted ((exchangingAs x bs []).core 0).slots = true →
      ((exchangingAs x bs []).core 0).Positioned →
      (∀ u ∈ ((exchangingAs x bs []).core 0).parts, ctxKey u.part u.ctx = ctxKey 0 0 →
        ((exchangingAs x bs []).core 0).bankOf 0 true = some u.bank) → ∀ c,
      ((exchangingAs x bs []).core c).Positioned ∧ mapSorted ((exchangingAs x bs []).core c).slots = true ∧
        ∀ u ∈ ((exchangingAs x bs []).core c).parts, ctxKey u.part u.ctx = ctxKey 0 0 →
          ((exchangingAs x bs []).core c).bankOf 0 true = some u.bank := by
    intro x bs h1 h2 h3 c
    refine mget_all (P := fun (k : Core) => k.Positioned ∧ mapSorted k.slots = true ∧
      ∀ u ∈ k.parts, ctxKey u.part u.ctx = ctxKey 0 0 → k.bankOf 0 true = some u.bank) ?_ ?_ c
    · exact ⟨by constructor <;> decide +kernel, by decide +kernel, by decide +kernel⟩
    · have h : (exchangingAs x bs []).cores = [(0, (exchangingAs x bs []).core 0)] := rfl
      rw [h]
      simp only [List.mem_singleton, forall_eq]
      exact ⟨h2, h1, h3⟩
  obtain rfl | rfl := hb <;>
  exact ⟨⟨passing_of rfl (by decide +kernel), by decide +kernel⟩,
    ⟨passing_of rfl (by decide +kernel), by decide +kernel, by decide +kernel, by decide +kernel,
      ⟨cacheOk_nil, cacheOk_nil, by decide +kernel⟩, by unfold State.MemOk; decide +kernel, by decide +kernel⟩,
    ⟨passing_of rfl (by decide +kernel), by decide +kernel⟩,
    ⟨passing_of rfl (by decide +kernel), by unfold State.MemOk; decide +kernel, by decide +kernel, by decide +kernel,
      ok _ _ (by decide +kernel) (by constructor <;> decide +kernel) (by decide +kernel), by decide +kernel⟩,
    ⟨passing_of rfl (by decide +kernel), by decide +kernel⟩, ⟨passing_of rfl (by decide +kernel), by decide +kernel⟩⟩

/-- A reset of die 0 in progress, and resets of the device that wait. -/
def resetting (waiting : List (Nat × Nat × Nat)) : State :=
  { one with dev := { Device.reset with resetReg := ⟨true, false, 1, 3, 0, 3, 0, waiting⟩ } }

theorem witness_ResetResults :
    State.reset.bad = none ∧ State.reset.dev.resetReg.busy = false ∧ (resetting []).bad = none ∧
    (resetting []).dev.resetReg.busy = true ∧ (resetting []).dev.resetReg.nowKind = 3 ∧
    (resetting []).dev.resetReg.nowTarget / 256 ≠ 1023 % 1024 / 256 ∧
    (resetting []).dev.resetReg.nowTarget / 256 = 255 % 1024 / 256 ∧
    (∀ x ∈ (resetting []).parts, x.2.nen = false) ∧
    (resetting [(2, 1, 1023)]).dev.resetReg.waiting = (2, 1, 1023) :: [] ∧
    (∃ w ∈ (resetting [(2, 3, 300)]).dev.resetReg.waiting, w.2.1 = 3 ∧ w.2.2 / 256 ≠ 1023 % 1024 / 256) ∧
    (let s := inFlight (tables one) (copyOp false .load);
      s.heldSlots = [(0, 0)] ∧ ∀ z ∈ s.heldSlots, s.ttAddr z.1 z.2 + 64 ≤ memoryEnd) ∧
    (∀ rst ∈ [0, 2 ^ 56], ∀ all ∈ [0, 2 ^ 57],
      let l := { launchOf 2 1 false 1 with dw := (launchOf 2 1 false 1).dw.set 0 (BitVec.ofNat 64 (rst + all)) };
      let s := { one with launches := [(0, l)] };
      mfind? s.launches 0 = some l ∧ tcbRst l.dw = decide (rst ≠ 0) ∧ tcbCores l.dw = decide (all ≠ 0) ∧
        s.dev.resetReg.busy = false ∧
        ∃ x ∈ s.cores, inPart 1 0 x.1 = true ∧ ∃ y ∈ x.2.parts, y.ended = false ∧ y.launch = 0) ∧
    (let s := { State.reset with parts := [(4, Partition.reset 4)] };
      s.part? 4 = some (Partition.reset 4) ∧ dieOfCluster 4 = 256 % 1024 / 256) := by decide +kernel

/-- A machine with an operation in the mailbox of die 3. -/
def posted (op : Nat) : State :=
  ({ one with dies := [(3, { Die.reset with mbxBase := 0x6000, mbxHead := 1 })] }).setDword 0x6000 (BitVec.ofNat 64 op)

theorem witness_BoardResults :
    (∀ op ∈ [0, 1, 2, 3, 4], let s := posted op;
      s.bad = none ∧ Memory.wf s.mem = true ∧ s.dev.badTransfers = [] ∧ (s.die 3).mbxHead ≠ (s.die 3).mbxTail ∧
        (s.die 3).slotAddr + 64 ≤ memoryEnd ∧ s.dev.resetReg.busy = false ∧
        ofBytes (s.readHome (s.die 3).slotAddr 2) = op ∧
        s.frameInUse ((s.dword ((s.die 3).slotAddr + 8)).toNat / 4096) = false) ∧
    (let s := mapping (posted 1);
      s.frameInUse ((s.dword ((s.die 3).slotAddr + 8)).toNat / 4096) = true) ∧
    (∀ x ∈ one.parts, x.2.nen = false) ∧ Memory.wf one.mem = true ∧ one.dev.attAddr.toNat + 192 ≤ memoryEnd ∧
    (∀ phase ∈ [1, 2, 3, 4, 0xE0], (phased phase true).bad = none ∧ (phased phase true).powered = true ∧
      (phased phase true).dev.phase = phase ∧ (phased phase true).dev.resetReg.busy = false) ∧
    (phased 3 false).powered = false ∧
    (let s := { State.reset with clusters := [(15, { Cluster.reset with stretched := true, calm := 64 })] };
      s.bad = none ∧ (s.cluster 15).stretched = true ∧ 64 ≤ (s.cluster 15).calm) ∧
    (let s := { State.reset with clusters := [(15, { Cluster.reset with stretched := true, calm := 63 })] };
      (s.cluster 15).stretched = true ∧ (s.cluster 15).calm < 64) ∧
    one.dev.resetReg.busy = false ∧ (phased 3 true).dieAway 0 = false := by decide +kernel

/-- The host. -/
def host : Endpoint := ⟨true, 0x0A000002, 5000⟩

/-- A datagram of the host to the module on a connection. -/
def sent (conn psn addr : Nat) (payload : List Byte) : Datagram :=
  { src := host, toV4 := true, toAddr := 0x0A000001, toPort := 0x1A4C, sumsOk := true, ver := 1, status := 0, conn := conn,
    psn := psn, ackPsn := 1, sack := 0, len := payload.length, addr := addr, payload := payload }

/-- The module with its link up, connection 1 open to the host, and what it holds and has in flight. -/
def linked (s : State) (k : Conn) : State :=
  { s with
    conns := [(1, { k with state := 1, peer := some host })],
    dev := { Device.reset with up := true, ip4 := 0x0A000001, connBase := 0x20000, phase := s.dev.phase } }

/-- The payload of a kick of ring 0 of partition 0. -/
def kick : List Byte := bytesOf 8 1 ++ bytesOf 8 5

/-- A WRITE of space 0 and a READ there; one of space 1 to a control register; a kick. -/
def operations : List Datagram :=
  [sent 1 0 0x30000 [1, 2, 3], { sent 1 0 0x30000 [] with len := 3 }, sent 1 0 0x1000000000100010 (bytesOf 8 9),
    sent 1 0 0 kick]

theorem witness_OperationResults :
    (∀ m ∈ operations, let s := linked (ringing [] 1 0) Conn.reset;
      s.bad = none ∧ s.dev.resetReg.busy = false ∧ Memory.wf s.mem = true ∧ s.dev.badTransfers = [] ∧ s.takes m = true ∧
        (s.conn m.conn).unacked = [] ∧ m.psn = (s.conn m.conn).rxPsn ∧ (s.conn m.conn).held = [] ∧ m.psn < 2 ^ 32 ∧
        s.connEntry? m.conn = some 0x20040 ∧ 0x20040 + 64 ≤ memoryEnd ∧ bits m.addr 60 4 < 2 ∧ (s.conn 1).host = true ∧
        s.dev.phase ≠ 0xE0 ∧ bits m.addr 48 12 = 0 ∧ 0 < m.len ∧ m.len ≤ 8192 ∧
        (bits m.addr 60 4 = 1 → bits m.addr 0 48 % 8 = 0 ∧ m.len = 8 ∧ m.payload.length = 8) ∧
        bits m.addr 0 48 + m.len ≤ memoryEnd) ∧
    Apart 0x20040 64 0x30000 3 ∧ Apart 0x20040 64 0 16 ∧ Apart 0x20040 64 0x100010 8 ∧
    (let s := linked (ringing [] 1 0) Conn.reset;
      bits (sent 1 0 0x2000000000000000 [1]).addr 60 4 = 2 ∧ (sent 1 0 0x30000 []).len = 0 ∧
        ({ sent 1 0 0x30000 [] with len := 3 } : Datagram).payload.length ≠ 3 ∧ s.NoCached ∧
        (∀ r, r < 64 → r ≠ 0 → s.ring? (ringPart []) r = none) ∧ s.regPlace 0x100010 = .control 0 0x10 ∧
        s.part? 0 = some (ringPart []) ∧ s.dev.phase ≠ 0xE0 ∧ kick.length = 16 ∧
        num kick 0 1 = 1 ∧ num kick 2 1 = 0 ∧ num kick 1 1 < 64 ∧ s.ring? (ringPart []) (num kick 1 1) = some (ring0 1) ∧
        s.itemValid (ring0 1) (ring0 1).cons0 = false ∧ (ring0 1).entry + 64 ≤ memoryEnd ∧
        (ring0 1).slot (ring0 1).cons0 + 128 ≤ memoryEnd) ∧
    Apart ((ring0 1).slot 1) 128 0x8000 64 ∧ Apart 0x20040 64 0x8000 64 ∧ Apart 0x20040 64 ((ring0 1).slot 1) 128 ∧
    (let s := linked State.reset Conn.reset;
      (∀ x ∈ s.parts, ∀ r, r < 64 → s.ring? x.2 r = none) ∧ s.takes (sent 1 0 0x30000 [1, 2, 3]) = true) ∧
    (let s := linked (phased 0xE0 true) { Conn.reset with host := false };
      s.takes (sent 1 0 0 kick) = true ∧ s.dev.phase = 0xE0 ∧ (s.conn 1).host = false) ∧
    (let s := linked State.reset { Conn.reset with rxPsn := 5 };
      ((sent 1 37 0 []).psn + 2 ^ 32 - (s.conn 1).rxPsn) % 2 ^ 32 = 32 ∧ s.takes (sent 1 37 0 []) = true ∧
        (∀ x ∈ (s.conn 1).held, x.1 ≠ 37) ∧ 32 < ((sent 1 4 0 []).psn + 2 ^ 32 - (s.conn 1).rxPsn) % 2 ^ 32 ∧
        psnBefore (sent 1 4 0 []).psn (s.conn 1).rxPsn = true) ∧
    (∀ payload : List Byte, payload.length = 9139 → 9216 < 18 + 20 + 8 + 32 + (sent 1 0 0 payload).payload.length) ∧
    (phased 3 false).powered = false ∧ State.reset.dev.up = false ∧
    ({ sent 1 0 0 [] with sumsOk := false } : Datagram).sumsOk = false ∧
    ({ sent 1 0 0 [] with toPort := 7 } : Datagram).toPort ≠ State.reset.dev.wport.toNat ∧
    ({ sent 1 0 0 [] with ver := 2 } : Datagram).ver ≠ 1 ∧
    (linked State.reset Conn.reset).dev.connBase ≠ 0 ∧ ((linked State.reset Conn.reset).conn 2).state ≠ 1 ∧
    State.reset.dev.connBase = 0 ∧ (sent 1 0 0 []).conn ≠ 0 :=
  ⟨by decide +kernel, .inl (by decide +kernel), .inr (by decide +kernel), .inl (by decide +kernel),
    ⟨by decide +kernel, by decide +kernel, by decide +kernel, noCached_of (by decide +kernel) (by decide +kernel),
      by decide +kernel⟩, .inr (by decide +kernel), .inr (by decide +kernel), .inr (by decide +kernel), by decide +kernel,
    by decide +kernel, by decide +kernel, by
      intro payload h; simp [sent, h], by decide +kernel⟩

/-- A READ in flight of lane 0 of the gang of core 0, and a WRITE of no lane. -/
def inTransit (op : Nat) (who : Option Requester) : SentOp := ⟨0, op, 0x30000, 2, [], 0, 1, who⟩

/-- A gang whose lane 0 awaits a reply. -/
def awaiting : Gang := gang.modLane 0 (fun x => { x with link := .awaited [9] })

theorem witness_LinkResults :
    State.reset.bad = none ∧ State.reset.dev.connBase = 0 ∧
    (let s := linked State.reset Conn.reset;
      s.bad = none ∧ s.dev.resetReg.busy = false ∧ s.connEntry? (1 % 4096) = some 0x20040 ∧
        0x20040 + 64 ≤ memoryEnd ∧ Memory.wf s.mem = true ∧
        s.dev.badTransfers = [] ∧ (s.conn 1).unacked = [] ∧ (s.conn 1).reads = [] ∧ s.takes (sent 1 0 0 []) = true ∧
        (s.conn (sent 1 0 0 []).conn).peer = some host ∧ (sent 1 0 0 []).status = 0 ∧ s.hears = true) ∧
    (let w : Requester := ⟨0, 0, 0, 0, 0, 0, 0⟩;
      let s := linked (standing awaiting) { Conn.reset with reads := [inTransit 2 (some w)] };
      (s.conn 1).unacked = [] ∧ (s.conn 1).reads = [inTransit 2 (some w)] ∧
        (inTransit 2 (some w)).addr = (sent 1 0 0x30000 [1, 2]).addr ∧
        (inTransit 2 (some w)).len = (sent 1 0 0x30000 [1, 2]).len ∧ s.takes (sent 1 0 0x30000 [1, 2]) = true ∧
        s.gang? 0 0 = some awaiting ∧ awaiting.ctxKey = w.ctx ∧ awaiting.arrival = w.arrival ∧
        (awaiting.lane 0).link = .awaited [9]) ∧
    ∀ n ∈ [15, 16], let s := { linked State.reset { Conn.reset with unacked := [inTransit 1 none], expiries := n } with
        time := 60000 * 128 };
      s.bad = none ∧ (s.conn 1).peer = some host ∧ s.timeoutDue (s.conn 1) = true ∧ s.connOpen 1 = true ∧
        s.hears = true ∧ (s.conn 1).expiries = n ∧ (∀ x ∈ (s.conn 1).unacked ++ (s.conn 1).reads, x.who = none) ∧
        s.connEntry? 1 = some 0x20040 ∧ Memory.wf s.mem = true := by decide +kernel

/-! The whole machine. -/

/-- Core 0 is next, with the word of IADD v5, v1, v2 at the gang's PC. -/
def next : State := (State.reset.placeWord 0x04050208)

/-- That machine after the step's count. -/
def noted : State := { next with tick := next.tick + 1, agenda := [] }

theorem witness_StepRunsDecoded : next.agenda = .core 0 :: [] ∧
    (noted.core 0).lastCycle = none ∧
    noted.chooseGang (noted.core 0) (noted.clockOf 0) = some (0, placedGang, true) ∧ placedGang.offers = [0] ∧
    placedGang.streamPc (placedGang.streamAt 0) = some 0 ∧
    (∀ l, (placedGang.streamActive (placedGang.streamAt 0) 0).getLsbD l = true → (placedGang.lane l).deferred = []) ∧
    noted.fetchUnit 0 placedGang.ctxKey 0 = .unit 0x04050208 [] 0 ∧ noted.fetchWord 0 0 false 0 = .word 0x04050208 ∧
    isHint 0x04050208 = false ∧ decodeUnit 0x04050208 [] = some (.iadd ⟨.reg 5, .reg 1, .reg 2, false, false⟩) ∧
    next.powered = true ∧ State.reset.agenda = [] ∧ State.reset.bad = none ∧ State.reset.waits = false ∧
    (∃ i ms, State.reset.cycleMoves = .event i :: ms) ∧ { phased 4 true with time := 1 }.cycleMoves = [] ∧
    ({ State.reset with powered := false, agenda := [.core 0] } : State).agenda = .core 0 :: [] := by
  refine ⟨?_, ?_, ?_, ?_, ?_, lanes_all (by decide +kernel), ?_, ?_, ?_, ?_, ?_, ?_, ?_, ?_, ⟨_, _, rfl⟩, ?_, rfl⟩ <;> decide +kernel

/-- That machine where the core's cycle goes on within a packed atomic, of whose pairs one half is applied or none is. -/
def nextSplit : State := { next with agenda := .split 0 1 :: [] }

theorem witness_StepRunsSplit : nextSplit.powered = true ∧ nextSplit.agenda = .split 0 1 :: [] ∧
    (∀ h ∈ [none, some (⟨0, .bank 0 0, some 0, 4⟩ : Half)],
      let g := placedGang.modLane 0 (fun x => { x with half := h })
      let u := { noted.putGang g with split := some 1 }
      (u.core 0).lastCycle = none ∧ u.chooseGang (u.core 0) (u.clockOf 0) = some (0, g, true) ∧ g.offers = [0] ∧
        g.halfway (g.streamActive (g.streamAt 0) 0) = h.isSome ∧ u.fetchUnit 0 g.ctxKey 0 = .unit 0x04050208 [] 0) := by
  refine ⟨?_, rfl, ?_⟩ <;> decide +kernel

/-- A pair of 1.0 and 2.0 to add at scratchpad address 2, of which a move may make one application (05 R200). -/
def addingPair (n : Option Nat) : State :=
  { issuing { gang with v := [(0, 2), (119 * 32, 0x40003C00)] } 1 [] with split := n }

/-- The low half at 2, the high half at 4, and whether the lane is still at its instruction. -/
def pairAdded (n : Option Nat) : Option (Nat × Nat × Bool) :=
  match exec (.reds ⟨.add, .f16x2, .reg 119, .reg 0, .gang, .relaxed, false⟩) (addingPair n) with
  | .next t => (t.gang? 0 0).map (fun g =>
      (ofBytes ((t.core 0).sbytes 2 2), ofBytes ((t.core 0).sbytes 4 2), (g.lane 0).pc == 0))
  | _ => none

/-- A whole issue applies both halves; a split one may apply the low half alone, and the lane stays (05 R200). -/
theorem test_split_atomic : pairAdded none = some (0x3C00, 0x4000, false) ∧ pairAdded (some 1) = some (0x3C00, 0, true) := by
  decide +kernel

/-- The step runs that word: register 5 of every lane gets the sum, here 0, and every lane goes on to address 4. -/
theorem witness_StepKeepsMemory : next.MemOk ∧ ∃ t, step next = .next t ∧ t.issuer.isSome = true := by
  refine ⟨by unfold State.MemOk; decide +kernel, ?_⟩
  have : (match step next with
    | .next t => t.issuer.isSome
    | _ => false) = true := by decide +kernel
  revert this
  cases step next with
  | next t => exact fun h => ⟨t, rfl, h⟩
  | fault f => exact fun h => by cases h
  | refused r => exact fun h => by cases h

theorem witness_EncodeDecodeAgree :
    (Instr.imad ⟨.reg 119, .latch 3, .lane, true, true⟩).wf = true ∧ (Instr.br ⟨-2 ^ 19⟩).wf = true ∧
    (Instr.stg ⟨.plain .b128, .reg 116, .zero, 63⟩).wf = true ∧ (Instr.tramp ⟨2 ^ 20 - 1⟩).wf = true := by
  decide +kernel

end Sys2Proof.Tests
end

/-! Rounding real numbers (spec 02 R72): what RoundsIn determines, and how to meet it between two neighbours. -/

namespace Sys2Proof.Machine
section RealRounding

/-- The mode that rounds -x to -y where r rounds x to y. -/
def mirrored : Rounding → Rounding
  | .rup => .rdn
  | .rdn => .rup
  | r => r

theorem RoundsIn.neg {r : Rounding} {G : Real → Prop} {x y : Real} (hG : ∀ z, G z → G (-z)) (h : RoundsIn r G x y) :
    RoundsIn (mirrored r) G (-x) (-y) := by
  obtain ⟨hy, h⟩ := h
  refine ⟨hG y hy, ?_⟩
  cases r with
  | rne =>
    intro z hz
    obtain ⟨near, tie⟩ := h (-z) (hG z hz)
    have hyx : |-x - -y| = |x - y| := by rw [← abs_neg]; ring_nf
    have hzx : |-x - z| = |x - -z| := by rw [← abs_neg]; ring_nf
    have hzy : |z - -y| = |-z - y| := by rw [← abs_neg]; ring_nf
    rw [hyx, hzx, hzy]
    refine ⟨near, fun ne eq => ?_⟩
    obtain ⟨n, hn⟩ := tie (fun e => ne (by rw [← e, neg_neg])) eq
    exact ⟨-n, by push_cast; linarith⟩
  | rtz =>
    obtain ⟨sign, small, largest⟩ := h
    simpa only [mirrored, neg_mul_neg, abs_neg] using ⟨sign, small, largest⟩
  | rup => exact ⟨neg_le_neg h.1, fun z hz hzx => by have := h.2 (-z) (hG z hz) (by linarith); linarith⟩
  | rdn => exact ⟨neg_le_neg h.1, fun z hz hzx => by have := h.2 (-z) (hG z hz) (by linarith); linarith⟩

theorem mirrored_mirrored (r : Rounding) : mirrored (mirrored r) = r := by cases r <;> rfl

/-- A number of the grid is its own rounding. -/
theorem roundsIn_self {r : Rounding} {G : Real → Prop} {x : Real} (hx : G x) : RoundsIn r G x x := by
  refine ⟨hx, ?_⟩
  cases r with
  | rne =>
    refine fun z _ => ⟨by simp, fun ne eq => absurd eq ?_⟩
    simpa [sub_eq_zero] using fun e => ne e.symm
  | rtz => exact ⟨mul_self_nonneg x, le_rfl, fun z _ hz => hz⟩
  | rup => exact ⟨le_rfl, fun z _ hz => hz⟩
  | rdn => exact ⟨le_rfl, fun z _ hz => hz⟩

/-- A number of the grid is rounded to itself. -/
theorem RoundsIn.eq_of_grid {r : Rounding} {G : Real → Prop} {x y : Real} (h : RoundsIn r G x y) (hx : G x) : y = x := by
  obtain ⟨_, h⟩ := h
  cases r with
  | rne =>
    have := (h x hx).1
    rw [sub_self, abs_zero] at this
    linarith [abs_nonpos_iff.1 this]
  | rtz =>
    have heq : |y| = |x| := le_antisymm h.2.1 (h.2.2 x hx le_rfl)
    rcases abs_eq_abs.1 heq with e | e
    · exact e
    · nlinarith [h.1]
  | rup => exact le_antisymm (h.2 x hx le_rfl) h.1
  | rdn => exact le_antisymm h.1 (h.2 x hx le_rfl)

/-- Rounding keeps the order of numbers of one sign. -/
theorem RoundsIn.mono {r : Rounding} {G : Real → Prop} {x x' y y' : Real} (h : RoundsIn r G x y) (h' : RoundsIn r G x' y')
    (lt : x < x') (sign : 0 < x * x') : y ≤ y' := by
  obtain ⟨hy, h⟩ := h
  obtain ⟨hy', h'⟩ := h'
  cases r with
  | rne =>
    by_contra! hlt
    have h1 := (h y' hy').1
    have h2 := (h' y hy).1
    nlinarith [sq_le_sq.2 h1, sq_le_sq.2 h2, mul_pos (sub_pos.2 lt) (sub_pos.2 hlt)]
  | rtz =>
    by_contra! hlt
    obtain ⟨s1, l1, m1⟩ := h
    obtain ⟨s2, l2, m2⟩ := h'
    rcases pos_and_pos_or_neg_and_neg_of_mul_pos sign with ⟨p, p'⟩ | ⟨p, p'⟩
    · have hy0 : 0 ≤ y := nonneg_of_mul_nonneg_right s1 p
      have hy0' : 0 ≤ y' := nonneg_of_mul_nonneg_right s2 p'
      rw [abs_of_nonneg hy0, abs_of_pos p] at l1
      have := m2 y hy (by rw [abs_of_nonneg hy0, abs_of_pos p']; linarith)
      rw [abs_of_nonneg hy0, abs_of_nonneg hy0'] at this
      linarith
    · have hy0 : y ≤ 0 := by nlinarith
      have hy0' : y' ≤ 0 := by nlinarith
      rw [abs_of_nonpos hy0', abs_of_neg p'] at l2
      have := m1 y' hy' (by rw [abs_of_nonpos hy0', abs_of_neg p]; linarith)
      rw [abs_of_nonpos hy0, abs_of_nonpos hy0'] at this
      linarith
  | rup => exact h.2 y' hy' (by linarith [h'.1])
  | rdn => exact h'.2 y hy (by linarith [h.1])

/-- Where v lies from k up to k + 1: the classes that remClass names. -/
inductive Cell (v : Real) (k : Nat) : Nat → Prop
  | exact (h : v = k) : Cell v k 0
  | below (h : k < v) (h' : v < k + 1 / 2) : Cell v k 1
  | tie (h : v = k + 1 / 2) : Cell v k 2
  | above (h : k + 1 / 2 < v) (h' : v < k + 1) : Cell v k 3

theorem Cell.le {v : Real} {k c : Nat} (h : Cell v k c) : (k : Real) ≤ v := by
  cases h <;> linarith

theorem Cell.lt {v : Real} {k c : Nat} (h : Cell v k c) : v < k + 1 := by
  cases h <;> linarith

theorem Cell.lt_of_ne {v : Real} {k c : Nat} (h : Cell v k c) (hc : c ≠ 0) : (k : Real) < v := by
  cases h with
  | exact h => exact absurd rfl hc
  | below h h' => exact h
  | tie h => linarith
  | above h h' => linarith

/-- The rounded multiple: k, or the next one away from zero. -/
def roundedUnits (r : Rounding) (s : Bool) (k c : Nat) : Nat := k + if roundsUp r s k c then 1 else 0

theorem roundedUnits_eq (r : Rounding) (s : Bool) (k c : Nat) :
    roundedUnits r s k c = k ∨ roundedUnits r s k c = k + 1 := by
  unfold roundedUnits
  split
  · exact .inr rfl
  · exact .inl rfl

theorem roundedUnits_exact (r : Rounding) (s : Bool) (k : Nat) : roundedUnits r s k 0 = k := by
  cases r <;> simp [roundedUnits, roundsUp]

theorem roundedUnits_mirrored (r : Rounding) (k c : Nat) : roundedUnits (mirrored r) true k c = roundedUnits r false k c := by
  cases r <;> simp [roundedUnits, roundsUp, mirrored]

/-- The rounded multiple is the number itself exactly in the class 0. -/
theorem Cell.rounded_eq_iff {v : Real} {k c : Nat} (h : Cell v k c) (r : Rounding) (s : Bool) :
    (roundedUnits r s k c : Real) = v ↔ c = 0 := by
  rcases h with h | ⟨h, h'⟩ | h | ⟨h, h'⟩
  · simp [roundedUnits_exact, h]
  all_goals
    simp only [OfNat.ofNat_ne_zero, one_ne_zero, iff_false]
    rcases roundedUnits_eq r s k _ with e | e <;> rw [e] <;> push_cast <;> intro hv <;> linarith

/-- Between two neighbours of the grid the nearer one, or either at the same distance if it is even, is the rounding to
nearest. -/
theorem roundsIn_rne_of_neighbours {G : Real → Prop} {x lo hi y o : Real} (gap : ∀ z, G z → z ≤ lo ∨ hi ≤ z) (hlo : lo < x)
    (hhi : x < hi) (pair : y = lo ∧ o = hi ∨ y = hi ∧ o = lo) (hy : G y) (near : |x - y| ≤ |x - o|)
    (even : |x - y| = |x - o| → ∃ n : Int, y = 2 * n * |o - y|) : RoundsIn .rne G x y := by
  have dlo : |x - lo| = x - lo := abs_of_pos (by linarith)
  have dhi : |x - hi| = hi - x := by rw [abs_sub_comm]; exact abs_of_pos (by linarith)
  refine ⟨hy, fun z hz => ?_⟩
  have dz : z ≤ lo ∧ |x - z| = x - z ∨ hi ≤ z ∧ |x - z| = z - x := by
    rcases gap z hz with h | h
    · exact .inl ⟨h, abs_of_nonneg (by linarith)⟩
    · exact .inr ⟨h, by rw [abs_sub_comm]; exact abs_of_nonneg (by linarith)⟩
  rcases pair with ⟨rfl, rfl⟩ | ⟨rfl, rfl⟩ <;> rw [dlo, dhi] at near even <;> simp only [dlo, dhi] <;>
    rcases dz with ⟨hz, ez⟩ | ⟨hz, ez⟩ <;> rw [ez] <;> refine ⟨by linarith, fun ne eq => ?_⟩
  · exact absurd (by linarith) ne
  · rw [show z = o by linarith]
    exact even (by linarith)
  · rw [show z = o by linarith]
    exact even (by linarith)
  · exact absurd (by linarith) ne

/-- Strictly between two neighbours of the grid: the directed modes, and RTZ of a positive number. -/
theorem roundsIn_directed_of_neighbours {G : Real → Prop} {x lo hi : Real} (hG : ∀ z, G z → G (-z))
    (gap : ∀ z, G z → z ≤ lo ∨ hi ≤ z) (hlo : lo < x) (hhi : x < hi) (glo : G lo) (ghi : G hi) (h0 : 0 ≤ lo) :
    RoundsIn .rtz G x lo ∧ RoundsIn .rup G x hi ∧ RoundsIn .rdn G x lo := by
  refine ⟨⟨glo, mul_nonneg (by linarith) h0, ?_, fun z hz hzx => ?_⟩, ⟨ghi, hhi.le, fun z hz hzx => ?_⟩,
    ⟨glo, hlo.le, fun z hz hzx => ?_⟩⟩
  · rw [abs_of_nonneg h0, abs_of_nonneg (by linarith)]
    exact hlo.le
  · have hz' : G |z| := by rcases abs_choice z with e | e <;> rw [e]; exacts [hz, hG z hz]
    rw [abs_of_nonneg (h0.trans hlo.le)] at hzx
    rw [abs_of_nonneg h0]
    rcases gap _ hz' with h | h
    · exact h
    · linarith
  · rcases gap z hz with h | h
    · linarith
    · exact h
  · rcases gap z hz with h | h
    · exact h
    · linarith

/-- The magnitude x lies in a cell of multiples of d that are neighbours in the grid: its rounding. -/
theorem roundsIn_of_cell {r : Rounding} {G : Real → Prop} {x d : Real} {k c : Nat} (hd : 0 < d)
    (hG : ∀ z, G z → G (-z)) (hk : G (k * d)) (hk1 : G ((k + 1) * d))
    (gap : ∀ z, G z → z ≤ k * d ∨ (k + 1) * d ≤ z) (h : Cell (x / d) k c) :
    RoundsIn r G x (roundedUnits r false k c * d) := by
  by_cases hc : c = 0
  · subst hc
    have e : x = k * d := by cases h with | exact h => rw [← h]; field_simp
    rw [roundedUnits_exact, ← e]
    exact roundsIn_self (e ▸ hk)
  have lo : k * d < x := by
    rw [← lt_div_iff₀ hd]
    exact h.lt_of_ne hc
  have hi : x < (k + 1) * d := by rw [← div_lt_iff₀ hd]; exact h.lt
  obtain ⟨tz, up, dn⟩ := roundsIn_directed_of_neighbours hG gap lo hi hk hk1 (by positivity)
  have near := fun (y o : Real) => roundsIn_rne_of_neighbours (y := y) (o := o) gap lo hi
  have dlo : |x - k * d| = x - k * d := abs_of_pos (by linarith)
  have dhi : |x - (k + 1) * d| = (k + 1) * d - x := by rw [abs_sub_comm]; exact abs_of_pos (by linarith)
  have step : |(k + 1) * d - k * d| = d := by rw [abs_of_pos] <;> linarith
  have step' : |k * d - (k + 1) * d| = d := by rw [abs_sub_comm, step]
  cases r with
  | rtz => simpa [roundedUnits, roundsUp] using tz
  | rup => simpa [roundedUnits, roundsUp, hc] using up
  | rdn => simpa [roundedUnits, roundsUp] using dn
  | rne =>
    cases h with
    | exact h => exact absurd rfl hc
    | below h h' =>
      rw [div_lt_iff₀ hd] at h'
      simpa [roundedUnits, roundsUp] using near _ _ (.inl ⟨rfl, rfl⟩) hk (by rw [dlo, dhi]; linarith)
        (fun e => by rw [dlo, dhi] at e; linarith)
    | above h h' =>
      rw [lt_div_iff₀ hd] at h
      simpa [roundedUnits, roundsUp] using near _ _ (.inr ⟨rfl, rfl⟩) hk1 (by rw [dlo, dhi]; linarith)
        (fun e => by rw [dlo, dhi] at e; linarith)
    | tie h =>
      rw [div_eq_iff hd.ne'] at h
      rcases Nat.even_or_odd' k with ⟨j, e | e⟩
      · have hm : ¬ k % 2 = 1 := by omega
        simpa [roundedUnits, roundsUp, hm] using near _ _ (.inl ⟨rfl, rfl⟩) hk (by rw [dlo, dhi]; linarith)
          (fun _ => ⟨j, by rw [step, e]; push_cast; ring⟩)
      · have hm : k % 2 = 1 := by omega
        simpa [roundedUnits, roundsUp, hm] using near _ _ (.inr ⟨rfl, rfl⟩) hk1 (by rw [dlo, dhi]; linarith)
          (fun _ => ⟨j + 1, by rw [step', e]; push_cast; ring⟩)

/-- See roundsIn_of_cell, for a number of either sign. -/
theorem roundsIn_of_cell_sign {r : Rounding} {G : Real → Prop} {x d : Real} {k c : Nat} (s : Bool) (hd : 0 < d)
    (hG : ∀ z, G z → G (-z)) (hk : G (k * d)) (hk1 : G ((k + 1) * d))
    (gap : ∀ z, G z → z ≤ k * d ∨ (k + 1) * d ≤ z) (h : Cell (x / d) k c) :
    RoundsIn r G ((if s then -1 else 1) * x) ((if s then -1 else 1) * (roundedUnits r s k c * d)) := by
  cases s with
  | false => simpa using roundsIn_of_cell hd hG hk hk1 gap h
  | true =>
    have := (roundsIn_of_cell (r := mirrored r) hd hG hk hk1 gap h).neg hG
    rw [← roundedUnits_mirrored, mirrored_mirrored] at this
    simpa using this

end RealRounding
end Sys2Proof.Machine

/-! One rounding of a magnitude (spec 02 R72, R76): FpFmt.round meets FpFmt.RoundsTo. -/

namespace Sys2Proof.Machine
section FormatRounding

/-- The real number 1 or -1 of a sign. -/
def sgn (s : Bool) : Real := if s then -1 else 1

/-! The grids of a format. -/

theorem FpFmt.grid_neg (f : FpFmt) (b : Bool) (z : Real) (h : f.Grid b z) : f.Grid b (-z) := by
  obtain ⟨n, q, hn, hq, e⟩ := h
  exact ⟨-n, q, by rwa [abs_neg], hq, by rw [e]; push_cast; ring⟩

theorem FpFmt.grid_units (f : FpFmt) (b : Bool) {n : Nat} {q : Int} (hn : n ≤ 2 ^ (f.mbits + 1))
    (hq : b = false → f.qmin ≤ q) : f.Grid b (n * (2 : Real) ^ q) :=
  ⟨n, q, by rw [Nat.abs_cast]; exact_mod_cast hn, hq, by push_cast; ring⟩

/-- No number of the grid lies between neighbouring multiples of 2^q, at the spacing of their binade or the least one. -/
theorem FpFmt.grid_gap (f : FpFmt) (b : Bool) {k : Nat} {q : Int} (h : 2 ^ f.mbits ≤ k ∨ b = false ∧ q = f.qmin)
    (z : Real) (hz : f.Grid b z) : z ≤ k * (2 : Real) ^ q ∨ (k + 1) * (2 : Real) ^ q ≤ z := by
  obtain ⟨n, q', hn, hq', rfl⟩ := hz
  have hpos : (0 : Real) < 2 ^ q := by positivity
  rcases le_or_gt q q' with hle | hlt
  · obtain ⟨j, rfl⟩ := Int.le.dest hle
    rw [zpow_add₀ two_ne_zero, zpow_natCast, mul_comm ((2 : Real) ^ q), ← mul_assoc]
    rcases le_or_gt (n * 2 ^ j) (k : Int) with hk | hk
    · exact .inl (mul_le_mul_of_nonneg_right (by exact_mod_cast hk) hpos.le)
    · exact .inr (mul_le_mul_of_nonneg_right (by exact_mod_cast hk) hpos.le)
  · have hk : 2 ^ f.mbits ≤ k := by
      rcases h with h | ⟨hb, hq⟩
      · exact h
      · exact absurd (hq' hb) (by omega)
    refine .inl ?_
    calc (n : Real) * 2 ^ q' ≤ 2 ^ (f.mbits + 1) * 2 ^ q' :=
          mul_le_mul_of_nonneg_right (by exact_mod_cast (le_abs_self n).trans hn) (by positivity)
      _ = 2 ^ f.mbits * 2 ^ (q' + 1) := by rw [zpow_add₀ two_ne_zero, pow_succ]; ring
      _ ≤ k * 2 ^ q :=
          mul_le_mul (by exact_mod_cast hk) (zpow_le_zpow_right₀ one_le_two (by omega)) (by positivity) (by positivity)

/-! A magnitude given by its units. -/

/-- x is m * 2^e or, with sticky, lies strictly between m and m + 1 units of 2^e. -/
def Lies (x : Real) (m : Nat) (e : Int) (sticky : Bool) : Prop :=
  if sticky then m * (2 : Real) ^ e < x ∧ x < (m + 1) * (2 : Real) ^ e else x = m * (2 : Real) ^ e

/-- The units and exponent that stand for x in FpFmt.round: with sticky a unit of a quarter and one such unit more. -/
def stickyUnits (m : Nat) (sticky : Bool) : Nat := if sticky then m * 4 + 1 else m

/-- See stickyUnits. -/
def stickyExp (e : Int) (sticky : Bool) : Int := if sticky then e - 2 else e

theorem remClass_cell (m K : Nat) : Cell ((m : Real) / 2 ^ K) (m / 2 ^ K) (remClass m K) := by
  have hD : (0 : Real) < 2 ^ K := by positivity
  have hm : (m : Real) = 2 ^ K * (m / 2 ^ K : Nat) + (m % 2 ^ K : Nat) := by exact_mod_cast (Nat.div_add_mod m (2 ^ K)).symm
  have hlt : ((m % 2 ^ K : Nat) : Real) < 2 ^ K := by exact_mod_cast Nat.mod_lt m (Nat.two_pow_pos K)
  unfold remClass
  generalize m % 2 ^ K = t at *
  generalize m / 2 ^ K = a at *
  have hv : (m : Real) / 2 ^ K = a + t / 2 ^ K := by rw [hm]; field_simp
  rw [hv]
  dsimp only
  split_ifs with h0 h1 h2
  · exact .exact (by simp [h0])
  · have h1' : (2 : Real) * t < 2 ^ K := by exact_mod_cast h1
    have : (0 : Real) < t := by exact_mod_cast Nat.pos_of_ne_zero h0
    refine .below (by have : 0 < (t : Real) / 2 ^ K := by positivity
                      linarith) (add_lt_add_right ?_ _)
    rw [div_lt_div_iff₀ hD two_pos]; linarith
  · have h2' : (2 : Real) * t = 2 ^ K := by exact_mod_cast h2
    exact .tie (by rw [← h2']; have : (t : Real) ≠ 0 := by exact_mod_cast h0
                   field_simp)
  · have h2' : (2 : Real) ^ K < 2 * t := by exact_mod_cast (by omega : 2 ^ K < 2 * t)
    refine .above (add_lt_add_right ?_ _) (add_lt_add_right ?_ _)
    · rw [div_lt_div_iff₀ two_pos hD]; linarith
    · rwa [div_lt_one hD]

/-- Between quarter units m0 * 4 and m0 * 4 + 4 no multiple of 2^K nor the middle of two lies. -/
theorem remClass_cell_sticky {m0 K : Nat} {w : Real} (hK : 3 ≤ K) (lo : (m0 : Real) * 4 < w) (hi : w < m0 * 4 + 4) :
    Cell (w / 2 ^ K) ((m0 * 4 + 1) / 2 ^ K) (remClass (m0 * 4 + 1) K) := by
  have hD : (0 : Real) < 2 ^ K := by positivity
  obtain ⟨h, hh⟩ : ∃ h, 2 ^ K = 8 * h := ⟨2 ^ (K - 3), by rw [show K = 3 + (K - 3) by omega, pow_add]; norm_num⟩
  have hDh : (2 : Real) ^ K = 8 * h := by exact_mod_cast hh
  have hm := Nat.div_add_mod (m0 * 4 + 1) (2 ^ K)
  have hlt := Nat.mod_lt (m0 * 4 + 1) (Nat.two_pow_pos K)
  unfold remClass
  generalize (m0 * 4 + 1) % 2 ^ K = t at *
  generalize (m0 * 4 + 1) / 2 ^ K = a at *
  rw [hh] at hm hlt ⊢
  have h4 : t % 4 = 1 := by
    have : m0 * 4 + 1 = 4 * (2 * (h * a)) + t := by rw [← hm]; ring
    omega
  have hmR : (m0 : Real) * 4 + 1 = 8 * h * a + t := by exact_mod_cast hm.symm
  have h1R : (1 : Real) ≤ t := by exact_mod_cast (by omega : 1 ≤ t)
  rw [hDh] at hD ⊢
  have scale : ∀ c : Real, c * (8 * h) < w → c < w / (8 * h) := fun c hc => by rwa [lt_div_iff₀ hD]
  have scale' : ∀ c : Real, w < c * (8 * h) → w / (8 * h) < c := fun c hc => by rwa [div_lt_iff₀ hD]
  dsimp only
  rw [if_neg (by omega)]
  split_ifs with h1 h2
  · have : (t : Real) + 3 ≤ 4 * h := by exact_mod_cast (by omega : t + 3 ≤ 4 * h)
    exact .below (scale _ (by linarith)) (scale' _ (by linarith))
  · omega
  · have : (4 : Real) * h + 1 ≤ t := by exact_mod_cast (by omega : 4 * h + 1 ≤ t)
    have : (t : Real) + 3 ≤ 8 * h := by exact_mod_cast (by omega : t + 3 ≤ 8 * h)
    exact .above (scale _ (by linarith)) (scale' _ (by linarith))

/-- Rounding to a multiple of 2^q finds the cell of the exact magnitude. -/
theorem roundAt_cell {x : Real} {m : Nat} {e q : Int} {sticky : Bool} (hx : Lies x m e sticky)
    (hq : sticky = true → e < q) :
    ∃ k c, Cell (x / 2 ^ q) k c ∧ ∀ r s,
      roundAt r s (stickyUnits m sticky) (stickyExp e sticky) q = (roundedUnits r s k c, c != 0) := by
  unfold roundAt
  by_cases hle : q ≤ stickyExp e sticky
  · have hs : sticky = false := by
      by_contra h
      rw [Bool.not_eq_false] at h
      have := hq h
      simp only [stickyExp, h, if_true] at hle
      omega
    subst hs
    simp only [stickyExp, stickyUnits, Bool.false_eq_true, if_false] at hle ⊢
    refine ⟨m * 2 ^ (e - q).toNat, 0, .exact ?_, fun r s => by simp [hle, roundedUnits_exact]⟩
    rw [show x = m * (2 : Real) ^ e from hx, div_eq_iff (by positivity)]
    push_cast
    rw [mul_assoc, ← zpow_natCast (2 : Real), ← zpow_add₀ two_ne_zero]
    congr 2
    omega
  · refine ⟨stickyUnits m sticky / 2 ^ (q - stickyExp e sticky).toNat, remClass (stickyUnits m sticky) _, ?_,
      fun r s => by simp only [hle, if_false]; rfl⟩
    have hsplit : (2 : Real) ^ q = 2 ^ stickyExp e sticky * 2 ^ (q - stickyExp e sticky).toNat := by
      rw [← zpow_natCast (2 : Real), ← zpow_add₀ two_ne_zero]; congr 1; omega
    rw [hsplit, ← div_div]
    cases sticky with
    | false =>
      have : x / 2 ^ stickyExp e false = (stickyUnits m false : Real) := by
        rw [show x = m * (2 : Real) ^ e from hx]; simp only [stickyExp, stickyUnits, Bool.false_eq_true, if_false]; field_simp
      rw [this]
      exact remClass_cell _ _
    | true =>
      obtain ⟨lo, hi⟩ : m * (2 : Real) ^ e < x ∧ x < (m + 1) * (2 : Real) ^ e := by simpa [Lies] using hx
      have he : (2 : Real) ^ e = 4 * 2 ^ (e - 2) := by rw [zpow_sub₀ two_ne_zero]; norm_num; ring
      have hp : (0 : Real) < 2 ^ (e - 2) := by positivity
      have := hq rfl
      refine remClass_cell_sticky (by simp only [stickyExp, if_true]; omega) ?_ ?_
      · rw [stickyExp, if_pos rfl, lt_div_iff₀ hp]; rw [he] at lo; linarith
      · rw [stickyExp, if_pos rfl, div_lt_iff₀ hp]; rw [he] at hi; linarith

end FormatRounding
end Sys2Proof.Machine

/-! The cut of a magnitude at a format's width (spec 02 R72). -/

namespace Sys2Proof.Machine
section FormatRounding

theorem bitLen_bounds {n : Nat} (h : n ≠ 0) : 2 ^ (bitLen n - 1) ≤ n ∧ n < 2 ^ bitLen n ∧ 1 ≤ bitLen n := by
  unfold bitLen
  rw [if_neg h, Nat.add_sub_cancel]
  exact ⟨Nat.log2_self_le h, Nat.lt_log2_self, by omega⟩

/-- The exponent at which x has a significand of the format's full width. -/
def FpFmt.normExp (f : FpFmt) (m : Nat) (e : Int) (sticky : Bool) : Int :=
  stickyExp e sticky + bitLen (stickyUnits m sticky) - (f.mbits + 1 : Nat)

theorem stickyUnits_ne_zero {m : Nat} (hm : m ≠ 0) (sticky : Bool) : stickyUnits m sticky ≠ 0 := by
  unfold stickyUnits
  split <;> omega

/-- With that exponent the magnitude lies in the binade of the full width. -/
theorem FpFmt.normExp_binade (f : FpFmt) {x : Real} {m : Nat} {e : Int} {sticky : Bool} (hx : Lies x m e sticky)
    (hm : m ≠ 0) : 2 ^ f.mbits ≤ x / (2 : Real) ^ f.normExp m e sticky ∧
      x / (2 : Real) ^ f.normExp m e sticky < 2 ^ (f.mbits + 1) := by
  obtain ⟨lo, hi, h1⟩ := bitLen_bounds (stickyUnits_ne_zero hm sticky)
  set L := bitLen (stickyUnits m sticky) with hL
  have bounds : 2 ^ (L - 1) * (2 : Real) ^ stickyExp e sticky ≤ x ∧ x < 2 ^ L * (2 : Real) ^ stickyExp e sticky := by
    cases sticky with
    | false =>
      rw [show x = m * (2 : Real) ^ e from hx]
      exact ⟨mul_le_mul_of_nonneg_right (by exact_mod_cast lo) (by positivity),
        mul_lt_mul_of_pos_right (by exact_mod_cast hi) (by positivity)⟩
    | true =>
      obtain ⟨xlo, xhi⟩ : m * (2 : Real) ^ e < x ∧ x < (m + 1) * (2 : Real) ^ e := by simpa [Lies] using hx
      have he : (2 : Real) ^ e = 4 * 2 ^ (e - 2) := by rw [zpow_sub₀ two_ne_zero]; norm_num; ring
      have hp : (0 : Real) < 2 ^ (e - 2) := by positivity
      simp only [stickyUnits, stickyExp, if_true] at lo hi ⊢
      have h4 : 2 ^ L % 4 = 0 := by
        have : 3 ≤ L := by
          by_contra h
          have := Nat.pow_le_pow_right two_pos (show L ≤ 2 by omega)
          omega
        rw [show L = 2 + (L - 2) by omega, pow_add]
        exact Nat.mul_mod_right 4 _
      have h4' : 2 * 2 ^ (L - 1) = 2 ^ L := by rw [← pow_succ', Nat.sub_add_cancel h1]
      have loR : (2 : Real) ^ (L - 1) ≤ m * 4 := by exact_mod_cast (by omega : 2 ^ (L - 1) ≤ m * 4)
      have hiR : (m : Real) * 4 + 4 ≤ 2 ^ L := by exact_mod_cast (by omega : m * 4 + 4 ≤ 2 ^ L)
      rw [he] at xlo xhi
      constructor <;> nlinarith
  have scale : ∀ j : Nat, (2 : Real) ^ j * 2 ^ stickyExp e sticky =
      (2 : Real) ^ ((j : Int) - L + (f.mbits + 1 : Nat)) * 2 ^ f.normExp m e sticky := by
    intro j
    rw [← zpow_natCast, ← zpow_add₀ two_ne_zero, ← zpow_add₀ two_ne_zero, FpFmt.normExp, ← hL]
    congr 1
    ring
  rw [scale, scale, ← le_div_iff₀ (by positivity), ← div_lt_iff₀ (by positivity)] at bounds
  rw [show ((L - 1 : Nat) : Int) - L + (f.mbits + 1 : Nat) = (f.mbits : Nat) by omega,
    show (L : Int) - L + (f.mbits + 1 : Nat) = (f.mbits + 1 : Nat) by omega] at bounds
  exact_mod_cast bounds

/-- A sticky magnitude of more than the full width is cut above its units. -/
theorem FpFmt.lt_normExp (f : FpFmt) {m : Nat} {e : Int} (h : 2 ^ (f.mbits + 1) ≤ m) : e < f.normExp m e true := by
  have hm : stickyUnits m true ≠ 0 := by simp [stickyUnits]
  have hi := (bitLen_bounds hm).2.1
  have : f.mbits + 1 + 2 < bitLen (stickyUnits m true) := by
    by_contra hlt
    have := Nat.pow_le_pow_right two_pos (not_lt.1 hlt)
    rw [pow_add] at this
    simp only [stickyUnits, if_true] at hi this
    omega
  unfold FpFmt.normExp stickyExp
  rw [if_pos rfl]
  omega

end FormatRounding
end Sys2Proof.Machine

/-! Codes of normal and subnormal numbers (spec 02 R71), and the cases of FpFmt.round. -/

namespace Sys2Proof.Machine
section FormatRounding

/-- A format with room for normal numbers on both sides of 1, as the three of R71 are. -/
structure FpFmt.Roomy (f : FpFmt) : Prop where
  ebits : 2 ≤ f.ebits
  mbits : 1 ≤ f.mbits

theorem FpFmt.roomy_of {f : FpFmt} (h : f = fp32 ∨ f = bf16 ∨ f = fp16) : f.Roomy := by
  rcases h with rfl | rfl | rfl <;> exact ⟨by decide, by decide⟩

theorem FpFmt.Roomy.fields {f : FpFmt} (hf : f.Roomy) : 4 ≤ 2 ^ f.ebits :=
  Nat.pow_le_pow_right two_pos hf.ebits

/-- The number of exponents from the least to the largest. -/
theorem FpFmt.Roomy.qmax_eq {f : FpFmt} (hf : f.Roomy) : f.qmax = f.qmin + (2 ^ f.ebits - 3 : Nat) := by
  have := hf.fields
  unfold FpFmt.qmax FpFmt.qmin
  omega

/-- The code of n * 2^q, for n of the full width or the least q. -/
def FpFmt.magCode (f : FpFmt) (n : Nat) (q : Int) : Nat :=
  if n < 2 ^ f.mbits then n else (q - f.qmin).toNat * 2 ^ f.mbits + n

/-- n * 2^q is a finite magnitude of the format, in its own form. -/
structure FpFmt.Normal (f : FpFmt) (n : Nat) (q : Int) : Prop where
  width : n < 2 ^ (f.mbits + 1)
  least : f.qmin ≤ q
  full : 2 ^ f.mbits ≤ n ∨ q = f.qmin

theorem FpFmt.magCode_lt {f : FpFmt} (hf : f.Roomy) {n : Nat} {q : Int} (h : f.Normal n q) (hq : q ≤ f.qmax) :
    f.magCode n q < f.expOnes := by
  have hE := hf.fields
  have hw := h.width
  have he := hf.qmax_eq
  unfold FpFmt.magCode FpFmt.expOnes
  rw [pow_succ] at hw
  split
  · nlinarith [Nat.two_pow_pos f.mbits, (by omega : 1 ≤ 2 ^ f.ebits - 1)]
  · have : (q - f.qmin).toNat + 3 ≤ 2 ^ f.ebits := by have := h.least; omega
    obtain ⟨j, hj⟩ := Nat.exists_eq_add_of_le' this
    rw [hj, show j + ((q - f.qmin).toNat + 3) - 1 = j + (q - f.qmin).toNat + 2 by omega]
    nlinarith [Nat.zero_le (j * 2 ^ f.mbits)]

theorem FpFmt.expOnes_lt (f : FpFmt) : f.expOnes < 2 ^ (f.ebits + f.mbits) := by
  unfold FpFmt.expOnes
  rw [pow_add]
  exact Nat.mul_lt_mul_of_pos_right (Nat.sub_lt (Nat.two_pow_pos _) one_pos) (Nat.two_pow_pos _)

/-- The fields of a code below the sign bit, and the sign. -/
theorem FpFmt.signBit_fields (f : FpFmt) (s : Bool) {c : Nat} (h : c < 2 ^ (f.ebits + f.mbits)) :
    bits (f.signBit s + c) (f.ebits + f.mbits) 1 = (if s then 1 else 0) ∧
    bits (f.signBit s + c) f.mbits f.ebits = c / 2 ^ f.mbits ∧ bits (f.signBit s + c) 0 f.mbits = c % 2 ^ f.mbits := by
  have hE : c / 2 ^ f.mbits < 2 ^ f.ebits := by rwa [Nat.div_lt_iff_lt_mul (Nat.two_pow_pos _), ← pow_add]
  cases s with
  | false =>
    simp only [FpFmt.signBit, bits, Bool.false_eq_true, if_false, zero_add, Nat.div_eq_of_lt h, pow_zero, Nat.div_one]
    exact ⟨rfl, Nat.mod_eq_of_lt hE, trivial⟩
  | true =>
    simp only [FpFmt.signBit, bits, if_true, pow_zero, Nat.div_one]
    refine ⟨?_, ?_, ?_⟩
    · rw [Nat.add_div_left _ (Nat.two_pow_pos _), Nat.div_eq_of_lt h]; rfl
    · rw [pow_add, Nat.add_comm, Nat.add_mul_div_right _ _ (Nat.two_pow_pos _), Nat.add_mod_right, Nat.mod_eq_of_lt hE]
    · rw [pow_add, Nat.add_comm, Nat.add_mul_mod_self_right]

theorem FpFmt.read_magCode {f : FpFmt} (hf : f.Roomy) (s : Bool) {n : Nat} {q : Int} (h : f.Normal n q) (hq : q ≤ f.qmax) :
    f.read (f.signBit s + f.magCode n q) = .fin s n q := by
  obtain ⟨h1, h2, h3⟩ := f.signBit_fields s ((f.magCode_lt hf h hq).trans f.expOnes_lt)
  have hE := hf.fields
  have he := hf.qmax_eq
  obtain ⟨hw, hleast, hfull⟩ := h
  have hs : ((if s then 1 else 0) == 1) = s := by cases s <;> rfl
  unfold FpFmt.read
  rw [h1, h2, h3, hs]
  unfold FpFmt.magCode
  by_cases hn : n < 2 ^ f.mbits
  · have hq0 : q = f.qmin := hfull.resolve_left (by omega)
    rw [if_pos hn, Nat.div_eq_of_lt hn, Nat.mod_eq_of_lt hn, if_neg (by omega), if_pos rfl, hq0]
  · obtain ⟨fr, rfl⟩ := Nat.exists_eq_add_of_le (not_lt.1 hn)
    have hfr : fr < 2 ^ f.mbits := by rw [pow_succ] at hw; omega
    have hj : (q - f.qmin).toNat + 1 < 2 ^ f.ebits - 1 := by omega
    rw [if_neg hn, show (q - f.qmin).toNat * 2 ^ f.mbits + (2 ^ f.mbits + fr) = fr + ((q - f.qmin).toNat + 1) * 2 ^ f.mbits by
      ring, Nat.add_mul_div_right _ _ (Nat.two_pow_pos _), Nat.div_eq_of_lt hfr, Nat.add_mul_mod_self_right,
      Nat.mod_eq_of_lt hfr, if_neg (by omega), if_neg (by omega)]
    congr 1
    push_cast
    omega

/-! The rounding. -/

/-- FpFmt.round, from the multiples and cells that roundAt finds at the spacing and at the unbounded exponent. -/
theorem FpFmt.round_eq (f : FpFmt) {r : Rounding} {s : Bool} {m : Nat} {e : Int} {sticky i i' : Bool} {n u : Nat}
    (hn : roundAt r s (stickyUnits m sticky) (stickyExp e sticky) (max (f.normExp m e sticky) f.qmin) = (n, i))
    (hu : roundAt r s (stickyUnits m sticky) (stickyExp e sticky) (f.normExp m e sticky) = (u, i')) :
    f.round r s m e sticky =
      let carry := n = 2 ^ (f.mbits + 1)
      let q := max (f.normExp m e sticky) f.qmin
      let q' := if carry then q + 1 else q
      if f.qmax < q' then (f.overflow r s, fOF ||| fNX)
      else
        let tiny := f.normExp m e sticky < f.qmin && !(u == 2 ^ (f.mbits + 1) && f.normExp m e sticky + 1 == f.qmin)
        (f.signBit s + f.magCode (if carry then 2 ^ f.mbits else n) q',
          (if i then fNX else 0) ||| (if tiny && i then fUF else 0)) := by
  unfold FpFmt.round
  simp only [FpFmt.normExp, stickyUnits, stickyExp] at hn hu ⊢
  simp only [hn, hu]
  by_cases hc : n = 2 ^ (f.mbits + 1) <;> simp [hc, FpFmt.magCode]

theorem FpFmt.overflow_eq (f : FpFmt) (r : Rounding) (s : Bool) :
    f.overflow r s = if r = .rne ∨ r = (if s then .rdn else .rup) then f.inf s else f.huge s := by
  cases r <;> cases s <;> rfl

end FormatRounding
end Sys2Proof.Machine

/-! FpFmt.round delivers a rounding, with the flags of R76 (spec 02 R72, R76). -/

namespace Sys2Proof.Machine
section FormatRounding

theorem Lies.pos {x : Real} {m : Nat} {e : Int} {sticky : Bool} (hx : Lies x m e sticky) (hm : m ≠ 0) : 0 < x := by
  have : (0 : Real) < m := by exact_mod_cast Nat.pos_of_ne_zero hm
  cases sticky with
  | false => rw [show x = m * (2 : Real) ^ e from hx]; positivity
  | true =>
    obtain ⟨lo, _⟩ : m * (2 : Real) ^ e < x ∧ _ := by simpa [Lies] using hx
    exact lt_trans (by positivity) lo

theorem sgn_mul_neg_iff (s : Bool) {x : Real} (hx : 0 < x) : s = true ↔ sgn s * x < 0 := by
  cases s <;> simp [sgn, hx, hx.le]

theorem abs_sgn_mul (s : Bool) {x : Real} (hx : 0 ≤ x) : |sgn s * x| = x := by
  cases s <;> simp [sgn, abs_of_nonneg hx]

theorem sgn_mul_inj (s : Bool) {x y : Real} : sgn s * x = sgn s * y ↔ x = y := by
  cases s <;> simp [sgn]

theorem Cell.rounded_le {v : Real} {k c w : Nat} (h : Cell v k c) (hv : v < 2 ^ w) (r : Rounding) (s : Bool) :
    roundedUnits r s k c ≤ 2 ^ w := by
  have : k < 2 ^ w := by exact_mod_cast h.le.trans_lt hv
  rcases roundedUnits_eq r s k c with e | e <;> omega

theorem Cell.le_floor {v : Real} {k c w : Nat} (h : Cell v k c) (hv : 2 ^ w ≤ v) : 2 ^ w ≤ k := by
  have : (2 : Real) ^ w < k + 1 := hv.trans_lt h.lt
  exact Nat.lt_succ_iff.1 (by exact_mod_cast this)

theorem Cell.le_rounded {v : Real} {k c w : Nat} (h : Cell v k c) (hv : 2 ^ w ≤ v) (r : Rounding) (s : Bool) :
    2 ^ w ≤ roundedUnits r s k c := (h.le_floor hv).trans (Nat.le_add_right _ _)

theorem rat_fin (s : Bool) (m : Nat) (e : Int) : ((FpVal.fin s m e).rat : Real) = sgn s * (m * (2 : Real) ^ e) := by
  cases s <;> simp [FpVal.rat, sgn]

/-- A cell below the full width gives the rounding in the grid. -/
theorem FpFmt.roundsIn_grid (f : FpFmt) {b : Bool} {x : Real} {k c : Nat} {q : Int} (h : Cell (x / (2 : Real) ^ q) k c)
    (width : x / (2 : Real) ^ q < 2 ^ (f.mbits + 1)) (least : b = false → f.qmin ≤ q)
    (full : 2 ^ f.mbits ≤ x / (2 : Real) ^ q ∨ b = false ∧ q = f.qmin) (r : Rounding) (s : Bool) :
    RoundsIn r (f.Grid b) (sgn s * x) (sgn s * (roundedUnits r s k c * (2 : Real) ^ q)) := by
  have hk : k < 2 ^ (f.mbits + 1) := by exact_mod_cast h.le.trans_lt width
  have hfull : 2 ^ f.mbits ≤ k ∨ b = false ∧ q = f.qmin := full.imp_left h.le_floor
  refine roundsIn_of_cell_sign s (by positivity) (f.grid_neg b) (f.grid_units b hk.le least) ?_ (f.grid_gap b hfull) h
  exact_mod_cast f.grid_units b hk least

/-- A rounded significand that reached the next power of two takes the next exponent: the same number in its own form. -/
theorem FpFmt.normal_carry (f : FpFmt) {n : Nat} {q : Int} (hn : n ≤ 2 ^ (f.mbits + 1)) (least : f.qmin ≤ q)
    (full : 2 ^ f.mbits ≤ n ∨ q = f.qmin) :
    let carry := n = 2 ^ (f.mbits + 1)
    f.Normal (if carry then 2 ^ f.mbits else n) (if carry then q + 1 else q) ∧
      ((if carry then 2 ^ f.mbits else n : Nat) : Real) * (2 : Real) ^ (if carry then q + 1 else q) = n * (2 : Real) ^ q := by
  dsimp only
  split_ifs with h
  · refine ⟨⟨Nat.pow_lt_pow_right one_lt_two (by omega), by omega, .inl le_rfl⟩, ?_⟩
    rw [h, zpow_add₀ two_ne_zero, pow_succ]
    push_cast
    ring
  · exact ⟨⟨by omega, least, full⟩, rfl⟩

/-- A number in its own form exceeds the largest finite one exactly when its exponent does. -/
theorem FpFmt.Normal.top_lt_iff {f : FpFmt} (hf : f.Roomy) {n : Nat} {q : Int} (h : f.Normal n q) :
    (2 ^ (f.mbits + 1) - 1) * (2 : Real) ^ f.qmax < n * (2 : Real) ^ q ↔ f.qmax < q := by
  have he := hf.qmax_eq
  obtain ⟨width, least, full⟩ := h
  have hw : (n : Real) + 1 ≤ 2 ^ (f.mbits + 1) := by exact_mod_cast width
  constructor
  · intro h
    by_contra! hq
    have : (n : Real) * 2 ^ q ≤ (2 ^ (f.mbits + 1) - 1) * 2 ^ f.qmax :=
      mul_le_mul (by linarith) (zpow_le_zpow_right₀ one_le_two hq) (by positivity) (by linarith [n.cast_nonneg (α := Real)])
    linarith
  · intro h
    have hn : (2 : Real) ^ f.mbits ≤ n := by exact_mod_cast full.resolve_right (by omega)
    have hz : (2 : Real) ^ (f.qmax + 1) ≤ 2 ^ q := zpow_le_zpow_right₀ one_le_two (by omega)
    calc (2 ^ (f.mbits + 1) - 1) * (2 : Real) ^ f.qmax < 2 ^ (f.mbits + 1) * 2 ^ f.qmax :=
          mul_lt_mul_of_pos_right (by linarith) (by positivity)
      _ = 2 ^ f.mbits * 2 ^ (f.qmax + 1) := by rw [zpow_add₀ two_ne_zero, pow_succ]; ring
      _ ≤ n * 2 ^ q := mul_le_mul hn hz (by positivity) (by positivity)

/-- The model's test for a tiny result (02 R72): the rounding with the exponent unbounded lies below the normal numbers. -/
theorem FpFmt.tiny_iff (f : FpFmt) {u : Nat} {q : Int} (lo : 2 ^ f.mbits ≤ u) (hi : u ≤ 2 ^ (f.mbits + 1)) :
    (decide (q < f.qmin) && !(u == 2 ^ (f.mbits + 1) && q + 1 == f.qmin)) = true ↔
      (u : Real) * (2 : Real) ^ q < (2 : Real) ^ (f.qmin + f.mbits) := by
  have hz : (2 : Real) ^ (f.qmin + f.mbits) = 2 ^ f.mbits * 2 ^ f.qmin := by
    rw [zpow_add₀ two_ne_zero, zpow_natCast]; ring
  have lo' : (2 : Real) ^ f.mbits ≤ u := by exact_mod_cast lo
  have hi' : (u : Real) ≤ 2 ^ (f.mbits + 1) := by exact_mod_cast hi
  have half : (2 : Real) ^ f.mbits * 2 ^ f.qmin = 2 ^ (f.mbits + 1) * 2 ^ (f.qmin - 1) := by
    rw [zpow_sub₀ two_ne_zero, pow_succ]; norm_num; ring
  rw [hz]
  simp only [Bool.and_eq_true, decide_eq_true_eq, Bool.not_eq_true', Bool.and_eq_false_iff, beq_eq_false_iff_ne]
  constructor
  · rintro ⟨hq, hne⟩
    rw [half]
    by_cases h1 : q + 1 = f.qmin
    · have : (u : Real) < 2 ^ (f.mbits + 1) := by
        exact_mod_cast lt_of_le_of_ne hi (hne.resolve_right (fun h => h h1))
      rw [show q = f.qmin - 1 by omega]
      exact mul_lt_mul_of_pos_right this (by positivity)
    · exact mul_lt_mul' hi' (zpow_lt_zpow_right₀ one_lt_two (by omega)) (by positivity) (by positivity)
  · intro h
    refine ⟨?_, ?_⟩
    · by_contra! hq
      exact absurd h (not_lt.2 (mul_le_mul lo' (zpow_le_zpow_right₀ one_le_two hq) (by positivity) (by positivity)))
    · by_contra! hc
      obtain ⟨hu, hq⟩ := hc
      rw [half, hu, show q = f.qmin - 1 by omega] at h
      push_cast at h
      exact lt_irrefl _ h

/-- A code of the format's width, up to the infinities. -/
theorem FpFmt.signBit_add_lt (f : FpFmt) (s : Bool) {c : Nat} (h : c ≤ f.expOnes) :
    f.signBit s + c < 2 ^ (1 + f.ebits + f.mbits) := by
  have := f.expOnes_lt
  rw [add_assoc, pow_add, pow_one]
  unfold FpFmt.signBit
  split <;> omega

theorem FpFmt.overflow_lt (f : FpFmt) (r : Rounding) (s : Bool) : f.overflow r s < 2 ^ (1 + f.ebits + f.mbits) := by
  have inf_lt : f.inf s < 2 ^ (1 + f.ebits + f.mbits) := f.signBit_add_lt s le_rfl
  rw [f.overflow_eq]
  rcases ite_eq_or_eq (r = .rne ∨ r = if s then .rdn else .rup) (f.inf s) (f.huge s) with h | h <;> rw [h]
  · exact inf_lt
  · exact (Nat.sub_le _ _).trans_lt inf_lt

/-- FpFmt.round delivers the exact magnitude rounded once, with its sign and its flags (02 R72, R76), in the format's width. -/
theorem FpFmt.round_delivers {f : FpFmt} (hf : f.Roomy) {x : Real} {m : Nat} {e : Int} {sticky : Bool}
    (hx : Lies x m e sticky) (hm : m ≠ 0) (wide : sticky = true → 2 ^ (f.mbits + 1) ≤ m) (r : Rounding) (s : Bool) :
    f.RoundsTo r (sgn s * x) (f.round r s m e sticky) ∧ (f.round r s m e sticky).1 < 2 ^ (1 + f.ebits + f.mbits) := by
  have x0 := hx.pos hm
  obtain ⟨blo, bhi⟩ := f.normExp_binade hx hm
  have cut : sticky = true → e < f.normExp m e sticky := fun h => by subst h; exact f.lt_normExp (wide rfl)
  obtain ⟨k, c, cell, hn⟩ := roundAt_cell hx (q := max (f.normExp m e sticky) f.qmin) (fun h => lt_max_of_lt_left (cut h))
  obtain ⟨k', c', cell', hu⟩ := roundAt_cell hx cut
  rw [f.round_eq (hn r s) (hu r s)]
  have full : 2 ^ f.mbits ≤ x / (2 : Real) ^ max (f.normExp m e sticky) f.qmin ∨ max (f.normExp m e sticky) f.qmin = f.qmin := by
    rcases max_choice (f.normExp m e sticky) f.qmin with h | h
    · rw [h]; exact .inl blo
    · exact .inr h
  have width : x / (2 : Real) ^ max (f.normExp m e sticky) f.qmin < 2 ^ (f.mbits + 1) :=
    (div_le_div_of_nonneg_left x0.le (by positivity) (zpow_le_zpow_right₀ one_le_two (le_max_left _ _))).trans_lt bhi
  have least := le_max_right (f.normExp m e sticky) f.qmin
  generalize max (f.normExp m e sticky) f.qmin = q at *
  have roundY := f.roundsIn_grid cell width (b := false) (fun _ => least) (full.imp_right fun h => ⟨rfl, h⟩) r s
  have roundT := f.roundsIn_grid cell' bhi (b := true) (fun h => by cases h) (.inl blo) r s
  have isExact : sgn s * (roundedUnits r s k c * (2 : Real) ^ q) = sgn s * x ↔ c = 0 := by
    rw [sgn_mul_inj, ← cell.rounded_eq_iff r s, eq_div_iff (by positivity)]
  have tiny := f.tiny_iff (q := f.normExp m e sticky) (cell'.le_rounded blo r s) (cell'.rounded_le bhi r s)
  obtain ⟨normal, value⟩ := f.normal_carry (cell.rounded_le width r s) least (full.imp_left fun h => cell.le_rounded h r s)
  dsimp only at normal value ⊢
  rw [← value] at isExact roundY
  generalize (if roundedUnits r s k c = 2 ^ (f.mbits + 1) then 2 ^ f.mbits else roundedUnits r s k c) = n' at *
  generalize (if roundedUnits r s k c = 2 ^ (f.mbits + 1) then q + 1 else q) = q' at *
  constructor
  · refine ⟨s, _, _, sgn_mul_neg_iff s x0, roundY, roundT, ?_⟩
    rw [abs_sgn_mul s (by positivity), abs_sgn_mul s (by positivity), ne_eq, isExact]
    dsimp only
    rw [← not_lt, ← not_lt, normal.top_lt_iff hf, ← tiny]
    generalize (decide (f.normExp m e sticky < f.qmin) && _) = t
    by_cases big : f.qmax < q'
    · simp only [big, if_true, f.overflow_eq, not_true_eq_false, false_implies, true_implies, and_true]
    · have read := f.read_magCode hf s normal (not_lt.1 big)
      simp only [big, if_false, read, false_implies, true_and, not_false_eq_true, true_implies, rat_fin]
      refine ⟨⟨_, _, rfl⟩, fun h => ?_, fun h ht => ?_, fun h ht => ?_⟩
      · simp [h]
      · simp [h, ht]
      · simp [h, ht]
  · split
    next => exact f.overflow_lt r s
    next h => exact f.signBit_add_lt s (f.magCode_lt hf normal (not_lt.1 h)).le

theorem FpFmt.round_roundsTo {f : FpFmt} (hf : f.Roomy) {x : Real} {m : Nat} {e : Int} {sticky : Bool}
    (hx : Lies x m e sticky) (hm : m ≠ 0) (wide : sticky = true → 2 ^ (f.mbits + 1) ≤ m) (r : Rounding) (s : Bool) :
    f.RoundsTo r (sgn s * x) (f.round r s m e sticky) := (f.round_delivers hf hx hm wide r s).1

end FormatRounding
end Sys2Proof.Machine

/-! Roundings without the inexact flag, numbers of the grid, and integer square roots (spec 02 R72, R76). -/

namespace Sys2Proof.Machine
section FiniteOperands

theorem FpFmt.RoundsTo.exact_of_flags {f : FpFmt} {r : Rounding} {x : Real} {c : Nat × Flags} (h : f.RoundsTo r x c)
    (hc : c.2 &&& fNX = 0) : ((f.read c.1).rat : Real) = x := by
  obtain ⟨s, y, t, _, _, _, overflows, fits⟩ := h
  rcases lt_or_ge ((2 ^ (f.mbits + 1) - 1) * (2 : Real) ^ f.qmax) |y| with big | small
  · rw [overflows big] at hc
    change (fOF ||| fNX) &&& fNX = 0 at hc
    exact absurd hc (by decide)
  · obtain ⟨_, value, _, tiny, normal⟩ := fits small
    rw [value]
    by_contra hne
    rcases lt_or_ge |t| ((2 : Real) ^ (f.qmin + f.mbits)) with ht | ht
    · rw [tiny hne ht] at hc
      exact absurd hc (by decide)
    · rw [normal hne ht] at hc
      exact absurd hc (by decide)

/-- A number of the format is delivered without a flag. -/
theorem FpFmt.RoundsTo.of_grid {f : FpFmt} {r : Rounding} {x : Real} {c : Nat × Flags} (h : f.RoundsTo r x c)
    (hx : f.Grid false x) (small : |x| ≤ (2 ^ (f.mbits + 1) - 1) * (2 : Real) ^ f.qmax) :
    (∃ s m e, f.read c.1 = .fin s m e) ∧ ((f.read c.1).rat : Real) = x ∧ c.2 = 0 := by
  obtain ⟨s, y, t, _, hy, _, _, fits⟩ := h
  obtain rfl := hy.eq_of_grid hx
  obtain ⟨⟨m, e, read⟩, value, flags, _⟩ := fits small
  exact ⟨⟨s, m, e, read⟩, value, flags rfl⟩

theorem lies_exact (m : Nat) (e : Int) : Lies (m * (2 : Real) ^ e) m e false := rfl

theorem lies_mul {v : Real} {q : Nat} (e : Int) {sticky : Bool} (h : if sticky then (q : Real) < v ∧ v < q + 1 else v = q) :
    Lies (v * (2 : Real) ^ e) q e sticky := by
  have hp : (0 : Real) < 2 ^ e := by positivity
  cases sticky with
  | false => exact congrArg (· * (2 : Real) ^ e) (h : v = q)
  | true => exact ⟨mul_lt_mul_of_pos_right h.1 hp, mul_lt_mul_of_pos_right h.2 hp⟩

/-- The units of a quotient. -/
theorem lies_div (a : Nat) {b : Nat} (hb : b ≠ 0) (e : Int) :
    Lies ((a : Real) / b * (2 : Real) ^ e) (a / b) e (a / b * b != a) := by
  have hb' : (0 : Real) < b := by exact_mod_cast Nat.pos_of_ne_zero hb
  refine lies_mul e ?_
  by_cases h : a / b * b = a
  · have : ((a / b : Nat) : Real) * b = a := by exact_mod_cast h
    simp [h, ← this, hb'.ne']
  · rw [bne_iff_ne.2 h, if_pos rfl, lt_div_iff₀ hb', div_lt_iff₀ hb']
    exact ⟨by exact_mod_cast lt_of_le_of_ne (Nat.div_mul_le_self a b) h,
      by rw [add_mul, one_mul]; exact_mod_cast Nat.lt_div_mul_add (Nat.pos_of_ne_zero hb)⟩

/-- The units of a square root, from the squares around it. -/
theorem lies_of_sq {w : Real} {q : Nat} (hw : 0 ≤ w) (e : Int) {sticky : Bool} (lo : (q : Real) ^ 2 ≤ w ^ 2)
    (hi : w ^ 2 < (q + 1) ^ 2) (h : sticky = true ↔ (q : Real) ^ 2 ≠ w ^ 2) : Lies (w * (2 : Real) ^ e) q e sticky := by
  have hq : (0 : Real) ≤ q := q.cast_nonneg
  refine lies_mul e ?_
  cases sticky with
  | false =>
    have : (q : Real) ^ 2 = w ^ 2 := by simpa using h
    exact ((pow_left_inj₀ hq hw two_ne_zero).1 this).symm
  | true => exact ⟨lt_of_pow_lt_pow_left₀ 2 hw (lt_of_le_of_ne lo (h.1 rfl)), lt_of_pow_lt_pow_left₀ 2 (by linarith) hi⟩

theorem isqrtAux_spec (n : Nat) : ∀ k r : Nat, r * r ≤ n → n < (r + 2 ^ k) * (r + 2 ^ k) →
    isqrtAux n k r * isqrtAux n k r ≤ n ∧ n < (isqrtAux n k r + 1) * (isqrtAux n k r + 1)
  | 0, r, lo, hi => ⟨lo, hi⟩
  | k + 1, r, lo, hi => by
    rw [isqrtAux]
    have hk : r + 2 ^ (k + 1) = r + 2 ^ k + 2 ^ k := by rw [pow_succ]; ring
    split
    next h => exact isqrtAux_spec n k _ h (by rwa [← hk])
    next h => exact isqrtAux_spec n k r lo (not_le.1 h)

theorem isqrt_eq (n : Nat) : isqrt n = Nat.sqrt n := by
  have hi : n < (0 + 2 ^ (bitLen n / 2 + 1)) * (0 + 2 ^ (bitLen n / 2 + 1)) := by
    rw [zero_add, ← pow_add]
    by_cases h : n = 0
    · simp [h]
    · exact (bitLen_bounds h).2.1.trans_le (Nat.pow_le_pow_right two_pos (by omega))
  obtain ⟨a, b⟩ := isqrtAux_spec n _ 0 (by simp) hi
  exact Nat.eq_sqrt.2 ⟨a, b⟩

end FiniteOperands
end Sys2Proof.Machine

/-! Sums, quotients and roots of finite numbers, rounded once (spec 02 R72; 07 R277). -/

namespace Sys2Proof.Machine
section FiniteOperands

theorem cast_signedMag (s : Bool) (m : Nat) : ((signedMag s m : Int) : Real) = sgn s * m := by
  cases s <;> simp [signedMag, sgn]

theorem sgn_bne (s t : Bool) : sgn (s != t) = sgn s * sgn t := by
  cases s <;> cases t <;> simp [sgn]

theorem sgn_not (s : Bool) : sgn (!s) = -sgn s := by
  cases s <;> simp [sgn]

theorem sgn_ne_zero (s : Bool) : sgn s ≠ 0 := by
  cases s <;> simp [sgn]

theorem sgn_mul_units_eq_zero {s : Bool} {m : Nat} {e : Int} : sgn s * (m * (2 : Real) ^ e) = 0 ↔ m = 0 := by
  simp [sgn_ne_zero, zpow_ne_zero]

theorem FpFmt.pack_roundsTo {f : FpFmt} (hf : f.Roomy) (r : Rounding) (s : Bool) {m : Nat} (e : Int) (hm : m ≠ 0) :
    f.RoundsTo r (sgn s * (m * (2 : Real) ^ e)) (f.pack r s m e) := by
  rw [FpFmt.pack, if_neg hm]
  exact f.round_roundsTo hf (lies_exact m e) hm (fun h => by cases h) r s

theorem FpFmt.pack_zero (f : FpFmt) (r : Rounding) (s : Bool) (e : Int) : f.pack r s 0 e = (f.signBit s, 0) := rfl

/-- An integer times a power of two, by its sign and magnitude. -/
theorem FpFmt.pack_int_roundsTo {f : FpFmt} (hf : f.Roomy) (r : Rounding) (t : Int) (e : Int) (ht : t ≠ 0) :
    f.RoundsTo r (t * (2 : Real) ^ e) (f.pack r (decide (t < 0)) t.natAbs e) := by
  have h := f.pack_roundsTo hf r (decide (t < 0)) e (Int.natAbs_ne_zero.2 ht)
  have hv : sgn (decide (t < 0)) * (t.natAbs : Real) = t := by
    rw [Nat.cast_natAbs]
    rcases lt_or_ge t 0 with h0 | h0
    · simp [sgn, h0, abs_of_neg h0]
    · simp [sgn, not_lt.2 h0, abs_of_nonneg h0]
  rwa [← mul_assoc, hv] at h

/-! Sums (02 R72). -/

/-- A finite number in units of a smaller exponent. -/
theorem units_at (s : Bool) (m : Nat) {e q : Int} (h : q ≤ e) :
    ((signedMag s (m * 2 ^ (e - q).toNat) : Int) : Real) * (2 : Real) ^ q = sgn s * (m * (2 : Real) ^ e) := by
  have hz : (2 : Real) ^ e = 2 ^ (e - q).toNat * 2 ^ q := by
    rw [← zpow_natCast, ← zpow_add₀ two_ne_zero]
    congr 1
    omega
  rw [cast_signedMag, hz]
  push_cast
  ring

/-- The sum of two finite numbers: rounded once, or a zero by R72. -/
theorem FpFmt.addFin_spec {f : FpFmt} (hf : f.Roomy) (r : Rounding) (s t : Bool) (m n : Nat) (e e' : Int) :
    let v := sgn s * (m * (2 : Real) ^ e) + sgn t * (n * (2 : Real) ^ e')
    (v ≠ 0 → f.RoundsTo r v (f.addFin r s m e t n e')) ∧
      (v = 0 → f.addFin r s m e t n e' = (f.signBit (if s = t then s else decide (r = .rdn)), 0)) := by
  intro v
  have hv : v = _ := congrArg₂ (· + ·) (units_at s m (min_le_left e e')).symm (units_at t n (min_le_right e e')).symm
  rw [← add_mul, ← Int.cast_add] at hv
  unfold FpFmt.addFin
  dsimp only
  generalize signedMag s _ + signedMag t _ = i at hv ⊢
  by_cases hi : i = 0
  · have : v = 0 := by rw [hv, hi]; simp
    simp [hi, this, beq_eq_decide]
  · have : v ≠ 0 := by rw [hv]; exact mul_ne_zero (by exact_mod_cast hi) (by positivity)
    refine ⟨fun _ => ?_, fun h => absurd h this⟩
    rw [if_neg hi, hv]
    exact f.pack_int_roundsTo hf r i _ hi

/-! Products, quotients and roots. -/

/-- The product of two finite numbers. -/
theorem finite_mul (s t : Bool) (m n : Nat) (e e' : Int) :
    sgn s * (m * (2 : Real) ^ e) * (sgn t * (n * (2 : Real) ^ e')) =
      sgn (s != t) * ((m * n : Nat) * (2 : Real) ^ (e + e')) := by
  rw [sgn_bne, zpow_add₀ two_ne_zero]
  push_cast
  ring

/-- The quotient of two finite non-zero numbers, rounded once. -/
theorem FpFmt.divFin_roundsTo {f : FpFmt} (hf : f.Roomy) (r : Rounding) (s : Bool) {m n : Nat} (e e' : Int) (hm : m ≠ 0)
    (hn : n ≠ 0) : f.RoundsTo r (sgn s * (m * (2 : Real) ^ e / (n * (2 : Real) ^ e'))) (f.divFin r s m e n e') := by
  set k := f.mbits + 6 + bitLen n with hk
  have hq : 2 ^ (f.mbits + 1) ≤ m * 2 ^ k / n := by
    rw [Nat.le_div_iff_mul_le (Nat.pos_of_ne_zero hn)]
    calc 2 ^ (f.mbits + 1) * n ≤ 2 ^ (f.mbits + 6) * 2 ^ bitLen n :=
          Nat.mul_le_mul (Nat.pow_le_pow_right two_pos (by omega)) (bitLen_bounds hn).2.1.le
      _ = 1 * 2 ^ k := by rw [hk, pow_add _ _ (bitLen n), one_mul]
      _ ≤ m * 2 ^ k := Nat.mul_le_mul_right _ (Nat.pos_of_ne_zero hm)
  have hq0 : m * 2 ^ k / n ≠ 0 := ((Nat.two_pow_pos _).trans_le hq).ne'
  have eq : f.divFin r s m e n e' = f.round r s (m * 2 ^ k / n) (e - e' - k) (m * 2 ^ k / n * n != m * 2 ^ k) := by
    unfold FpFmt.divFin FpFmt.pack
    simp only [← hk, hq0, if_false]
    split
    next h => rw [bne_eq_false_iff_eq.2 h]
    next h => rw [bne_iff_ne.2 h]
  have value : (m : Real) * 2 ^ e / (n * 2 ^ e') = ((m * 2 ^ k : Nat) : Real) / n * 2 ^ (e - e' - k) := by
    have hn' : (n : Real) ≠ 0 := by exact_mod_cast hn
    rw [zpow_sub₀ two_ne_zero, zpow_sub₀ two_ne_zero, zpow_natCast]
    push_cast
    field_simp
  rw [eq, value]
  exact f.round_roundsTo hf (lies_div _ hn _) hq0 (fun _ => hq) r s

/-- An even exponent for a magnitude. -/
def evenUnits (m : Nat) (e : Int) : Nat := if e % 2 = 0 then m else m * 2

/-- See evenUnits. -/
def evenExp (e : Int) : Int := if e % 2 = 0 then e else e - 1

theorem evenUnits_spec (m : Nat) (e : Int) :
    (m : Real) * 2 ^ e = evenUnits m e * ((2 : Real) ^ (evenExp e / 2)) ^ 2 ∧ (m ≠ 0 → evenUnits m e ≠ 0) := by
  have h2 : ((2 : Real) ^ (evenExp e / 2)) ^ 2 = 2 ^ evenExp e := by
    rw [← zpow_natCast, ← zpow_mul]
    congr 1
    unfold evenExp
    split <;> push_cast <;> omega
  rw [h2]
  unfold evenUnits evenExp
  split
  · exact ⟨rfl, id⟩
  · refine ⟨?_, by omega⟩
    rw [zpow_sub₀ two_ne_zero]
    push_cast
    ring

theorem square_ne_iff (q N : Nat) : (q * q != N) = true ↔ (q : Real) ^ 2 ≠ N := by
  rw [bne_iff_ne, ← pow_two]
  norm_cast

/-- The square root of a number in units of 2^(2K), cut to units. -/
theorem lies_sqrt (u K : Nat) (h : Int) :
    Lies (Real.sqrt (u * ((2 : Real) ^ h) ^ 2)) (Nat.sqrt (u * 2 ^ (2 * K))) (h - K)
      (Nat.sqrt (u * 2 ^ (2 * K)) * Nat.sqrt (u * 2 ^ (2 * K)) != u * 2 ^ (2 * K)) := by
  generalize hN : u * 2 ^ (2 * K) = N
  have root : Real.sqrt (u * ((2 : Real) ^ h) ^ 2) = Real.sqrt N * (2 : Real) ^ (h - K) := by
    rw [Real.sqrt_mul (by positivity), Real.sqrt_sq (by positivity), ← hN]
    push_cast
    rw [pow_mul', Real.sqrt_mul (by positivity), Real.sqrt_sq (by positivity), zpow_sub₀ two_ne_zero, zpow_natCast]
    field_simp
  have sq : Real.sqrt N ^ 2 = N := Real.sq_sqrt N.cast_nonneg
  rw [root]
  refine lies_of_sq (Real.sqrt_nonneg N) _ ?_ ?_ ?_ <;> rw [sq]
  · exact_mod_cast Nat.sqrt_le' N
  · exact_mod_cast Nat.lt_succ_sqrt' N
  · exact square_ne_iff _ N

/-- The reciprocal of a square root, cut to units of 2^-K. -/
theorem lies_rsqrt {u : Nat} (hu : u ≠ 0) (K : Nat) (h : Int) :
    let q := Nat.sqrt (2 ^ (2 * K) / u)
    Lies (1 / Real.sqrt (u * ((2 : Real) ^ h) ^ 2)) q (-h - K) (q * q * u != 2 ^ (2 * K)) := by
  intro q
  have hu' : (0 : Real) < u := by exact_mod_cast Nat.pos_of_ne_zero hu
  have root : 1 / Real.sqrt (u * ((2 : Real) ^ h) ^ 2) = 2 ^ K / Real.sqrt u * (2 : Real) ^ (-h - K) := by
    rw [Real.sqrt_mul (by positivity), Real.sqrt_sq (by positivity), zpow_sub₀ two_ne_zero, zpow_neg, zpow_natCast]
    field_simp
  have sq : (2 ^ K / Real.sqrt u) ^ 2 = ((2 ^ (2 * K) : Nat) : Real) / u := by
    rw [div_pow, Real.sq_sqrt hu'.le, pow_mul']
    push_cast
    rfl
  have lo : q ^ 2 * u ≤ 2 ^ (2 * K) :=
    (Nat.mul_le_mul_right _ (Nat.sqrt_le' _)).trans (Nat.div_mul_le_self _ _)
  have hi : 2 ^ (2 * K) < (q + 1) ^ 2 * u := by
    have := Nat.lt_succ_sqrt' (2 ^ (2 * K) / u)
    rwa [Nat.div_lt_iff_lt_mul (Nat.pos_of_ne_zero hu)] at this
  rw [root]
  refine lies_of_sq (by positivity) _ ?_ ?_ ?_ <;> rw [sq]
  · rw [le_div_iff₀ hu']; exact_mod_cast lo
  · rw [div_lt_iff₀ hu']; exact_mod_cast hi
  · rw [bne_iff_ne, ← pow_two, Ne, Ne, eq_div_iff hu'.ne']
    norm_cast

theorem FpFmt.sqrt_eq (f : FpFmt) (r : Rounding) {a m : Nat} {e : Int} (ha : f.read a = .fin false m e) (hm : m ≠ 0) :
    let K := f.mbits + 6
    let N := evenUnits m e * 2 ^ (2 * K)
    f.sqrt r a = f.round r false (Nat.sqrt N) (evenExp e / 2 - K) (Nat.sqrt N * Nat.sqrt N != N) := by
  unfold FpFmt.sqrt
  rw [ha]
  simp only [hm, if_false, Bool.false_eq_true, isqrt_eq, evenUnits, evenExp]
  by_cases he : e % 2 = 0 <;> simp only [he, if_true, if_false]

theorem FpFmt.rsqrt_eq (f : FpFmt) (r : Rounding) {a m : Nat} {e : Int} (ha : f.read a = .fin false m e) (hm : m ≠ 0) :
    let u := evenUnits m e
    let K := f.mbits + 8 + bitLen u
    let q := Nat.sqrt (2 ^ (2 * K) / u)
    f.rsqrt r a = f.round r false q (-(evenExp e / 2) - K) (q * q * u != 2 ^ (2 * K)) := by
  unfold FpFmt.rsqrt
  rw [ha]
  simp only [hm, if_false, Bool.false_eq_true, isqrt_eq, evenUnits, evenExp]
  by_cases he : e % 2 = 0 <;> simp only [he, if_true, if_false]

theorem FpFmt.sqrt_roundsTo {f : FpFmt} (hf : f.Roomy) (r : Rounding) {a m : Nat} {e : Int} (ha : f.read a = .fin false m e)
    (hm : m ≠ 0) : f.RoundsTo r (Real.sqrt (m * (2 : Real) ^ e)) (f.sqrt r a) := by
  obtain ⟨value, nz⟩ := evenUnits_spec m e
  have hu := nz hm
  have eq := f.sqrt_eq r ha hm
  dsimp only at eq
  rw [eq, value]
  generalize evenUnits m e = u at *
  generalize hK : f.mbits + 6 = K
  have wide : 2 ^ (f.mbits + 1) ≤ Nat.sqrt (u * 2 ^ (2 * K)) := by
    rw [Nat.le_sqrt, ← pow_add]
    exact (Nat.pow_le_pow_right two_pos (by omega)).trans (Nat.le_mul_of_pos_left _ (Nat.pos_of_ne_zero hu))
  simpa [sgn] using f.round_roundsTo hf (lies_sqrt u K (evenExp e / 2)) ((Nat.two_pow_pos _).trans_le wide).ne'
    (fun _ => wide) r false

theorem FpFmt.rsqrt_roundsTo {f : FpFmt} (hf : f.Roomy) (r : Rounding) {a m : Nat} {e : Int} (ha : f.read a = .fin false m e)
    (hm : m ≠ 0) : f.RoundsTo r (1 / Real.sqrt (m * (2 : Real) ^ e)) (f.rsqrt r a) := by
  obtain ⟨value, nz⟩ := evenUnits_spec m e
  have hu := nz hm
  have eq := f.rsqrt_eq r ha hm
  dsimp only at eq
  rw [eq, value]
  generalize evenUnits m e = u at *
  generalize hK : f.mbits + 8 + bitLen u = K
  have wide : 2 ^ (f.mbits + 1) ≤ Nat.sqrt (2 ^ (2 * K) / u) := by
    rw [Nat.le_sqrt, ← pow_add, Nat.le_div_iff_mul_le (Nat.pos_of_ne_zero hu)]
    calc 2 ^ (f.mbits + 1 + (f.mbits + 1)) * u
        ≤ 2 ^ (f.mbits + 1 + (f.mbits + 1)) * 2 ^ bitLen u := Nat.mul_le_mul_left _ (bitLen_bounds hu).2.1.le
      _ ≤ 2 ^ (2 * K) := by rw [← pow_add]; exact Nat.pow_le_pow_right two_pos (by omega)
  simpa [sgn] using f.round_roundsTo hf (lies_rsqrt hu K (evenExp e / 2)) ((Nat.two_pow_pos _).trans_le wide).ne'
    (fun _ => wide) r false

end FiniteOperands
end Sys2Proof.Machine

/-! Operations on codes of finite numbers (spec 02 R72, R74; 07 R277). -/

namespace Sys2Proof.Machine
section FiniteOperands

variable {f : FpFmt} {a b c m n o : Nat} {s t u : Bool} {e e' e'' : Int}

theorem FpFmt.add_fin (r : Rounding) (ha : f.read a = .fin s m e) (hb : f.read b = .fin t n e') :
    f.add r a b = f.addFin r s m e t n e' := by
  unfold FpFmt.add
  rw [ha, hb]
  rfl

theorem FpFmt.sub_fin (r : Rounding) (ha : f.read a = .fin s m e) (hb : f.read b = .fin t n e') :
    f.sub r a b = f.addFin r s m e (!t) n e' := by
  unfold FpFmt.sub
  rw [ha, hb]
  rfl

theorem FpFmt.mul_fin (r : Rounding) (ha : f.read a = .fin s m e) (hb : f.read b = .fin t n e') :
    f.mul r a b = f.pack r (s != t) (m * n) (e + e') := by
  unfold FpFmt.mul
  rw [ha, hb]

theorem FpFmt.fma_fin (r : Rounding) (ha : f.read a = .fin s m e) (hb : f.read b = .fin t n e') (hc : f.read c = .fin u o e'') :
    f.fma r a b c = f.addFin r (s != t) (m * n) (e + e') u o e'' := by
  unfold FpFmt.fma
  rw [ha, hb, hc]
  rfl

theorem FpFmt.div_fin (r : Rounding) (ha : f.read a = .fin s m e) (hb : f.read b = .fin t n e') :
    f.div r a b = if n = 0 then if m = 0 then (f.qnan, fNV) else (f.inf (s != t), fDZ)
      else if m = 0 then (f.signBit (s != t), 0) else f.divFin r (s != t) m e n e' := by
  unfold FpFmt.div
  rw [ha, hb]

/-- The order of finite values is that of their numbers. -/
theorem finLt_iff : finLt s m e t n e' = true ↔ sgn s * (m * (2 : Real) ^ e) < sgn t * (n * (2 : Real) ^ e') := by
  rw [← units_at s m (min_le_left e e'), ← units_at t n (min_le_right e e'), mul_lt_mul_iff_left₀ (by positivity)]
  simp [finLt]

/-- FMIN and FMAX of finite operands deliver the smaller and the larger, -0 below +0 (02 R74). -/
theorem FpFmt.pick_fin (larger : Bool) (ha : f.read a = .fin s m e) (hb : f.read b = .fin t n e') :
    ∃ d, f.pick larger a b = (d, 0) ∧ (d = a ∨ d = b) ∧
      ((f.read d).rat : Real) = (if larger then max else min) ((f.read a).rat : Real) (f.read b).rat ∧
      (((f.read a).rat : Real) = 0 → ((f.read b).rat : Real) = 0 →
        (f.read d).sign = if larger then s && t else s || t) := by
  have hlt : (f.read a).lt (f.read b) = decide (((f.read a).rat : Real) < (f.read b).rat) := by
    rw [Bool.eq_iff_iff, decide_eq_true_iff, ha, hb, rat_fin, rat_fin]
    exact finLt_iff
  have hgt : (f.read b).lt (f.read a) = decide (((f.read b).rat : Real) < (f.read a).rat) := by
    rw [Bool.eq_iff_iff, decide_eq_true_iff, ha, hb, rat_fin, rat_fin]
    exact finLt_iff
  have nanA : (f.read a).isNan = false := by rw [ha]; rfl
  have nanB : (f.read b).isNan = false := by rw [hb]; rfl
  have quiet : snanFlags [f.read a, f.read b] = 0 := by rw [ha, hb]; rfl
  have sa : (f.read a).sign = s := by rw [ha]; rfl
  have sb : (f.read b).sign = t := by rw [hb]; rfl
  unfold FpFmt.pick FpVal.eq
  simp only [hlt, hgt, nanA, nanB, quiet, sa, sb, Bool.false_eq_true, if_false, Bool.and_self, Bool.not_false, Bool.true_and]
  generalize hx : ((f.read a).rat : Real) = x
  generalize hy : ((f.read b).rat : Real) = y
  rcases lt_trichotomy x y with h | h | h
  · simp only [h, h.not_gt, decide_true, Bool.true_or, decide_false]
    cases larger <;> simp [hx, hy, h.le] <;> intro h1 h2 <;> exact absurd (h1.trans h2.symm) h.ne
  · simp only [h, lt_irrefl, decide_false, Bool.not_false, Bool.true_and, Bool.false_or, Bool.and_self]
    cases larger <;> cases s <;> cases t <;> simp [hx, hy, h, sa, sb]
  · simp only [h, h.not_gt, decide_true, decide_false, Bool.not_true, Bool.false_and, Bool.or_self, Bool.and_false]
    cases larger <;> simp [hx, hy, h.le] <;> intro h1 h2 <;> exact absurd (h1.trans h2.symm) h.ne'

/-! The three formats' operations on finite operands, in one statement each (07 R277, R278). -/

theorem FpFmt.sqrt_of_neg (r : Rounding) (ha : f.read a = .fin true m e) (hm : m ≠ 0) : f.sqrt r a = (f.qnan, fNV) := by
  unfold FpFmt.sqrt
  rw [ha]
  simp [hm]

theorem FpFmt.rsqrt_of_neg (r : Rounding) (ha : f.read a = .fin true m e) (hm : m ≠ 0) : f.rsqrt r a = (f.qnan, fNV) := by
  unfold FpFmt.rsqrt
  rw [ha]
  simp [hm]

theorem FpFmt.recip_roundsTo (hf : f.Roomy) (r : Rounding) (ha : f.read a = .fin s m e) (hm : m ≠ 0) :
    f.RoundsTo r (1 / (sgn s * (m * (2 : Real) ^ e))) (f.recip r a) := by
  have h := f.divFin_roundsTo hf r s 0 e one_ne_zero hm
  have inv : 1 / sgn s = sgn s := by cases s <;> simp [sgn]
  rw [Nat.cast_one, zpow_zero, mul_one, ← inv, div_mul_div_comm, one_mul] at h
  unfold FpFmt.recip
  rw [ha]
  simpa only [hm, if_false] using h

theorem quotient_sgn (s t : Bool) (x y : Real) : sgn s * x / (sgn t * y) = sgn (s != t) * (x / y) := by
  cases s <;> cases t <;> simp [sgn, neg_div, div_neg]

theorem sgn_mul_units_pos : 0 < sgn s * (m * (2 : Real) ^ e) ↔ s = false ∧ m ≠ 0 := by
  have hz : (0 : Real) < 2 ^ e := by positivity
  cases s
  · simp [sgn, hz, Nat.pos_iff_ne_zero]
  · simpa [sgn] using by positivity

theorem sgn_mul_units_neg : sgn s * (m * (2 : Real) ^ e) < 0 ↔ s = true ∧ m ≠ 0 := by
  have hz : (0 : Real) < 2 ^ e := by positivity
  cases s
  · simpa [sgn] using by positivity
  · simp [sgn, hz, Nat.pos_iff_ne_zero]

end FiniteOperands

/-- Settles O10: the model's one rounding meets RoundsTo, and every operation on finite operands is that rounding of the
exact number, or one of R72's zeros or special results. -/
theorem exactUnlessInexact : Obligations.ExactUnlessInexact := by
  unfold Obligations.ExactUnlessInexact
  refine ⟨fun f r s m e hf hm flags => ?_, ?_⟩
  · have h := (f.round_roundsTo (f.roomy_of hf) (lies_exact m e) hm (fun h => by cases h) r s).exact_of_flags flags
    have : (((f.read (f.round r s m e false).1).rat : Rat) : Real) =
        (((if s then -1 else 1) * (m : Rat) * (2 : Rat) ^ e : Rat) : Real) := by
      rw [h]
      cases s <;> simp [sgn]
    exact_mod_cast this
  · intro f r a b c s t u m n o e e' e'' hf' ha hb hc
    have hf := f.roomy_of hf'
    dsimp only
    have sum := f.addFin_spec hf r s t m n e e'
    have diff := f.addFin_spec hf r s (!t) m n e e'
    have fused := f.addFin_spec hf r (s != t) u (m * n) o (e + e') e''
    dsimp only at sum diff fused
    rw [← finite_mul] at fused
    rw [sgn_not, neg_mul, ← sub_eq_add_neg] at diff
    have small := f.pick_fin false ha hb
    have large := f.pick_fin true ha hb
    rw [f.add_fin r ha hb, f.sub_fin r ha hb, f.mul_fin r ha hb, f.fma_fin r ha hb hc, f.div_fin r ha hb]
    rw [ha, hb, rat_fin, rat_fin] at small large
    rw [ha, hb, hc, rat_fin, rat_fin, rat_fin]
    refine ⟨sum.1, sum.2, diff.1, diff.2, fun h => ?_, fun h => ?_, fused.1, fused.2, fun hy hx => ?_, fun hy hx => ?_,
      fun hy hx => ?_, fun hy hx => ?_, fun h => ?_, fun h => ?_, fun h => ?_, fun h => ?_, fun h => ?_, ?_⟩
    · rw [finite_mul] at h ⊢
      exact f.pack_roundsTo hf r _ _ (mt sgn_mul_units_eq_zero.2 h)
    · rw [finite_mul, sgn_mul_units_eq_zero] at h
      rw [h, f.pack_zero]
    · rw [ne_eq, sgn_mul_units_eq_zero] at hx hy
      rw [if_neg hy, if_neg hx, quotient_sgn]
      exact f.divFin_roundsTo hf r _ _ _ hx hy
    · rw [ne_eq, sgn_mul_units_eq_zero] at hy
      rw [sgn_mul_units_eq_zero] at hx
      rw [if_neg hy, if_pos hx]
    · rw [ne_eq, sgn_mul_units_eq_zero] at hx
      rw [sgn_mul_units_eq_zero] at hy
      rw [if_pos hy, if_neg hx]
    · rw [sgn_mul_units_eq_zero] at hx hy
      rw [if_pos hy, if_pos hx]
    · obtain ⟨rfl, hm⟩ := sgn_mul_units_pos.1 h
      simpa [sgn] using f.sqrt_roundsTo hf r ha hm
    · obtain ⟨rfl, hm⟩ := sgn_mul_units_neg.1 h
      exact f.sqrt_of_neg r ha hm
    · exact f.recip_roundsTo hf r ha (mt sgn_mul_units_eq_zero.2 h)
    · obtain ⟨rfl, hm⟩ := sgn_mul_units_pos.1 h
      simpa [sgn] using f.rsqrt_roundsTo hf r ha hm
    · obtain ⟨rfl, hm⟩ := sgn_mul_units_neg.1 h
      exact f.rsqrt_of_neg r ha hm
    · obtain ⟨d, hd, isD, value, sign⟩ := small
      obtain ⟨d', hd', isD', value', sign'⟩ := large
      refine ⟨⟨d, hd⟩, ⟨d', hd'⟩, fun k hk => ?_, fun k hk => ?_⟩
      · obtain rfl := congrArg Prod.fst (hd.symm.trans hk)
        exact ⟨isD, value, sign⟩
      · obtain rfl := congrArg Prod.fst (hd'.symm.trans hk)
        exact ⟨isD', value', sign'⟩

end Sys2Proof.Machine

/-! Adding in the three channels (spec 02 R92 to R97). -/

namespace Sys2Proof.Machine
section Accumulator

/-- The number that the three channels stand for before it is taken into the range: the Chinese remainder theorem's sum. -/
def crtSum (a48 : Bool) (e : Elem) : Int :=
  let p : Int := 2 ^ accK a48
  e.c1 * (p * (p + 1)) * 2 ^ (accK a48 - 1) + e.c2 * (p * p - 1) * (p - 1) + e.c3 * ((p - 1) * p) * (2 ^ (accK a48 - 1) + 1)

theorem accRead_eq (a48 : Bool) (e : Elem) : accRead a48 e = accWrap a48 (crtSum a48 e) := by
  unfold accRead crtSum
  dsimp only
  congr 1
  cases a48 <;> simp only [accK, Bool.false_eq_true, if_false, if_true] <;> push_cast <;> norm_num

/-- Two numbers that differ by a multiple of M are taken to one number of the range. -/
theorem accWrap_congr (a48 : Bool) {x y : Int} (h : x ≡ y [ZMOD accM a48]) : accWrap a48 x = accWrap a48 y := by
  unfold accWrap
  dsimp only
  rw [show x % (accM a48 : Int) = y % accM a48 from h]

theorem accWrap_modEq (a48 : Bool) (x : Int) : accWrap a48 x ≡ x [ZMOD accM a48] := by
  have hM : 0 < (accM a48 : Int) := by cases a48 <;> decide
  have hu : ((x % (accM a48 : Int)).toNat : Int) = x % accM a48 := Int.toNat_of_nonneg (Int.emod_nonneg _ hM.ne')
  unfold accWrap
  dsimp only
  rw [hu]
  split
  · exact Int.mod_modEq x _
  · exact (Int.sub_emod_right _ _).trans (Int.mod_modEq x _)

/-- The modulus M and the powers of 2 in it, by h = 2^(k - 1). -/
theorem acc_powers (a48 : Bool) : (2 : Int) ^ accK a48 = 2 * 2 ^ (accK a48 - 1) ∧
    (accM a48 : Int) = (2 ^ accK a48) ^ 3 - 2 ^ accK a48 ∧ ((2 ^ accK a48 : Nat) : Int) = 2 ^ accK a48 ∧
    ((2 ^ accK a48 - 1 : Nat) : Int) = 2 ^ accK a48 - 1 ∧ ((2 ^ accK a48 + 1 : Nat) : Int) = 2 ^ accK a48 + 1 := by
  cases a48 <;> decide

theorem toNat_emod_eq (v : Int) {m : Nat} (hm : m ≠ 0) : ∃ t : Int, ((v % (m : Int)).toNat : Int) = v + m * t := by
  have := Int.emod_nonneg v (Int.natCast_ne_zero.2 hm)
  exact ⟨-(v / m), by rw [Int.toNat_of_nonneg this, Int.emod_def]; ring⟩

/-- The channels of an element after an addition are the old ones plus the integer, each modulo its own modulus. -/
theorem accAdd_channels (a48 free : Bool) (e : Elem) (x : Int) :
    let p : Int := 2 ^ accK a48
    ∃ t1 t2 t3 : Int, ((accAdd a48 free e x).c1 : Int) = e.c1 + x + (p - 1) * t1 ∧
      ((accAdd a48 free e x).c2 : Int) = e.c2 + x + p * t2 ∧ ((accAdd a48 free e x).c3 : Int) = e.c3 + x + (p + 1) * t3 := by
  obtain ⟨_, _, hp, hp1, hp2⟩ := acc_powers a48
  have nz : (2 ^ accK a48 - 1 : Nat) ≠ 0 := by cases a48 <;> decide
  obtain ⟨t1, h1⟩ := toNat_emod_eq (e.c1 + x) nz
  obtain ⟨t2, h2⟩ := toNat_emod_eq (e.c2 + x) (m := 2 ^ accK a48) (Nat.two_pow_pos _).ne'
  obtain ⟨t3, h3⟩ := toNat_emod_eq (e.c3 + x) (m := 2 ^ accK a48 + 1) (Nat.succ_ne_zero _)
  intro p
  have c1 : ∃ t : Int, ((accAdd a48 free e x).c1 : Int) = e.c1 + x + (p - 1) * t := by
    unfold accAdd
    dsimp only
    rw [hp1] at h1
    split
    next second =>
      have zero := (Bool.and_eq_true_iff.1 second).1
      rw [decide_eq_true_iff, hp1] at zero
      rw [zero] at h1
      exact ⟨t1 + 1, by rw [hp1]; push_cast at h1; linear_combination h1⟩
    next => exact ⟨t1, by rw [hp1]; exact h1⟩
  obtain ⟨t, h⟩ := c1
  exact ⟨t, t2, t3, h, by simpa only [accAdd, hp] using h2, by simpa only [accAdd, hp2] using h3⟩

/-- The number of the channels grows by the integer, modulo M (02 R97). -/
theorem crtSum_accAdd (a48 free : Bool) (e : Elem) (x : Int) :
    crtSum a48 (accAdd a48 free e x) ≡ crtSum a48 e + x [ZMOD accM a48] := by
  obtain ⟨t1, t2, t3, h1, h2, h3⟩ := accAdd_channels a48 free e x
  obtain ⟨hp, hM, _⟩ := acc_powers a48
  unfold crtSum
  dsimp only
  rw [h1, h2, h3, hM]
  generalize (2 : Int) ^ (accK a48 - 1) = h at *
  rw [hp]
  refine (Int.modEq_iff_dvd.2 ⟨2 * x + t1 * h + t2 * (2 * h - 1) + t3 * (h + 1), ?_⟩).symm
  ring

end Accumulator

/-- Settles O35: each channel adds modulo its own modulus, so the number of the three changes by the integer modulo M. -/
theorem accumulatorAddition : Obligations.AccumulatorAddition := by
  unfold Obligations.AccumulatorAddition
  intro a48 free e x _ _ _ _
  rw [accRead_eq, accRead_eq]
  exact accWrap_congr a48 ((crtSum_accAdd a48 free e x).trans ((accWrap_modEq a48 _).symm.add_right x))

end Sys2Proof.Machine

/-! Conversions between integers and formats (spec 02 R78; 07 R282 to R284). -/

namespace Sys2Proof.Machine
section Conversions

theorem bits_zero (x n : Nat) : bits x 0 n = x % 2 ^ n := by
  rw [bits, pow_zero, Nat.div_one]

/-! Integer types. -/

theorem IntType.has_iff (u : IntType) (v : Int) : u.has v ↔ u.lo ≤ v ∧ v ≤ u.hi := by
  unfold IntType.has IntType.lo IntType.hi
  split
  · rw [Int.le_sub_one_iff]
  · rw [Int.le_sub_one_iff]

theorem IntType.lo_le_zero (u : IntType) : u.lo ≤ 0 := by
  unfold IntType.lo
  split
  · have : (0 : Int) < 2 ^ (u.width - 1) := by positivity
    omega
  · exact le_rfl

theorem IntType.zero_le_hi (u : IntType) : 0 ≤ u.hi := by
  unfold IntType.hi
  split <;> exact Int.le_sub_one_iff.2 (by positivity)

/-- A type's low bits as a number of the type: the one number there that they stand for. -/
theorem IntType.read_eq_value (t : IntType) (ht : t.ofCvt) (x : Nat) : t.read x = t.value x := by
  have hw : 0 < t.width := by rcases ht with h | h | h | h <;> omega
  have half : 2 * 2 ^ (t.width - 1) = 2 ^ t.width := by rw [← pow_succ', Nat.sub_add_cancel hw]
  unfold IntType.read IntType.value signed
  rw [bits_zero]
  split
  · rw [BitVec.toInt_eq_toNat_cond, BitVec.toNat_ofNat]
    have : x % 2 ^ t.width < 2 ^ (t.width - 1) ↔ 2 * (x % 2 ^ t.width) < 2 ^ t.width := by omega
    simp only [this]
  · rfl

theorem IntType.has_value (t : IntType) (x : Nat) : t.has (t.value x) := by
  unfold IntType.has IntType.value
  split
  · exact ⟨BitVec.le_toInt _, BitVec.toInt_lt⟩
  · exact ⟨Int.natCast_nonneg _, by exact_mod_cast Nat.mod_lt _ (Nat.two_pow_pos _)⟩

theorem IntType.value_emod (t : IntType) (x : Nat) : t.value x % 2 ^ t.width = (x : Int) % 2 ^ t.width := by
  unfold IntType.value
  split
  · rw [BitVec.toInt_ofNat']
    exact_mod_cast Int.bmod_emod
  · push_cast
    rw [Int.emod_emod]

/-- A number wrapped to a type has the low bits of the number. -/
theorem IntType.wrap_spec (u : IntType) (hu : u.ofCvt) (v : Int) :
    u.has (u.wrap v) ∧ u.wrap v % 2 ^ u.width = v % 2 ^ u.width := by
  unfold IntType.wrap
  rw [u.read_eq_value hu]
  refine ⟨u.has_value _, ?_⟩
  have dvd : (2 : Int) ^ u.width ∣ 2 ^ 64 := pow_dvd_pow _ (by rcases hu with h | h | h | h <;> omega)
  rw [u.value_emod, Int.toNat_of_nonneg (Int.emod_nonneg _ (by positivity)), Int.emod_emod_of_dvd _ dvd]

/-- The nearest number of a type. -/
def IntType.clamp (u : IntType) (v : Int) : Int := if v < u.lo then u.lo else if u.hi < v then u.hi else v

theorem IntType.clamp_spec (u : IntType) (v : Int) : u.has (u.clamp v) ∧ (u.clamp v = v ↔ u.has v) ∧
    ∀ z, u.has z → |v - u.clamp v| ≤ |v - z| := by
  have h0 := u.lo_le_zero
  have h1 := u.zero_le_hi
  simp only [u.has_iff]
  unfold IntType.clamp
  split
  next h =>
    refine ⟨⟨le_rfl, by omega⟩, by omega, fun z hz => ?_⟩
    rw [abs_of_neg (by omega), abs_of_neg (by omega)]
    omega
  next h =>
    split
    next h' =>
      refine ⟨⟨by omega, le_rfl⟩, by omega, fun z hz => ?_⟩
      rw [abs_of_pos (by omega), abs_of_pos (by omega)]
      omega
    next h' => exact ⟨⟨by omega, by omega⟩, by omega, fun z _ => by simp⟩

theorem convert_int (r : Rounding) (sat : Bool) (t u : IntType) (ht : t.ofCvt) (x : Nat) :
    convert r sat (.inl u) (.inl t) x = if sat then
      (BitVec.ofInt 64 (u.clamp (t.value x)), if u.clamp (t.value x) = t.value x then 0 else fOF)
    else (BitVec.ofInt 64 (u.wrap (t.value x)), 0) := by
  simp only [convert, t.read_eq_value ht]
  rfl

/-- Between integer types: the low bits, or with .sat the nearest number. -/
theorem convert_int_delivers (r : Rounding) (sat : Bool) (t u : IntType) (ht : t.ofCvt) (hu : u.ofCvt) (x : Nat) :
    let v := t.value x
    let y := convert r sat (.inl u) (.inl t) x
    ∃ w, u.has w ∧ y.1 = BitVec.ofInt 64 w ∧ (sat = false → w % 2 ^ u.width = v % 2 ^ u.width ∧ y.2 = 0) ∧
      (sat = true → (u.has v → w = v ∧ y.2 = 0) ∧ (¬ u.has v → y.2 = fOF ∧ ∀ z, u.has z → |v - w| ≤ |v - z|)) := by
  dsimp only
  rw [convert_int r sat t u ht]
  cases sat with
  | false =>
    obtain ⟨has, low⟩ := u.wrap_spec hu (t.value x)
    exact ⟨u.wrap (t.value x), has, rfl, fun _ => ⟨low, rfl⟩, fun h => absurd h (by decide)⟩
  | true =>
    obtain ⟨has, same, nearest⟩ := u.clamp_spec (t.value x)
    refine ⟨u.clamp (t.value x), has, rfl, fun h => absurd h (by decide), fun _ => ⟨fun h => ?_, fun h => ?_⟩⟩
    · exact ⟨same.2 h, if_pos (same.2 h)⟩
    · exact ⟨if_neg (mt same.1 h), nearest⟩

/-! Formats. -/

theorem FpFmt.width_le {f : FpFmt} (h : f = fp32 ∨ f = bf16 ∨ f = fp16) : 1 + f.ebits + f.mbits ≤ 32 := by
  rcases h with rfl | rfl | rfl <;> decide

theorem FpFmt.pack_lt {f : FpFmt} (hf : f.Roomy) (r : Rounding) (s : Bool) (m : Nat) (e : Int) :
    (f.pack r s m e).1 < 2 ^ (1 + f.ebits + f.mbits) := by
  by_cases hm : m = 0
  · rw [hm, f.pack_zero]
    exact f.signBit_add_lt s (Nat.zero_le _)
  · rw [FpFmt.pack, if_neg hm]
    exact (f.round_delivers hf (lies_exact m e) hm (fun h => by cases h) r s).2

/-- A code of a format is kept in a register of its width or more. -/
theorem FpFmt.toNat_pack {f : FpFmt} (h : f = fp32 ∨ f = bf16 ∨ f = fp16) {w : Nat} (hw : 32 ≤ w) (r : Rounding) (s : Bool)
    (m : Nat) (e : Int) : (BitVec.ofNat w (f.pack r s m e).1).toNat = (f.pack r s m e).1 := by
  rw [BitVec.toNat_ofNat, Nat.mod_eq_of_lt]
  exact (f.pack_lt (f.roomy_of h) r s m e).trans_le (Nat.pow_le_pow_right two_pos ((f.width_le h).trans hw))

/-! Numbers rounded to integers. -/

/-- A number in units of 2^q rounded to an integer, and whether it is inexact. -/
theorem roundAt_roundsToInt (r : Rounding) (s : Bool) (m : Nat) (e q : Int) :
    let v := sgn s * (m * (2 : Real) ^ e) / (2 : Real) ^ q
    let n := signedMag s (roundAt r s m e q).1
    RoundsToInt r v n ∧ ((roundAt r s m e q).2 = true ↔ (n : Real) ≠ v) := by
  obtain ⟨k, c, cell, eq⟩ := roundAt_cell (q := q) (lies_exact m e) (fun h => by cases h)
  have eq' : roundAt r s m e q = (roundedUnits r s k c, c != 0) := eq r s
  dsimp only
  rw [eq', cast_signedMag, mul_div_assoc]
  have isExact := cell.rounded_eq_iff r s
  generalize (m : Real) * 2 ^ e / 2 ^ q = v at *
  constructor
  · have := roundsIn_of_cell_sign (r := r) (G := fun z => ∃ k : Int, z = k) (x := v) (d := 1) (k := k) (c := c) s one_pos
      (fun z ⟨j, hj⟩ => ⟨-j, by rw [hj]; push_cast; rfl⟩) ⟨k, by simp⟩ ⟨k + 1, by simp⟩ ?_ (by rwa [div_one])
    · rw [mul_one] at this
      unfold RoundsToInt
      rwa [cast_signedMag]
    · rintro _ ⟨j, rfl⟩
      rw [mul_one, mul_one]
      rcases le_or_gt j (k : Int) with h | h
      · exact .inl (by exact_mod_cast h)
      · exact .inr (by exact_mod_cast h)
  · rw [bne_iff_ne, ne_eq, ne_eq, sgn_mul_inj, isExact]

end Conversions
end Sys2Proof.Machine

/-! What CVT delivers (spec 02 R78; 07 R282 to R284). -/

namespace Sys2Proof.Machine
section Conversions

/-- An integer to a format: zero, or the number rounded once. -/
theorem convert_from_int_delivers (r : Rounding) (sat : Bool) {f : FpFmt} (hf : f = fp32 ∨ f = bf16 ∨ f = fp16) (t : IntType)
    (ht : t.ofCvt) (x : Nat) :
    let y := convert r sat (.inr f) (.inl t) x
    (t.value x = 0 → y = (0, 0)) ∧ (t.value x ≠ 0 → f.RoundsTo r (t.value x) (y.1.toNat, y.2)) := by
  have eq : convert r sat (.inr f) (.inl t) x =
      (BitVec.ofNat 64 (f.pack r (decide (t.value x < 0)) (t.value x).natAbs 0).1,
        (f.pack r (decide (t.value x < 0)) (t.value x).natAbs 0).2) := by
    simp only [convert, t.read_eq_value ht, FpFmt.ofInt]
  dsimp only
  rw [eq]
  refine ⟨fun h => by rw [h]; rfl, fun h => ?_⟩
  rw [f.toNat_pack hf (by decide)]
  simpa using f.pack_int_roundsTo (f.roomy_of hf) r (t.value x) 0 h

/-- The end of an integer type's range on the side of a sign. -/
def IntType.End (u : IntType) (negative : Bool) (y : DWord × Flags) : Prop :=
  ∃ w, u.has w ∧ y = (BitVec.ofInt 64 w, fNV) ∧ ∀ z, u.has z → if negative then w ≤ z else z ≤ w

theorem IntType.end_of (u : IntType) (s : Bool) : u.End s (BitVec.ofInt 64 (if s then u.lo else u.hi), fNV) := by
  have h0 := u.lo_le_zero
  have h1 := u.zero_le_hi
  refine ⟨_, ?_, rfl, fun z hz => ?_⟩
  · rw [u.has_iff]
    cases s <;> simp only [Bool.false_eq_true, if_true, if_false] <;> omega
  · rw [u.has_iff] at hz
    cases s <;> simp only [Bool.false_eq_true, if_true, if_false] <;> omega

theorem convert_to_int (r : Rounding) (sat : Bool) (f : FpFmt) (u : IntType) (x : Nat) :
    convert r sat (.inl u) (.inr f) x =
      (BitVec.ofInt 64 (f.toInt r u.lo u.hi (x % 2 ^ (1 + f.ebits + f.mbits))).1,
        (f.toInt r u.lo u.hi (x % 2 ^ (1 + f.ebits + f.mbits))).2) := by
  simp only [convert, bits_zero, FpFmt.width]

/-- A floating-point number to an integer: its rounding where the target has it, else the end of the range. -/
theorem convert_to_int_delivers (r : Rounding) (sat : Bool) (f : FpFmt) (u : IntType) (x : Nat) :
    let a := x % 2 ^ (1 + f.ebits + f.mbits)
    let y := convert r sat (.inl u) (.inr f) x
    (∀ b, f.read a = .nan b → y = (0, fNV)) ∧ (∀ s, f.read a = .inf s → u.End s y) ∧
      ∀ s m e, f.read a = .fin s m e → ∃ n, RoundsToInt r ((f.read a).rat : Real) n ∧
        (u.has n → y = (BitVec.ofInt 64 n, if (n : Real) = ((f.read a).rat : Real) then 0 else fNX)) ∧
        (¬ u.has n → u.End (decide (n < 0)) y) := by
  dsimp only
  rw [convert_to_int]
  generalize x % 2 ^ (1 + f.ebits + f.mbits) = a
  unfold FpFmt.toInt
  refine ⟨fun b h => by rw [h]; rfl, fun s h => by rw [h]; exact u.end_of s, fun s m e h => ?_⟩
  obtain ⟨rounds, inexact⟩ := roundAt_roundsToInt r s m e 0
  have h0 := u.lo_le_zero
  have h1 := u.zero_le_hi
  rw [h, rat_fin]
  simp only [zpow_zero, div_one] at rounds inexact ⊢
  refine ⟨_, rounds, fun has => ?_, fun out => ?_⟩
  · rw [u.has_iff] at has
    rw [if_neg (by omega), if_neg (by omega)]
    by_cases hi : (roundAt r s m e 0).2 = true
    · simp [hi, inexact.1 hi]
    · simp [hi, not_not.1 (mt inexact.2 hi)]
  · rw [u.has_iff] at out
    generalize signedMag s (roundAt r s m e 0).1 = n at *
    by_cases hn : n < u.lo
    · rw [if_pos hn, decide_eq_true (by omega : n < 0)]
      exact u.end_of true
    · rw [if_neg hn, if_pos (by omega), decide_eq_false (by omega : ¬ n < 0)]
      exact u.end_of false

/-- Between formats: a NaN, an infinity or a zero for the same, or the number rounded once. -/
theorem convert_format_delivers (r : Rounding) (sat : Bool) (f : FpFmt) {h : FpFmt} (hh : h = fp32 ∨ h = bf16 ∨ h = fp16)
    (x : Nat) :
    let a := x % 2 ^ (1 + f.ebits + f.mbits)
    let y := convert r sat (.inr h) (.inr f) x
    (∀ b, f.read a = .nan b → y = (BitVec.ofNat 64 h.qnan, nvIf b)) ∧
      (∀ s, f.read a = .inf s → y = (BitVec.ofNat 64 (h.inf s), 0)) ∧
      ∀ s m e, f.read a = .fin s m e → (m = 0 → y = (BitVec.ofNat 64 (h.signBit s), 0)) ∧
        (m ≠ 0 → h.RoundsTo r ((f.read a).rat : Real) (y.1.toNat, y.2)) := by
  have eq : convert r sat (.inr h) (.inr f) x =
      (BitVec.ofNat 64 (f.convert h r (x % 2 ^ (1 + f.ebits + f.mbits))).1,
        (f.convert h r (x % 2 ^ (1 + f.ebits + f.mbits))).2) := by
    simp only [convert, bits_zero, FpFmt.width]
  dsimp only
  rw [eq]
  generalize x % 2 ^ (1 + f.ebits + f.mbits) = a
  unfold FpFmt.convert
  refine ⟨fun b hb => by rw [hb]; rfl, fun s hs => by rw [hs], fun s m e hm => ?_⟩
  rw [hm, rat_fin]
  dsimp only
  refine ⟨fun h0 => by rw [h0]; rfl, fun h0 => ?_⟩
  rw [h.toNat_pack hh (by decide)]
  exact h.pack_roundsTo (h.roomy_of hh) r s e h0

theorem convertDelivers (r : Rounding) (sat : Bool) : ConvertDelivers r sat :=
  ⟨fun t u x ht hu => convert_int_delivers r sat t u ht hu x, fun f hf x =>
    ⟨fun t ht => convert_from_int_delivers r sat hf t ht x, fun u _ => convert_to_int_delivers r sat f u x,
      fun _ hh => convert_format_delivers r sat f hh x⟩⟩

end Conversions
end Sys2Proof.Machine

/-! Quantisation and decoding of residue elements (spec 02 R79 to R82, R104, R105; 07 R285 to R287). -/

namespace Sys2Proof.Machine
section Quantisation

theorem not_two_roundsToInt_rne {x : Real} {n k : Int} (hn : RoundsToInt .rne x n) (hk : RoundsToInt .rne x k) : ¬ n < k := by
  intro lt
  obtain ⟨_, hn⟩ := hn
  obtain ⟨_, hk⟩ := hk
  have ltR : (n : Real) + 1 ≤ k := by exact_mod_cast lt
  have dist : |x - k| = |x - n| := le_antisymm (hk n ⟨n, rfl⟩).1 (hn k ⟨k, rfl⟩).1
  have mid : 2 * x = n + k := by
    rcases abs_eq_abs.1 dist with h | h <;> linarith
  have near := (hn (n + 1) ⟨n + 1, by push_cast; rfl⟩).1
  have next : k = n + 1 := by
    rw [abs_of_pos (by linarith)] at near
    have : (k : Real) < n + 2 := by
      rcases abs_cases (x - (n + 1)) with ⟨h, _⟩ | ⟨h, _⟩ <;> linarith
    have : k < n + 2 := by exact_mod_cast this
    omega
  subst next
  obtain ⟨i, hi⟩ := (hn _ ⟨n + 1, rfl⟩).2 (by push_cast; linarith) dist
  obtain ⟨j, hj⟩ := (hk n ⟨n, rfl⟩).2 (by push_cast; linarith) dist.symm
  push_cast at hi hj
  rw [show (n : Real) + 1 - n = 1 by ring, abs_one, mul_one] at hi
  rw [show (n : Real) - (n + 1) = -1 by ring, abs_neg, abs_one, mul_one] at hj
  have hi' : n = 2 * i := by exact_mod_cast hi
  have hj' : n + 1 = 2 * j := by exact_mod_cast hj
  omega

/-- Rounding to the nearest integer, ties to even, gives one number. -/
theorem roundsToInt_rne_unique {x : Real} {n k : Int} (hn : RoundsToInt .rne x n) (hk : RoundsToInt .rne x k) : n = k :=
  le_antisymm (not_lt.1 (not_two_roundsToInt_rne hk hn)) (not_lt.1 (not_two_roundsToInt_rne hn hk))

/-- The integer that quantising a finite number in units of 2^q rounds to (02 R104). -/
def quantInt (s : Bool) (m : Nat) (e q : Int) : Int := signedMag s (quantMag m e q).1

theorem quantInt_rounds (s : Bool) (m : Nat) (e q : Int) :
    let v := ((FpVal.fin s m e).rat : Real) / (2 : Real) ^ q
    RoundsToInt .rne v (quantInt s m e q) ∧ ((quantMag m e q).2 = true ↔ (quantInt s m e q : Real) ≠ v) := by
  have h := roundAt_roundsToInt .rne s m e q
  rw [rat_fin]
  exact h

theorem natAbs_signedMag (s : Bool) (m : Nat) : (signedMag s m).natAbs = m := by
  cases s <;> simp [signedMag]

theorem quantMag_zero (e q : Int) : quantMag 0 e q = (0, false) := by
  simp [quantMag, roundAt, remClass, roundsUp]

/-- A value that exceeds the largest magnitude when rounded in units of 2^q. -/
def Beyond (nmax : Nat) (q : Int) (x : FpVal) : Prop :=
  (∃ s, x = .inf s) ∨
    (∃ s m e, x = .fin s m e) ∧ ∀ n, RoundsToInt .rne ((x.rat : Real) / (2 : Real) ^ q) n → (nmax : Int) < |n|

theorem beyond_fin (nmax : Nat) (q : Int) (s : Bool) (m : Nat) (e : Int) :
    Beyond nmax q (.fin s m e) ↔ nmax < (quantMag m e q).1 := by
  have abs_eq : |quantInt s m e q| = ((quantMag m e q).1 : Int) := by
    rw [Int.abs_eq_natAbs, quantInt, natAbs_signedMag]
  have h := (quantInt_rounds s m e q).1
  constructor
  · rintro (⟨s, hs⟩ | ⟨_, far⟩)
    · cases hs
    · have := far _ h
      rw [abs_eq] at this
      exact_mod_cast this
  · refine fun far => .inr ⟨⟨s, m, e, rfl⟩, fun n hn => ?_⟩
    rw [roundsToInt_rne_unique hn h, abs_eq]
    exact_mod_cast far

theorem fitsAt_iff (nmax : Nat) (q : Int) (x : FpVal) : fitsAt nmax q x = true ↔ ¬ Beyond nmax q x := by
  cases x with
  | nan b => simp [fitsAt, Beyond]
  | inf s => simp [fitsAt, Beyond]
  | fin s m e => rw [beyond_fin, not_lt]; simp [fitsAt]

/-- What one value becomes (02 R104). -/
theorem quantElem_delivers (nmax : Nat) (q : Int) (x : FpVal) :
    (∀ b, x = .nan b → quantElem nmax q x = (none, false, fNV)) ∧
      (Beyond nmax q x → quantElem nmax q x = (some (if x.sign then -(nmax : Int) else nmax), true, fOF ||| fNX)) ∧
      (¬ Beyond nmax q x → ∀ s m e, x = .fin s m e →
        ∃ n, RoundsToInt .rne ((x.rat : Real) / (2 : Real) ^ q) n ∧
          quantElem nmax q x = (some n, false,
            if (n : Real) = (x.rat : Real) / (2 : Real) ^ q then 0 else if n = 0 then fUF ||| fNX else fNX)) := by
  refine ⟨fun b h => by rw [h]; rfl, fun h => ?_, fun h s m e hx => ?_⟩
  · cases x with
    | nan b => simp [Beyond] at h
    | inf s => rfl
    | fin s m e =>
      rw [beyond_fin] at h
      simp only [quantElem, h, if_true]
      rfl
  · subst hx
    obtain ⟨rounds, inexact⟩ := quantInt_rounds s m e q
    rw [beyond_fin] at h
    refine ⟨_, rounds, ?_⟩
    have zero : quantInt s m e q = 0 ↔ (quantMag m e q).1 = 0 := by
      rw [← Int.natAbs_eq_zero, quantInt, natAbs_signedMag]
    have eq : quantElem nmax q (.fin s m e) = (some (quantInt s m e q), false,
        (if (quantMag m e q).2 then fNX else 0) ||| if m != 0 && (quantMag m e q).1 == 0 then fUF ||| fNX else 0) := by
      simp only [quantElem, h, if_false, quantInt]
    rw [eq]
    by_cases hi : (quantMag m e q).2 = true
    · have hm : m ≠ 0 := fun h0 => by rw [h0, quantMag_zero] at hi; cases hi
      rw [if_neg (inexact.1 hi), if_pos hi]
      by_cases hz : (quantMag m e q).1 = 0
      · simp [hm, hz, zero.2 hz]
        decide
      · simp [hz, mt zero.1 hz]
    · have same := not_not.1 (mt inexact.2 hi)
      have nonzero : m ≠ 0 → (quantMag m e q).1 ≠ 0 := fun hm hz => hm (by
        rw [zero.2 hz, rat_fin, Int.cast_zero, eq_comm, div_eq_zero_iff] at same
        exact sgn_mul_units_eq_zero.1 (same.resolve_right (by positivity)))
      rw [if_pos same, if_neg hi]
      by_cases hm : m = 0
      · simp [hm]
      · simp [nonzero hm]

/-! The block (02 R104). -/

theorem quantBlock_of_ne {nmax sb : Nat} (hsb : sb ≠ 255) (p : LaneMask) (x : Nat → FpVal) :
    let o := quantOffset nmax sb ((lanesOf p).map x)
    quantBlock nmax sb p x = ⟨fun l => quantElem nmax ((sb : Int) + (o : Int) - 127) (x l), o,
      maxAbs (lanesOf p) (fun l => (quantElem nmax ((sb : Int) + (o : Int) - 127) (x l)).1)⟩ := by
  simp only [quantBlock, hsb, if_false]

/-- The offset is the least in 0 to 15 at which every value fits, or 15. -/
theorem quantOffset_spec (nmax sb : Nat) (xs : List FpVal) :
    let fits := fun o : Nat => ∀ x ∈ xs, ¬ Beyond nmax ((sb : Int) + o - 127) x
    let off := quantOffset nmax sb xs
    off ≤ 15 ∧ (∀ o, o < off → ¬ fits o) ∧ (off < 15 → fits off) := by
  intro fits off
  generalize hok : (fun o : Nat => xs.all (fitsAt nmax ((sb : Int) + (o : Int) - 127))) = ok
  have iff : ∀ o, ok o = true ↔ fits o := fun o => by
    simp only [← hok, List.all_eq_true, fitsAt_iff, fits]
  have hoff : off = ((List.range 16).find? ok).getD 15 := by rw [← hok]; rfl
  cases hfind : (List.range 16).find? ok with
  | none =>
    rw [hfind, Option.getD_none] at hoff
    rw [List.find?_eq_none] at hfind
    refine ⟨by omega, fun o ho => ?_, fun h => by omega⟩
    rw [← iff]
    exact hfind o (List.mem_range.2 (by omega))
  | some k =>
    rw [hfind, Option.getD_some] at hoff
    obtain ⟨holds, range, least⟩ := List.find?_range_eq_some.1 hfind
    rw [List.mem_range] at range
    rw [hoff]
    refine ⟨by omega, fun o ho => ?_, fun _ => (iff k).1 holds⟩
    rw [← iff]
    simpa using least o ho

theorem foldl_max_spec (xs : List Nat) (a : Nat) :
    a ≤ xs.foldl max a ∧ (∀ x ∈ xs, x ≤ xs.foldl max a) ∧ (xs.foldl max a = a ∨ xs.foldl max a ∈ xs) := by
  induction xs generalizing a with
  | nil => simp
  | cons y ys ih =>
    obtain ⟨above, each, attained⟩ := ih (max a y)
    rw [List.foldl_cons]
    refine ⟨(le_max_left a y).trans above, List.forall_mem_cons.2 ⟨(le_max_right a y).trans above, each⟩, ?_⟩
    rcases attained with h | h
    · rcases max_choice a y with e | e <;> rw [e] at h
      · exact .inl (by rw [e, h])
      · exact .inr (by rw [e, h]; exact List.mem_cons_self)
    · exact .inr (List.mem_cons_of_mem _ h)

/-- The magnitude of an element, 0 for NaR. -/
def magOf (n : Option Int) : Nat := (n.map Int.natAbs).getD 0

theorem maxAbs_eq (ls : List Nat) (g : Nat → Option Int) : maxAbs ls g = (ls.map fun l => magOf (g l)).foldl max 0 := by
  unfold maxAbs
  rw [List.foldl_map]
  congr 1
  funext m l
  cases g l <;> simp [magOf]

/-- The largest magnitude bounds every element and is that of one, or 0. -/
theorem maxAbs_spec (ls : List Nat) (g : Nat → Option Int) :
    (∀ l ∈ ls, ∀ n, g l = some n → n.natAbs ≤ maxAbs ls g) ∧
      (maxAbs ls g = 0 ∨ ∃ l ∈ ls, ∃ n, g l = some n ∧ n.natAbs = maxAbs ls g) := by
  rw [maxAbs_eq]
  obtain ⟨_, each, attained⟩ := foldl_max_spec (ls.map fun l => magOf (g l)) 0
  generalize (ls.map fun l => magOf (g l)).foldl max 0 = top at *
  constructor
  · intro l hl n hn
    simpa [magOf, hn] using each _ (List.mem_map_of_mem hl)
  · rcases attained with h | h
    · exact .inl h
    · obtain ⟨l, hl, hm⟩ := List.mem_map.1 h
      cases hg : g l with
      | none => exact .inl (by rw [← hm, hg]; rfl)
      | some n => exact .inr ⟨l, hl, n, hg, by rw [← hm, hg]; rfl⟩

/-! The result word (07 R286) and the codes (02 R79, R82). -/

theorem rn8Code_eq (n : Int) : ((rn8Code (some n) : Nat) : Int) = residueCode true n := by
  have : ((n % 168).toNat : Int) = n % 168 := Int.toNat_of_nonneg (Int.emod_nonneg _ (by decide))
  simp only [rn8Code, residueCode, if_true]
  omega

theorem rn12Code_eq (n : Int) : ((rn12Code (some n) : Nat) : Int) = residueCode false n := by
  have : ((n % 3120).toNat : Int) = n % 3120 := Int.toNat_of_nonneg (Int.emod_nonneg _ (by decide))
  simp only [rn12Code, residueCode, Bool.false_eq_true, if_false]
  omega

/-- The code field of an element. -/
def codeField (rn8 : Bool) (n : Option Int) : Nat := if rn8 then rn8Code n else rn12Code n

theorem codeField_some (rn8 : Bool) (n : Int) : ((codeField rn8 (some n) : Nat) : Int) = residueCode rn8 n := by
  cases rn8 with
  | false => exact rn12Code_eq n
  | true => exact rn8Code_eq n

theorem codeField_lt (rn8 : Bool) (n : Option Int) : codeField rn8 n < 2 ^ 12 := by
  cases n with
  | none => cases rn8 <;> decide
  | some n =>
    have h := codeField_some rn8 n
    cases rn8 with
    | false =>
      simp only [residueCode, Bool.false_eq_true, if_false] at h
      omega
    | true =>
      simp only [residueCode, if_true] at h
      omega

/-- The fields of the result word. -/
theorem quantWord_fields (rn8 : Bool) (q : QuantBlock) (hoff : q.off ≤ 15) (l : Nat) :
    quantWord rn8 q l / 2 ^ 20 = q.bmax ∧ quantWord rn8 q l / 2 ^ 16 % 16 = q.off ∧
      quantWord rn8 q l / 2 ^ 13 % 8 = (if (q.elem l).1 = none then 1 else 0) ∧
      quantWord rn8 q l / 2 ^ 12 % 2 = (if (q.elem l).2.1 then 1 else 0) ∧
      quantWord rn8 q l % 2 ^ 12 = codeField rn8 (q.elem l).1 := by
  have hc := codeField_lt rn8 (q.elem l).1
  have eq : quantWord rn8 q l = q.bmax * 2 ^ 20 + q.off * 2 ^ 16 + (if (q.elem l).1 = none then 1 else 0) * 2 ^ 13 +
      (if (q.elem l).2.1 then 1 else 0) * 2 ^ 12 + codeField rn8 (q.elem l).1 := by
    unfold quantWord codeField
    dsimp only
    generalize q.elem l = x
    obtain ⟨n, sat, _⟩ := x
    cases n <;> cases sat <;> simp
  rw [eq]
  generalize codeField rn8 (q.elem l).1 = code at *
  have nar : (if (q.elem l).1 = none then 1 else 0) ≤ 1 := by split <;> decide
  have sat : (if (q.elem l).2.1 then 1 else 0) ≤ 1 := by split <;> decide
  generalize (if (q.elem l).1 = none then 1 else 0) = a at *
  generalize (if (q.elem l).2.1 then 1 else 0) = b at *
  omega

/-- QUANT's block, elements and words (02 R104; 07 R286). -/
theorem quantBlock_delivers (nmax sb : Nat) (p : LaneMask) (x : Nat → FpVal) :
    let q := quantBlock nmax sb p x
    let part := fun l : Nat => l < 32 ∧ p.getLsbD l = true
    let fits := fun o : Nat => ∀ l, part l → ¬ Beyond nmax ((sb : Int) + o - 127) (x l)
    (sb ≠ 255 → (q.off ≤ 15 ∧ (∀ o, o < q.off → ¬ fits o) ∧ (q.off < 15 → fits q.off)) ∧
      ∀ l, q.elem l = quantElem nmax ((sb : Int) + q.off - 127) (x l)) ∧
    (∀ l n, part l → (q.elem l).1 = some n → n.natAbs ≤ q.bmax) ∧
    (q.bmax = 0 ∨ ∃ l n, part l ∧ (q.elem l).1 = some n ∧ n.natAbs = q.bmax) ∧ q.off ≤ 15 := by
  intro q part fits
  have lanes : ∀ l, l ∈ lanesOf p ↔ part l := fun l => ⟨fun h => ⟨mem_lanesOf_lt h, mem_lanesOf.1 h⟩, fun h => mem_lanesOf.2 h.2⟩
  by_cases hsb : sb = 255
  · have hq : q = ⟨fun _ => (none, false, fNV), 0, 0⟩ := by simp only [q, quantBlock, hsb, if_true]
    rw [hq]
    exact ⟨fun h => absurd hsb h, fun l n _ h => absurd h (by simp), .inl rfl, Nat.zero_le _⟩
  · have hq : q = _ := quantBlock_of_ne hsb p x
    rw [hq]
    obtain ⟨le, least, fit⟩ := quantOffset_spec nmax sb ((lanesOf p).map x)
    have fits_iff : ∀ o : Nat, (∀ y ∈ (lanesOf p).map x, ¬ Beyond nmax ((sb : Int) + o - 127) y) ↔ fits o := fun o => by
      simp only [List.forall_mem_map, lanes, fits]
    obtain ⟨bound, attained⟩ := maxAbs_spec (lanesOf p)
      (fun l => (quantElem nmax ((sb : Int) + (quantOffset nmax sb ((lanesOf p).map x) : Int) - 127) (x l)).1)
    refine ⟨fun _ => ⟨⟨le, fun o ho => mt (fits_iff o).2 (least o ho), fun h => (fits_iff _).1 (fit h)⟩, fun l => rfl⟩,
      fun l n hl hn => bound l ((lanes l).2 hl) n hn, attained.imp_right ?_, le⟩
    rintro ⟨l, hl, n, hn, h⟩
    exact ⟨l, n, (lanes l).1 hl, hn, h⟩

theorem quantDelivers (rn8 : Bool) : QuantDelivers rn8 := by
  have htop : ∃ nmax : Nat, (if rn8 then 83 else 1559 : Int) = nmax := by cases rn8 <;> exact ⟨_, rfl⟩
  intro sb p x
  obtain ⟨nmax, htop⟩ := htop
  simp only [htop, Int.toNat_natCast]
  obtain ⟨block, bound, attained, le⟩ := quantBlock_delivers nmax sb p x
  dsimp only at block bound attained le
  refine ⟨fun h => ?_, fun hlt => ?_, bound, attained, fun l => ?_⟩
  · simp only [quantBlock, h, if_true, implies_true, and_self]
  · obtain ⟨off, elem⟩ := block hlt.ne
    refine ⟨off, fun l => ?_⟩
    rw [elem l]
    exact quantElem_delivers nmax _ (x l)
  · obtain ⟨h1, h2, h3, h4, h5⟩ := quantWord_fields rn8 (quantBlock nmax sb p x) le l
    refine ⟨h1, h2, h3, h4, ?_⟩
    rw [h5]
    cases ((quantBlock nmax sb p x).elem l).1 with
    | none => cases rn8 <;> rfl
    | some n => exact codeField_some rn8 n

/-! Decoding (02 R82, R105). -/

/-- A number taken into the range from -h to h - 1. -/
theorem balanced_eq_iff {u h : Nat} (hu : u < 2 * h) (n : Int) :
    (if u < h then (u : Int) else u - (2 * h : Nat)) = n ↔ -(h : Int) ≤ n ∧ n < h ∧ (u : Int) = n % (2 * h : Nat) := by
  push_cast
  have wrap : ∀ k : Int, 0 ≤ n + 2 * h * k → n + 2 * h * k < 2 * h → n % (2 * h) = n + 2 * h * k := fun k lo hi => by
    rw [← Int.add_mul_emod_self_left n (2 * h) k, Int.emod_eq_of_lt lo hi]
  constructor
  · intro e
    refine ⟨by split at e <;> omega, by split at e <;> omega, ?_⟩
    split at e
    · rw [wrap 0 (by omega) (by omega)]; omega
    · rw [wrap 1 (by omega) (by omega)]; omega
  · rintro ⟨lo, hi, e⟩
    rcases le_or_gt 0 n with h0 | h0
    · rw [wrap 0 (by omega) (by omega)] at e
      rw [if_pos (by omega)]; omega
    · rw [wrap 1 (by omega) (by omega)] at e
      rw [if_neg (by omega)]; omega

/-- The Chinese remainder theorem in the constants of R82. -/
theorem rn8_crt {a b d : Nat} (ha : a < 3) (hb : b < 7) (hd : d < 8) (n : Int) :
    (((112 * a + 120 * b + 105 * d) % 168 : Nat) : Int) = n % 168 ↔ n % 3 = a ∧ n % 7 = b ∧ n % 8 = d := by
  have sum : (112 * (n % 3) + 120 * (n % 7) + 105 * (n % 8)) % 168 = n % 168 := by omega
  push_cast
  constructor
  · intro h
    have quot := Int.emod_add_mul_ediv (112 * a + 120 * b + 105 * d : Int) 168
    have quot' := Int.emod_add_mul_ediv n 168
    rw [h] at quot
    generalize (112 * a + 120 * b + 105 * d : Int) / 168 = j at quot
    generalize n % 168 = u at quot quot'
    generalize n / 168 = k at quot'
    refine ⟨?_, ?_, ?_⟩ <;> omega
  · rintro ⟨ha, hb, hd⟩
    rw [← ha, ← hb, ← hd, sum]

/-- See rn8_crt. -/
theorem rn12_crt {a b d : Nat} (ha : a < 13) (hb : b < 15) (hd : d < 16) (n : Int) :
    (((2640 * a + 1456 * b + 2145 * d) % 3120 : Nat) : Int) = n % 3120 ↔ n % 13 = a ∧ n % 15 = b ∧ n % 16 = d := by
  have sum : (2640 * (n % 13) + 1456 * (n % 15) + 2145 * (n % 16)) % 3120 = n % 3120 := by omega
  push_cast
  constructor
  · intro h
    have quot := Int.emod_add_mul_ediv (2640 * a + 1456 * b + 2145 * d : Int) 3120
    have quot' := Int.emod_add_mul_ediv n 3120
    rw [h] at quot
    generalize (2640 * a + 1456 * b + 2145 * d : Int) / 3120 = j at quot
    generalize n % 3120 = u at quot quot'
    generalize n / 3120 = k at quot'
    refine ⟨?_, ?_, ?_⟩ <;> omega
  · rintro ⟨ha, hb, hd⟩
    rw [← ha, ← hb, ← hd, sum]

/-- The fields of a code, which the residues of a number fill when they make the code. -/
theorem rn8_fields {c : Nat} (hc : c < 256) (n : Int) :
    ∃ a b d : Nat, bits c 6 2 = a ∧ bits c 3 3 = b ∧ bits c 0 3 = d ∧ a < 4 ∧ b < 8 ∧ d < 8 ∧
      ((c : Int) = residueCode true n ↔ n % 3 = a ∧ n % 7 = b ∧ n % 8 = d) := by
  refine ⟨c / 64, c / 8 % 8, c % 8, by unfold bits; omega, by unfold bits; omega, by unfold bits; omega, by omega, by omega,
    by omega, ?_⟩
  have h : (c : Int) = (c / 64 : Nat) * 64 + (c / 8 % 8 : Nat) * 8 + (c % 8 : Nat) := by omega
  have ha : c / 8 % 8 < 8 ∧ c % 8 < 8 := by omega
  have hr : 0 ≤ n % 7 ∧ n % 7 < 7 ∧ 0 ≤ n % 8 ∧ n % 8 < 8 := by omega
  simp only [residueCode, if_true, h]
  generalize c / 64 = a at *
  generalize c / 8 % 8 = b at *
  generalize c % 8 = d at *
  generalize n % 3 = x at *
  generalize n % 7 = y at *
  generalize n % 8 = z at *
  omega

/-- See rn8_fields. -/
theorem rn12_fields {c : Nat} (hc : c < 4096) (n : Int) :
    ∃ a b d : Nat, bits c 8 4 = a ∧ bits c 4 4 = b ∧ bits c 0 4 = d ∧ a < 16 ∧ b < 16 ∧ d < 16 ∧
      ((c : Int) = residueCode false n ↔ n % 13 = a ∧ n % 15 = b ∧ n % 16 = d) := by
  refine ⟨c / 256, c / 16 % 16, c % 16, by unfold bits; omega, by unfold bits; omega, by unfold bits; omega, by omega,
    by omega, by omega, ?_⟩
  have h : (c : Int) = (c / 256 : Nat) * 256 + (c / 16 % 16 : Nat) * 16 + (c % 16 : Nat) := by omega
  have ha : c / 16 % 16 < 16 ∧ c % 16 < 16 := by omega
  have hr : 0 ≤ n % 15 ∧ n % 15 < 15 ∧ 0 ≤ n % 16 ∧ n % 16 < 16 := by omega
  simp only [residueCode, Bool.false_eq_true, if_false, h]
  generalize c / 256 = a at *
  generalize c / 16 % 16 = b at *
  generalize c % 16 = d at *
  generalize n % 13 = x at *
  generalize n % 15 = y at *
  generalize n % 16 = z at *
  omega

/-- An RN8 code reads as the number of the range whose residues it holds. -/
theorem rn8Read_iff {c : Nat} (hc : c < 256) (n : Int) :
    rn8Read c = some n ↔ -84 ≤ n ∧ n < 84 ∧ (c : Int) = residueCode true n := by
  obtain ⟨a, b, d, h3, h7, h8, ha, hb, hd, code⟩ := rn8_fields hc n
  rw [code]
  unfold rn8Read
  simp only [h3, h7, h8, Bool.or_eq_true, decide_eq_true_eq]
  split
  next nar =>
    simp only [reduceCtorEq, false_iff]
    omega
  next canonical =>
    rw [not_or] at canonical
    rw [Option.some.injEq, ← rn8_crt (by omega) (by omega) hd]
    exact balanced_eq_iff (h := 84) (Nat.mod_lt _ (by decide)) n

/-- See rn8Read_iff. -/
theorem rn12Read_iff {c : Nat} (hc : c < 4096) (n : Int) :
    rn12Read c = some n ↔ -1560 ≤ n ∧ n < 1560 ∧ (c : Int) = residueCode false n := by
  obtain ⟨a, b, d, h13, h15, h16, ha, hb, hd, code⟩ := rn12_fields hc n
  rw [code]
  unfold rn12Read
  simp only [h13, h15, h16, Bool.or_eq_true, decide_eq_true_eq]
  split
  next nar =>
    simp only [reduceCtorEq, false_iff]
    omega
  next canonical =>
    rw [not_or] at canonical
    rw [Option.some.injEq, ← rn12_crt (by omega) (by omega) hd]
    exact balanced_eq_iff (h := 1560) (Nat.mod_lt _ (by decide)) n

/-- The numbers of a residue format, and the code that holds one. -/
theorem dquantElem_iff (rn8 : Bool) (a : Nat) (n : Int) :
    let half : Int := if rn8 then 84 else 1560
    dquantElem rn8 a = some n ↔
      -half ≤ n ∧ n < half ∧ ((a % (if rn8 then 256 else 4096) : Nat) : Int) = residueCode rn8 n := by
  unfold dquantElem
  rw [bits_zero, bits_zero]
  cases rn8 with
  | false => exact rn12Read_iff (Nat.mod_lt _ (by decide)) n
  | true => exact rn8Read_iff (Nat.mod_lt _ (by decide)) n

/-- The FP32 result of a decoded element is its number rounded once (02 R105). -/
theorem decodeFp_some (n : Int) (sb o : Nat) :
    decodeFp (some n) sb o = (BitVec.ofNat 32 (fp32.pack .rne (decide (n < 0)) n.natAbs ((sb : Int) + o - 127)).1,
      (fp32.pack .rne (decide (n < 0)) n.natAbs ((sb : Int) + o - 127)).2) := rfl

theorem dquantDelivers (rn8 : Bool) : DquantDelivers rn8 := by
  intro a b
  dsimp only
  have eq : ∀ e, (if b % 256 = 255 then none else dquantElem rn8 a) = e → dquantOf rn8 a b =
      ((if b / 256 % 2 = 1 then decodeFp e (b % 256) (a / 2 ^ 16 % 16) else decodeInt e).1.setWidth 64,
        (if b / 256 % 2 = 1 then decodeFp e (b % 256) (a / 2 ^ 16 % 16) else decodeInt e).2) := fun e he => by
    rw [← he]
    unfold dquantOf bits
    simp only [Nat.reducePow, Nat.div_one]
  refine ⟨fun h => ?_, fun n hsb holds => ?_⟩
  · rw [eq none ?_]
    · split <;> rfl
    · rcases h with h | h
      · rw [if_pos h]
      · split
        · rfl
        · exact Option.eq_none_iff_forall_ne_some.2 fun n hn => h n ((dquantElem_iff rn8 a n).1 hn)
  · rw [eq (some n) (by rw [if_neg hsb]; exact (dquantElem_iff rn8 a n).2 holds)]
    refine ⟨fun h => ?_, fun h h0 => ?_, fun h h0 => ?_⟩
    · rw [if_neg (by omega)]; rfl
    · rw [if_pos h, h0]; rfl
    · rw [if_pos h, decodeFp_some]
      have wide : ∀ w : Word, (w.setWidth 64).toNat = w.toNat := fun w => by
        rw [BitVec.toNat_setWidth, Nat.mod_eq_of_lt (w.isLt.trans (by decide))]
      rw [wide, fp32.toNat_pack (.inl rfl) le_rfl]
      exact fp32.pack_int_roundsTo (fp32.roomy_of (.inl rfl)) .rne n _ h0

end Quantisation
end Sys2Proof.Machine

/-! The conversion instructions (07 R282 to R288). -/

namespace Sys2Proof.Machine

/-- What QUANT writes in each participating lane (07 R285, R286). -/
theorem quant_result {s : State} {g : Gang} {i : Instr} {o : RRR} {rn8 : Bool} {f : FpFmt}
    (e : exec i s = finish (s.quant o rn8 f)) (hi : s.Issues g)
    (hr : g.regsOk (useDst 1 o.d ++ useSrc 1 o.a ++ useSrc 1 o.b) = true) :
    let p := g.parts s.cur o.g
    let q := quantBlock (if rn8 then 83 else 1559) ((g.src (lowest p) o.b).toNat % 256) p
      (fun k => f.read ((g.src k o.a).toNat % 2 ^ (1 + f.ebits + f.mbits)))
    VectorResult s g i o.d false o.w o.g (fun l => BitVec.ofNat 64 (quantWord rn8 q l)) (flagsOf p (fun l => (q.elem l).2.2)) := by
  unfold State.quant at e
  have := State.vector_result s g i _ o.d false o.w o.g _ hi hr e
  simpa only [bits_zero, FpFmt.width, Nat.reducePow] using this

/-- What DQUANT writes in each participating lane (07 R287). -/
theorem dquant_result {s : State} {g : Gang} {i : Instr} {o : RRR} {rn8 : Bool} (e : exec i s = finish (s.dquant o rn8)) :
    TwoSourcesFlags s g i o
      (fun a b => ((dquantOf rn8 a.toNat b.toNat).1.toNat, (dquantOf rn8 a.toNat b.toNat).2)) := by
  intro hi hr
  unfold State.dquant at e
  have := State.vector_result s g i _ o.d false o.w o.g _ hi hr e
  simpa only [BitVec.ofNat_toNat, BitVec.setWidth_eq] using this

/-- The bytes of a word, lowest first. -/
theorem bytesOf_word (a : Word) :
    bytesOf 4 a.toNat = [a.setWidth 8, (a >>> 8).setWidth 8, (a >>> 16).setWidth 8, (a >>> 24).setWidth 8] := by
  have byte : ∀ k : Nat, BitVec.ofNat 8 (a.toNat / 2 ^ k) = (a >>> k).setWidth 8 := fun k => by
    apply BitVec.eq_of_toNat_eq
    rw [BitVec.toNat_ofNat, BitVec.toNat_setWidth, BitVec.toNat_ushiftRight, Nat.shiftRight_eq_div_pow]
  simp only [bytesOf, List.range_succ, List.range_zero, List.nil_append, List.cons_append, List.map_cons, List.map_nil, byte]
  simp

/-- Settles O12: the conversions' arithmetic is the one rounding of O10 or an integer range; the instructions are the shared
vector form at the model's functions. -/
theorem conversionResults : Obligations.ConversionResults := by
  unfold Obligations.ConversionResults
  refine ⟨⟨convertDelivers, fun rn8 => ⟨quantDelivers rn8, dquantDelivers rn8⟩⟩, fun s g o hi hr => ?_, fun s g o => ?_⟩
  · exact State.vector_result s g (.cvt o) _ o.d (NumType.isPair o.target) o.w o.g _ hi hr rfl
  · exact ⟨quant_result rfl, quant_result rfl, quant_result rfl, quant_result rfl, dquant_result rfl, dquant_result rfl,
      State.alu2_result rfl fun a b => congrArg (crcRun b) (bytesOf_word a)⟩

end Sys2Proof.Machine

/-! Codes, NaNs and infinities (spec 02 R71 to R74; 07 R277, R278). -/

namespace Sys2Proof.Machine
section Specials

variable {f : FpFmt}

theorem FpFmt.readsFields (hf : f.Roomy) : f.ReadsFields := by
  intro x
  have he : f.ebits ≠ 0 := by have := hf.ebits; omega
  have hE := hf.fields
  have hm := hf.mbits
  have frac : bits x 0 f.mbits = x % 2 ^ f.mbits := bits_zero x _
  have sign : (bits x (f.ebits + f.mbits) 1 == 1) = decide (x / 2 ^ (f.ebits + f.mbits) % 2 = 1) := by
    rw [bits, pow_one, beq_eq_decide]
  have quiet : (bits x (f.mbits - 1) 1 == 0) = decide (x % 2 ^ f.mbits < 2 ^ (f.mbits - 1)) := by
    have half : 2 ^ f.mbits = 2 ^ (f.mbits - 1) * 2 := by rw [← pow_succ, Nat.sub_add_cancel hm]
    rw [bits, pow_one, beq_eq_decide, half, decide_eq_decide, ← Nat.mod_mul_right_div_self, Nat.div_eq_zero_iff]
    have := Nat.two_pow_pos (f.mbits - 1)
    omega
  dsimp only
  unfold FpFmt.read
  dsimp only
  rw [frac, sign, quiet, show bits x f.mbits f.ebits = x / 2 ^ f.mbits % 2 ^ f.ebits from rfl]
  generalize x % 2 ^ f.mbits = fr
  generalize x / 2 ^ f.mbits % 2 ^ f.ebits = ex
  refine ⟨fun h1 h2 => ?_, fun h1 h2 => ?_, fun h => ?_, fun h1 h2 => ?_⟩
  · rw [if_pos h1, if_pos h2]
  · rw [if_pos h1, if_neg h2]
  · rw [if_neg (by omega), if_pos h]; rfl
  · rw [if_neg h2, if_neg h1]; rfl

theorem snanFlags_two (x y : FpVal) : snanFlags [x, y] = nvIf (x.isSnan || y.isSnan) := by
  simp [snanFlags, nvIf]

theorem snanFlags_three (x y z : FpVal) : snanFlags [x, y, z] = nvIf (x.isSnan || y.isSnan || z.isSnan) := by
  simp [snanFlags, nvIf, Bool.or_assoc]

theorem FpVal.isNan_neg (x : FpVal) : x.neg.isNan = x.isNan := by cases x <;> rfl

theorem FpVal.isSnan_neg (x : FpVal) : x.neg.isSnan = x.isSnan := by cases x <;> rfl

theorem FpVal.isSnan_of_number {x : FpVal} (h : x.isNan = false) : x.isSnan = false := by
  cases x with
  | nan b => cases h
  | inf s => rfl
  | fin s m e => rfl

/-- A sum with a NaN (02 R73). -/
theorem FpFmt.addVal_nan (f : FpFmt) (r : Rounding) {x y : FpVal} (h : x.isNan = true ∨ y.isNan = true) :
    f.addVal r x y = (f.qnan, nvIf (x.isSnan || y.isSnan)) := by
  rw [← snanFlags_two]
  cases x <;> cases y <;> simp [FpVal.isNan] at h <;> rfl

theorem FpFmt.addVal_inf_inf (f : FpFmt) (r : Rounding) (s t : Bool) :
    f.addVal r (.inf s) (.inf t) = if s = t then (f.inf s, 0) else (f.qnan, fNV) := by
  simp [FpFmt.addVal]

theorem FpFmt.arithmetic_nan (f : FpFmt) (r : Rounding) {a b : Nat}
    (h : (f.read a).isNan = true ∨ (f.read b).isNan = true) :
    let y := (f.qnan, nvIf ((f.read a).isSnan || (f.read b).isSnan))
    f.add r a b = y ∧ f.sub r a b = y ∧ f.mul r a b = y ∧ f.div r a b = y := by
  dsimp only
  refine ⟨f.addVal_nan r h, ?_, ?_, ?_⟩
  · have := f.addVal_nan r (x := f.read a) (y := (f.read b).neg) (by rwa [FpVal.isNan_neg])
    rwa [FpVal.isSnan_neg] at this
  · unfold FpFmt.mul
    rw [← snanFlags_two]
    generalize f.read a = x at *
    generalize f.read b = y at *
    cases x <;> cases y <;> simp [FpVal.isNan] at h <;> rfl
  · unfold FpFmt.div
    rw [← snanFlags_two]
    generalize f.read a = x at *
    generalize f.read b = y at *
    cases x <;> cases y <;> simp [FpVal.isNan] at h <;> rfl

theorem bool_bne_comm (s t : Bool) : (s != t) = (t != s) := by cases s <;> cases t <;> rfl

theorem FpFmt.arithmetic_inf_inf (f : FpFmt) (r : Rounding) {a b : Nat} {s t : Bool} (ha : f.read a = .inf s)
    (hb : f.read b = .inf t) :
    f.add r a b = (if s = t then (f.inf s, 0) else (f.qnan, fNV)) ∧
      f.sub r a b = (if s = t then (f.qnan, fNV) else (f.inf s, 0)) ∧
      f.mul r a b = (f.inf (s != t), 0) ∧ f.div r a b = (f.qnan, fNV) := by
  unfold FpFmt.add FpFmt.sub FpFmt.mul FpFmt.div
  rw [ha, hb]
  refine ⟨f.addVal_inf_inf r s t, ?_, rfl, rfl⟩
  rw [FpVal.neg, f.addVal_inf_inf]
  cases s <;> cases t <;> rfl

theorem FpFmt.arithmetic_inf_fin (f : FpFmt) (r : Rounding) {a b m : Nat} {s t : Bool} {e : Int} (ha : f.read a = .inf s)
    (hb : f.read b = .fin t m e) :
    f.add r a b = (f.inf s, 0) ∧ f.add r b a = (f.inf s, 0) ∧ f.sub r a b = (f.inf s, 0) ∧ f.sub r b a = (f.inf (!s), 0) ∧
      f.mul r a b = (if m = 0 then (f.qnan, fNV) else (f.inf (s != t), 0)) ∧ f.mul r b a = f.mul r a b ∧
      f.div r a b = (f.inf (s != t), 0) ∧ f.div r b a = (f.signBit (s != t), 0) := by
  unfold FpFmt.add FpFmt.sub FpFmt.mul FpFmt.div
  rw [ha, hb]
  exact ⟨rfl, rfl, rfl, rfl, rfl, rfl, rfl,
    congrArg (fun b => (f.signBit b, 0)) (bool_bne_comm t s)⟩

/-! Fused products (07 R277). -/

/-- The product of an infinity and a zero. -/
def InfTimesZero (v w : FpVal) : Prop := ∃ s t e, v = .inf s ∧ w = .fin t 0 e

/-- A product of an infinity that is valid: an infinity with the product's sign goes into the sum. -/
theorem FpFmt.fma_inf (f : FpFmt) (r : Rounding) {a b : Nat} (c : Nat)
    (valid : ¬ (InfTimesZero (f.read a) (f.read b) ∨ InfTimesZero (f.read b) (f.read a)))
    (h : ((∃ s, f.read a = .inf s) ∧ (f.read b).isNan = false) ∨ ((∃ s, f.read b = .inf s) ∧ (f.read a).isNan = false)) :
    f.fma r a b c = f.addVal r (.inf ((f.read a).sign != (f.read b).sign)) (f.read c) := by
  unfold FpFmt.fma
  generalize f.read a = x at *
  generalize f.read b = y at *
  have nonzero : ∀ {s t m e}, x = .inf s ∧ y = .fin t m e ∨ y = .inf s ∧ x = .fin t m e → m ≠ 0 := by
    rintro s t m e h rfl
    exact valid (h.imp (fun h => ⟨s, t, e, h⟩) (fun h => ⟨s, t, e, h⟩))
  rcases h with ⟨⟨s, rfl⟩, nan⟩ | ⟨⟨s, rfl⟩, nan⟩
  · cases y with
    | nan b => cases nan
    | inf t => rfl
    | fin t m e => simp [nonzero (.inl ⟨rfl, rfl⟩), FpVal.sign]
  · cases x with
    | nan b => cases nan
    | inf t => rfl
    | fin t m e => simp [nonzero (.inr ⟨rfl, rfl⟩), FpVal.sign, bool_bne_comm]

/-- A fused product with a NaN operand, of no invalid product (02 R73; 07 R277). -/
theorem FpFmt.fma_nan (f : FpFmt) (r : Rounding) {a b c : Nat}
    (valid : ¬ (InfTimesZero (f.read a) (f.read b) ∨ InfTimesZero (f.read b) (f.read a)))
    (h : (f.read a).isNan = true ∨ (f.read b).isNan = true ∨ (f.read c).isNan = true) :
    f.fma r a b c = (f.qnan, nvIf ((f.read a).isSnan || (f.read b).isSnan || (f.read c).isSnan)) := by
  by_cases inf : ((∃ s, f.read a = .inf s) ∧ (f.read b).isNan = false) ∨ ((∃ s, f.read b = .inf s) ∧ (f.read a).isNan = false)
  · have numbers : (f.read a).isNan = false ∧ (f.read b).isNan = false := by
      rcases inf with ⟨⟨s, hs⟩, nan⟩ | ⟨⟨s, hs⟩, nan⟩
      · exact ⟨by rw [hs]; rfl, nan⟩
      · exact ⟨nan, by rw [hs]; rfl⟩
    have nanC : (f.read c).isNan = true := by simpa [numbers.1, numbers.2] using h
    rw [f.fma_inf r c valid inf, f.addVal_nan r (.inr nanC), FpVal.isSnan_of_number numbers.1,
      FpVal.isSnan_of_number numbers.2]
    rfl
  · unfold FpFmt.fma
    rw [← snanFlags_three]
    generalize f.read a = x at *
    generalize f.read b = y at *
    generalize f.read c = z at *
    cases x with
    | nan b => cases y <;> rfl
    | inf s =>
      cases y with
      | nan b => rfl
      | inf t => exact absurd (.inl ⟨⟨s, rfl⟩, rfl⟩) inf
      | fin t n e => exact absurd (.inl ⟨⟨s, rfl⟩, rfl⟩) inf
    | fin s m e =>
      cases y with
      | nan b => rfl
      | inf t => exact absurd (.inr ⟨⟨t, rfl⟩, rfl⟩) inf
      | fin t n e' =>
        cases z with
        | nan b => rfl
        | inf u => simp [FpVal.isNan] at h
        | fin u o e'' => simp [FpVal.isNan] at h

theorem FpFmt.fma_invalid (f : FpFmt) (r : Rounding) {a b : Nat} (c : Nat)
    (h : InfTimesZero (f.read a) (f.read b) ∨ InfTimesZero (f.read b) (f.read a)) : f.fma r a b c = (f.qnan, fNV) := by
  unfold FpFmt.fma
  rcases h with ⟨s, t, e, hx, hy⟩ | ⟨s, t, e, hx, hy⟩ <;> rw [hx, hy] <;> rfl

theorem FpFmt.arithmeticSpecials (f : FpFmt) (r : Rounding) : f.ArithmeticSpecials r := by
  refine ⟨fun a b h => f.arithmetic_nan r h, fun a b s t ha hb => f.arithmetic_inf_inf r ha hb,
    fun a b s t m e ha hb => f.arithmetic_inf_fin r ha hb, fun a b c => ⟨f.fma_invalid r c, f.fma_nan r, fun valid inf => ?_, ?_⟩⟩
  · rw [f.fma_inf r c valid inf]
    refine ⟨fun t hc => ?_, fun t m e hc => ?_⟩ <;> rw [hc]
    · rw [f.addVal_inf_inf]
      generalize ((f.read a).sign != (f.read b).sign) = s
      cases s <;> cases t <;> rfl
    · rfl
  · intro s t u m n e e' ha hb hc
    unfold FpFmt.fma
    rw [ha, hb, hc]
    rfl

/-! FMIN and FMAX (02 R74). -/

theorem FpVal.lt_inf_of_ne {s : Bool} {y : FpVal} (hn : y.isNan = false) (hne : y ≠ .inf s) :
    y.lt (.inf s) = !s ∧ (FpVal.inf s).lt y = s := by
  cases y with
  | nan b => cases hn
  | inf t =>
    have : t = !s := by cases s <;> cases t <;> simp_all
    subst this
    cases s <;> decide
  | fin t m e => cases s <;> exact ⟨rfl, rfl⟩

theorem FpFmt.pickSpecials (f : FpFmt) : f.PickSpecials := by
  intro larger a b
  dsimp only
  refine ⟨fun ha hb => ?_, fun ha hb => ?_, fun ha hb => ?_, fun s ha hb hne => ?_⟩
  · unfold FpFmt.pick
    simp [ha, hb, snanFlags_two]
  · unfold FpFmt.pick
    simp [ha, hb, snanFlags_two]
  · unfold FpFmt.pick
    simp [ha, hb, snanFlags_two]
  · rw [ha] at hne
    obtain ⟨below, above⟩ := FpVal.lt_inf_of_ne hb hne
    have nanA : (f.read a).isNan = false := by rw [ha]; rfl
    have quiet : snanFlags [f.read a, f.read b] = 0 ∧ snanFlags [f.read b, f.read a] = 0 := by
      rw [snanFlags_two, snanFlags_two, FpVal.isSnan_of_number nanA, FpVal.isSnan_of_number hb]
      exact ⟨rfl, rfl⟩
    unfold FpFmt.pick FpVal.eq
    simp only [nanA, hb, quiet.1, quiet.2]
    simp only [ha, below, above]
    cases larger <;> cases s <;> simp

end Specials
end Sys2Proof.Machine

/-! Functions of powers of two (07 R278). -/

namespace Sys2Proof.Machine
section Functions

theorem FpFmt.read_fin_bounds {f : FpFmt} (hf : f.Roomy) {a m : Nat} {s : Bool} {e : Int} (h : f.read a = .fin s m e) :
    f.Normal m e ∧ e ≤ f.qmax := by
  obtain ⟨inf, nan, sub, nor⟩ := f.readsFields hf a
  have hq := hf.qmax_eq
  have hE := hf.fields
  have hex : a / 2 ^ f.mbits % 2 ^ f.ebits < 2 ^ f.ebits := Nat.mod_lt _ (Nat.two_pow_pos _)
  have hfr : a % 2 ^ f.mbits < 2 ^ f.mbits := Nat.mod_lt _ (Nat.two_pow_pos _)
  have hp : 2 ^ (f.mbits + 1) = 2 * 2 ^ f.mbits := pow_succ' 2 _
  have hqmin : f.qmin = 1 - ((2 ^ (f.ebits - 1) - 1 : Nat) : Int) - f.mbits := rfl
  generalize a / 2 ^ f.mbits % 2 ^ f.ebits = ex at *
  generalize a % 2 ^ f.mbits = fr at *
  by_cases h1 : ex = 2 ^ f.ebits - 1
  · by_cases h2 : fr = 0
    · rw [inf h1 h2] at h; cases h
    · rw [nan h1 h2] at h; cases h
  · by_cases h0 : ex = 0
    · rw [sub h0, FpVal.fin.injEq] at h
      obtain ⟨_, rfl, rfl⟩ := h
      exact ⟨⟨by omega, by omega, .inr (by omega)⟩, by omega⟩
    · rw [nor h0 h1, FpVal.fin.injEq] at h
      obtain ⟨_, rfl, rfl⟩ := h
      exact ⟨⟨by omega, by omega, .inl (by omega)⟩, by omega⟩

/-- A code delivers a rational number of the format without a flag. -/
def FpFmt.Gives (f : FpFmt) (c : Nat × Flags) (x : Rat) : Prop :=
  (∃ s m e, f.read c.1 = .fin s m e) ∧ (f.read c.1).rat = x ∧ c.2 = 0

theorem FpFmt.RoundsTo.gives {f : FpFmt} {r : Rounding} {x : Rat} {c : Nat × Flags} (h : f.RoundsTo r (x : Real) c)
    (hx : f.Grid false (x : Real)) (small : |(x : Real)| ≤ (2 ^ (f.mbits + 1) - 1) * (2 : Real) ^ f.qmax) : f.Gives c x := by
  obtain ⟨finite, value, flags⟩ := h.of_grid hx small
  exact ⟨finite, by exact_mod_cast value, flags⟩

theorem fp32_qmin : fp32.qmin = -149 := by decide

theorem fp32_qmax : fp32.qmax = 104 := by decide

theorem fp32_roomy : fp32.Roomy := fp32.roomy_of (.inl rfl)

/-- A power of two of FP32 that a function rounds to. -/
theorem gives_pow2 {r : Rounding} {j : Int} {c : Nat × Flags} (h : fp32.RoundsTo r ((2 : Real) ^ j) c) (lo : -149 ≤ j)
    (hi : j ≤ 127) : fp32.Gives c ((2 : Rat) ^ j) := by
  have cast : (((2 : Rat) ^ j : Rat) : Real) = (2 : Real) ^ j := by push_cast; rfl
  refine FpFmt.RoundsTo.gives (by rwa [cast]) ?_ ?_ <;> rw [cast]
  · exact ⟨1, j, by norm_num [fp32], fun _ => by rw [fp32_qmin]; exact lo, by simp⟩
  · rw [abs_of_pos (by positivity), fp32_qmax]
    calc (2 : Real) ^ j ≤ 2 ^ (127 : Int) := zpow_le_zpow_right₀ one_le_two hi
      _ ≤ (2 ^ (fp32.mbits + 1) - 1) * 2 ^ (104 : Int) := by norm_num [fp32]

/-- An FP32 code of a power of two, by its fields. -/
theorem fin_of_pow2 {a : Nat} {k : Int} (h : (fp32.read a).rat = (2 : Rat) ^ k) :
    ∃ j : Nat, ∃ e : Int, fp32.read a = .fin false (2 ^ j) e ∧ k = e + j ∧ -149 ≤ k ∧ k ≤ 127 := by
  have hpos : (0 : Rat) < 2 ^ k := by positivity
  cases read : fp32.read a with
  | nan b => rw [read] at h; exact absurd h hpos.ne
  | inf s => rw [read] at h; exact absurd h hpos.ne
  | fin s m e =>
    obtain ⟨⟨width, least, _⟩, most⟩ := fp32.read_fin_bounds fp32_roomy read
    rw [fp32_qmin] at least
    rw [fp32_qmax] at most
    have real : sgn s * (m * (2 : Real) ^ e) = 2 ^ k := by
      rw [← rat_fin, ← read, h]; push_cast; rfl
    obtain ⟨rfl, hm⟩ := sgn_mul_units_pos.1 (real ▸ (by positivity : (0 : Real) < 2 ^ k))
    have units : (m : Real) = 2 ^ (k - e) := by
      rw [zpow_sub₀ two_ne_zero, eq_div_iff (by positivity), ← real]
      simp [sgn]
    have hke : 0 ≤ k - e := by
      by_contra! neg
      have : (m : Real) < 1 := by rw [units]; exact zpow_lt_one_of_neg₀ one_lt_two neg
      exact hm (Nat.lt_one_iff.1 (by exact_mod_cast this))
    obtain ⟨j, hj⟩ := Int.eq_ofNat_of_zero_le hke
    have hmj : m = 2 ^ j := by
      rw [hj, zpow_natCast] at units
      exact_mod_cast units
    have hj24 : j < 24 := by
      rw [hmj] at width
      exact (Nat.pow_lt_pow_iff_right one_lt_two).1 width
    exact ⟨j, e, by rw [hmj], by omega, by omega, by omega⟩

theorem bitLen_two_pow (j : Nat) : bitLen (2 ^ j) = j + 1 := by
  rw [bitLen, if_neg (Nat.two_pow_pos j).ne', Nat.log2_two_pow]

theorem FpFmt.log2_pow2 (f : FpFmt) (r : Rounding) {a j : Nat} {e : Int} (h : f.read a = .fin false (2 ^ j) e) :
    f.log2 r a = f.ofInt r (e + j) := by
  unfold FpFmt.log2
  rw [h]
  simp [bitLen_two_pow]

theorem FpFmt.ofInt_roundsTo {f : FpFmt} (hf : f.Roomy) (r : Rounding) {k : Int} (hk : k ≠ 0) :
    f.RoundsTo r (k : Real) (f.ofInt r k) := by
  simpa [FpFmt.ofInt] using f.pack_int_roundsTo hf r k 0 hk

/-- Small integers are numbers of FP32. -/
theorem fp32_gives_ofInt (r : Rounding) {k : Int} (lo : -149 ≤ k) (hi : k ≤ 127) : fp32.Gives (fp32.ofInt r k) k := by
  by_cases h0 : k = 0
  · subst h0
    rw [show fp32.ofInt r 0 = (0, 0) from rfl]
    exact ⟨⟨false, 0, -149, rfl⟩, by decide +kernel, rfl⟩
  · have h := fp32.ofInt_roundsTo fp32_roomy r h0
    have cast : (((k : Rat)) : Real) = (k : Real) := by norm_cast
    have abs : |(k : Real)| ≤ 149 := by rw [abs_le]; constructor <;> exact_mod_cast (by omega)
    refine FpFmt.RoundsTo.gives (by rwa [cast]) ?_ ?_ <;> rw [cast]
    · refine ⟨k, 0, ?_, fun _ => by rw [fp32_qmin]; decide, by simp⟩
      rw [abs_le]
      constructor <;> norm_num [fp32] <;> omega
    · rw [fp32_qmax]
      exact abs.trans (by norm_num [fp32])

theorem sqrt_zpow_two {k : Int} (h : k % 2 = 0) : Real.sqrt ((2 : Real) ^ k) = 2 ^ (k / 2) := by
  have : (2 : Real) ^ k = (2 ^ (k / 2)) ^ 2 := by
    rw [← zpow_natCast, ← zpow_mul]
    congr 1
    push_cast
    omega
  rw [this, Real.sqrt_sq (by positivity)]

theorem fp32_functionSpecials (r : Rounding) : fp32.FunctionSpecials r := by
  refine ⟨fun a b h => ?_, fun a m e h hm => ?_, fun a k h => ?_⟩
  · unfold FpFmt.recip FpFmt.rsqrt FpFmt.sqrt FpFmt.exp2 FpFmt.log2
    rw [h]
    exact ⟨rfl, rfl, rfl, rfl, rfl⟩
  · unfold FpFmt.log2
    rw [h]
    simp [hm]
  · obtain ⟨j, e, read, rfl, lo, hi⟩ := fin_of_pow2 h
    have hj : 2 ^ j ≠ 0 := (Nat.two_pow_pos j).ne'
    have value : ((2 ^ j : Nat) : Real) * 2 ^ e = 2 ^ (e + j) := by
      rw [zpow_add₀ two_ne_zero, zpow_natCast]
      push_cast
      ring
    have recip := fp32.recip_roundsTo fp32_roomy r read hj
    have sqrt := fp32.sqrt_roundsTo fp32_roomy r read hj
    have rsqrt := fp32.rsqrt_roundsTo fp32_roomy r read hj
    rw [value] at recip sqrt rsqrt
    have log := fp32.log2_pow2 r read
    generalize e + (j : Int) = k at *
    refine ⟨fun hk => gives_pow2 (r := r) ?_ (by omega) ?_, fun even => ⟨gives_pow2 (r := r) ?_ (by omega) (by omega),
      gives_pow2 (r := r) ?_ (by omega) (by omega)⟩, ?_⟩
    · simpa [sgn, zpow_neg] using recip
    · have : (fp32.bias : Int) = 127 := by decide
      omega
    · rwa [sqrt_zpow_two even] at sqrt
    · rw [sqrt_zpow_two even] at rsqrt
      simpa [zpow_neg] using rsqrt
    · rw [log]
      exact fp32_gives_ofInt r lo hi

end Functions
end Sys2Proof.Machine

/-! Rounding a number that an enclosure holds (assumption log 9). -/

namespace Sys2Proof.Machine
section Enclosures

theorem FpFmt.grid_zero (f : FpFmt) (b : Bool) : f.Grid b 0 :=
  ⟨0, f.qmin, by simp, fun _ => le_rfl, by simp⟩

theorem RoundsIn.nonneg {r : Rounding} {G : Real → Prop} {x y : Real} (h : RoundsIn r G x y) (h0 : G 0) (hx : 0 < x) :
    0 ≤ y := by
  obtain ⟨_, h⟩ := h
  cases r with
  | rne =>
    have near := (h 0 h0).1
    rw [sub_zero, abs_of_pos hx] at near
    linarith [le_abs_self (x - y)]
  | rtz => exact nonneg_of_mul_nonneg_right h.1 hx
  | rup => linarith [h.1]
  | rdn => exact h.2 0 h0 hx.le

theorem RoundsIn.nonpos {r : Rounding} {G : Real → Prop} (hG : ∀ z, G z → G (-z)) {x y : Real} (h : RoundsIn r G x y)
    (h0 : G 0) (hx : x < 0) : y ≤ 0 := by
  have := (h.neg hG).nonneg h0 (by linarith)
  linarith

/-- The roundings of numbers in order and of one sign: the magnitude of the middle one lies between those of the others. -/
theorem RoundsIn.abs_between {r : Rounding} {G : Real → Prop} (hG : ∀ z, G z → G (-z)) (h0 : G 0)
    {x₁ x x₂ y₁ y y₂ : Real} (h₁ : RoundsIn r G x₁ y₁) (h : RoundsIn r G x y) (h₂ : RoundsIn r G x₂ y₂) (lt₁ : x₁ < x)
    (lt₂ : x < x₂) (sign : 0 < x₁ * x₂) : min |y₁| |y₂| ≤ |y| ∧ |y| ≤ max |y₁| |y₂| := by
  rcases pos_and_pos_or_neg_and_neg_of_mul_pos sign with ⟨p₁, p₂⟩ | ⟨n₁, n₂⟩
  · have m₁ := h₁.mono h lt₁ (mul_pos p₁ (p₁.trans lt₁))
    have m₂ := h.mono h₂ lt₂ (mul_pos (p₁.trans lt₁) p₂)
    have n := h₁.nonneg h0 p₁
    rw [abs_of_nonneg n, abs_of_nonneg (n.trans m₁), abs_of_nonneg ((n.trans m₁).trans m₂)]
    exact ⟨min_le_of_left_le m₁, le_max_of_le_right m₂⟩
  · have m₁ := h₁.mono h lt₁ (mul_pos_of_neg_of_neg n₁ (lt₂.trans n₂))
    have m₂ := h.mono h₂ lt₂ (mul_pos_of_neg_of_neg (lt₂.trans n₂) n₂)
    have n := h₂.nonpos hG h0 n₂
    rw [abs_of_nonpos n, abs_of_nonpos (m₂.trans n), abs_of_nonpos (m₁.trans (m₂.trans n))]
    exact ⟨min_le_of_right_le (by linarith), le_max_of_le_left (by linarith)⟩

theorem FpFmt.Grid.rational {f : FpFmt} {b : Bool} {y : Real} (h : f.Grid b y) : ∃ q : Rat, y = q := by
  obtain ⟨n, q, _, _, rfl⟩ := h
  exact ⟨n * 2 ^ q, by push_cast; rfl⟩

/-- Where a code's flags come from: overflow, an exact result, or an inexact one that is tiny or not. -/
theorem FpFmt.RoundsTo.cases {f : FpFmt} {r : Rounding} {x : Real} {c : Nat × Flags} (h : f.RoundsTo r x c) :
    ∃ (s : Bool) (y t : Real), (s = true ↔ x < 0) ∧ RoundsIn r (f.Grid false) x y ∧ RoundsIn r (f.Grid true) x t ∧
      let top : Real := (2 ^ (f.mbits + 1) - 1) * (2 : Real) ^ f.qmax
      ((top < |y| ∧ c.2 = fOF ||| fNX ∧
          c = (if r = .rne ∨ r = (if s then .rdn else .rup) then f.inf s else f.huge s, fOF ||| fNX)) ∨
        (|y| ≤ top ∧ (∃ m e, f.read c.1 = .fin s m e) ∧ ((f.read c.1).rat : Real) = y ∧
          (y = x ∧ c.2 = 0 ∨ y ≠ x ∧ |t| < (2 : Real) ^ (f.qmin + f.mbits) ∧ c.2 = fNX ||| fUF ∨
            y ≠ x ∧ (2 : Real) ^ (f.qmin + f.mbits) ≤ |t| ∧ c.2 = fNX))) := by
  obtain ⟨s, y, t, sign, hy, ht, large, fits⟩ := h
  refine ⟨s, y, t, sign, hy, ht, ?_⟩
  rcases lt_or_ge ((2 ^ (f.mbits + 1) - 1) * (2 : Real) ^ f.qmax) |y| with big | small
  · exact .inl ⟨big, by rw [large big], large big⟩
  · obtain ⟨finite, value, exact_, tiny, normal⟩ := fits small
    refine .inr ⟨small, finite, value, ?_⟩
    by_cases hyx : y = x
    · exact .inl ⟨hyx, exact_ hyx⟩
    · rcases lt_or_ge |t| ((2 : Real) ^ (f.qmin + f.mbits)) with h | h
      · exact .inr (.inl ⟨hyx, h, tiny hyx h⟩)
      · exact .inr (.inr ⟨hyx, h, normal hyx h⟩)

/-- An irrational number between two numbers that round to one code with the same flags rounds to it too. -/
theorem FpFmt.RoundsTo.between {f : FpFmt} {r : Rounding} {x₁ x x₂ : Real} {c c' : Nat × Flags} (h₁ : f.RoundsTo r x₁ c)
    (h₂ : f.RoundsTo r x₂ c) (h : f.RoundsTo r x c') (le₁ : x₁ ≤ x) (le₂ : x ≤ x₂) (sign : 0 < x₁ * x₂) (irr : Irrational x) :
    f.RoundsTo r x c := by
  rcases le₁.eq_or_lt with rfl | lt₁
  · exact h₁
  rcases le₂.eq_or_lt with rfl | lt₂
  · exact h₂
  obtain ⟨s₁, y₁, t₁, sign₁, hy₁, ht₁, c₁⟩ := h₁.cases
  obtain ⟨s₂, y₂, t₂, sign₂, hy₂, ht₂, c₂⟩ := h₂.cases
  obtain ⟨s, y, t, sgn, hy, ht, _⟩ := h
  obtain ⟨ylo, yhi⟩ := hy₁.abs_between (f.grid_neg _) (f.grid_zero _) hy hy₂ lt₁ lt₂ sign
  obtain ⟨tlo, thi⟩ := ht₁.abs_between (f.grid_neg _) (f.grid_zero _) ht ht₂ lt₁ lt₂ sign
  have same : 0 < x₁ * x ∧ 0 < x * x₂ ∧ (x₁ < 0 ↔ x < 0) := by
    rcases pos_and_pos_or_neg_and_neg_of_mul_pos sign with ⟨p₁, p₂⟩ | ⟨n₁, n₂⟩
    · exact ⟨mul_pos p₁ (p₁.trans lt₁), mul_pos (p₁.trans lt₁) p₂, fun h => by linarith, fun h => by linarith⟩
    · exact ⟨mul_pos_of_neg_of_neg n₁ (lt₂.trans n₂), mul_pos_of_neg_of_neg (lt₂.trans n₂) n₂, fun _ => by linarith, fun _ => n₁⟩
  have hs : s₁ = s := by rw [Bool.eq_iff_iff, sign₁, sgn, same.2.2]
  subst hs
  have inexact : y ≠ x := fun h => by
    obtain ⟨q, hq⟩ := hy.1.rational
    exact irr ⟨q, by rw [← hq, h]⟩
  have differ : ∀ {u v : Flags}, c.2 = u → c.2 = v → u ≠ v → False := fun hu hv ne => ne (hu.symm.trans hv)
  refine ⟨s₁, y, t, sgn, hy, ht, ?_⟩
  rcases c₁ with ⟨big₁, flags₁, eq₁⟩ | ⟨small₁, finite₁, value₁, flags₁⟩
  · rcases c₂ with ⟨big₂, _, _⟩ | ⟨_, _, _, flags₂⟩
    · exact ⟨fun _ => eq₁, fun h => absurd (lt_min big₁ big₂) (by linarith)⟩
    · rcases flags₂ with ⟨_, e⟩ | ⟨_, _, e⟩ | ⟨_, _, e⟩ <;> exact (differ flags₁ e (by decide)).elim
  · rcases c₂ with ⟨_, flags₂, _⟩ | ⟨small₂, _, value₂, flags₂⟩
    · rcases flags₁ with ⟨_, e⟩ | ⟨_, _, e⟩ | ⟨_, _, e⟩ <;> exact (differ e flags₂ (by decide)).elim
    · have hyy : y₁ = y := le_antisymm (hy₁.mono hy lt₁ same.1)
        (by rw [value₁.symm.trans value₂]; exact hy.mono hy₂ lt₂ same.2.1)
      refine ⟨fun h => absurd (max_le small₁ small₂) (by linarith), fun _ => ⟨finite₁, value₁.trans hyy, fun h => absurd h inexact, ?_⟩⟩
      rcases flags₁ with ⟨ex₁, e₁⟩ | ⟨_, tiny₁, e₁⟩ | ⟨_, normal₁, e₁⟩
      · rcases flags₂ with ⟨ex₂, _⟩ | ⟨_, _, e₂⟩ | ⟨_, _, e₂⟩
        · exact absurd (ex₁.symm.trans ((value₁.symm.trans value₂).trans ex₂)) (lt₁.trans lt₂).ne
        · exact (differ e₁ e₂ (by decide)).elim
        · exact (differ e₁ e₂ (by decide)).elim
      · rcases flags₂ with ⟨_, e₂⟩ | ⟨_, tiny₂, _⟩ | ⟨_, _, e₂⟩
        · exact (differ e₁ e₂ (by decide)).elim
        · exact ⟨fun _ _ => e₁, fun _ h => absurd (max_lt tiny₁ tiny₂) (by linarith)⟩
        · exact (differ e₁ e₂ (by decide)).elim
      · rcases flags₂ with ⟨_, e₂⟩ | ⟨_, _, e₂⟩ | ⟨_, normal₂, _⟩
        · exact (differ e₁ e₂ (by decide)).elim
        · exact (differ e₁ e₂ (by decide)).elim
        · exact ⟨fun _ h => absurd (le_min normal₁ normal₂) (by linarith), fun _ _ => e₁⟩

/-- An irrational number in an enclosure whose ends round alike is rounded. -/
theorem FpFmt.roundBetween_roundsTo {f : FpFmt} (hf : f.Roomy) {r : Rounding} {s : Bool} {lo hi : Nat} {e : Int}
    {c : Nat × Flags} (h : f.roundBetween r s lo hi e = some c) (wide : 2 ^ (f.mbits + 1) ≤ lo) {x : Real}
    (above : lo * (2 : Real) ^ e < x) (below : x < hi * (2 : Real) ^ e) (irr : Irrational x) : f.RoundsTo r (sgn s * x) c := by
  have he : (0 : Real) < 2 ^ e := by positivity
  have lo0 : 0 < lo := (Nat.two_pow_pos _).trans_le wide
  have lt : lo < hi := by
    have := above.trans below
    rw [mul_lt_mul_iff_left₀ he] at this
    exact_mod_cast this
  have ends : c = f.round r s lo e true ∧ c = f.round r s (hi - 1) e true := by
    unfold FpFmt.roundBetween at h
    dsimp only at h
    split at h
    next eq => exact ⟨(Option.some.inj h).symm, (Option.some.inj h).symm.trans eq⟩
    next => cases h
  have rounds : ∀ (j : Nat) (z : Real), lo ≤ j → j * (2 : Real) ^ e < z → z < (j + 1) * (2 : Real) ^ e →
      f.RoundsTo r (sgn s * z) (f.round r s j e true) := fun j z hj h1 h2 =>
    f.round_roundsTo hf (sticky := true) ⟨h1, h2⟩ (lo0.trans_le hj).ne' (fun _ => wide.trans hj) r s
  have hi1 : ((hi - 1 : Nat) : Real) = hi - 1 := by rw [Nat.cast_sub (by omega)]; simp
  have ltR : (lo : Real) + 1 ≤ hi := by exact_mod_cast lt
  have first : f.RoundsTo r (sgn s * min x ((lo + 1 / 2) * 2 ^ e)) c := by
    rw [ends.1]
    refine rounds lo _ le_rfl (lt_min above (mul_lt_mul_of_pos_right (by linarith) he)) ?_
    exact (min_le_right _ _).trans_lt (mul_lt_mul_of_pos_right (by linarith) he)
  have last : f.RoundsTo r (sgn s * max x ((hi - 1 / 2) * 2 ^ e)) c := by
    rw [ends.2]
    refine rounds (hi - 1) _ (by omega) ?_ ?_ <;> rw [hi1]
    · exact (mul_lt_mul_of_pos_right (by linarith) he).trans_le (le_max_right _ _)
    · rw [sub_add_cancel]
      exact max_lt below (mul_lt_mul_of_pos_right (by linarith) he)
  have x0 : 0 < x := lt_trans (by positivity) above
  have first0 : 0 < min x ((lo + 1 / 2) * 2 ^ e) := lt_min x0 (by positivity)
  have middle : f.RoundsTo r (sgn s * x) (f.round r s ⌊x / 2 ^ e⌋₊ e true) := by
    have floor := Nat.floor_le (div_nonneg x0.le he.le)
    rw [le_div_iff₀ he] at floor
    refine rounds _ x (Nat.le_floor (by rw [le_div_iff₀ he]; exact above.le)) (lt_of_le_of_ne floor ?_) ?_
    · exact fun eq => irr ⟨⌊x / 2 ^ e⌋₊ * 2 ^ e, by push_cast; exact eq⟩
    · rw [← div_lt_iff₀ he]
      exact Nat.lt_floor_add_one _
  cases s with
  | false =>
    simp only [sgn, Bool.false_eq_true, if_false, one_mul] at *
    exact first.between last middle (min_le_left _ _) (le_max_left _ _) (mul_pos first0 (x0.trans_le (le_max_left _ _))) irr
  | true =>
    simp only [sgn, if_true, neg_mul, one_mul] at *
    exact last.between first middle (neg_le_neg (le_max_left _ _)) (neg_le_neg (min_le_left _ _))
      (by rw [neg_mul_neg]; exact mul_pos (x0.trans_le (le_max_left _ _)) first0) irr.neg

end Enclosures
end Sys2Proof.Machine

/-! FEXP2 (spec 07 R278; assumption log 9): the enclosures of its fraction and the numbers it rounds. -/

namespace Sys2Proof.Machine
section Exponential

/-- One step of the enclosure: the square root of the tail, doubled when its bit is 1. -/
def pow2Step (p : Nat) (x : Nat × Nat) (b : Bool) : Nat × Nat :=
  let k := if b then 2 else 1
  (isqrt (x.1 * k * 2 ^ p), isqrt (x.2 * k * 2 ^ p) + 1)

theorem pow2Frac_eq (p : Nat) (bs : List Bool) : pow2Frac p bs = bs.foldl (pow2Step p) (2 ^ p, 2 ^ p) := by
  cases bs <;> rfl

/-- The fraction after a bit is put before a tail. -/
noncomputable def putBit (t : Real) (b : Bool) : Real := ((if b then 1 else 0) + t) / 2

/-- An enclosure of 2^t in units of 2^-p, at most 8 units wide. -/
structure Encloses (p : Nat) (t : Real) (x : Nat × Nat) : Prop where
  base : 2 ^ p ≤ x.1
  above : (x.1 : Real) ≤ 2 ^ p * 2 ^ t
  below : 2 ^ p * (2 : Real) ^ t ≤ x.2
  width : x.2 ≤ x.1 + 8

theorem pow2_putBit (p : Nat) (t : Real) (b : Bool) :
    (2 ^ p * (2 : Real) ^ putBit t b) ^ 2 = 2 ^ p * 2 ^ t * ((if b then 2 else 1 : Nat) : Real) * 2 ^ p := by
  have sq : ((2 : Real) ^ putBit t b) ^ 2 = (if b then 2 else 1 : Nat) * 2 ^ t := by
    rw [← Real.rpow_natCast, ← Real.rpow_mul two_pos.le, putBit]
    push_cast
    rw [div_mul_cancel₀ _ two_ne_zero, Real.rpow_add two_pos]
    cases b <;> simp
  rw [mul_pow, sq]
  ring

theorem Encloses.step {p : Nat} {t : Real} {x : Nat × Nat} (h : Encloses p t x) (b : Bool) :
    Encloses p (putBit t b) (pow2Step p x b) ∧ 2 ^ p * (2 : Real) ^ putBit t b < (pow2Step p x b).2 := by
  obtain ⟨base, above, below, width⟩ := h
  have sq := pow2_putBit p t b
  have w0 : 0 < 2 ^ p * (2 : Real) ^ putBit t b := by positivity
  have hk : (if b then 2 else 1 : Nat) = 1 ∨ (if b then 2 else 1 : Nat) = 2 := by cases b <;> decide
  unfold pow2Step
  simp only [isqrt_eq]
  generalize (if b then 2 else 1 : Nat) = k at *
  generalize hw : 2 ^ p * (2 : Real) ^ putBit t b = w at *
  have lower : ((x.1 * k * 2 ^ p : Nat) : Real) ≤ w ^ 2 := by rw [sq]; push_cast; gcongr
  have upper : w ^ 2 ≤ ((x.2 * k * 2 ^ p : Nat) : Real) := by rw [sq]; push_cast; gcongr
  have widthN : x.2 * k * 2 ^ p ≤ x.1 * k * 2 ^ p + 8 * (k * 2 ^ p) := by
    calc x.2 * k * 2 ^ p = x.2 * (k * 2 ^ p) := by ring
      _ ≤ (x.1 + 8) * (k * 2 ^ p) := Nat.mul_le_mul_right _ width
      _ = x.1 * k * 2 ^ p + 8 * (k * 2 ^ p) := by ring
  have baseN : k * 2 ^ p * 2 ^ p ≤ x.1 * k * 2 ^ p := by
    calc k * 2 ^ p * 2 ^ p = 2 ^ p * k * 2 ^ p := by ring
      _ ≤ x.1 * k * 2 ^ p := Nat.mul_le_mul_right _ (Nat.mul_le_mul_right _ base)
  generalize x.1 * k * 2 ^ p = a at *
  generalize x.2 * k * 2 ^ p = c at *
  generalize hP : 2 ^ p = P at *
  have strict : w < (Nat.sqrt c + 1 : Nat) :=
    lt_of_pow_lt_pow_left₀ 2 (Nat.cast_nonneg _) (upper.trans_lt (by exact_mod_cast Nat.lt_succ_sqrt' c))
  refine ⟨⟨?_, ?_, by rw [hw]; exact strict.le, ?_⟩, strict⟩
  · rw [hP, Nat.le_sqrt]
    rcases hk with rfl | rfl <;> nlinarith
  · rw [hw]
    refine le_of_sq_le_sq ?_ w0.le
    exact le_trans (by exact_mod_cast Nat.sqrt_le' a) lower
  · have next := Nat.lt_succ_sqrt' a
    have spread : 8 * (k * P) ≤ 14 * (Nat.sqrt a + 1) := by
      rcases hk with rfl | rfl <;> nlinarith
    have : Nat.sqrt c < Nat.sqrt a + 8 := by
      rw [Nat.sqrt_lt']
      nlinarith
    omega

/-- The fraction that bits put before a tail, lowest first. -/
theorem foldl_putBit (n : Nat) : ∀ (frac : Nat) (t : Real),
    (fracBits frac n).foldl putBit t = (t + (frac % 2 ^ n : Nat)) / 2 ^ n := by
  induction n with
  | zero => intro frac t; simp [fracBits, Nat.mod_one]
  | succ n ih =>
    intro frac t
    have low : ((if frac % 2 == 1 then 1 else 0 : Real)) = (frac % 2 : Nat) := by
      rcases Nat.mod_two_eq_zero_or_one frac with h | h <;> simp [h]
    have split : ((frac % 2 ^ (n + 1) : Nat) : Real) = (frac % 2 : Nat) + 2 * (frac / 2 % 2 ^ n : Nat) := by
      rw [pow_succ', Nat.mod_mul]
      push_cast
      ring
    rw [fracBits, List.foldl_cons, ih, putBit, low, split, pow_succ]
    field_simp
    ring

theorem foldl_encloses (p : Nat) (bs : List Bool) : ∀ (x : Nat × Nat) (t : Real), Encloses p t x → 2 ^ p * (2 : Real) ^ t < x.2 →
    Encloses p (bs.foldl putBit t) (bs.foldl (pow2Step p) x) ∧
      2 ^ p * (2 : Real) ^ bs.foldl putBit t < (bs.foldl (pow2Step p) x).2 := by
  induction bs with
  | nil => exact fun x t h lt => ⟨h, lt⟩
  | cons b bs ih => exact fun x t h _ => ih _ _ (h.step b).1 (h.step b).2

/-- The enclosure of a fraction's power of two. -/
theorem pow2Frac_encloses (p : Nat) {frac n : Nat} (hn : n ≠ 0) (hf : frac < 2 ^ n) :
    Encloses p ((frac : Real) / 2 ^ n) (pow2Frac p (fracBits frac n)) ∧
      2 ^ p * (2 : Real) ^ ((frac : Real) / 2 ^ n) < (pow2Frac p (fracBits frac n)).2 := by
  have start : Encloses p 0 (2 ^ p, 2 ^ p) := ⟨le_rfl, by simp, by simp, by omega⟩
  have value := foldl_putBit n frac 0
  rw [Nat.mod_eq_of_lt hf, zero_add] at value
  rw [pow2Frac_eq, ← value]
  obtain ⟨k, rfl⟩ := Nat.exists_eq_succ_of_ne_zero hn
  obtain ⟨first, strict⟩ := start.step (frac % 2 == 1)
  exact foldl_encloses p (fracBits (frac / 2) k) _ _ first strict

/-- An irrational number at or just above a number below a bound. -/
theorem exists_irrational_near {v b : Real} (h : v < b) {d : Real} (hd : 0 < d) :
    ∃ z, Irrational z ∧ v < z ∧ z < b ∧ |z - v| ≤ d := by
  obtain ⟨z, irr, lo, hi⟩ := exists_irrational_btwn (lt_min h (by linarith : v < v + d))
  refine ⟨z, irr, lo, hi.trans_le (min_le_left _ _), ?_⟩
  have := hi.trans_le (min_le_right b (v + d))
  rw [abs_of_pos (by linarith)]
  linarith

/-- The enclosures' results are roundings of a number within 2^-700 of the exact one, relative to it. -/
theorem FpFmt.exp2Aux_rounds {f : FpFmt} (hf : f.Roomy) (r : Rounding) (n : Int) {frac fb : Nat} (hfb : fb ≠ 0)
    (hfr : frac < 2 ^ fb) (fuel : Nat) : ∀ p : Nat, f.mbits + 1 ≤ p → 800 ≤ p * 2 ^ fuel →
    let v := (2 : Real) ^ n * (2 : Real) ^ ((frac : Real) / 2 ^ fb)
    ∃ z : Real, |z - v| ≤ (2 : Real) ^ (-700 : Int) * v ∧ f.RoundsTo r z (f.exp2Aux r n frac fb fuel p) := by
  have units : ∀ p : Nat, (2 : Real) ^ n * (2 : Real) ^ ((frac : Real) / 2 ^ fb) =
      2 ^ p * (2 : Real) ^ ((frac : Real) / 2 ^ fb) * 2 ^ (n - p) := fun p => by
    rw [zpow_sub₀ two_ne_zero, zpow_natCast]
    field_simp
  induction fuel with
  | zero =>
    intro p hp hfuel v
    obtain ⟨⟨base, above, below, width⟩, _⟩ := pow2Frac_encloses p hfb hfr
    have hv : v = _ := units p
    rw [FpFmt.exp2Aux]
    generalize (pow2Frac p (fracBits frac fb)).1 = lo at *
    generalize (pow2Frac p (fracBits frac fb)).2 = hi at *
    have lo0 : lo ≠ 0 := ((Nat.two_pow_pos p).trans_le base).ne'
    have hu : (0 : Real) < 2 ^ (n - p) := by positivity
    have rounds := f.round_roundsTo hf (x := (lo + 1 / 2) * 2 ^ (n - p)) (m := lo) (e := n - p) (sticky := true)
      ⟨mul_lt_mul_of_pos_right (by linarith) hu, mul_lt_mul_of_pos_right (by linarith) hu⟩ lo0
      (fun _ => (Nat.pow_le_pow_right two_pos hp).trans base) r false
    refine ⟨_, ?_, by simpa [sgn] using rounds⟩
    have widthR : (hi : Real) ≤ lo + 8 := by exact_mod_cast width
    have baseR : (2 : Real) ^ p ≤ lo := by exact_mod_cast base
    have fine : (9 : Real) ≤ 2 ^ (-700 : Int) * 2 ^ p := by
      have : (2 : Real) ^ (100 : Int) ≤ 2 ^ (-700 + (p : Int)) := zpow_le_zpow_right₀ one_le_two (by omega)
      rw [zpow_add₀ two_ne_zero, zpow_natCast] at this
      exact le_trans (by norm_num) this
    have coarse : (9 : Real) ≤ 2 ^ (-700 : Int) * (2 ^ p * (2 : Real) ^ ((frac : Real) / 2 ^ fb)) :=
      fine.trans (mul_le_mul_of_nonneg_left (baseR.trans above) (by positivity))
    rw [hv, ← sub_mul, abs_mul, abs_of_pos hu, ← mul_assoc]
    refine mul_le_mul_of_nonneg_right (le_trans ?_ coarse) hu.le
    rw [abs_le]
    constructor <;> linarith
  | succ fuel ih =>
    intro p hp hfuel v
    obtain ⟨⟨base, above, _, _⟩, below⟩ := pow2Frac_encloses p hfb hfr
    have hv : v = _ := units p
    have hu : (0 : Real) < 2 ^ (n - p) := by positivity
    rw [FpFmt.exp2Aux]
    dsimp only
    generalize (pow2Frac p (fracBits frac fb)).1 = lo at *
    generalize (pow2Frac p (fracBits frac fb)).2 = hi at *
    cases h : f.roundBetween r false lo hi (n - p) with
    | none => exact ih (2 * p) (by omega) (by rw [pow_succ] at hfuel; linarith)
    | some c =>
      obtain ⟨z, irr, zlo, zhi, near⟩ := exists_irrational_near (v := v) (b := hi * 2 ^ (n - p)) (d := 2 ^ (-700 : Int) * v)
        (by rw [hv]; exact mul_lt_mul_of_pos_right below hu) (by positivity)
      have rounds := f.roundBetween_roundsTo hf h ((Nat.pow_le_pow_right two_pos hp).trans base)
        (lt_of_le_of_lt (by rw [hv]; exact mul_le_mul_of_nonneg_right above hu.le) zlo) zhi irr
      exact ⟨z, near, by simpa [sgn] using rounds⟩

/-! Integers. -/

theorem roundAt_one_at_width (r : Rounding) (n : Int) (w : Nat) : roundAt r false 1 n (n - w) = (2 ^ w, false) := by
  unfold roundAt
  rw [if_pos (by omega), show (n - (n - w)).toNat = w by omega, one_mul]

/-- The result for every power of two far above the largest number. -/
theorem fp32_pack_one_large (r : Rounding) {n : Int} (h : 200 ≤ n) :
    fp32.pack r false 1 n = (fp32.overflow r false, fOF ||| fNX) := by
  have norm : fp32.normExp 1 n false = n - (23 : Nat) := by
    simp only [FpFmt.normExp, stickyExp, stickyUnits, fp32, Bool.false_eq_true, if_false, show bitLen 1 = 1 by decide]
    omega
  have at_ := roundAt_one_at_width r n 23
  have q : max (fp32.normExp 1 n false) fp32.qmin = fp32.normExp 1 n false := by
    rw [fp32_qmin, norm]; omega
  rw [FpFmt.pack, if_neg one_ne_zero, fp32.round_eq (n := 2 ^ 23) (u := 2 ^ 23) (i := false) (i' := false)]
  · dsimp only
    rw [if_pos]
    rw [q, norm, fp32_qmax, if_neg (by decide)]
    omega
  · rw [q, norm]; exact at_
  · rw [norm]; exact at_

/-- The result for every power of two far below the least number. -/
theorem fp32_pack_one_small (r : Rounding) {n : Int} (h : n ≤ -200) :
    fp32.pack r false 1 n = (fp32.signBit false + fp32.magCode (roundedUnits r false 0 1) fp32.qmin, fNX ||| fUF) := by
  have norm : fp32.normExp 1 n false = n - (23 : Nat) := by
    simp only [FpFmt.normExp, stickyExp, stickyUnits, fp32, Bool.false_eq_true, if_false, show bitLen 1 = 1 by decide]
    omega
  have q : max (fp32.normExp 1 n false) fp32.qmin = fp32.qmin := by
    rw [fp32_qmin, norm]; omega
  have cut : roundAt r false 1 n (-149) = (roundedUnits r false 0 1, true) := by
    obtain ⟨k, hk⟩ : ∃ k : Nat, (-149 - n).toNat = k + 2 := ⟨(-149 - n).toNat - 2, by omega⟩
    have four : 4 ≤ 2 ^ (k + 2) := by rw [pow_add]; have := Nat.two_pow_pos k; omega
    have cls : remClass 1 (k + 2) = 1 := by
      unfold remClass
      rw [Nat.mod_eq_of_lt (by omega)]
      dsimp only
      rw [if_neg one_ne_zero, if_pos (by omega)]
    unfold roundAt
    rw [if_neg (by omega), hk]
    dsimp only
    rw [cls, Nat.div_eq_of_lt (by omega)]
    rfl
  have small : roundedUnits r false 0 1 ≠ 2 ^ (fp32.mbits + 1) := by
    rcases roundedUnits_eq r false 0 1 with e | e <;> rw [e] <;> decide
  rw [FpFmt.pack, if_neg one_ne_zero, fp32.round_eq (n := roundedUnits r false 0 1) (u := 2 ^ 23) (i := true) (i' := false)]
  · dsimp only
    rw [q, norm, if_neg small, if_neg small, if_neg (by rw [fp32_qmax, fp32_qmin]; decide), decide_eq_true (by rw [fp32_qmin]; omega)]
    rfl
  · rw [q, fp32_qmin]; exact cut
  · rw [norm]; exact roundAt_one_at_width r n 23

/-- Every integer beyond 2^20 has the result of 2^20. -/
theorem exp2_int_roundsTo (r : Rounding) (s : Bool) {v w : Nat} (h : w = min v (2 ^ 20)) :
    fp32.RoundsTo r ((2 : Real) ^ signedMag s v) (fp32.pack r false 1 (signedMag s w)) := by
  have exact_ : fp32.RoundsTo r ((2 : Real) ^ signedMag s v) (fp32.pack r false 1 (signedMag s v)) := by
    simpa [sgn] using fp32.pack_roundsTo fp32_roomy r false (signedMag s v) one_ne_zero
  rcases le_total v (2 ^ 20) with hv | hv
  · rwa [h, min_eq_left hv]
  · rw [min_eq_right hv] at h
    cases s with
    | false =>
      simp only [signedMag, Bool.false_eq_true, if_false] at exact_ ⊢
      rw [fp32_pack_one_large r (by omega)] at exact_ ⊢
      exact exact_
    | true =>
      simp only [signedMag, if_true] at exact_ ⊢
      rw [fp32_pack_one_small r (by omega)] at exact_ ⊢
      exact exact_

/-- FEXP2 of every finite input: a number within 2^-700 of the exact one, relative to it, rounded once. -/
theorem fp32_exp2_rounds (r : Rounding) {a m : Nat} {s : Bool} {e : Int} (h : fp32.read a = .fin s m e) :
    let v := (2 : Real) ^ (sgn s * (m * (2 : Real) ^ e))
    ∃ z : Real, |z - v| ≤ (2 : Real) ^ (-700 : Int) * v ∧ fp32.RoundsTo r z (fp32.exp2 r a) := by
  intro v
  have v0 : 0 < v := by positivity
  have itself : ∀ i : Int, sgn s * (m * (2 : Real) ^ e) = i → fp32.RoundsTo r ((2 : Real) ^ i) (fp32.exp2 r a) →
      ∃ z : Real, |z - v| ≤ (2 : Real) ^ (-700 : Int) * v ∧ fp32.RoundsTo r z (fp32.exp2 r a) := fun i hi rounds => by
    refine ⟨v, by rw [sub_self, abs_zero]; positivity, ?_⟩
    simp only [v, hi, Real.rpow_intCast]
    exact rounds
  have one : ∀ i : Int, fp32.RoundsTo r ((2 : Real) ^ i) (fp32.pack r false 1 i) := fun i => by
    simpa [sgn] using fp32.pack_roundsTo fp32_roomy r false i one_ne_zero
  unfold FpFmt.exp2 at itself ⊢
  rw [h] at itself ⊢
  dsimp only at itself ⊢
  by_cases hm : m = 0
  · rw [if_pos hm] at itself ⊢
    exact itself 0 (by simp [hm]) (one 0)
  rw [if_neg hm] at itself ⊢
  by_cases he : 0 ≤ e
  · rw [if_pos he] at itself ⊢
    refine itself (signedMag s (m * 2 ^ e.toNat)) ?_ (exp2_int_roundsTo r s ?_)
    · simpa using (units_at s m he).symm
    · split
      next big =>
        refine (min_eq_right ((Nat.pow_le_pow_right two_pos ?_).trans (Nat.le_mul_of_pos_left _ (Nat.pos_of_ne_zero hm)))).symm
        omega
      next => rfl
  · rw [if_neg he] at itself ⊢
    obtain ⟨k, rfl⟩ : ∃ k : Nat, e = -(k : Int) := ⟨(-e).toNat, by omega⟩
    rw [neg_neg, Int.toNat_natCast] at itself ⊢
    have hk : k ≠ 0 := by omega
    have m0 : ((2 ^ k : Nat) : Int) ≠ 0 := by positivity
    have div := Int.mul_ediv_add_emod (signedMag s m) (2 ^ k : Nat)
    have lo := Int.emod_nonneg (signedMag s m) m0
    have hi := Int.emod_lt_of_pos (signedMag s m) (show 0 < ((2 ^ k : Nat) : Int) by positivity)
    generalize signedMag s m / (2 ^ k : Nat) = i at *
    obtain ⟨frac, hfrac⟩ := Int.eq_ofNat_of_zero_le lo
    rw [hfrac, Int.toNat_natCast] at itself ⊢
    rw [hfrac] at div hi
    have value : sgn s * (m * (2 : Real) ^ (-(k : Int))) = i + (frac : Real) / 2 ^ k := by
      have : (2 : Real) ^ k * i + frac = sgn s * m := by
        rw [← cast_signedMag, ← div]; push_cast; rfl
      rw [zpow_neg, zpow_natCast, ← mul_assoc, ← this]
      field_simp
    by_cases h0 : frac = 0
    · rw [if_pos h0] at itself ⊢
      exact itself i (by rw [value, h0]; simp) (one i)
    · rw [if_neg h0]
      have hv : v = 2 ^ i * (2 : Real) ^ ((frac : Real) / 2 ^ k) := by
        simp only [v, value, Real.rpow_add two_pos, Real.rpow_intCast]
      rw [hv]
      exact fp32.exp2Aux_rounds fp32_roomy r i hk (by exact_mod_cast hi) 3 256 (by decide) (by decide)

end Exponential
end Sys2Proof.Machine

/-! FLOG2 (spec 07 R278; assumption log 9): the enclosures of its fraction and the numbers it rounds. -/

namespace Sys2Proof.Machine
section Logarithm

/-- The logarithm of a number in units of 2^-p. -/
noncomputable def unitLog (p : Nat) (u : Real) : Real := Real.logb 2 (u / 2 ^ p)

theorem half_le_log_two : (1 : Real) / 2 ≤ Real.log 2 := by linarith [Real.log_two_gt_d9]

/-- Numbers of at least one and at most 3 units apart have close logarithms. -/
theorem unitLog_sub_le {p : Nat} {u w : Real} (hu : 2 ^ p ≤ u) (huw : u ≤ w) (hw : w ≤ u + 3) :
    unitLog p u ≤ unitLog p w ∧ unitLog p w ≤ unitLog p u + 6 / 2 ^ p := by
  have hP : (0 : Real) < 2 ^ p := by positivity
  have u0 : 0 < u := hP.trans_le hu
  have w0 : 0 < w := u0.trans_le huw
  have log2 : 0 < Real.log 2 := by linarith [half_le_log_two]
  refine ⟨Real.logb_le_logb_of_le one_lt_two (by positivity) (by gcongr), ?_⟩
  have quot : Real.log (w / u) ≤ 3 / 2 ^ p := by
    refine (Real.log_le_sub_one_of_pos (by positivity)).trans ?_
    rw [div_sub_one u0.ne']
    exact div_le_div₀ (by norm_num) (by linarith) hP hu
  have diff : unitLog p w - unitLog p u = Real.log (w / u) / Real.log 2 := by
    unfold unitLog
    rw [Real.logb, Real.logb, ← sub_div, ← Real.log_div (by positivity) (by positivity)]
    congr 2
    field_simp
  have : Real.log (w / u) / Real.log 2 ≤ 6 / 2 ^ p := by
    rw [div_le_iff₀ log2]
    have : (6 : Real) / 2 ^ p * (1 / 2) ≤ 6 / 2 ^ p * Real.log 2 :=
      mul_le_mul_of_nonneg_left half_le_log_two (by positivity)
    have six : (6 : Real) / 2 ^ p * (1 / 2) = 3 / 2 ^ p := by ring
    linarith
  linarith

/-- One step of the squaring: the next bit and the number after it. -/
def log2Next (p : Nat) (up : Bool) (g : Nat) : Nat × Nat :=
  let q := g * g / 2 ^ p + (if up then 1 else 0)
  if q ≥ 2 ^ (p + 1) then (1, q / 2 + (if up then 1 else 0)) else (0, q)

theorem log2Bits_succ (p : Nat) (up : Bool) (n g acc : Nat) :
    log2Bits p up (n + 1) g acc = log2Bits p up n (log2Next p up g).2 (2 * acc + (log2Next p up g).1) := by
  rw [log2Bits, log2Next]
  by_cases h : g * g / 2 ^ p + (if up then 1 else 0) ≥ 2 ^ (p + 1)
  · simp only [h, if_true]
  · simp only [h, if_false, add_zero]

/-- A step stays within a binade and near the square, below it downward and above it upward. -/
theorem log2Next_spec {p g : Nat} (up : Bool) (hp : 1 ≤ p) (lo : 2 ^ p ≤ g) (hi : g < 2 ^ (p + 1)) :
    let y := log2Next p up g
    let b := 2 ^ y.1 * y.2
    let q := g * g / 2 ^ p
    (2 ^ p ≤ y.2 ∧ y.2 < 2 ^ (p + 1)) ∧ 2 ^ p ≤ b ∧ 2 ^ p ≤ q ∧ if up then q + 1 ≤ b ∧ b ≤ q + 3 else b ≤ q ∧ q ≤ b + 1 := by
  have two : 2 ^ (p + 1) = 2 * 2 ^ p := pow_succ' 2 p
  have hP : 2 ≤ 2 ^ p := (pow_one 2).symm.le.trans (Nat.pow_le_pow_right two_pos hp)
  unfold log2Next
  rw [two] at hi ⊢
  generalize 2 ^ p = P at *
  have qlo : P ≤ g * g / P := by
    rw [Nat.le_div_iff_mul_le (by omega)]
    exact Nat.mul_le_mul lo lo
  have qhi : g * g / P + 4 ≤ 4 * P := by
    obtain ⟨c, rfl⟩ := Nat.exists_eq_add_of_le' hP
    have square : g * g ≤ (2 * c + 3) * (2 * c + 3) := Nat.mul_self_le_mul_self (by omega)
    have : g * g / (c + 2) < 4 * c + 5 := by
      rw [Nat.div_lt_iff_lt_mul (by omega)]
      nlinarith
    omega
  generalize g * g / P = q at *
  cases up with
  | false =>
    by_cases h : q ≥ 2 * P
    · simp only [Bool.false_eq_true, if_false, add_zero, h, if_true]
      omega
    · simp only [Bool.false_eq_true, if_false, add_zero, h]
      omega
  | true =>
    by_cases h : q + 1 ≥ 2 * P
    · simp only [if_true, h]
      omega
    · simp only [if_true, h, if_false]
      omega

theorem unitLog_pow_mul (p b : Nat) {g : Nat} (hg : 0 < g) : unitLog p ((2 ^ b * g : Nat) : Real) = b + unitLog p g := by
  have hg' : (g : Real) ≠ 0 := by exact_mod_cast hg.ne'
  unfold unitLog
  push_cast
  rw [mul_div_assoc, Real.logb_mul (by positivity) (by positivity), Real.logb_pow, Real.logb_self_eq_one one_lt_two, mul_one]

theorem unitLog_square (p : Nat) {g : Nat} (hg : 0 < g) : unitLog p ((g * g : Nat) / 2 ^ p : Real) = 2 * unitLog p g := by
  have hg' : (g : Real) ≠ 0 := by exact_mod_cast hg.ne'
  unfold unitLog
  push_cast
  rw [show (g : Real) * g / 2 ^ p / 2 ^ p = (g / 2 ^ p) ^ 2 by field_simp, Real.logb_pow]
  norm_num

/-- A step's bit and next number against twice the logarithm. -/
theorem log2Next_log {p g : Nat} (up : Bool) (hp : 1 ≤ p) (lo : 2 ^ p ≤ g) (hi : g < 2 ^ (p + 1)) :
    let y := log2Next p up g
    let next : Real := y.1 + unitLog p y.2
    if up then 2 * unitLog p g ≤ next ∧ next ≤ 2 * unitLog p g + 6 / 2 ^ p
    else next ≤ 2 * unitLog p g ∧ 2 * unitLog p g ≤ next + 6 / 2 ^ p := by
  intro y next
  obtain ⟨⟨ylo, _⟩, blo, qlo, near⟩ := log2Next_spec up hp lo hi
  have hP : 0 < 2 ^ p := Nat.two_pow_pos p
  have hPR : (0 : Real) < 2 ^ p := by positivity
  have hnext : next = unitLog p ((2 ^ y.1 * y.2 : Nat) : Real) := (unitLog_pow_mul p y.1 (hP.trans_le ylo)).symm
  have qle : ((g * g / 2 ^ p : Nat) : Real) ≤ (g * g : Nat) / 2 ^ p := by
    have := Nat.cast_div_le (α := Real) (m := g * g) (n := 2 ^ p)
    simpa using this
  have qlt : ((g * g : Nat) : Real) / 2 ^ p < (g * g / 2 ^ p : Nat) + 1 := by
    rw [div_lt_iff₀ hPR]
    rw [add_mul, one_mul]
    exact_mod_cast Nat.lt_div_mul_add hP
  rw [hnext, ← unitLog_square p (hP.trans_le lo)]
  change 2 ^ p ≤ 2 ^ y.1 * y.2 at blo
  change if up then g * g / 2 ^ p + 1 ≤ 2 ^ y.1 * y.2 ∧ _ else 2 ^ y.1 * y.2 ≤ g * g / 2 ^ p ∧ _ at near
  generalize 2 ^ y.1 * y.2 = b at *
  generalize g * g / 2 ^ p = q at *
  generalize ((g * g : Nat) : Real) / 2 ^ p = square at *
  have bloR : (2 : Real) ^ p ≤ b := by exact_mod_cast blo
  have qloR : (2 : Real) ^ p ≤ q := by exact_mod_cast qlo
  cases up with
  | false =>
    simp only [Bool.false_eq_true, if_false] at near ⊢
    have h1 : (b : Real) ≤ q := by exact_mod_cast near.1
    have h2 : (q : Real) ≤ b + 1 := by exact_mod_cast near.2
    exact unitLog_sub_le bloR (by linarith) (by linarith)
  | true =>
    simp only [if_true] at near ⊢
    have h1 : (q : Real) + 1 ≤ b := by exact_mod_cast near.1
    have h2 : (b : Real) ≤ q + 3 := by exact_mod_cast near.2
    exact unitLog_sub_le (by linarith) (by linarith) (by linarith)

theorem unitLog_range {p g : Nat} (lo : 2 ^ p ≤ g) (hi : g < 2 ^ (p + 1)) : 0 ≤ unitLog p g ∧ unitLog p g < 1 := by
  have loR : (2 : Real) ^ p ≤ g := by exact_mod_cast lo
  have hiR : (g : Real) < 2 ^ (p + 1) := by exact_mod_cast hi
  have hP : (0 : Real) < 2 ^ p := by positivity
  unfold unitLog
  constructor
  · exact Real.logb_nonneg one_lt_two (by rwa [one_le_div hP])
  · rw [Real.logb_lt_iff_lt_rpow one_lt_two (div_pos (hP.trans_le loR) hP), Real.rpow_one, div_lt_iff₀ hP]
    rw [pow_succ] at hiR
    linarith

/-- The bits against the logarithm: within a unit and the steps' errors, and on their side of it. -/
theorem log2Bits_spec {p : Nat} (up : Bool) (hp : 1 ≤ p) (n : Nat) : ∀ g acc : Nat, 2 ^ p ≤ g → g < 2 ^ (p + 1) →
    let t := 2 ^ n * (acc + unitLog p g)
    let bits : Real := log2Bits p up n g acc
    let err : Real := (2 ^ n - 1) * (6 / 2 ^ p)
    bits ≤ t + (if up then err else 0) ∧ t < bits + 1 + (if up then 0 else err) := by
  induction n with
  | zero =>
    intro g acc lo hi
    obtain ⟨h0, h1⟩ := unitLog_range lo hi
    simp only [log2Bits, pow_zero, sub_self, zero_mul, one_mul, ite_self, add_zero]
    exact ⟨by linarith, by linarith⟩
  | succ n ih =>
    intro g acc lo hi
    obtain ⟨⟨ylo, yhi⟩, _⟩ := log2Next_spec up hp lo hi
    have step := log2Next_log up hp lo hi
    have rest := ih (log2Next p up g).2 (2 * acc + (log2Next p up g).1) ylo yhi
    rw [log2Bits_succ]
    generalize log2Next p up g = y at *
    dsimp only at step rest ⊢
    generalize log2Bits p up n y.2 (2 * acc + y.1) = bits at *
    have hn : (0 : Real) < 2 ^ n := by positivity
    push_cast at rest
    rw [pow_succ]
    cases up with
    | false =>
      simp only [Bool.false_eq_true, if_false, add_zero] at step rest ⊢
      constructor <;> nlinarith
    | true =>
      simp only [if_true, add_zero] at step rest ⊢
      constructor <;> nlinarith

/-- The fraction bits that FLOG2 computes of g / 2^k, with n bits, after the whole number x. -/
def log2Units (x : Int) (g k n : Nat) (up : Bool) : Int :=
  x * (2 ^ n : Nat) + log2Bits (2 * n + 64) up n (g * 2 ^ (2 * n + 64 - k)) 0

/-- The steps' errors add to less than a unit. -/
theorem steps_error (n : Nat) : ((2 : Real) ^ n - 1) * (6 / 2 ^ (2 * n + 64)) ≤ 1 := by
  have small : (6 : Real) * 2 ^ n ≤ 2 ^ (2 * n + 64) := by
    calc (6 : Real) * 2 ^ n ≤ 2 ^ 3 * 2 ^ n := by gcongr; norm_num
      _ = 2 ^ (3 + n) := (pow_add 2 3 n).symm
      _ ≤ 2 ^ (2 * n + 64) := pow_le_pow_right₀ one_le_two (by omega)
  rw [mul_div_assoc', div_le_one (by positivity)]
  linarith

/-- The computed units against the exact logarithm: below it or above it by the direction, and within 2 units. -/
theorem log2Units_spec (x : Int) {g k n : Nat} (lo : 2 ^ k ≤ g) (hi : g < 2 ^ (k + 1)) (hk : k ≤ 2 * n + 64) :
    let v := (x + unitLog k g) * 2 ^ n
    ((log2Units x g k n false : Real) ≤ v ∧ v < log2Units x g k n false + 2) ∧
      v < log2Units x g k n true + 1 ∧ (log2Units x g k n true : Real) ≤ v + 1 := by
  intro v
  have scale : 2 ^ (2 * n + 64) = 2 ^ k * 2 ^ (2 * n + 64 - k) := by rw [← pow_add]; congr 1; omega
  have lo' : 2 ^ (2 * n + 64) ≤ g * 2 ^ (2 * n + 64 - k) := by rw [scale]; exact Nat.mul_le_mul_right _ lo
  have hi' : g * 2 ^ (2 * n + 64 - k) < 2 ^ (2 * n + 64 + 1) := by
    rw [pow_succ, scale, mul_right_comm, ← pow_succ]
    exact Nat.mul_lt_mul_of_pos_right hi (Nat.two_pow_pos _)
  have same : unitLog (2 * n + 64) ((g * 2 ^ (2 * n + 64 - k) : Nat) : Real) = unitLog k g := by
    have scaleR : (2 : Real) ^ (2 * n + 64) = 2 ^ k * 2 ^ (2 * n + 64 - k) := by exact_mod_cast scale
    unfold unitLog
    rw [scaleR]
    push_cast
    rw [mul_div_mul_right _ _ (by positivity)]
  have err := steps_error n
  have down := log2Bits_spec false (by omega) n _ 0 lo' hi'
  have up := log2Bits_spec true (by omega) n _ 0 lo' hi'
  simp only [same, Nat.cast_zero, zero_add, Bool.false_eq_true, if_false, if_true, add_zero] at down up
  have hv : v = x * 2 ^ n + 2 ^ n * unitLog k g := by simp only [v]; ring
  unfold log2Units
  rw [hv]
  push_cast
  exact ⟨⟨by linarith, by linarith⟩, by linarith, by linarith⟩

theorem FpFmt.log2Aux_zero (f : FpFmt) (r : Rounding) (x : Int) (g k n : Nat) :
    f.log2Aux r x g k 0 n = if log2Units x g k n false < 0 then
      f.round r true ((log2Units x g k n false).natAbs - 1) (-n) true
    else f.round r false (log2Units x g k n false).natAbs (-n) true := rfl

/-- FLOG2's rounding of its enclosure with n bits. -/
def FpFmt.log2Enclosed (f : FpFmt) (r : Rounding) (x : Int) (g k n : Nat) : Option (Nat × Flags) :=
  if 0 ≤ log2Units x g k n false then
    f.roundBetween r false (log2Units x g k n false).natAbs (log2Units x g k n true + 1).natAbs (-n)
  else f.roundBetween r true (log2Units x g k n true + 1).natAbs (log2Units x g k n false).natAbs (-n)

theorem FpFmt.log2Aux_succ (f : FpFmt) (r : Rounding) (x : Int) (g k fuel n : Nat) :
    f.log2Aux r x g k (fuel + 1) n = (f.log2Enclosed r x g k n).getD (f.log2Aux r x g k fuel (2 * n)) := by
  rw [FpFmt.log2Aux]
  cases h : f.log2Enclosed r x g k n <;> unfold FpFmt.log2Enclosed log2Units at h <;> simp only [ge_iff_le, h] <;> rfl

theorem natAbs_units {t : Int} (h : 0 ≤ t) : ((t.natAbs : Nat) : Real) = t := by
  rw [Nat.cast_natAbs, abs_of_nonneg h]

theorem natAbs_units_neg {t : Int} (h : t ≤ 0) : ((t.natAbs : Nat) : Real) = -t := by
  rw [Nat.cast_natAbs, abs_of_nonpos h, Int.cast_neg]

/-- The last enclosure is rounded as it stands: as the number in its middle. -/
theorem FpFmt.round_middle {f : FpFmt} (hf : f.Roomy) (r : Rounding) (n : Nat) {t : Int}
    (wide : 2 ^ (f.mbits + 1) < t.natAbs) :
    f.RoundsTo r ((t + 1 / 2) * (2 : Real) ^ (-(n : Int)))
      (if t < 0 then f.round r true (t.natAbs - 1) (-n) true else f.round r false t.natAbs (-n) true) := by
  have hu : (0 : Real) < 2 ^ (-(n : Int)) := by positivity
  have rounds : ∀ (s : Bool) (m : Nat), 2 ^ (f.mbits + 1) ≤ m →
      f.RoundsTo r (sgn s * ((m + 1 / 2) * 2 ^ (-(n : Int)))) (f.round r s m (-n) true) := fun s m hm =>
    f.round_roundsTo hf (sticky := true) ⟨mul_lt_mul_of_pos_right (by linarith) hu, mul_lt_mul_of_pos_right (by linarith) hu⟩
      ((Nat.two_pow_pos _).trans_le hm).ne' (fun _ => hm) r s
  split
  next neg =>
    have h := rounds true (t.natAbs - 1) (by omega)
    rw [Nat.cast_sub (by omega), natAbs_units_neg neg.le] at h
    simp only [sgn, if_true, Nat.cast_one] at h
    convert h using 1
    ring
  next nonneg =>
    have h := rounds false t.natAbs wide.le
    rw [natAbs_units (by omega)] at h
    simpa [sgn] using h

/-- A number in an enclosure by signed units on one side of 0. -/
theorem FpFmt.log2Enclosed_roundsTo {f : FpFmt} (hf : f.Roomy) {r : Rounding} {x : Int} {g k n : Nat} {c : Nat × Flags}
    (h : f.log2Enclosed r x g k n = some c) {z : Real}
    (wide : 2 ^ (f.mbits + 1) ≤ log2Units x g k n false ∨ log2Units x g k n true + 1 ≤ -2 ^ (f.mbits + 1))
    (lo : log2Units x g k n false * (2 : Real) ^ (-(n : Int)) < z)
    (hi : z < (log2Units x g k n true + 1 : Int) * (2 : Real) ^ (-(n : Int))) (irr : Irrational z) : f.RoundsTo r z c := by
  have hu : (0 : Real) < 2 ^ (-(n : Int)) := by positivity
  have hp : (0 : Int) < 2 ^ (f.mbits + 1) := by positivity
  have lt : log2Units x g k n false < log2Units x g k n true + 1 := by
    have := lo.trans hi
    rw [mul_lt_mul_iff_left₀ hu] at this
    exact_mod_cast this
  have natPow : (((2 ^ (f.mbits + 1) : Nat) : Int)) = 2 ^ (f.mbits + 1) := by push_cast; rfl
  unfold FpFmt.log2Enclosed at h
  generalize log2Units x g k n false = t at *
  generalize log2Units x g k n true + 1 = u at *
  split at h
  next h0 =>
    have := f.roundBetween_roundsTo hf h (by omega) (x := z) (by rwa [natAbs_units h0]) (by rwa [natAbs_units (by omega)]) irr
    simpa [sgn] using this
  next h0 =>
    have := f.roundBetween_roundsTo hf h (by omega) (x := -z) (by rw [natAbs_units_neg (by omega)]; linarith)
      (by rw [natAbs_units_neg (by omega)]; linarith) irr.neg
    simpa [sgn] using this

/-- An integer within 2 units of a number of size 2^72. -/
theorem le_abs_of_near {t : Int} {w : Real} (size : (2 : Real) ^ 72 ≤ |w|) (below : t ≤ w) (near : w < t + 2) :
    2 ^ 62 ≤ |t| := by
  have room : (2 : Real) ^ 62 + 2 ≤ 2 ^ 72 := by norm_num
  have cast : (2 : Real) ^ 62 ≤ |(t : Real)| := by
    rcases le_abs.1 size with h | h
    · exact le_abs.2 (.inl (by linarith))
    · exact le_abs.2 (.inr (by linarith))
  exact_mod_cast cast

/-- The middle of an enclosure of 2 units of 2^-n. -/
theorem middle_near {t : Int} {v : Real} {n : Nat} (hn : 704 ≤ n) (below : t ≤ v * 2 ^ n) (near : v * 2 ^ n < t + 2) :
    |(t + 1 / 2) * (2 : Real) ^ (-(n : Int)) - v| ≤ (2 : Real) ^ (-700 : Int) := by
  have units : v = v * 2 ^ n * 2 ^ (-(n : Int)) := by rw [zpow_neg, zpow_natCast]; field_simp
  have err : |(t : Real) + 1 / 2 - v * 2 ^ n| ≤ 2 := abs_le.2 ⟨by linarith, by linarith⟩
  calc |(t + 1 / 2) * (2 : Real) ^ (-(n : Int)) - v| = |(t : Real) + 1 / 2 - v * 2 ^ n| * 2 ^ (-(n : Int)) := by
        conv_lhs => rw [units]
        rw [← sub_mul, abs_mul, abs_of_pos (by positivity : (0 : Real) < 2 ^ (-(n : Int)))]
    _ ≤ 2 * 2 ^ (-704 : Int) :=
        mul_le_mul err (zpow_le_zpow_right₀ one_le_two (by omega)) (by positivity) zero_le_two
    _ ≤ (2 : Real) ^ (-700 : Int) := by
        rw [show (-700 : Int) = 4 + -704 by norm_num, zpow_add₀ two_ne_zero]
        exact mul_le_mul_of_nonneg_right (by norm_num) (by positivity)

/-- FLOG2's results are roundings of a number within 2^-700 of the exact logarithm, one that is not too near 0. -/
theorem FpFmt.log2Aux_rounds {f : FpFmt} (hf : f.Roomy) (hm : f.mbits ≤ 60) (r : Rounding) (x : Int) {g k : Nat}
    (lo : 2 ^ k ≤ g) (hi : g < 2 ^ (k + 1)) (hk : k ≤ 64) (far : (2 : Real) ^ (-24 : Int) ≤ |x + unitLog k g|) (fuel : Nat) :
    ∀ n : Nat, 96 ≤ n → 704 ≤ n * 2 ^ fuel →
      ∃ z : Real, |z - (x + unitLog k g)| ≤ (2 : Real) ^ (-700 : Int) ∧ f.RoundsTo r z (f.log2Aux r x g k fuel n) := by
  generalize hv : x + unitLog k g = v at *
  have narrow : (2 : Int) ^ (f.mbits + 1) ≤ 2 ^ 61 := pow_le_pow_right₀ (by decide) (by omega)
  have sizes : ∀ n : Nat, 96 ≤ n → (2 : Real) ^ 72 ≤ |v * 2 ^ n| := fun n hn => by
    rw [abs_mul, abs_of_pos (by positivity : (0 : Real) < 2 ^ n)]
    calc (2 : Real) ^ 72 = 2 ^ (-24 : Int) * 2 ^ 96 := by norm_num
      _ ≤ |v| * 2 ^ n := mul_le_mul far (pow_le_pow_right₀ one_le_two hn) (by positivity) (abs_nonneg v)
  induction fuel with
  | zero =>
    intro n hn hfuel
    obtain ⟨⟨below, near⟩, _⟩ := log2Units_spec x lo hi (show k ≤ 2 * n + 64 by omega)
    have size := sizes n hn
    rw [hv] at below near
    rw [f.log2Aux_zero]
    have big := le_abs_of_near size below near
    rw [pow_zero, mul_one] at hfuel
    refine ⟨_, middle_near hfuel below near, f.round_middle hf r n ?_⟩
    zify
    exact lt_of_le_of_lt narrow (lt_of_lt_of_le (by norm_num) big)
  | succ fuel ih =>
    intro n hn hfuel
    obtain ⟨⟨below, near⟩, above, near'⟩ := log2Units_spec x lo hi (show k ≤ 2 * n + 64 by omega)
    have size := sizes n hn
    rw [hv] at below near above near'
    rw [f.log2Aux_succ]
    cases h : f.log2Enclosed r x g k n with
    | none => exact ih (2 * n) (by omega) (by rw [pow_succ] at hfuel; linarith)
    | some c =>
      have hu : (0 : Real) < 2 ^ (-(n : Int)) := by positivity
      have units : v = v * 2 ^ n * 2 ^ (-(n : Int)) := by rw [zpow_neg, zpow_natCast]; field_simp
      obtain ⟨z, irr, zlo, zhi, close⟩ := exists_irrational_near (v := v)
        (b := (log2Units x g k n true + 1 : Int) * 2 ^ (-(n : Int))) (d := 2 ^ (-700 : Int))
        (by rw [units]; push_cast; exact mul_lt_mul_of_pos_right above hu) (by positivity)
      refine ⟨z, close, f.log2Enclosed_roundsTo hf h ?_ (lt_of_le_of_lt ?_ zlo) zhi irr⟩
      · have big := le_abs_of_near size below near
        have close : log2Units x g k n true < log2Units x g k n false + 3 := by
          have : (log2Units x g k n true : Real) < log2Units x g k n false + 3 := by linarith
          exact_mod_cast this
        rcases le_abs.1 big with h | h
        · exact .inl (by linarith)
        · exact .inr (by linarith)
      · rw [units]; exact mul_le_mul_of_nonneg_right below hu.le

/-- The logarithm of a number strictly inside a binade keeps away from 0 and 1. -/
theorem unitLog_inside {k g : Nat} (lo : 2 ^ k < g) (hi : g < 2 ^ (k + 1)) :
    1 / 2 ^ (k + 1) ≤ unitLog k g ∧ unitLog k g ≤ 1 - 1 / 2 ^ (k + 1) := by
  have loR : (2 : Real) ^ k + 1 ≤ g := by exact_mod_cast lo
  have hiR : (g : Real) + 1 ≤ 2 ^ (k + 1) := by exact_mod_cast hi
  have hP : (0 : Real) < 2 ^ k := by positivity
  have hP' : (0 : Real) < 2 ^ (k + 1) := by positivity
  have g0 : (0 : Real) < g := by linarith
  have log0 : 0 < Real.log 2 := by linarith [half_le_log_two]
  have log1 : Real.log 2 ≤ 1 := by linarith [Real.log_two_lt_d9]
  constructor
  · have log : 1 / 2 ^ (k + 1) ≤ Real.log (g / 2 ^ k) := by
      refine le_trans ?_ (Real.one_sub_inv_le_log_of_pos (by positivity))
      rw [inv_div, one_sub_div g0.ne']
      exact div_le_div₀ (by linarith) (by linarith) g0 (by linarith)
    rw [unitLog, Real.logb, le_div_iff₀ log0]
    exact (mul_le_of_le_one_right (by positivity) log1).trans log
  · have log : Real.log (g / 2 ^ (k + 1)) ≤ -(1 / 2 ^ (k + 1)) := by
      refine (Real.log_le_sub_one_of_pos (by positivity)).trans ?_
      rw [div_sub_one hP'.ne', ← neg_div]
      exact div_le_div_of_nonneg_right (by linarith) hP'.le
    have half : unitLog k g = 1 + Real.log (g / 2 ^ (k + 1)) / Real.log 2 := by
      rw [unitLog, Real.logb, eq_comm, one_add_div log0.ne', ← Real.log_mul two_ne_zero (by positivity), pow_succ]
      congr 2
      field_simp
    have : Real.log (g / 2 ^ (k + 1)) / Real.log 2 ≤ -(1 / 2 ^ (k + 1)) := by
      rw [div_le_iff₀ log0, neg_mul]
      exact log.trans (neg_le_neg (mul_le_of_le_one_right (by positivity) log1))
    linarith

/-- The logarithm of an FP32 number that is no power of two keeps away from 0. -/
theorem far_from_zero (x : Int) {g k : Nat} (lo : 2 ^ k < g) (hi : g < 2 ^ (k + 1)) (hk : k ≤ 23) :
    (2 : Real) ^ (-24 : Int) ≤ |x + unitLog k g| := by
  obtain ⟨above, below⟩ := unitLog_inside lo hi
  have step : (2 : Real) ^ (-24 : Int) ≤ 1 / 2 ^ (k + 1) := by
    rw [zpow_neg, inv_eq_one_div]
    exact one_div_le_one_div_of_le (by positivity) (by exact_mod_cast Nat.pow_le_pow_right two_pos (by omega : k + 1 ≤ 24))
  generalize (1 : Real) / 2 ^ (k + 1) = d at *
  rcases lt_or_ge x 0 with neg | nonneg
  · have : (x : Real) ≤ -1 := by exact_mod_cast Int.le_sub_one_of_lt neg
    exact le_abs.2 (.inr (by linarith))
  · have : (0 : Real) ≤ x := by exact_mod_cast nonneg
    exact le_abs.2 (.inl (by linarith))

/-- The logarithm of a number of k + 1 bits: its binade and the rest. -/
theorem logb_units {m : Nat} (hm : m ≠ 0) (k : Nat) (e : Int) :
    Real.logb 2 (m * (2 : Real) ^ e) = ((e + k : Int) : Real) + unitLog k m := by
  have hm' : (m : Real) ≠ 0 := by exact_mod_cast hm
  have log2 : Real.logb 2 2 = 1 := Real.logb_self_eq_one one_lt_two
  rw [unitLog, Real.logb_mul hm' (by positivity), Real.logb_div hm' (by positivity), ← Real.rpow_intCast,
    Real.logb_rpow two_pos (by norm_num), Real.logb_pow, log2]
  push_cast
  ring

/-- FLOG2 of every finite input above 0 but 1: a number within 2^-700 of the exact one, rounded once. -/
theorem fp32_log2_rounds (r : Rounding) {a m : Nat} {s : Bool} {e : Int} (h : fp32.read a = .fin s m e)
    (pos : 0 < sgn s * (m * (2 : Real) ^ e)) (one : sgn s * (m * (2 : Real) ^ e) ≠ 1) :
    ∃ z : Real, |z - Real.logb 2 (sgn s * (m * (2 : Real) ^ e))| ≤ (2 : Real) ^ (-700 : Int) ∧
      fp32.RoundsTo r z (fp32.log2 r a) := by
  obtain ⟨⟨width, _⟩, _⟩ := fp32.read_fin_bounds fp32_roomy h
  obtain ⟨rfl, hm⟩ := sgn_mul_units_pos.1 pos
  obtain ⟨lo, hi, bit⟩ := bitLen_bounds hm
  have hk : bitLen m - 1 < 24 := (Nat.pow_lt_pow_iff_right one_lt_two).1 (lo.trans_lt width)
  rw [← Nat.sub_add_cancel bit] at hi
  unfold FpFmt.log2
  rw [h]
  simp only [hm, if_false, Bool.false_eq_true, sgn, one_mul] at one ⊢
  generalize bitLen m - 1 = k at *
  rw [logb_units hm k e]
  split
  next power =>
    have exact_ : unitLog k m = 0 := by simp [unitLog, power]
    have nonzero : e + (k : Int) ≠ 0 := fun h0 => one (by
      rw [power, Nat.cast_pow, Nat.cast_two, ← zpow_natCast, ← zpow_add₀ two_ne_zero, add_comm, h0, zpow_zero])
    exact ⟨_, by rw [exact_, add_zero, sub_self, abs_zero]; positivity, fp32.ofInt_roundsTo fp32_roomy r nonzero⟩
  next inside =>
    exact fp32.log2Aux_rounds fp32_roomy (by decide) r _ lo hi (by omega)
      (far_from_zero _ (lo.lt_of_ne' inside) hi (by omega)) 3 96 le_rfl (by decide)

end Logarithm

section Settled

theorem fp32_exponentialsRound (r : Rounding) : fp32.ExponentialsRound r := fun a s m e h => by
  dsimp only
  rw [h, rat_fin]
  exact ⟨fp32_exp2_rounds r h, fp32_log2_rounds r h⟩

/-- Settles O11: NaNs, infinities and zeros by the cases of each operation; FEXP2 and FLOG2 by enclosures of the exact
number, in which another lies that their result rounds. -/
theorem fp32SpecialInputs : Obligations.Fp32SpecialInputs := by
  refine ⟨fun f r hf => ⟨f.readsFields (f.roomy_of hf), f.arithmeticSpecials r, f.pickSpecials⟩, fun r =>
    ⟨fp32_functionSpecials r, fp32_exponentialsRound r, ?_⟩⟩
  have exp2_zero : fp32.pack r false 1 0 = (0x3F800000, 0) := by cases r <;> decide
  exact ⟨rfl, rfl, rfl, rfl, rfl, rfl, rfl, rfl, rfl, rfl, rfl, rfl, exp2_zero, exp2_zero, rfl, rfl, rfl, rfl, rfl, rfl,
    fun c => fp32.fma_invalid r c (.inr ⟨false, false, _, rfl, rfl⟩)⟩

end Settled
end Sys2Proof.Machine

/-! Why ordered stores of several lanes can lose bytes (spec 03 R151; 05 R193; 08 R316): a store to a page table can
seal a word of a later lane. -/

namespace Sys2Proof.Machine
section ResealingStore

/-- Context 0's leaf: the addresses below 1 GiB onto themselves, with every permission. -/
def identityLeaf : Leaf :=
  { ctx := 0, va := 0, pa := 0, size := 2 ^ 30, r := true, w := true, x := true, sysp := false, res := true, a := true,
    d := true, head := 0x11000000 }

/-- The addresses (v0, v1) and the data (v2, v3) of three lanes: lane 0 stores a leaf entry into context 1's table,
lanes 1 and 2 store zeros at 0x400 and 0x408. -/
def resealer : Gang :=
  { placedGang with v := [(0, 0x20000000), (1, 0x400), (2, 0x408), (64, 0x17F), (96, 0x0A000000)] }

/-- Context 0 maps the first GiB onto itself. Context 1 has sealed its addresses 0x400 to 0x407, whose page is not
resident; the entry of lane 0 makes it resident, at the same physical addresses. Set 4 of the L1 is full, and its block
over words 0 to 5 of frame 4 holds byte 0x400 dirty: the removal of word 0x408 drives that block out whole. -/
def resealing : State :=
  let s := { State.reset.placeWord 0 with cur := ⟨0, 0, 0, 0, 0, 4, 0, [], 7⟩ }.putGang resealer
  let s := (s.modCtx 0 (fun x => { x with ptBase := 0x10000000 })).modCtx 1 (fun x => { x with ptBase := 0x18000000 })
  let s := (s.setDword 0x10000000 0x11000001).setDword 0x11000000 0x0A0000000000017F
  let s := (s.setDword 0x18000000 0x20000001).setDword 0x20000000 0x0A0000000000007F
  let s := s.modPart 0 (fun p => { p with seals := [⟨1, 0x400, 8, []⟩] })
  s.modCore 0 (fun k => { k with l1 := [(4,
    ⟨4, 0, 5, 0, [(0, ⟨7, true⟩)], 0, none, 0⟩ ::
      (List.range 15).map (fun i => ⟨4 + 128 * (i + 1), 0, 1, 2 + i, [], 0, none, 0⟩))] })

theorem resealing_issues : resealing.Issues resealer := by unfold State.Issues; decide +kernel

theorem resealing_checks :
    resealing.laneChecks resealer .global (.reg 0) (resealing.offsetOf 0 8) 8 .store =
      [(0, .ok (.page 0x20000000 identityLeaf)), (1, .ok (.page 0x400 identityLeaf)),
        (2, .ok (.page 0x408 identityLeaf))] := by decide +kernel

theorem resealing_unhindered :
    resealing.Unhindered resealer [.global 0x20000000, .global 0x400, .global 0x408] .gang true := by
  unfold State.Unhindered; decide +kernel

theorem resealing_unsealed : ∀ va ∈ [0x20000000, 0x400, 0x408], resealing.Unsealed 0 (.page va identityLeaf) := by
  unfold State.Unsealed; decide +kernel

/-- Lane 1 stores 0 at 0x400, and the byte reads 7 afterwards. -/
theorem resealing_loses_byte {t : State}
    (h : exec (.stg ⟨.ordered true .gang, .reg 2, .reg 0, 0⟩) resealing = .next t) : t.homeByte (0, 0x400) = 7 := by
  have run : (match exec (.stg ⟨.ordered true .gang, .reg 2, .reg 0, 0⟩) resealing with
      | .next t => t.homeByte (0, 0x400)
      | _ => 0) = 7 := by decide +kernel
  rwa [h] at run

/-- Refutes O23: lanes 0 to 2 make ordered stores, each to its own word, none of them sealed before. Lane 0 stores a page
table entry that seals the word of lane 1 for another context; the dirty copy of that word then stays in the L1 when
lane 1 stores at the home, leaves it with the word of lane 2, and overwrites what lane 1 stored. -/
theorem not_plainStoreResults : ¬ Obligations.PlainStoreResults := by
  unfold Obligations.PlainStoreResults
  intro all
  obtain ⟨-, ordered⟩ := all resealing resealer resealing_issues
  obtain ⟨stg, -, -⟩ := ordered true .gang (.reg 2) (.reg 0) 0
  have checks := resealing_checks
  dsimp only at stg
  simp only [if_true] at stg
  rw [checks] at stg
  obtain ⟨t, g, run, -, -, -, stored, -⟩ := stg placedPart (by decide +kernel) (by decide +kernel)
    (by
      intro x hx
      simp only [List.mem_cons, List.not_mem_nil, or_false] at hx
      obtain rfl | rfl | rfl := hx <;> exact ⟨_, rfl, by unfold Place.inMemory; decide⟩)
    resealing_unhindered (by unfold State.MemOk; decide +kernel)
  have unsealed : ∀ l p, (l, Check.ok p) ∈ [(0, Check.ok (.page 0x20000000 identityLeaf)),
      (1, .ok (.page 0x400 identityLeaf)), (2, .ok (.page 0x408 identityLeaf))] →
      resealing.Unsealed resealing.cur.core p := by
    intro l p hp
    simp only [List.mem_cons, Prod.mk.injEq, Check.ok.injEq, List.not_mem_nil, or_false] at hp
    obtain ⟨-, rfl⟩ | ⟨-, rfl⟩ | ⟨-, rfl⟩ := hp <;> exact resealing_unsealed _ (by simp)
  have zero := stored unsealed 1 (.page 0x400 identityLeaf) 0 (by simp) (by decide) (by
    intro l p k hp hk e
    simp only [List.mem_cons, Prod.mk.injEq, Check.ok.injEq, List.not_mem_nil, or_false] at hp
    obtain ⟨rfl, rfl⟩ | ⟨rfl, rfl⟩ | ⟨rfl, rfl⟩ := hp
    · exact Nat.zero_le 1
    · exact le_rfl
    · simp only [Place.loc, identityLeaf, Prod.mk.injEq] at e; omega)
  have kept : t.homeByte (Place.loc 0 (.page 0x400 identityLeaf)) = 7 := resealing_loses_byte run
  rw [kept] at zero
  exact absurd zero (by decide +kernel)

end ResealingStore
end Sys2Proof.Machine

/-! What operations on memory, caches and translations leave of the machine (spec 03 R138 to R148; 05 R183). -/

namespace Sys2Proof.Machine
section Surroundings

theorem State.core_modCore (s : State) (c k : Nat) (f : Core → Core) :
    (s.modCore c f).core k = if k = c then f (s.core c) else s.core k := mget_mput _ _ _ _ _

theorem State.die_modDie (s : State) (d e : Nat) (f : Die → Die) :
    (s.modDie d f).die e = if e = d then f (s.die d) else s.die e := mget_mput _ _ _ _ _

/-- What a core's caches and translations stand beside: its gangs and parts, their bindings and its scratchpad. -/
def Core.seats (k : Core) : Map Gang × Map Byte × List TeamPart × Map Bind := (k.slots, k.scratch, k.parts, k.binds)

/-- The machine around memory, caches and translations is as before. -/
structure State.Around (s t : State) : Prop where
  cur : t.cur = s.cur
  tick : t.tick = s.tick
  ctxs : t.ctxs = s.ctxs
  reset : t.dev.resetReg = s.dev.resetReg
  seats : ∀ c, (t.core c).seats = (s.core c).seats

/-- Neither did an access meet missing memory. -/
structure State.Beside (s t : State) : Prop extends s.Around t where
  bad : t.bad = s.bad

theorem State.Beside.after {s t u : State} (b : t.Beside u) (a : s.Beside t) : s.Beside u :=
  ⟨⟨b.cur.trans a.cur, b.tick.trans a.tick, b.ctxs.trans a.ctxs, b.reset.trans a.reset,
    fun c => (b.seats c).trans (a.seats c)⟩, b.bad.trans a.bad⟩

theorem State.Around.refl (s : State) : s.Around s := ⟨rfl, rfl, rfl, rfl, fun _ => rfl⟩

theorem State.Around.trans {s t u : State} (a : s.Around t) (b : t.Around u) : s.Around u :=
  ⟨b.cur.trans a.cur, b.tick.trans a.tick, b.ctxs.trans a.ctxs, b.reset.trans a.reset,
    fun c => (b.seats c).trans (a.seats c)⟩

theorem State.Beside.refl (s : State) : s.Beside s := ⟨.refl s, rfl⟩

theorem State.Beside.trans {s t u : State} (a : s.Beside t) (b : t.Beside u) : s.Beside u :=
  ⟨a.toAround.trans b.toAround, b.bad.trans a.bad⟩

theorem State.Around.foldl {α : Type} {f : State → α → State} (h : ∀ s x, State.Around s (f s x)) (xs : List α) (s : State) :
    s.Around (xs.foldl f s) := by
  induction xs generalizing s with
  | nil => exact .refl s
  | cons x xs ih => exact (h s x).trans (ih _)

theorem State.Beside.foldl {α : Type} {f : State → α → State} (h : ∀ s x, State.Beside s (f s x)) (xs : List α) (s : State) :
    s.Beside (xs.foldl f s) := by
  induction xs generalizing s with
  | nil => exact .refl s
  | cons x xs ih => exact (h s x).trans (ih _)

theorem State.Around.gang? {s t : State} (h : s.Around t) (c slot : Nat) : t.gang? c slot = s.gang? c slot :=
  congrArg (fun x : Map Gang × Map Byte × List TeamPart × Map Bind => mfind? x.1 slot) (h.seats c)

theorem State.Around.issuer {s t : State} (h : s.Around t) : t.issuer = s.issuer := by
  unfold State.issuer; rw [h.cur, h.gang?]

theorem State.Around.scratch {s t : State} (h : s.Around t) (c : Nat) : (t.core c).scratch = (s.core c).scratch :=
  congrArg (fun x : Map Gang × Map Byte × List TeamPart × Map Bind => x.2.1) (h.seats c)

theorem State.Around.ttAddr {s t : State} (h : s.Around t) (ctx slot : Nat) : t.ttAddr ctx slot = s.ttAddr ctx slot := by
  unfold State.ttAddr State.ctx; rw [h.ctxs]

theorem State.Around.dieAway {s t : State} (h : s.Around t) (d : Nat) : t.dieAway d = s.dieAway d := by
  unfold State.dieAway; rw [h.reset]

/-! Memory. -/

theorem State.around_setMem (s : State) (m : List Host.Cell) : s.Around (s.setMem m) := ⟨rfl, rfl, rfl, rfl, fun _ => rfl⟩

theorem State.beside_heal (s : State) (hit : Nat → Bool) : s.Beside (s.heal hit) := by
  unfold State.heal
  dsimp only
  split
  · exact .refl s
  · exact ⟨⟨rfl, rfl, rfl, rfl, fun _ => rfl⟩, rfl⟩

theorem State.around_noteBad (s : State) (a : Nat) : s.Around (s.noteBad a) := by
  unfold State.noteBad
  (repeat' split) <;> exact ⟨rfl, rfl, rfl, rfl, fun _ => rfl⟩

/-- An access to memory of a die under reset waits. -/
theorem State.beside_noteBad {s : State} {a : Nat} (h : s.awayAt a = true) : s.Beside (s.noteBad a) := by
  refine ⟨s.around_noteBad a, ?_⟩
  unfold State.noteBad
  rw [if_pos h]
  split <;> rfl

theorem State.around_writeHome (s : State) (a : Nat) (bs : List Byte) : s.Around (s.writeHome a bs) := by
  unfold State.writeHome
  split
  · exact (s.beside_heal _).toAround.trans (State.around_setMem _ _)
  · exact s.around_noteBad a

theorem State.beside_homeStoreAt (s : State) (ws : List (Nat × Byte)) : s.Beside (s.homeStoreAt ws) := by
  unfold State.homeStoreAt
  split
  · next w h => exact State.beside_noteBad (List.find?_some (p := fun w : Nat × Byte => s.awayAt w.1) h)
  · exact (s.beside_heal _).trans ⟨State.around_setMem _ _, rfl⟩

/-! Caches. -/

theorem State.beside_modDie (s : State) (d : Nat) (f : Die → Die) : s.Beside (s.modDie d f) :=
  ⟨⟨rfl, rfl, rfl, rfl, fun _ => rfl⟩, rfl⟩

theorem State.beside_modCore (s : State) (c : Nat) (f : Core → Core) (h : ∀ k, (f k).seats = k.seats) :
    s.Beside (s.modCore c f) :=
  ⟨⟨rfl, rfl, rfl, rfl, fun k => by rw [State.core_modCore]; split <;> simp_all⟩, rfl⟩

theorem State.beside_rdcStoreFrame (s : State) (d frame : Nat) (ws : List (Nat × Byte)) :
    s.Beside (s.rdcStoreFrame d frame ws) := (s.beside_modDie d _).trans (State.beside_homeStoreAt _ _)

theorem State.beside_writeBack (s : State) (d : Nat) (ws : List (Nat × Byte)) : s.Beside (s.writeBack d ws) :=
  (s.beside_homeStoreAt _).trans (State.Beside.foldl (fun s (x : Nat × List (Nat × Byte)) => s.beside_rdcStoreFrame d x.1 x.2) _ _)

theorem State.beside_l1Evicted (s : State) (c : Nat) (out : List Block) : s.Beside (s.l1Evicted c out) :=
  (State.beside_writeBack _ _ _).after (State.beside_modCore _ _ _ fun _ => rfl)

theorem State.beside_rdcFill (s : State) (d frame first last : Nat) : s.Beside (s.rdcFill d frame first last) :=
  (s.beside_modDie d _).trans (State.beside_homeStoreAt _ _)

theorem State.beside_l1Fill (s : State) (c frame first last : Nat) (pred : Option Nat) :
    s.Beside (s.l1Fill c frame first last pred) := by
  unfold State.l1Fill
  dsimp only
  split
  · exact (State.beside_l1Evicted _ _ _).after (State.beside_modCore _ _ _ fun _ => rfl)
  · exact (s.beside_rdcFill _ _ _ _).trans ((State.beside_l1Evicted _ _ _).after (State.beside_modCore _ _ _ fun _ => rfl))

theorem State.beside_l1Want (s : State) (c frame : Nat) (offs : List Nat) (pc : Nat) (hint : Option Nat) :
    s.Beside (s.l1Want c frame offs pc hint) := by
  unfold State.l1Want
  dsimp only
  split
  · exact .refl s
  · exact s.beside_l1Fill _ _ _ _ _

theorem State.beside_l1Load (s : State) (c frame : Nat) (offs : List Nat) (pc : Nat) (hint : Option Nat) :
    s.Beside (s.l1Load c frame offs pc hint) := by
  unfold State.l1Load
  exact (s.beside_l1Want c frame offs pc hint).trans (State.beside_modCore _ _ _ fun _ => rfl)

theorem State.beside_l1WriteBack (s : State) (c : Nat) (p : Nat → Bool) : s.Beside (s.l1WriteBack c p) :=
  (State.beside_writeBack _ _ _).after (State.beside_modCore _ _ _ fun _ => rfl)

theorem State.beside_l1Remove (s : State) (c : Nat) (p : Nat → Bool) : s.Beside (s.l1Remove c p) :=
  (s.beside_l1WriteBack c p).trans ((State.beside_l1Evicted _ _ _).after (State.beside_modCore _ _ _ fun _ => rfl))

theorem State.beside_rdcWriteBack (s : State) (d : Nat) (p : Nat → Bool) : s.Beside (s.rdcWriteBack d p) :=
  (s.beside_modDie d _).trans (State.beside_homeStoreAt _ _)

theorem State.beside_rdcRemove (s : State) (d : Nat) (p : Nat → Bool) : s.Beside (s.rdcRemove d p) :=
  (s.beside_rdcWriteBack d p).trans ((State.beside_modDie _ d _).trans (State.beside_homeStoreAt _ _))

theorem State.beside_rdcsRemove (s : State) (p : Nat → Bool) : s.Beside (s.rdcsRemove p) :=
  State.Beside.foldl (fun s (d : Nat × Die) => s.beside_rdcRemove d.1 p) _ _

theorem State.beside_toHome (s : State) (c a : Nat) : s.Beside (s.toHome c a) :=
  (s.beside_l1Remove c _).trans (State.beside_rdcsRemove _ _)

theorem State.beside_releaseWords (s : State) (c level : Nat) (p : Nat → Bool) : s.Beside (s.releaseWords c level p) := by
  unfold State.releaseWords
  dsimp only
  split
  · exact .refl s
  · split
    · exact s.beside_l1WriteBack c p
    · exact (s.beside_l1WriteBack c p).trans (State.beside_rdcWriteBack _ _ _)

theorem State.beside_acquireWords (s : State) (c level : Nat) (p : Nat → Bool) : s.Beside (s.acquireWords c level p) := by
  unfold State.acquireWords
  dsimp only
  split
  · exact .refl s
  · split
    · exact s.beside_l1Remove c p
    · exact (s.beside_l1Remove c p).trans (State.beside_rdcRemove _ _ _)

theorem State.beside_acquireObj (s : State) (c : Nat) (t : TeamPart) (o : ObjLoc) (sc : Scope) :
    s.Beside (s.acquireObj c t o sc) := State.Beside.foldl (fun s _ => s.beside_acquireWords c _ _) _ _

/-! Entries of the tensor identifier table. -/

theorem State.beside_ttTouch (s : State) (c ctx slot : Nat) : s.Beside (s.ttTouch c ctx slot) := by
  unfold State.ttTouch
  exact State.beside_modCore _ _ _ fun _ => rfl

theorem State.around_engineTouch (s : State) (ctx va : Nat) (write : Bool) : s.Around (s.engineTouch ctx va write) := by
  unfold State.engineTouch
  split
  · split
    · exact .refl s
    · split
      · exact s.around_writeHome _ _
      · exact .refl s
  · exact .refl s

theorem State.around_lightPieces (s : State) (ctx : Nat) (kind : AccKind) (ps : List (Nat × Nat × Nat)) :
    s.Around (s.lightPieces ctx kind ps) := State.Around.foldl (fun s (p : Nat × Nat × Nat) => s.around_engineTouch ctx p.1 kind.w) _ _

theorem State.beside_beforeTdef (s : State) (c ctx : Nat) (e : List DWord) : s.Beside (s.beforeTdef c ctx e) := by
  unfold State.beforeTdef State.beforeEngine
  exact (s.beside_releaseWords c 2 _).trans (State.beside_releaseWords _ c 2 _)

end Surroundings

/-! The issuing gang. -/

section IssuingGang

theorem State.gang?_setGang (s : State) (c n : Nat) (g : Gang) : (s.setGang c n g).gang? c n = some g := by
  unfold State.gang? State.setGang
  rw [State.core_modCore, if_pos rfl]
  exact mfind?_mput_same _ _ _

@[simp] theorem State.issuer_putGang (s : State) (g : Gang) : (s.putGang g).issuer = some g := s.gang?_setGang _ _ g

theorem State.onGang_eq {s : State} {g : Gang} (h : s.issuer = some g) (f : Gang → Gang) : s.onGang f = s.putGang (f g) := by
  unfold State.onGang State.modGang
  rw [show s.gang? s.cur.core s.cur.slot = some g from h]
  rfl

end IssuingGang
end Sys2Proof.Machine

/-! Entering a handler (spec 10 R397, R402 to R406): what a trap of an instruction does to the lanes that take it. -/

namespace Sys2Proof.Machine
section Handlers

theorem Gang.switched_demoteDropping (g : Gang) : g.Switched g.demoteDropping := by
  unfold Gang.demoteDropping
  split
  · exact (Gang.switched_switch g _ (liveLanes_lt g)).trans (.of_eq rfl rfl rfl)
  · exact .refl g

/-- A lane that an entry took, from what it was before (10 R402, R403). -/
structure Lane.Entered (e : EntryInfo) (target : VAddr) (r : TrapRec) (x y : Lane) : Prop where
  pc : y.pc = target
  hist : y.hist = []
  frame : ∃ f, y.handlers = f :: x.handlers ∧ f.kind = e.kind ∧ f.cause = r.cause ∧ f.delivered = e.delivered ∧
    f.deferred = e.deferred ∧ f.pc = x.pc ∧ f.resume = x.pc ∧ f.after = e.after ∧ f.addr = r.addr ∧ f.hist = x.hist

theorem Gang.lane_enterLane_other (g : Gang) (tick : Nat) (is : Issue) (e : EntryInfo) (target : VAddr) (r : TrapRec)
    {k : Nat} (h : k ≠ r.lane) : (g.enterLane tick is e target r).lane k = g.lane k :=
  (Gang.lane_setLane g r.lane k _).trans (if_neg h)

theorem Gang.entered_enterLane (g : Gang) (tick : Nat) (is : Issue) (e : EntryInfo) (target : VAddr) (r : TrapRec) :
    Lane.Entered e target r (g.lane r.lane) ((g.enterLane tick is e target r).lane r.lane) := by
  have lane : (g.enterLane tick is e target r).lane r.lane = _ := (Gang.lane_setLane g r.lane r.lane _).trans (if_pos rfl)
  rw [lane]
  exact ⟨rfl, rfl, ⟨_, rfl, rfl, rfl, rfl, rfl, rfl, rfl, rfl, rfl, rfl⟩⟩

/-- The entries of the lanes of some records. -/
def Gang.enterLanes (g : Gang) (tick : Nat) (is : Issue) (e : EntryInfo) (target : VAddr) (recs : List TrapRec) : Gang :=
  recs.foldl (fun g r => g.enterLane tick is e target r) g

theorem Gang.enterLanes_cons (g : Gang) (tick : Nat) (is : Issue) (e : EntryInfo) (target : VAddr) (r : TrapRec)
    (recs : List TrapRec) : g.enterLanes tick is e target (r :: recs) =
      (g.enterLane tick is e target r).enterLanes tick is e target recs := rfl

/-- Entries of distinct lanes: each lane of the records is entered, every other one stays. -/
theorem Gang.lanes_entered (tick : Nat) (is : Issue) (e : EntryInfo) (target : VAddr) (recs : List TrapRec) (g : Gang)
    (distinct : (recs.map TrapRec.lane).Nodup) :
    (∀ r ∈ recs, Lane.Entered e target r (g.lane r.lane)
      ((g.enterLanes tick is e target recs).lane r.lane)) ∧
    ∀ k, k ∉ recs.map TrapRec.lane → (g.enterLanes tick is e target recs).lane k = g.lane k := by
  induction recs generalizing g with
  | nil => exact ⟨fun _ h => absurd h List.not_mem_nil, fun _ _ => rfl⟩
  | cons x xs ih =>
    obtain ⟨fresh, distinct⟩ := List.nodup_cons.1 distinct
    obtain ⟨inside, outside⟩ := ih (g.enterLane tick is e target x) distinct
    constructor
    · intro r hr
      rcases List.mem_cons.1 hr with rfl | hr
      · rw [Gang.enterLanes_cons, outside _ fresh]
        exact Gang.entered_enterLane g tick is e target r
      · have other : r.lane ≠ x.lane := fun h => fresh (h ▸ List.mem_map_of_mem hr)
        have := inside r hr
        rwa [Gang.lane_enterLane_other g tick is e target x other] at this
    · intro k hk
      rw [List.map_cons, List.mem_cons, not_or] at hk
      rw [Gang.enterLanes_cons, outside k hk.2, Gang.lane_enterLane_other g tick is e target x hk.1]

/-- What an entry leaves beside its lanes. -/
theorem Gang.fixed_enterLanes (tick : Nat) (is : Issue) (e : EntryInfo) (target : VAddr) (recs : List TrapRec) (g : Gang) :
    (g.enterLanes tick is e target recs).fixed = g.fixed ∧
    (g.enterLanes tick is e target recs).v = g.v :=
  ⟨foldl_keeps (fun (g : Gang) r => g.enterLane tick is e target r) Gang.fixed (fun _ _ => rfl) recs g,
    foldl_keeps (fun (g : Gang) r => g.enterLane tick is e target r) Gang.v (fun _ _ => rfl) recs g⟩

/-- An entry of lanes is a switch for lanes of their streams, the entries of the lanes, and new streams. -/
theorem Gang.enter_shape (g : Gang) (tick : Nat) (is : Issue) (e : EntryInfo) (target : VAddr) (recs : List TrapRec) :
    ∃ h, g.Switched h ∧ (g.enter tick is e target recs).lanes = (h.enterLanes tick is e target recs).lanes ∧
      (g.enter tick is e target recs).v = h.v ∧ (g.enter tick is e target recs).fixed = h.fixed := by
  obtain ⟨fixed, regs⟩ := Gang.fixed_enterLanes tick is e target recs ((g.switch ((g.streams.filter (fun st =>
    (slicesOf st.slices).any (fun k => (slicesOfLanes (recs.map (fun r => r.lane))).contains k))).flatMap
      (fun st => slicesLanes st.slices))).demoteDropping)
  refine ⟨_, (Gang.switched_switch g _ fun l hl => ?_).trans (Gang.switched_demoteDropping _), rfl, regs, fixed⟩
  obtain ⟨st, -, hl⟩ := List.mem_flatMap.1 hl
  exact slices_lanes_lt (fun _ hk => slicesOf_lt hk) l hl

theorem delivered_same {c : Cause} (recs : List TrapRec) (h : recs ≠ []) (all : ∀ r ∈ recs, r.cause = c) :
    delivered recs = c := by
  induction recs with
  | nil => exact absurd rfl h
  | cons r rs ih =>
    unfold delivered
    cases rs with
    | nil => simpa using all r (by simp)
    | cons x xs =>
      rw [ih (by simp) (fun y hy => all y (List.mem_cons_of_mem _ hy))]
      dsimp only
      split
      · exact all r (by simp)
      · rfl

/-- The records of one cause in the lanes of a mask. -/
def recordsOf (m : LaneMask) (c : Cause) (addr : Nat → DWord) : List TrapRec :=
  (lanesOf m).map (fun l => .plain l c (addr l))

theorem lanesOf_ne_nil {m : LaneMask} (h : m ≠ 0) : lanesOf m ≠ [] := fun e => h (by
  ext i hi
  have : ¬ m.getLsbD i = true := fun hm => List.not_mem_nil (e ▸ mem_lanesOf.2 hm)
  simpa [BitVec.getLsbD_eq_getElem hi] using this)

theorem recordsOf_ne_nil {m : LaneMask} (h : m ≠ 0) (c : Cause) (addr : Nat → DWord) : recordsOf m c addr ≠ [] := fun e =>
  lanesOf_ne_nil h (List.map_eq_nil_iff.1 e)

/-- A trap with one cause, no request and no emulation, taken by lanes that have room for it (10 R402). -/
theorem State.trap_records (s : State) (g : Gang) {m : LaneMask} {c : Cause} (addr : Nat → DWord) (some_ : m ≠ 0)
    (room : g.handles 0 m) (request : c ≠ .nres) (emulation : c ≠ .emu) :
    s.trap g (recordsOf m c addr) =
      s.putGang (g.enter s.tick s.cur ⟨0, c, false, s.cur.next, none⟩ (g.handlerAddress 0) (recordsOf m c addr)) := by
  obtain ⟨entry, level⟩ := room
  have shallow : (recordsOf m c addr).any (fun r => decide (2 ≤ (g.lane r.lane).level)) = false := by
    rw [List.any_eq_false]
    intro r hr
    obtain ⟨l, hl, rfl⟩ := List.mem_map.1 hr
    rw [decide_eq_true_eq]
    exact Nat.not_le.2 (level l (mem_lanesOf.1 hl))
  have c_del : delivered (recordsOf m c addr) = c :=
    delivered_same _ (recordsOf_ne_nil some_ c addr) (fun r hr => by
      obtain ⟨l, -, rfl⟩ := List.mem_map.1 hr
      rfl)
  unfold State.trap
  simp only [List.isEmpty_iff, recordsOf_ne_nil some_, if_false, c_del, request, beq_iff_eq, emulation]
  unfold State.enterHandler
  simp only [shallow, if_true, if_false, Bool.false_eq_true, OfNat.zero_ne_ofNat, Nat.add_zero] at entry ⊢
  rw [if_neg entry]
  rfl

/-- The outcome of an instruction that ends in such a trap, on a machine with the same memory. -/
theorem entersHandler_of_trap {s u : State} {g : Gang} {i : Instr} {m : LaneMask} {c : Cause} {addr : Nat → DWord}
    (issues : s.Issues g) (cur : u.cur = s.cur) (bad : u.bad = s.bad) (memory : SameMemory s u)
    (run : exec i s = finish (u.trap g (recordsOf m c addr))) (some_ : m ≠ 0) (room : g.handles 0 m)
    (request : c ≠ .nres) (emulation : c ≠ .emu) : EntersHandler s g i m 0 c addr := by
  rw [State.trap_records u g addr some_ room request emulation] at run
  set recs := recordsOf m c addr with hrecs
  obtain ⟨h, switched, lanes, regs, fixed⟩ :=
    g.enter_shape u.tick u.cur ⟨0, c, false, u.cur.next, none⟩ (g.handlerAddress 0) recs
  have names : recs.map TrapRec.lane = lanesOf m := by simp [hrecs, recordsOf, TrapRec.plain, Function.comp_def]
  obtain ⟨inside, outside⟩ := Gang.lanes_entered u.tick u.cur ⟨0, c, false, u.cur.next, none⟩ (g.handlerAddress 0) recs h
    (names ▸ nodup_lanesOf m)
  generalize g.enter u.tick u.cur ⟨0, c, false, u.cur.next, none⟩ (g.handlerAddress 0) recs = G at *
  have lane : ∀ l, G.lane l =
      (h.enterLanes u.tick u.cur ⟨0, c, false, u.cur.next, none⟩ (g.handlerAddress 0) recs).lane l :=
    fun l => congrArg (fun m => mget Lane.reset m l) lanes
  have same := congrArg Prod.snd (fixed.trans switched.fixed)
  simp only [Gang.fixed, Prod.mk.injEq] at same
  have before : ∀ l, (h.lane l).pc = (g.lane l).pc ∧ (h.lane l).handlers = (g.lane l).handlers ∧
      (h.lane l).hist.map LatchEntry.val = (g.lane l).hist.map LatchEntry.val := by
    intro l
    rcases switched.lane l with e | e <;> rw [e]
    · exact ⟨rfl, rfl, rfl⟩
    · exact ⟨rfl, rfl, by simp [Lane.cleared, Function.comp_def]⟩
  refine ⟨_, _, run.trans ?_, State.issuer_putGang _ _, ?_, ?_, ?_, same.1, same.2.1, same.2.2, memory⟩
  · unfold finish
    rw [show (u.putGang _).bad = none from bad.trans issues.2]
  · intro l hl
    have record : (TrapRec.plain l c (addr l)) ∈ recs := List.mem_map_of_mem (mem_lanesOf.2 hl)
    obtain ⟨pc, hist, f, handlers, kind, cause, deliv, deferred, fpc, resume, after, faddr, fhist⟩ := inside _ record
    obtain ⟨bpc, bhandlers, bhist⟩ := before l
    rw [lane]
    exact ⟨pc, hist, f, handlers.trans (congrArg _ bhandlers), kind, cause, deliv, deferred, fpc.trans bpc,
      resume.trans bpc, after.trans (congrArg Issue.next cur), faddr, (congrArg _ fhist).trans bhist⟩
  · intro l hl
    have stays := outside l (by rw [names, mem_lanesOf, hl]; exact Bool.false_ne_true)
    obtain ⟨bpc, bhandlers, -⟩ := before l
    rw [lane, stays]
    exact ⟨bpc, bhandlers⟩
  · intro l r hl quiet
    rw [← switched.reg hl quiet]
    exact congrArg (fun v => mget 0 v (vkey r l)) regs

end Handlers
end Sys2Proof.Machine

/-! Doublewords of memory and entries of the tensor identifier table, written and read back (spec 03 R127 to R133). -/

namespace Sys2Proof.Machine
section Doublewords

theorem length_bytesOf (n x : Nat) : (bytesOf n x).length = n := by simp [bytesOf]

theorem ofBytes_bytesOf (n x : Nat) : ofBytes (bytesOf n x) = x % 256 ^ n := by
  induction n generalizing x with
  | zero => simp [bytesOf, ofBytes, Nat.mod_one]
  | succ n ih =>
    have tail : bytesOf (n + 1) x = BitVec.ofNat 8 x :: bytesOf n (x / 256) := by
      simp only [bytesOf, List.range_succ_eq_map, List.map_cons, List.map_map, Nat.mul_zero, pow_zero, Nat.div_one,
        Function.comp_def, Nat.succ_eq_add_one, Nat.mul_add, Nat.mul_one, pow_add, Nat.div_div_eq_div_mul]
      norm_num
      exact fun a _ => by rw [mul_comm]
    rw [tail, ofBytes, ih, BitVec.toNat_ofNat, pow_succ' 256 n, Nat.mod_mul]

theorem ofBytes_dword (d : DWord) : BitVec.ofNat 64 (ofBytes (bytesOf 8 d.toNat)) = d := by
  rw [ofBytes_bytesOf, Nat.mod_eq_of_lt (by have := d.isLt; norm_num at *; omega), BitVec.ofNat_toNat, BitVec.setWidth_eq]

theorem memBytes_congr {m m' : List Host.Cell} {a n : Nat} (h : ∀ i, i < n → memRead m' (a + i) = memRead m (a + i)) :
    memBytes m' a n = memBytes m a n := List.map_congr_left fun i hi => h i (List.mem_range.1 hi)

theorem memBytes_memStore {m : List Host.Cell} (h : Memory.wf m = true) (a : Nat) (bs : List Byte) :
    memBytes (memStore m a bs) a bs.length = bs := by
  refine List.ext_getElem (by simp [memBytes]) fun i hi hi' => ?_
  simp only [memBytes, List.getElem_map, List.getElem_range]
  exact memRead_memStore_inside h a i bs hi'

theorem memRead_memStoreAt_other {m : List Host.Cell} (h : Memory.wf m = true) (ws : List (Nat × Byte)) {x : Nat}
    (hx : ∀ w ∈ ws, w.1 ≠ x) : memRead (memStoreAt m ws) x = memRead m x := by
  induction ws generalizing m with
  | nil => rfl
  | cons w ws ih =>
    rw [memStoreAt, ih (memWrite_wf h _ _) (fun v hv => hx v (List.mem_cons_of_mem _ hv)), memRead_memWrite h,
      if_neg (hx w (List.mem_cons_self ..)).symm]

/-- No transfer with a memory error meets n bytes at an address. -/
def State.Settled (s : State) (a n : Nat) : Prop := ∀ t ∈ s.dev.badTransfers, touchesTransfer a n t = false

theorem State.badTransfers_heal (s : State) (hit : Nat → Bool) :
    (s.heal hit).dev.badTransfers = s.dev.badTransfers.filter (fun t => !hit t) := by
  unfold State.heal
  dsimp only
  split
  · next none_ =>
    rw [List.isEmpty_iff, List.filter_eq_nil_iff] at none_
    exact (List.filter_eq_self.2 fun t ht => by simpa using none_ t ht).symm
  · rfl

theorem State.memRead_heal {s : State} (h : s.MemOk) {hit : Nat → Bool} {x : Nat}
    (hx : ∀ t ∈ s.dev.badTransfers, hit t = true → x / 32 ≠ t) : memRead (s.heal hit).mem x = memRead s.mem x := by
  unfold State.heal
  dsimp only
  split
  · rfl
  · refine memRead_memStoreAt_other h _ fun w hw => ?_
    obtain ⟨t, ht, hw⟩ := List.mem_flatMap.1 hw
    obtain ⟨bad, hits⟩ := List.mem_filter.1 ht
    obtain ⟨i, hi, rfl⟩ := List.mem_map.1 hw
    have := hx t bad hits
    have := List.mem_range.1 hi
    dsimp only
    omega

/-- A doubleword written at its home: it reads back, no other one does otherwise whose transfers were without error, and
where no transfer has one no other byte changes. -/
structure State.DwordWritten (s t : State) (a : Nat) (d : DWord) : Prop where
  beside : s.Beside t
  memOk : t.MemOk
  reads : t.dword a = d
  settled : t.Settled a 8
  others : ∀ b, Apart b 8 a 8 → s.Settled b 8 → t.dword b = s.dword b ∧ t.Settled b 8
  bytes : s.dev.badTransfers = [] → t.dev.badTransfers = [] ∧ ∀ x, (x < a ∨ a + 8 ≤ x) → memRead t.mem x = memRead s.mem x

theorem touchesTransfer_of_mem {a n x : Nat} (lo : a ≤ x) (hi : x < a + n) : touchesTransfer a n (x / 32) = true := by
  simp only [touchesTransfer, Bool.and_eq_true, decide_eq_true_eq]; omega

theorem State.setDword_written {s : State} (h : s.MemOk) {a : Nat} (reach : s.reaches a 8 = true) (d : DWord) :
    s.DwordWritten (s.setDword a d) a d := by
  have len := length_bytesOf 8 d.toNat
  unfold State.setDword State.writeHome
  rw [len, if_pos reach]
  have healed := memOk_State_heal h (touchesTransfer a 8)
  have bad := s.badTransfers_heal (touchesTransfer a 8)
  refine ⟨(s.beside_heal _).trans ⟨State.around_setMem _ _, rfl⟩, memStore_wf healed a _, ?_, ?_, fun b apart quiet => ?_,
    fun none_ => ?_⟩
  · have := memBytes_memStore healed a (bytesOf 8 d.toNat)
    rw [len] at this
    unfold State.dword State.readHome
    rw [State.setMem, this, ofBytes_dword]
  · intro t ht
    rw [State.setMem_dev, bad, List.mem_filter] at ht
    simpa using ht.2
  · constructor
    · refine congrArg (fun bs => BitVec.ofNat 64 (ofBytes bs)) (memBytes_congr fun i hi => ?_)
      rw [State.setMem, memRead_memStore_outside healed a _ _ (by rw [len]; unfold Apart at apart; omega)]
      refine State.memRead_heal h fun t ht _ e => ?_
      have := quiet t ht
      rw [← e, touchesTransfer_of_mem (by omega) (by omega)] at this
      cases this
    · intro t ht
      rw [State.setMem_dev, bad, List.mem_filter] at ht
      exact quiet t ht.1
  · refine ⟨by rw [State.setMem_dev, bad, none_]; rfl, fun x hx => ?_⟩
    rw [State.setMem, memRead_memStore_outside healed a x _ (by rw [len]; exact hx)]
    exact State.memRead_heal h (by simp [none_])

end Doublewords

/-! Entries. -/

section Entries

theorem State.beside_ttInvalidate (s : State) (ctx slot : Nat) : s.Beside (s.ttInvalidate ctx slot) := by
  refine ⟨⟨rfl, rfl, rfl, rfl, fun c => ?_⟩, rfl⟩
  unfold State.core State.ttInvalidate mget
  dsimp only
  rw [mfind?_mmapVals]
  cases mfind? s.cores c <;> rfl

/-- The table of a context lies in memory that can be accessed. -/
def State.TableIn (s : State) (ctx : Nat) : Prop := s.DiesUp ∧ field (s.ctx ctx).ttBase 47 0 + 262144 ≤ memoryEnd

theorem State.Around.tableIn {s t : State} (h : s.Around t) {ctx : Nat} (table : s.TableIn ctx) : t.TableIn ctx :=
  ⟨fun d => (h.dieAway d).trans (table.1 d), by unfold State.ctx; rw [h.ctxs]; exact table.2⟩

theorem State.TableIn.reaches {s : State} {ctx slot a n : Nat} (h : s.TableIn ctx) (hs : slot < 4096)
    (hi : a + n ≤ s.ttAddr ctx slot + 64) : s.reaches a n = true := by
  obtain ⟨up, below⟩ := h
  unfold State.ttAddr at hi
  simp only [State.reaches, State.awayAt, up (homeDie a), Bool.and_false, Bool.not_false, Bool.and_true, decide_eq_true_eq]
  omega

/-- The doublewords of an entry below a bound written, and nothing else but the transfers in error that they meet. -/
structure State.EntryWritten (s t : State) (ctx slot : Nat) (e : List DWord) (n : Nat) : Prop where
  beside : s.Beside t
  memOk : t.MemOk
  reads : ∀ k, k < n → t.dword (s.ttAddr ctx slot + 8 * k) = dwAt e k ∧ t.Settled (s.ttAddr ctx slot + 8 * k) 8
  bytes : s.dev.badTransfers = [] → t.dev.badTransfers = [] ∧
    ∀ x, (x < s.ttAddr ctx slot ∨ s.ttAddr ctx slot + 64 ≤ x) → memRead t.mem x = memRead s.mem x

/-- The doublewords of an entry below a bound. -/
def State.writeDwords (s : State) (ctx slot : Nat) (e : List DWord) (n : Nat) : State :=
  (List.range n).foldl (fun (s : State) k => s.setDword (s.ttAddr ctx slot + 8 * k) (dwAt e k)) s

theorem State.writeDwords_succ (s : State) (ctx slot : Nat) (e : List DWord) (n : Nat) :
    s.writeDwords ctx slot e (n + 1) =
      (s.writeDwords ctx slot e n).setDword ((s.writeDwords ctx slot e n).ttAddr ctx slot + 8 * n) (dwAt e n) := by
  unfold State.writeDwords
  rw [List.range_succ, List.foldl_append]
  rfl

theorem State.writeDwords_written {s : State} (h : s.MemOk) {ctx slot : Nat} (table : s.TableIn ctx) (hs : slot < 4096)
    (e : List DWord) {n : Nat} (hn : n ≤ 8) : s.EntryWritten (s.writeDwords ctx slot e n) ctx slot e n := by
  induction n with
  | zero => exact ⟨.refl s, h, fun _ hk => absurd hk (Nat.not_lt_zero _), fun none_ => ⟨none_, fun _ _ => rfl⟩⟩
  | succ n ih =>
    obtain ⟨beside, memOk, reads, bytes⟩ := ih (by omega)
    have addr := beside.ttAddr ctx slot
    have here : s.ttAddr ctx slot + 8 * n + 8 ≤ s.ttAddr ctx slot + 64 := by omega
    have written := State.setDword_written memOk
      ((beside.tableIn table).reaches hs (a := s.ttAddr ctx slot + 8 * n) (n := 8) (by rw [addr]; exact here)) (dwAt e n)
    rw [State.writeDwords_succ, addr]
    refine ⟨beside.trans written.beside, written.memOk, fun k hk => ?_, fun none_ => ?_⟩
    · by_cases last : k = n
      · subst last
        exact ⟨written.reads, written.settled⟩
      · obtain ⟨old, quiet⟩ := reads k (by omega)
        obtain ⟨same, settled⟩ := written.others (s.ttAddr ctx slot + 8 * k) (by unfold Apart; omega) quiet
        exact ⟨same.trans old, settled⟩
    · obtain ⟨fine, same⟩ := bytes none_
      obtain ⟨fine', same'⟩ := written.bytes fine
      refine ⟨fine', fun x hx => ?_⟩
      rw [same' x (by omega), same x hx]

theorem ttEntry_of_dwords {t : State} {ctx slot : Nat} {e : List DWord} (len : e.length = 8)
    (h : ∀ k, k < 8 → t.dword (t.ttAddr ctx slot + 8 * k) = dwAt e k) : t.ttEntry ctx slot = e := by
  refine List.ext_getElem (by simp [State.ttEntry, len]) fun k hk hk' => ?_
  simp only [State.ttEntry, List.getElem_map, List.getElem_range]
  rw [h k (by omega), dwAt, List.getD_eq_getElem?_getD, List.getElem?_eq_getElem hk', Option.getD_some]

theorem dwAt_ttEntry (s : State) (ctx slot : Nat) {k : Nat} (hk : k < 8) :
    dwAt (s.ttEntry ctx slot) k = s.dword (s.ttAddr ctx slot + 8 * k) := by
  simp [dwAt, State.ttEntry, hk]

theorem State.writeEntry_eq (s : State) (ctx slot : Nat) (e : List DWord) :
    s.writeEntry ctx slot e = (s.writeDwords ctx slot e 8).ttInvalidate ctx slot := rfl

/-- What TDEF's write of an entry leaves. -/
theorem State.writeEntry_written {s : State} (h : s.MemOk) {ctx slot : Nat} (table : s.TableIn ctx) (hs : slot < 4096)
    {e : List DWord} (len : e.length = 8) :
    s.Beside (s.writeEntry ctx slot e) ∧ (s.writeEntry ctx slot e).ttEntry ctx slot = e ∧
      (s.dev.badTransfers = [] → ∀ x, (x < s.ttAddr ctx slot ∨ s.ttAddr ctx slot + 64 ≤ x) →
        memRead (s.writeEntry ctx slot e).mem x = memRead s.mem x) := by
  obtain ⟨beside, memOk, reads, bytes⟩ := State.writeDwords_written h table hs e (le_refl 8)
  rw [State.writeEntry_eq]
  generalize s.writeDwords ctx slot e 8 = t at *
  have all := beside.trans (t.beside_ttInvalidate ctx slot)
  refine ⟨all, ttEntry_of_dwords len fun k hk => ?_, fun none_ => (bytes none_).2⟩
  rw [all.ttAddr]
  exact (reads k hk).1

end Entries
end Sys2Proof.Machine

/-! TDEF, TDROP and TQRY (spec 03 R128 to R133; 04 R161; 09 R379 to R381). -/

namespace Sys2Proof.Machine
section PerIssue

theorem Completes.mono {s : State} {i : Instr} {P Q : State → Gang → Prop} (h : Completes s i P)
    (imp : ∀ t k, P t k → Q t k) : Completes s i Q := by
  obtain ⟨t, k, run, issuer, next, holds⟩ := h
  exact ⟨t, k, run, issuer, next, imp t k holds⟩

theorem State.finish_good {s : State} (h : s.bad = none) : finish s = .next s := by unfold finish; rw [h]

theorem State.perIssue_eq {s : State} {g : Gang} (issues : s.Issues g) (some_ : g.parts s.cur false ≠ 0)
    (k : Gang → LaneMask → State) : s.perIssue [] k = k g (g.parts s.cur false) := by
  unfold State.perIssue State.issue
  simp only [issues.1, Gang.regsOk, List.all_nil, if_true, some_, if_false]

theorem State.onEntry_eq {s : State} {g : Gang} {slot : Nat} (h : s.entryError s.cur.core g.ctxKey slot = none) (k : State) :
    s.onEntry g slot k = k := by unfold State.onEntry; rw [h]

theorem State.trapAll_eq (s : State) (g : Gang) (m : LaneMask) (c : Cause) (a : DWord) :
    s.trapAll g m c a = s.trap g (recordsOf m c (fun _ => a)) := rfl

/-- What an instruction leaves of its gang that writes one scalar. -/
def Gang.ScalarWritten (g h : Gang) (d : Nat) (x : DWord) : Prop :=
  ((∀ k r, k < 32 → g.pendingOn k r = false → h.reg r k = g.reg r k) ∧ h.preds = g.preds ∧ h.fpflags = g.fpflags ∧
    g.Stays h) ∧ ∀ n, h.sreg n = if n = d then x else g.sreg n

theorem Gang.scalarWritten_advance (g : Gang) (is : Issue) (d : Nat) (x : DWord) :
    g.ScalarWritten ((g.setSreg d x).advance is) d x := by
  obtain ⟨preds, scalars, flags⟩ := Gang.advance_rest (g.setSreg d x) is
  refine ⟨⟨fun k r hk quiet => Gang.reg_advance_of g _ _ _ _ hk rfl rfl quiet, preds, flags,
    Gang.stays_trans (show g.Stays (g.setSreg d x) from rfl) (Gang.stays_advance _ _)⟩, fun n => ?_⟩
  unfold Gang.sreg
  rw [scalars]
  exact mget_mput _ _ _ _ _

theorem completes_finishScalar {s u : State} {g : Gang} {i : Instr} {d : Nat} {x : DWord} {more : State → Prop}
    (issues : s.Issues g) (around : s.Around u) (good : u.bad = none) (run : exec i s = finish (u.finishScalar d x))
    (holds : ∀ h, more (u.putGang h)) : Completes s i (fun t h => g.ScalarWritten h d x ∧ more t) := by
  unfold State.finishScalar at run
  rw [State.onGang_eq (around.issuer.trans issues.1), around.cur, State.finish_good (s := u.putGang _) good] at run
  exact ⟨_, _, run, State.issuer_putGang _ _, fun l hl => Gang.pc_advance _ _ _ hl, Gang.scalarWritten_advance g _ d x, holds _⟩

end PerIssue

/-! Empty caches. -/

section EmptyCaches

theorem State.homeStoreAt_nil (s : State) : s.homeStoreAt [] = s := by
  simp [State.homeStoreAt, State.heal, State.setMem, memStoreAt]

theorem State.writeBack_nil (s : State) (d : Nat) : s.writeBack d [] = s := by
  simp [State.writeBack, byFrames, nubNat, State.homeStoreAt_nil]

/-- A release finds nothing in empty caches. -/
theorem State.NoCached.releaseWords {s : State} (h : s.NoCached) (c level : Nat) (p : Nat → Bool) :
    (s.releaseWords c level p).NoCached ∧ (s.releaseWords c level p).mem = s.mem := by
  obtain ⟨l1, rdc⟩ := h
  have wrote : s.l1WriteBack c p = s.modCore c (fun k => { k with l1 := cacheClean p k.l1 }) := by
    unfold State.l1WriteBack
    rw [l1, cacheDirty, List.flatMap_nil]
    exact State.writeBack_nil _ _
  have clean : (s.l1WriteBack c p).NoCached := by
    rw [wrote]
    refine ⟨fun k => ?_, rdc⟩
    rw [State.core_modCore]
    split
    · simp [l1, cacheClean, mmapVals]
    · exact l1 k
  unfold State.releaseWords
  dsimp only
  split
  · exact ⟨⟨l1, rdc⟩, rfl⟩
  · split
    · exact ⟨clean, by rw [wrote]; rfl⟩
    · unfold State.rdcWriteBack
      dsimp only
      rw [clean.2, cacheDirty, List.flatMap_nil, State.homeStoreAt_nil]
      refine ⟨⟨clean.1, fun d => ?_⟩, by rw [wrote]; rfl⟩
      rw [State.die_modDie]
      split
      · simp [clean.2, cacheClean, mmapVals]
      · exact clean.2 d

theorem State.NoCached.mem_beforeTdef {s : State} (h : s.NoCached) (c ctx : Nat) (e : List DWord) :
    (s.beforeTdef c ctx e).mem = s.mem := by
  unfold State.beforeTdef State.beforeEngine
  exact ((h.releaseWords c 2 _).1.releaseWords c 2 _).2.trans (h.releaseWords c 2 _).2

end EmptyCaches

/-! TDEF (09 R379). -/

section Define

/-- What TDEF answers of a valid description on a machine with the table entry as it was, and the entry then. -/
theorem State.define_completes {s w : State} {g : Gang} {i : Instr} {d : Nat} {desc : List DWord} (issues : s.Issues g)
    (around : s.Around w) (good : w.bad = none) (memOk : w.MemOk) (table : s.TableIn g.ctxKey) {slot : Nat}
    (hslot : field (dwAt desc 0) 63 52 = slot) (hs : slot < 4096)
    (run : exec i s = finish ((w.touch (w.ttAddr g.ctxKey 0) 64).define g.ctxKey d desc)) :
    let old := w.ttEntry g.ctxKey slot
    (teState old = 0 → Completes s i (fun t h =>
      g.ScalarWritten h d (BitVec.ofNat 64 (slot * 2 ^ 20 + teGen old)) ∧
        t.ttEntry g.ctxKey slot = entryOf desc (teGen old) ∧
        (w.dev.badTransfers = [] → ∀ a, (a < s.ttAddr g.ctxKey slot ∨ s.ttAddr g.ctxKey slot + 64 ≤ a) →
          memRead t.mem a = memRead w.mem a))) ∧
    (teState old ≠ 0 → Completes s i (fun t h => g.ScalarWritten h d (BitVec.ofNat 64 (teState old * 2 ^ 56)) ∧
      t.ttEntry g.ctxKey slot = old ∧ t.mem = w.mem)) := by
  intro old
  have touched : w.touch (w.ttAddr g.ctxKey 0) 64 = w := by
    unfold State.touch
    rw [if_pos ((around.tableIn table).reaches (slot := 0) (by norm_num) (le_refl _))]
  rw [touched] at run
  unfold State.define at run
  dsimp only at run
  rw [hslot] at run
  constructor
  · intro free
    rw [show teState (w.ttEntry g.ctxKey slot) = 0 from free] at run
    obtain ⟨beside, entry, bytes⟩ := State.writeEntry_written memOk (around.tableIn table) hs
      (e := entryOf desc (teGen old)) rfl
    rw [around.ttAddr] at bytes
    generalize w.writeEntry g.ctxKey slot (entryOf desc (teGen old)) = u at *
    exact completes_finishScalar issues (around.trans beside.toAround) (beside.bad.trans good) run fun h => ⟨entry, bytes⟩
  · intro taken
    have other : exec i s = finish (w.finishScalar d (BitVec.ofNat 64 (teState old * 2 ^ 56))) := by
      rw [run]
      split
      · next zero => exact absurd zero taken
      · rfl
    exact completes_finishScalar issues around good other fun h => ⟨rfl, rfl⟩

theorem slot_lt (x : DWord) : x.toNat / 2 ^ 52 < 4096 := by
  have := x.isLt
  omega

theorem field_slot (x : DWord) : field x 63 52 = x.toNat / 2 ^ 52 := Nat.mod_eq_of_lt (slot_lt x)

/-- The description that TDEF reads. -/
def Gang.description (g : Gang) (a : Nat) : List DWord := (List.range 8).map (fun i => g.sreg (a + i))

theorem Gang.slot_description (g : Gang) (a : Nat) :
    field (dwAt (g.description a) 0) 63 52 = (g.sreg a).toNat / 2 ^ 52 := field_slot (g.sreg a)

/-- The entry that TDEF writes when a machine allows it. -/
def State.tdefWrite (w : State) (g : Gang) (d : Nat) (desc : List DWord) : State :=
  w.onEntry g (field (dwAt desc 0) 63 52) ((w.touch (w.ttAddr g.ctxKey 0) 64).define g.ctxKey d desc)

variable {s : State} {g : Gang} {o : SS}

theorem exec_tdef (issues : s.Issues g) (some_ : g.parts s.cur false ≠ 0) :
    exec (.tdef o) s = finish (
      if !descOk (g.description o.a) then s.trapAll g (g.parts s.cur false) .perm 0
      else if teClass (g.description o.a) = 0 then s.tdefWrite g o.d (g.description o.a)
      else
        let u := s.beforeTdef s.cur.core g.ctxKey (g.description o.a)
        match u.sparseValid g.ctxKey (g.description o.a) with
        | .error e => u.stopIssue g (g.parts s.cur false) e
        | .ok (false, _) => u.trapAll g (g.parts s.cur false) .perm 0
        | .ok (true, rs) => (u.lightPieces g.ctxKey .load
            (rs.flatMap (fun r => (pagePieces r.1 r.2).map (fun x => (x.1, 0, x.2))))).tdefWrite g o.d
              (g.description o.a)) := by
  show execTdef o s = _
  unfold execTdef
  rw [State.perIssue_eq issues some_]
  rfl

/-- TDEF's answers once its description is accepted, on a machine with the old entry. -/
theorem tdef_answers {w : State} (issues : s.Issues g) (around : s.Around w) (good : w.bad = none) (memOk : w.MemOk)
    (table : s.TableIn g.ctxKey) (noError : w.entryError s.cur.core g.ctxKey ((g.sreg o.a).toNat / 2 ^ 52) = none)
    (run : exec (.tdef o) s = finish (w.tdefWrite g o.d (g.description o.a))) :
    let slot := (g.sreg o.a).toNat / 2 ^ 52
    let old := w.ttEntry g.ctxKey slot
    (teState old = 0 → Completes s (.tdef o) (fun t h =>
      g.ScalarWritten h o.d (BitVec.ofNat 64 (slot * 2 ^ 20 + teGen old)) ∧
        t.ttEntry g.ctxKey slot = entryOf (g.description o.a) (teGen old) ∧
        (w.dev.badTransfers = [] → ∀ a, (a < s.ttAddr g.ctxKey slot ∨ s.ttAddr g.ctxKey slot + 64 ≤ a) →
          memRead t.mem a = memRead w.mem a))) ∧
    (teState old ≠ 0 → Completes s (.tdef o) (fun t h => g.ScalarWritten h o.d (BitVec.ofNat 64 (teState old * 2 ^ 56)) ∧
      t.ttEntry g.ctxKey slot = old ∧ t.mem = w.mem)) := by
  unfold State.tdefWrite at run
  rw [State.onEntry_eq (by rw [around.cur, g.slot_description]; exact noError)] at run
  exact State.define_completes issues around good memOk table (g.slot_description o.a) (slot_lt _) run

end Define

/-! Handles (03 R128), TDROP and TQRY (09 R380, R381). -/

section Handles

theorem field_handle (x : DWord) : field x 31 0 = x.toNat % 2 ^ 32 := by simp [field, bits]

theorem handleSlot_lt (w : Nat) : handleSlot w < 4096 := Nat.mod_lt _ (by norm_num)

variable {s : State} {g : Gang}

theorem withHandle_eq (issues : s.Issues g) (some_ : g.parts s.cur false ≠ 0) {a w : Nat}
    (hw : (g.sreg a).toNat % 2 ^ 32 = w) (noError : s.entryError s.cur.core g.ctxKey (handleSlot w) = none)
    (k : Gang → Nat → State) :
    s.withHandle a k = if s.handleOk g.ctxKey w then k g w
      else (s.ttTouch s.cur.core g.ctxKey (handleSlot w)).trap g
        (recordsOf (g.parts s.cur false) .staleTid (fun _ => BitVec.ofNat 64 w)) := by
  unfold State.withHandle
  rw [State.perIssue_eq issues some_]
  dsimp only
  rw [field_handle, hw, State.onEntry_eq noError]
  rfl

/-- An instruction on a handle that is not current traps. -/
theorem withHandle_stale {i : Instr} (issues : s.Issues g) (some_ : g.parts s.cur false ≠ 0) {a w : Nat}
    (hw : (g.sreg a).toNat % 2 ^ 32 = w) (noError : s.entryError s.cur.core g.ctxKey (handleSlot w) = none)
    (stale : s.handleOk g.ctxKey w = false) (room : g.handles 0 (g.parts s.cur false)) {k : Gang → Nat → State}
    (run : exec i s = finish (s.withHandle a k)) :
    EntersHandler s g i (g.parts s.cur false) 0 .staleTid (fun _ => BitVec.ofNat 64 w) := by
  rw [withHandle_eq issues some_ hw noError, stale, if_neg Bool.false_ne_true] at run
  exact entersHandler_of_trap (u := s.ttTouch _ _ _) issues rfl rfl (fun _ => rfl) run some_ room (by decide) (by decide)

/-- The first doubleword that TDROP writes (03 R129, R133). -/
theorem dropped_fields {w gen st : Nat} (hw : w < 2 ^ 64) (hg : gen < 2 ^ 20) (hst : st < 4) :
    let x := BitVec.ofNat 64 (w - bits w 32 20 * 2 ^ 32 + gen * 2 ^ 32 - w % 4 + st)
    field x 1 0 = st ∧ field x 51 32 = gen := by
  simp only [field, bits, BitVec.toNat_ofNat]
  norm_num
  omega

theorem tdrop_completes {o : SS} (issues : s.Issues g) (some_ : g.parts s.cur false ≠ 0) {w : Nat}
    (hw : (g.sreg o.a).toNat % 2 ^ 32 = w) (noError : s.entryError s.cur.core g.ctxKey (handleSlot w) = none)
    (current : s.handleOk g.ctxKey w = true) (memOk : s.MemOk) (table : s.TableIn g.ctxKey) :
    Completes s (.tdrop o) (fun t h => g.ScalarWritten h o.d 0 ∧
      let e := t.ttEntry g.ctxKey (handleSlot w)
      teState e = (if s.slotInFlight g.ctxKey (handleSlot w) then 2 else 0) ∧ teGen e = (handleGen w + 1) % 2 ^ 20 ∧
        (s.dev.badTransfers = [] → ∀ k, 0 < k → dwAt e k = dwAt (s.ttEntry g.ctxKey (handleSlot w)) k)) := by
  have run : exec (.tdrop o) s = finish (s.withHandle o.a _) := rfl
  rw [withHandle_eq issues some_ hw noError, current, if_pos rfl] at run
  dsimp only at run
  obtain ⟨beside, -, reads, -, others, -⟩ := State.setDword_written memOk
    (table.reaches (slot := handleSlot w) (a := s.ttAddr g.ctxKey (handleSlot w)) (n := 8) (handleSlot_lt w) (by omega))
    (BitVec.ofNat 64 ((s.dword (s.ttAddr g.ctxKey (handleSlot w))).toNat -
      bits (s.dword (s.ttAddr g.ctxKey (handleSlot w))).toNat 32 20 * 2 ^ 32 + (handleGen w + 1) % 2 ^ 20 * 2 ^ 32 -
      (s.dword (s.ttAddr g.ctxKey (handleSlot w))).toNat % 4 + if s.slotInFlight g.ctxKey (handleSlot w) = true then 2 else 0))
  generalize s.setDword (s.ttAddr g.ctxKey (handleSlot w)) _ = u at *
  have all := beside.trans (u.beside_ttInvalidate g.ctxKey (handleSlot w))
  have entry : ∀ k, k < 8 → dwAt ((u.ttInvalidate g.ctxKey (handleSlot w)).ttEntry g.ctxKey (handleSlot w)) k =
      u.dword (s.ttAddr g.ctxKey (handleSlot w) + 8 * k) := fun k hk => by
    rw [dwAt_ttEntry _ _ _ hk, all.ttAddr]; rfl
  obtain ⟨state, gen⟩ := dropped_fields (s.dword (s.ttAddr g.ctxKey (handleSlot w))).isLt
    (Nat.mod_lt (handleGen w + 1) (show 0 < 2 ^ 20 by norm_num))
    (show (if s.slotInFlight g.ctxKey (handleSlot w) = true then 2 else 0) < 4 by split <;> norm_num)
  refine completes_finishScalar issues all.toAround (all.bad.trans issues.2) run fun h => ?_
  refine ⟨?_, ?_, fun none_ k hk => ?_⟩
  · show field (dwAt ((u.ttInvalidate g.ctxKey (handleSlot w)).ttEntry g.ctxKey (handleSlot w)) 0) 1 0 = _
    rw [entry 0 (by norm_num), Nat.mul_zero, Nat.add_zero, reads]
    exact state
  · show field (dwAt ((u.ttInvalidate g.ctxKey (handleSlot w)).ttEntry g.ctxKey (handleSlot w)) 0) 51 32 = _
    rw [entry 0 (by norm_num), Nat.mul_zero, Nat.add_zero, reads]
    exact gen
  · show dwAt ((u.ttInvalidate g.ctxKey (handleSlot w)).ttEntry g.ctxKey (handleSlot w)) k = dwAt (s.ttEntry g.ctxKey (handleSlot w)) k
    by_cases inside : k < 8
    · rw [entry k inside, dwAt_ttEntry _ _ _ inside]
      exact (others _ (by unfold Apart; omega) (fun t ht => by rw [none_] at ht; exact absurd ht List.not_mem_nil)).1
    · simp [dwAt, State.ttEntry, inside]

theorem tqry_completes {d a k : Nat} (issues : s.Issues g) (some_ : g.parts s.cur false ≠ 0) {w : Nat}
    (hw : (g.sreg a).toNat % 2 ^ 32 = w) (noError : s.entryError s.cur.core g.ctxKey (handleSlot w) = none)
    (current : s.handleOk g.ctxKey w = true) :
    Completes s (.tqry ⟨d, a, k⟩) (fun t h =>
      g.ScalarWritten h d (dwAt (s.ttEntry g.ctxKey (handleSlot w)) k) ∧ SameMemory s t) := by
  have run : exec (.tqry ⟨d, a, k⟩) s = finish (s.withHandle a _) := rfl
  rw [withHandle_eq issues some_ hw noError, current, if_pos rfl] at run
  have beside := s.beside_ttTouch s.cur.core g.ctxKey (handleSlot w)
  exact completes_finishScalar issues beside.toAround (beside.bad.trans issues.2) run fun h => fun _ => rfl

end Handles
end Sys2Proof.Machine

/-! The results of a load-like instruction in its lanes, and its completion (spec 01 R43, R47 to R50; 08 R309). -/

namespace Sys2Proof.Machine
section Loads

theorem joinWords_split (x : DWord) : joinWords (loWord x) (hiWord x) = x := by
  refine BitVec.eq_of_getLsbD_eq fun i hi => ?_
  simp only [joinWords, loWord, hiWord, BitVec.getLsbD_append, BitVec.getLsbD_setWidth, BitVec.getLsbD_ushiftRight]
  by_cases low : i < 32
  · simp [low]
  · have : 32 + (i - 32) = i := by omega
    simp [low, this]
    omega

/-- The registers of a result, each once and all in its destination. -/
theorem quadWords_take (d : Dst) (lo hi : DWord) (n : Nat) :
    (((quadWords d lo hi).take n).map Prod.fst).Nodup ∧ ∀ w ∈ (quadWords d lo hi).take n, w.1 ∈ useDst n d := by
  cases d with
  | none => simp [quadWords]
  | reg r =>
    have names : (quadWords (.reg r) lo hi).map Prod.fst = (List.range 4).map (r + ·) := rfl
    have taken : ((quadWords (.reg r) lo hi).take n).map Prod.fst = ((List.range 4).take n).map (r + ·) := by
      rw [List.map_take, names, List.map_take]
    constructor
    · rw [taken]
      exact ((List.nodup_range).sublist (List.take_sublist _ _)).map (add_right_injective r)
    · intro w hw
      have : w.1 ∈ ((List.range 4).take n).map (r + ·) := taken ▸ List.mem_map_of_mem hw
      obtain ⟨k, hk, e⟩ := List.mem_map.1 this
      rw [List.take_range, List.mem_range] at hk
      exact List.mem_map.2 ⟨k, List.mem_range.2 (by omega), e⟩

/-! One lane. -/

theorem Gang.putResult_local (d : Dst) (n : Nat) (v : Nat → DWord × DWord) :
    LocalStep (fun h l => h.putResult d n l (v l).1 (v l).2) := by
  intro h k l hk hl other
  cases d with
  | none => exact ⟨(Gang.lane_modLane h k l _).trans (if_neg other), fun _ => rfl⟩
  | reg r =>
    exact ⟨Gang.lane_setRegs_other _ _ _ _ other, fun q => Gang.reg_setRegs_other _ _ _ _ _ hk hl (absurd · other)⟩

@[simp] theorem Gang.fixed_putResult (g : Gang) (d : Dst) (n l : Nat) (lo hi : DWord) :
    (g.putResult d n l lo hi).fixed = g.fixed := by
  cases d with
  | none => rfl
  | reg r => exact Gang.fixed_setRegs _ _ _

theorem Gang.putResult_none (g : Gang) (n l : Nat) (lo hi : DWord) :
    ((g.putResult .none n l lo hi).lane l).result = entryVal (n != 1) lo := by
  rw [Gang.putResult, Gang.lane_modLane, if_pos rfl]

theorem Gang.putResult_reg (g : Gang) (d : Dst) (n : Nat) {l r : Nat} {lo hi : DWord} {x : Word} (hl : l < 32)
    (h : (r, x) ∈ (quadWords d lo hi).take n) :
    (g.putResult d n l lo hi).reg r l = x ∧ (g.putResult d n l lo hi).pendingOn l r = false := by
  cases d with
  | none => simp [quadWords] at h
  | reg b =>
    exact ⟨Gang.reg_setRegs_mem _ _ _ _ _ hl h (quadWords_take _ lo hi n).1,
      Gang.pendingOn_setRegs _ _ _ _ (.inr ⟨_, h, rfl⟩)⟩

theorem Gang.putResult_other (g : Gang) (d : Dst) (n : Nat) {l r : Nat} (lo hi : DWord) (hl : l < 32)
    (out : r ∉ useDst n d) (quiet : g.pendingOn l r = false) :
    (g.putResult d n l lo hi).reg r l = g.reg r l ∧ (g.putResult d n l lo hi).pendingOn l r = false := by
  cases d with
  | none =>
    refine ⟨rfl, ?_⟩
    unfold Gang.pendingOn at quiet ⊢
    rw [Gang.putResult, Gang.lane_modLane, if_pos rfl]
    exact quiet
  | reg b =>
    exact ⟨Gang.reg_setRegs_other _ _ _ _ _ hl hl fun _ w hw e => out (e ▸ (quadWords_take _ lo hi n).2 w hw),
      Gang.pendingOn_setRegs _ _ _ _ (.inl quiet)⟩

/-! The lanes of a list. -/

/-- The results stand in a gang's lanes, from the gang before: in the destination, or with destination 124 as the value
for the latch entry; the other registers are as before. -/
structure Gang.Delivered (g h : Gang) (d : Dst) (n : Nat) (ls : List Nat) (v : Nat → DWord × DWord) : Prop where
  held : d = .none → ∀ l ∈ ls, (h.lane l).result = entryVal (n != 1) (v l).1
  regs : ∀ l ∈ ls, ∀ r x, (r, x) ∈ (quadWords d (v l).1 (v l).2).take n → h.reg r l = x ∧ h.pendingOn l r = false
  others : ∀ l r, l < 32 → (l ∈ ls → r ∉ useDst n d) → g.pendingOn l r = false →
    h.reg r l = g.reg r l ∧ h.pendingOn l r = false

/-- Two gangs hold the same registers, latches and unlatched results. -/
structure Gang.SameData (g h : Gang) : Prop where
  v : h.v = g.v
  lanes : ∀ l, (h.lane l).hist = (g.lane l).hist ∧ (h.lane l).result = (g.lane l).result

theorem Gang.SameData.refl (g : Gang) : g.SameData g := ⟨rfl, fun _ => ⟨rfl, rfl⟩⟩

theorem Gang.SameData.trans {g h k : Gang} (a : g.SameData h) (b : h.SameData k) : g.SameData k :=
  ⟨b.v.trans a.v, fun l => ⟨(b.lanes l).1.trans (a.lanes l).1, (b.lanes l).2.trans (a.lanes l).2⟩⟩

theorem Gang.SameData.reg {g h : Gang} (e : g.SameData h) (r l : Nat) : h.reg r l = g.reg r l :=
  congrArg (fun v => mget 0 v (vkey r l)) e.v

theorem Gang.SameData.pendingOn {g h : Gang} (e : g.SameData h) (l r : Nat) : h.pendingOn l r = g.pendingOn l r :=
  congrArg (fun es => es.any (fun e : LatchEntry => e.pending.any (fun p => p.1 == r))) (e.lanes l).1

theorem Gang.Delivered.of_before {f g h : Gang} {d : Dst} {n : Nat} {ls : List Nat} {v : Nat → DWord × DWord}
    (e : f.SameData g) (D : g.Delivered h d n ls v) : f.Delivered h d n ls v :=
  ⟨D.held, D.regs, fun l r hl out quiet => by
    rw [← e.reg]; exact D.others l r hl out (by rw [e.pendingOn]; exact quiet)⟩

theorem Gang.Delivered.after {g h k : Gang} {d : Dst} {n : Nat} {ls : List Nat} {v : Nat → DWord × DWord}
    (D : g.Delivered h d n ls v) (e : h.SameData k) : g.Delivered k d n ls v :=
  ⟨fun none_ l hl => (e.lanes l).2.trans (D.held none_ l hl),
    fun l hl r x hx => by rw [e.reg, e.pendingOn]; exact D.regs l hl r x hx,
    fun l r hl out quiet => by rw [e.reg, e.pendingOn]; exact D.others l r hl out quiet⟩

/-- Results put into distinct lanes. -/
theorem Gang.delivered_foldl (g : Gang) (d : Dst) (n : Nat) {ls : List Nat} (v : Nat → DWord × DWord) (nodup : ls.Nodup)
    (small : ∀ l ∈ ls, l < 32) :
    g.Delivered (ls.foldl (fun h l => h.putResult d n l (v l).1 (v l).2) g) d n ls v := by
  have at_ := fun l hl => fold_local _ (Gang.putResult_local d n v) ls g l nodup small hl
  refine ⟨fun none_ l hl => ?_, fun l hl r x hx => ?_, fun l r hl out quiet => ?_⟩
  · obtain ⟨h, -, -, lane, -⟩ := (at_ l (small l hl)).2 hl
    subst none_
    rw [lane]
    exact Gang.putResult_none h n l _ _
  · obtain ⟨h, -, -, lane, reg⟩ := (at_ l (small l hl)).2 hl
    obtain ⟨holds, quiet⟩ := h.putResult_reg d n (small l hl) hx
    exact ⟨(reg r).trans holds, (Gang.pendingOn_of_lane lane).trans quiet⟩
  · by_cases inside : l ∈ ls
    · obtain ⟨h, lane₀, reg₀, lane, reg⟩ := (at_ l hl).2 inside
      obtain ⟨stays, still⟩ :=
        h.putResult_other d n (v l).1 (v l).2 hl (out inside) ((Gang.pendingOn_of_lane lane₀).trans quiet)
      exact ⟨(reg r).trans (stays.trans (reg₀ r)), (Gang.pendingOn_of_lane lane).trans still⟩
    · obtain ⟨lane, reg⟩ := (at_ l hl).1 inside
      exact ⟨reg r, (Gang.pendingOn_of_lane lane).trans quiet⟩

/-! Completion. -/

/-- The step of Gang.entries in a lane. -/
def Gang.entry (p : LaneMask) (d : Dst) (wide : Bool) (h : Gang) (l : Nat) : Gang :=
  if d == .none && p.getLsbD l then h.modLane l (fun x => x.pushLatch ⟨x.result, []⟩) else h.keepLane d wide l

/-- The value that it enters. -/
def Gang.entryOf (p : LaneMask) (d : Dst) (wide : Bool) (h : Gang) (l : Nat) : DWord :=
  if d == .none && p.getLsbD l then (h.lane l).result else h.destVal d wide l

theorem Gang.entry_eq (p : LaneMask) (d : Dst) (wide : Bool) (h : Gang) (l : Nat) :
    Gang.entry p d wide h l = h.setLane l ((h.lane l).pushLatch ⟨Gang.entryOf p d wide h l, []⟩) := by
  unfold Gang.entry Gang.entryOf
  split <;> rfl

theorem Gang.entry_local (p : LaneMask) (d : Dst) (wide : Bool) : LocalStep (Gang.entry p d wide) := fun h k l _ _ other =>
  ⟨by rw [Gang.entry_eq, Gang.lane_setLane, if_neg other], fun r => by rw [Gang.entry_eq, Gang.reg_setLane]⟩

@[simp] theorem Gang.fixed_entries (g : Gang) (is : Issue) (p : LaneMask) (d : Dst) (wide : Bool) :
    (g.entries is p d wide).fixed = g.fixed :=
  foldl_keeps (Gang.entry p d wide) Gang.fixed (fun h l => by rw [Gang.entry_eq, Gang.fixed_setLane]) _ g

/-- Latch entries leave the registers and what is pending; an active lane's newest entry is its own. -/
theorem Gang.entries_lane (g : Gang) (is : Issue) (p : LaneMask) (d : Dst) (wide : Bool) {l : Nat} (hl : l < 32) :
    (∀ r, (g.entries is p d wide).reg r l = g.reg r l) ∧
    (∀ r, g.pendingOn l r = false → (g.entries is p d wide).pendingOn l r = false) ∧
    (is.active.getLsbD l = true → ((g.entries is p d wide).lane l).latch 0 = Gang.entryOf p d wide g l) := by
  have shape := fold_local _ (Gang.entry_local p d wide) (lanesOf is.active) g l (nodup_lanesOf _)
    (fun _ h => mem_lanesOf_lt h) hl
  change (_ → (g.entries is p d wide).lane l = _ ∧ ∀ r, (g.entries is p d wide).reg r l = _) ∧
    (_ → ∃ h, _ ∧ _ ∧ (g.entries is p d wide).lane l = _ ∧ ∀ r, (g.entries is p d wide).reg r l = _) at shape
  by_cases active : l ∈ lanesOf is.active
  · obtain ⟨h, lane₀, reg₀, lane, reg⟩ := shape.2 active
    rw [Gang.entry_eq] at lane reg
    rw [Gang.lane_setLane, if_pos rfl] at lane
    refine ⟨fun r => (reg r).trans (reg₀ r), fun r quiet => ?_, fun _ => ?_⟩
    · rw [Gang.pendingOn_iff] at quiet ⊢
      rw [lane]
      intro e he q hq
      rcases List.mem_cons.1 (List.mem_of_mem_take he) with rfl | older
      · cases hq
      · exact quiet e (lane₀ ▸ older) q hq
    · rw [lane]
      show Gang.entryOf p d wide h l = Gang.entryOf p d wide g l
      unfold Gang.entryOf Gang.destVal
      rw [lane₀]
      cases d <;> simp [asSrc, Gang.src, Gang.src64, reg₀]
  · obtain ⟨lane, reg⟩ := shape.1 active
    exact ⟨reg, fun r quiet => (Gang.pendingOn_of_lane lane).trans quiet, fun h => absurd (mem_lanesOf.2 h) active⟩

/-- The latch entry of a lane that holds a result. -/
theorem Gang.Delivered.entryOf {g h : Gang} {d : Dst} {n : Nat} {ls : List Nat} {v : Nat → DWord × DWord} {p : LaneMask}
    (D : g.Delivered h d n ls v) (hn : 0 < n) {l : Nat} (hl : l ∈ ls) (part : p.getLsbD l = true) :
    Gang.entryOf p d (n != 1) h l = entryVal (n != 1) (v l).1 := by
  unfold Gang.entryOf
  cases d with
  | none => simpa [part] using D.held rfl l hl
  | reg r =>
    have low := (D.regs l hl r (loWord (v l).1) (by
      obtain ⟨k, rfl⟩ : ∃ k, n = k + 1 := ⟨n - 1, by omega⟩
      simp [quadWords])).1
    simp only [reduceCtorEq, beq_iff_eq, Bool.and_eq_true, false_and, if_false, Gang.destVal, entryVal, asSrc, Gang.src,
      Gang.src64, low, bne_iff_ne, ne_eq]
    split
    · next wide =>
      have high := (D.regs l hl (r + 1) (hiWord (v l).1) (by
        obtain ⟨k, rfl⟩ : ∃ k, n = k + 2 := ⟨n - 2, by omega⟩
        simp [quadWords])).1
      rw [high, joinWords_split]
    · rfl

/-- What a completed load leaves in its gang (08 R309). -/
theorem Gang.Delivered.completed {g h : Gang} {d : Dst} {n : Nat} {ls : List Nat} {v : Nat → DWord × DWord}
    {is : Issue} {p : LaneMask} (D : g.Delivered h d n ls v) (hn : 0 < n)
    (parts : ∀ l ∈ ls, is.active.getLsbD l = true ∧ p.getLsbD l = true) :
    let k := (h.entries is p d (n != 1)).advance is
    (∀ l ∈ ls, (k.lane l).latch 0 = entryVal (n != 1) (v l).1 ∧
      ∀ r x, (r, x) ∈ (quadWords d (v l).1 (v l).2).take n → k.reg r l = x) ∧
    (∀ l r, l < 32 → (l ∈ ls → r ∉ useDst n d) → g.pendingOn l r = false → k.reg r l = g.reg r l) ∧
    k.preds = h.preds ∧ k.s = h.s ∧ k.fpflags = h.fpflags := by
  have fixed := congrArg Prod.snd
    ((Gang.fixed_advance (h.entries is p d (n != 1)) is).trans (h.fixed_entries is p d (n != 1)))
  simp only [Gang.fixed, Prod.mk.injEq] at fixed
  refine ⟨fun l hl => ?_, fun l r hl out quiet => ?_, fixed⟩
  · obtain ⟨active, part⟩ := parts l hl
    obtain ⟨reg, pending, latch⟩ := h.entries_lane is p d (n != 1) (lt_of_active active)
    refine ⟨by rw [Gang.latch_advance, latch active, D.entryOf hn hl part], fun r x hx => ?_⟩
    obtain ⟨holds, quiet⟩ := D.regs l hl r x hx
    rw [Gang.reg_advance _ _ _ _ (lt_of_active active) (pending r quiet), reg, holds]
  · obtain ⟨reg, pending, -⟩ := h.entries_lane is p d (n != 1) hl
    obtain ⟨holds, still⟩ := D.others l r hl out quiet
    rw [Gang.reg_advance _ _ _ _ hl (pending r still), reg, holds]

end Loads
end Sys2Proof.Machine

/-! Reads through an L1 that holds the bytes (spec 03 R141, R144), and instructions whose lanes pass their checks
(08 R308). -/

namespace Sys2Proof.Machine

/-! Lists. -/

section Lists

theorem mem_nubNat {xs : List Nat} {x : Nat} : x ∈ nubNat xs ↔ x ∈ xs := by
  induction xs with
  | nil => rfl
  | cons y ys ih =>
    simp only [nubNat, List.mem_cons, List.mem_filter, ih, bne_iff_ne, ne_eq]
    by_cases e : x = y <;> simp [e]

theorem nodup_nubNat (xs : List Nat) : (nubNat xs).Nodup := by
  induction xs with
  | nil => exact List.nodup_nil
  | cons y ys ih =>
    rw [nubNat, List.nodup_cons]
    exact ⟨fun h => by simpa using (List.mem_filter.1 h).2, ih.filter _⟩

theorem nubNat_const {xs : List Nat} {x : Nat} (some_ : xs ≠ []) (h : ∀ y ∈ xs, y = x) : nubNat xs = [x] := by
  cases xs with
  | nil => exact absurd rfl some_
  | cons y ys =>
    obtain rfl := h y (List.mem_cons_self ..)
    rw [nubNat, List.filter_eq_nil_iff.2]
    intro z hz
    simp [h z (List.mem_cons_of_mem _ (mem_nubNat.1 hz))]

theorem mput_mput {α : Type} (m : Map α) (n : Nat) (x y : α) : mput (mput m n x) n y = mput m n y := by
  induction m with
  | nil => simp [mput]
  | cons z m ih =>
    obtain ⟨k, w⟩ := z
    simp only [mput]
    split
    · simp [mput]
    · split
      · simp [mput]
      · next ne nlt => simp only [mput, ne, nlt, if_false, ih]

/-- A fold that keeps its state and appends one answer for each element. -/
theorem foldl_append_map {σ α β : Type} {F : σ × List β → α → σ × List β} {f : α → β} {t : σ} (ys : List α)
    (h : ∀ y ∈ ys, ∀ acc, F (t, acc) y = (t, acc ++ [f y])) (acc : List β) :
    ys.foldl F (t, acc) = (t, acc ++ ys.map f) := by
  induction ys generalizing acc with
  | nil => simp
  | cons y ys ih =>
    rw [List.foldl_cons, h y (List.mem_cons_self ..), ih (fun z hz => h z (List.mem_cons_of_mem _ hz))]
    simp

/-- The elements of one class, gathered class by class, when those that a condition names have one class. -/
theorem filter_flatMap_classes {α β : Type} {fs : List Nat} {xs : List α} {cls : α → Nat} {f : Nat} (g : α → β) (q : β → Bool)
    (nodup : fs.Nodup) (mem : f ∈ fs) (one : ∀ x ∈ xs, q (g x) = true → cls x = f) :
    (fs.flatMap (fun k => (xs.filter (fun x => cls x == k)).map g)).filter q = (xs.map g).filter q := by
  have inside : ((xs.filter (fun x => cls x == f)).map g).filter q = (xs.map g).filter q := by
    induction xs with
    | nil => rfl
    | cons x xs ih =>
      have ih := ih (fun y hy => one y (List.mem_cons_of_mem _ hy))
      by_cases e : cls x = f
      · rw [List.filter_cons_of_pos (by simpa using e)]
        simp only [List.map_cons, List.filter_cons, ih]
      · have no : ¬ q (g x) = true := fun h => e (one x (List.mem_cons_self ..) h)
        rw [List.filter_cons_of_neg (by simpa using e), List.map_cons, List.filter_cons_of_neg no, ih]
  have outside : ∀ k, k ≠ f → ((xs.filter (fun x => cls x == k)).map g).filter q = [] := by
    intro k hk
    rw [List.filter_eq_nil_iff]
    intro y hy hq
    obtain ⟨x, hx, rfl⟩ := List.mem_map.1 hy
    obtain ⟨hx, e⟩ := List.mem_filter.1 hx
    exact hk ((beq_iff_eq.1 e).symm.trans (one x hx hq))
  rw [List.filter_flatMap, ← inside]
  induction fs with
  | nil => cases mem
  | cons k ks ih =>
    obtain ⟨fresh, nodup⟩ := List.nodup_cons.1 nodup
    rw [List.flatMap_cons]
    rcases List.mem_cons.1 mem with rfl | later
    · rw [List.flatMap_eq_nil_iff.2 fun j hj => outside j (fun e => fresh (e ▸ hj)), List.append_nil]
    · rw [outside k (fun e => fresh (e ▸ later)), List.nil_append, ih nodup later]

end Lists

/-! The issuing gang through the writes of an instruction. -/

section Writes

@[simp] theorem State.putGang_putGang (s : State) (g h : Gang) : (s.putGang g).putGang h = s.putGang h := by
  unfold State.putGang State.setGang State.modCore State.setCore
  simp only [State.core, mget_mput_same, mput_mput]

@[simp] theorem State.onGang_putGang (s : State) (g : Gang) (f : Gang → Gang) : (s.putGang g).onGang f = s.putGang (f g) := by
  rw [State.onGang_eq (State.issuer_putGang s g), State.putGang_putGang]

theorem State.core_putGang (s : State) (g : Gang) (c : Nat) :
    (s.putGang g).core c = { s.core c with slots := ((s.putGang g).core c).slots } := by
  unfold State.putGang State.setGang
  rw [State.core_modCore]
  split
  · next e => rw [e]
  · rfl

@[simp] theorem State.l1_putGang (s : State) (g : Gang) (c : Nat) : ((s.putGang g).core c).l1 = (s.core c).l1 := by
  rw [State.core_putGang]

@[simp] theorem State.scratch_putGang (s : State) (g : Gang) (c : Nat) :
    ((s.putGang g).core c).scratch = (s.core c).scratch := by
  rw [State.core_putGang]

/-- Every lane passes, none waits: the lanes perform, and the instruction completes (08 R308). -/
theorem State.perLane_ok {s t : State} {g : Gang} {cs : List (Nat × Check)}
    {perform : State → List (Nat × Place) → State × LaneMask} {complete : State → State} (issuer : s.issuer = some g)
    (ok : ∀ x ∈ cs, ∃ p, x.2 = .ok p) (performs : perform s (oksOf cs) = (t, 0)) :
    s.perLane cs perform complete = complete (t.onGang (fun g => g.markDone (maskOf ((oksOf cs).map (·.1))))) := by
  have lights : lightsOf cs = [] := List.filterMap_eq_nil_iff.2 fun x hx => by obtain ⟨p, hp⟩ := ok x hx; rw [hp]
  have errors : errorsOf cs = [] := List.filterMap_eq_nil_iff.2 fun x hx => by obtain ⟨p, hp⟩ := ok x hx; rw [hp]
  have bads : badsOf cs = [] := List.filterMap_eq_nil_iff.2 fun x hx => by obtain ⟨p, hp⟩ := ok x hx; rw [hp]
  have causes : causesOf cs = [] := List.filterMap_eq_nil_iff.2 fun x hx => by obtain ⟨p, hp⟩ := ok x hx; rw [hp]
  have none_ : ∀ m : LaneMask, m &&& ~~~0 = m := fun m => by
    rw [show ~~~(0 : LaneMask) = BitVec.allOnes 32 from rfl, BitVec.and_allOnes]
  unfold State.perLane
  simp only [issuer, lights, errors, bads, causes, performs, List.foldl_nil, none_, bne_self_eq_false, if_false,
    Bool.false_eq_true]

/-- Every lane records a cause: the instruction traps in them all. -/
theorem State.perLane_causes {s : State} {g : Gang} {m : LaneMask} {c : Cause} {addr : Nat → DWord}
    {perform : State → List (Nat × Place) → State × LaneMask} {complete : State → State} (issuer : s.issuer = some g)
    (some_ : m ≠ 0) (performs : perform s [] = (s, 0)) :
    s.perLane ((lanesOf m).map (fun l => (l, .cause c (addr l) none))) perform complete =
      (s.putGang g).trap g (recordsOf m c addr) := by
  have lights : ∀ ls : List Nat, lightsOf (ls.map (fun l => (l, .cause c (addr l) none))) = [] := fun ls => by
    simp [lightsOf]
  have errors : ∀ ls : List Nat, errorsOf (ls.map (fun l => (l, .cause c (addr l) none))) = [] := fun ls => by
    simp [errorsOf]
  have bads : ∀ ls : List Nat, badsOf (ls.map (fun l => (l, .cause c (addr l) none))) = [] := fun ls => by
    simp [badsOf]
  have oks : ∀ ls : List Nat, oksOf (ls.map (fun l => (l, .cause c (addr l) none))) = [] := fun ls => by simp [oksOf]
  have causes : causesOf ((lanesOf m).map (fun l => (l, .cause c (addr l) none))) = recordsOf m c addr := by
    simp [causesOf, recordsOf, TrapRec.plain]
  have undone : g.markDone (maskOf [] &&& ~~~0) = g := by simp [Gang.markDone, maskOf]
  unfold State.perLane
  simp only [issuer, lights, errors, bads, oks, causes, performs, List.foldl_nil, List.map_nil]
  rw [State.onGang_eq issuer, undone, State.issuer_putGang]
  cases records : recordsOf m c addr with
  | nil => exact absurd records (recordsOf_ne_nil some_ c addr)
  | cons r rs => rfl

end Writes

/-! What the L1 holds. -/

section Held

/-- The byte of an address that core c's L1 holds. -/
def State.l1At (s : State) (c a : Nat) : Option CacheByte :=
  setByte? (mget [] (s.core c).l1 (l1Set (a / 256))) (a / 256) (a % 256)

theorem State.l1Byte_eq (s : State) (c a : Nat) :
    s.l1Byte c a = match s.l1At c a with
      | some x => x.val
      | none => s.belowL1 (dieOfCore c) a := rfl

/-- Reads of what the L1 holds leave every cache and memory with the same bytes. -/
structure State.SameBytes (s t : State) (c : Nat) : Prop where
  beside : s.Beside t
  mem : t.mem = s.mem
  dies : t.dies = s.dies
  l1 : ∀ a, t.l1At c a = s.l1At c a

theorem State.SameBytes.refl (s : State) (c : Nat) : s.SameBytes s c := ⟨.refl s, rfl, rfl, fun _ => rfl⟩

theorem State.SameBytes.trans {s t u : State} {c : Nat} (a : s.SameBytes t c) (b : t.SameBytes u c) : s.SameBytes u c :=
  ⟨a.beside.trans b.beside, b.mem.trans a.mem, b.dies.trans a.dies, fun x => (b.l1 x).trans (a.l1 x)⟩

theorem State.belowL1_congr {s t : State} (mem : t.mem = s.mem) (dies : t.dies = s.dies) (d a : Nat) :
    t.belowL1 d a = s.belowL1 d a := by
  unfold State.belowL1 State.die
  rw [mem, dies]

theorem State.SameBytes.l1Byte {s t : State} {c : Nat} (h : s.SameBytes t c) (a : Nat) : t.l1Byte c a = s.l1Byte c a := by
  rw [State.l1Byte_eq, State.l1Byte_eq, h.l1, State.belowL1_congr h.mem h.dies]

/-- A set's bytes after a change of its blocks that leaves their words and bytes. -/
theorem setByte?_map {F : Block → Block} (holds : ∀ b f w, (F b).holds f w = b.holds f w)
    (bytes : ∀ b, (F b).bytes = b.bytes) (bs : List Block) (f o : Nat) : setByte? (bs.map F) f o = setByte? bs f o := by
  unfold setByte?
  rw [List.find?_map, show ((fun b : Block => b.holds f (o / 4)) ∘ F) = fun b => b.holds f (o / 4) from
    funext fun b => holds b f (o / 4)]
  cases bs.find? (fun b => b.holds f (o / 4)) with
  | none => rfl
  | some b => exact congrArg (mfind? · o) (bytes b)

theorem setByte?_noteUse (bs : List Block) (frame : Nat) (ws : List Nat) (used f o : Nat) :
    setByte? (noteUse bs frame ws used) f o = setByte? bs f o :=
  setByte?_map (fun b f w => by split <;> rfl) (fun b => by split <;> rfl) bs f o

/-- Noting a use changes no byte of the L1. -/
theorem State.l1At_noteUse (s : State) (c frame : Nat) (ws : List Nat) (used a : Nat) :
    (s.modCore c (fun k => { k with
      l1 := mput k.l1 (l1Set frame) (noteUse (mget [] k.l1 (l1Set frame)) frame ws used) })).l1At c a = s.l1At c a := by
  unfold State.l1At
  rw [State.core_modCore, if_pos rfl]
  dsimp only
  rw [mget_mput]
  split
  · next e => rw [setByte?_noteUse, e]
  · rfl

theorem State.sameBytes_l1Load {s : State} {c frame : Nat} {offs : List Nat}
    (held : ∀ o ∈ offs, (setByte? (mget [] (s.core c).l1 (l1Set frame)) frame o).isSome = true) (pc : Nat) (hint : Option Nat) :
    s.SameBytes (s.l1Load c frame offs pc hint) c := by
  have want : s.l1Want c frame offs pc hint = s := by
    unfold State.l1Want
    dsimp only
    rw [if_pos (List.all_eq_true.2 held)]
  refine ⟨s.beside_l1Load c frame offs pc hint, ?_, ?_, fun a => ?_⟩ <;> unfold State.l1Load <;> rw [want]
  · rfl
  · rfl
  · exact s.l1At_noteUse c frame _ _ a

theorem State.held_of_l1At {s : State} {c a frame : Nat} (h : (s.l1At c a).isSome = true) (e : a / 256 = frame) :
    (setByte? (mget [] (s.core c).l1 (l1Set frame)) frame (a % 256)).isSome = true := e ▸ h

/-- Requests for bytes that the L1 holds: the answers, frame by frame. -/
theorem State.l1Read_held {s : State} {c : Nat} {reqs : List (Nat × Nat)} (held : ∀ r ∈ reqs, (s.l1At c r.2).isSome = true)
    (pc : Nat) (hint : Option Nat) :
    ∃ t, s.SameBytes t c ∧ s.l1Read c reqs pc hint =
      (t, (nubNat (reqs.map (fun r => r.2 / 256))).flatMap (fun f =>
        (reqs.filter (fun r => r.2 / 256 == f)).map (fun r => (r.1, s.l1Byte c r.2)))) := by
  unfold State.l1Read
  suffices key : ∀ (fs : List Nat) (u : State) (acc : List (Nat × Byte)), s.SameBytes u c →
      ∃ t, s.SameBytes t c ∧ fs.foldl (fun (x : State × List (Nat × Byte)) frame =>
        let mine := reqs.filter (fun r => r.2 / 256 == frame)
        let s := x.1.l1Load c frame (mine.map (fun r => r.2 % 256)) pc hint
        (s, x.2 ++ mine.map (fun r => (r.1, s.l1Byte c r.2)))) (u, acc) =
      (t, acc ++ fs.flatMap (fun f => (reqs.filter (fun r => r.2 / 256 == f)).map (fun r => (r.1, s.l1Byte c r.2)))) by
    simpa using key (nubNat (reqs.map (fun r => r.2 / 256))) s [] (.refl s c)
  intro fs
  induction fs with
  | nil => exact fun u acc h => ⟨u, h, by simp⟩
  | cons f fs ih =>
    intro u acc h
    have step := State.sameBytes_l1Load (s := u) (c := c) (frame := f)
      (offs := (reqs.filter (fun r => r.2 / 256 == f)).map (fun r => r.2 % 256)) (fun o ho => by
        obtain ⟨r, hr, rfl⟩ := List.mem_map.1 ho
        obtain ⟨hr, e⟩ := List.mem_filter.1 hr
        exact State.held_of_l1At (by rw [h.l1]; exact held r hr) (beq_iff_eq.1 e)) pc hint
    obtain ⟨t, same, folds⟩ := ih _ (acc ++ (reqs.filter (fun r => r.2 / 256 == f)).map (fun r => (r.1, s.l1Byte c r.2)))
      (h.trans step)
    refine ⟨t, same, ?_⟩
    rw [List.foldl_cons, List.flatMap_cons, ← List.append_assoc, ← folds]
    congr 1
    refine Prod.ext rfl (congrArg (acc ++ ·) (List.map_congr_left fun r _ => ?_))
    rw [(h.trans step).l1Byte]

end Held
end Sys2Proof.Machine

/-! What the checks of lanes leave (spec 08 R305 to R307; 14 R452 to R454). -/

namespace Sys2Proof.Machine
section Alike

/-- A core without its gangs, its translations and the table entries it fetched. -/
def Core.bare (k : Core) : Core := { k with slots := [], tlb := [], walks := [], tensorCache := [] }

/-- Two machines differ in cores' gangs, translations and fetched table entries alone. -/
structure State.Alike (s t : State) : Prop where
  rest : ∃ m, t = { s with cores := m }
  cores : ∀ c, (t.core c).bare = (s.core c).bare

theorem State.Alike.refl (s : State) : s.Alike s := ⟨⟨s.cores, rfl⟩, fun _ => rfl⟩

theorem State.Alike.trans {s t u : State} (a : s.Alike t) (b : t.Alike u) : s.Alike u := by
  obtain ⟨⟨m, rfl⟩, ha⟩ := a
  obtain ⟨⟨n, rfl⟩, hb⟩ := b
  exact ⟨⟨n, rfl⟩, fun c => (hb c).trans (ha c)⟩

variable {s t : State}

theorem State.Alike.cur (h : s.Alike t) : t.cur = s.cur := by obtain ⟨⟨m, rfl⟩, -⟩ := h; rfl
theorem State.Alike.bad (h : s.Alike t) : t.bad = s.bad := by obtain ⟨⟨m, rfl⟩, -⟩ := h; rfl
theorem State.Alike.mem (h : s.Alike t) : t.mem = s.mem := by obtain ⟨⟨m, rfl⟩, -⟩ := h; rfl
theorem State.Alike.dies (h : s.Alike t) : t.dies = s.dies := by obtain ⟨⟨m, rfl⟩, -⟩ := h; rfl
theorem State.Alike.dev (h : s.Alike t) : t.dev = s.dev := by obtain ⟨⟨m, rfl⟩, -⟩ := h; rfl
theorem State.Alike.parts (h : s.Alike t) : t.parts = s.parts := by obtain ⟨⟨m, rfl⟩, -⟩ := h; rfl

theorem State.Alike.l1 (h : s.Alike t) (c : Nat) : (t.core c).l1 = (s.core c).l1 := by
  show (t.core c).bare.l1 = (s.core c).bare.l1
  rw [h.cores]
theorem State.Alike.scratch (h : s.Alike t) (c : Nat) : (t.core c).scratch = (s.core c).scratch := by
  show (t.core c).bare.scratch = (s.core c).bare.scratch
  rw [h.cores]
theorem State.Alike.teamParts (h : s.Alike t) (c : Nat) : (t.core c).parts = (s.core c).parts := by
  show (t.core c).bare.parts = (s.core c).bare.parts
  rw [h.cores]
theorem State.Alike.binds (h : s.Alike t) (c : Nat) : (t.core c).binds = (s.core c).binds := by
  show (t.core c).bare.binds = (s.core c).bare.binds
  rw [h.cores]

theorem State.Alike.l1At (h : s.Alike t) (c a : Nat) : t.l1At c a = s.l1At c a := by
  unfold State.l1At; rw [h.l1]

theorem State.Alike.l1Byte (h : s.Alike t) (c a : Nat) : t.l1Byte c a = s.l1Byte c a := by
  rw [State.l1Byte_eq, State.l1Byte_eq, h.l1At, State.belowL1_congr h.mem h.dies]

theorem State.Alike.checkLeaf (h : s.Alike t) (l : Leaf) (kind : AccKind) (va n : Nat) :
    t.checkLeaf l kind va n = s.checkLeaf l kind va n := by obtain ⟨⟨m, rfl⟩, -⟩ := h; rfl

theorem State.alike_modCore (s : State) (c : Nat) (f : Core → Core) (h : ∀ k, (f k).bare = k.bare) :
    s.Alike (s.modCore c f) :=
  ⟨⟨_, rfl⟩, fun k => by rw [State.core_modCore]; split <;> simp_all⟩

theorem State.alike_putGang (s : State) (g : Gang) : s.Alike (s.putGang g) := by
  unfold State.putGang State.setGang
  exact s.alike_modCore _ _ fun _ => rfl

theorem State.alike_ttTouch (s : State) (c ctx slot : Nat) : s.Alike (s.ttTouch c ctx slot) := by
  unfold State.ttTouch
  exact s.alike_modCore _ _ fun _ => rfl

end Alike

section Checks

/-- A gang differs in its lanes' last-page registers alone. -/
structure Gang.Paged (g h : Gang) : Prop where
  data : g.SameData h
  fixed : h.fixed = g.fixed

theorem Gang.Paged.refl (g : Gang) : g.Paged g := ⟨.refl g, rfl⟩

theorem Gang.Paged.trans {g h k : Gang} (a : g.Paged h) (b : h.Paged k) : g.Paged k :=
  ⟨a.data.trans b.data, b.fixed.trans a.fixed⟩

theorem Gang.sameData_modLane (g : Gang) (l : Nat) {f : Lane → Lane} (hist : ∀ x, (f x).hist = x.hist)
    (result : ∀ x, (f x).result = x.result) : g.SameData (g.modLane l f) :=
  ⟨rfl, fun k => by rw [Gang.lane_modLane]; split <;> simp_all⟩

theorem Gang.paged_modLane (g : Gang) (l : Nat) (last : Option Leaf) :
    g.Paged (g.modLane l (fun x => { x with lastPage := last })) :=
  ⟨g.sameData_modLane l (fun _ => rfl) fun _ => rfl, rfl⟩

/-- A machine on which some checks of a gang's lanes have been made. -/
structure State.Checked (s t : State) (g : Gang) : Prop where
  alike : s.Alike t
  gang : ∃ h, t.issuer = some h ∧ g.Paged h

theorem State.Checked.refl {s : State} {g : Gang} (h : s.issuer = some g) : s.Checked s g := ⟨.refl s, g, h, .refl g⟩

/-- A change of what a machine caches, then of the last-page register of a lane. -/
theorem State.Checked.page {s t u : State} {g : Gang} (h : s.Checked t g) (alike : t.Alike u) (issuer : u.issuer = t.issuer)
    (l : Nat) (last : Option Leaf) :
    s.Checked (u.modGang t.cur.core u.cur.slot (fun k => k.modLane l (fun x => { x with lastPage := last }))) g := by
  obtain ⟨k, hk, paged⟩ := h.gang
  have e : u.modGang t.cur.core u.cur.slot (fun k => k.modLane l (fun x => { x with lastPage := last })) =
      u.putGang (k.modLane l (fun x => { x with lastPage := last })) := by
    rw [← alike.cur]
    exact State.onGang_eq (issuer.trans hk) _
  rw [e]
  exact ⟨h.alike.trans (alike.trans (u.alike_putGang _)), _, State.issuer_putGang _ _, paged.trans (k.paged_modLane l last)⟩

/-- An access through the translation caches changes those alone. -/
theorem State.access_alike (s : State) (c : Nat) (served : Nat → Bool) (last : Option Leaf) (ctx va n : Nat)
    (kind : AccKind) :
    s.Alike (s.access c served last ctx va n kind).1 ∧ (s.access c served last ctx va n kind).1.issuer = s.issuer := by
  have cached : ∀ f : Core → Core, (∀ k, (f k).bare = k.bare) → (∀ k, (f k).slots = k.slots) →
      s.Alike (s.modCore c f) ∧ (s.modCore c f).issuer = s.issuer := by
    refine fun f bare slots => ⟨s.alike_modCore c f bare, ?_⟩
    unfold State.issuer State.gang?
    rw [State.core_modCore]
    split
    · next e => rw [slots, ← e]; rfl
    · rfl
  unfold State.access
  split
  · exact ⟨.refl s, rfl⟩
  · split
    · next l es _ =>
      dsimp only
      split
      · split
        · exact ⟨.refl s, rfl⟩
        · exact cached (fun k => k.cacheWalk l es) (fun _ => rfl) (fun _ => rfl)
      · exact ⟨.refl s, rfl⟩
    all_goals exact ⟨.refl s, rfl⟩

theorem State.Checked.checkPage {s t : State} {g : Gang} (h : s.Checked t g) (k : Gang) (l va n : Nat) (kind : AccKind) :
    s.Checked (t.checkPage k l va n kind).1 g := by
  unfold State.checkPage
  dsimp only
  obtain ⟨alike, issuer⟩ := t.access_alike t.cur.core (fun pa => kind.plain && t.cachedAt t.cur.core pa n)
    (match t.issuer with
      | some h => (h.lane l).lastPage
      | none => none) k.ctxKey va n kind
  exact h.page alike issuer l _

theorem State.Checked.checkLane {s t : State} {g : Gang} (h : s.Checked t g) (k : Gang) (sp : LaneSpace) (sum : Int) (n : Nat)
    (kind : AccKind) (l : Nat) : s.Checked (t.checkLane k sp sum n kind l).1 g := by
  cases sp with
  | global =>
    unfold State.checkLane State.checkGlobal
    dsimp only
    split
    · exact h
    · split
      · exact h
      · exact h.checkPage k l _ n kind
  | priv =>
    unfold State.checkLane State.checkPrivate
    dsimp only
    split
    · exact h
    · split
      · exact h
      · split
        · exact h
        · exact h.checkPage k l _ n kind
  | scratch => exact h
  | window => exact h

/-- The checks of some lanes, made in turn: each lane has one outcome. -/
theorem State.Checked.checkLanes {s t : State} {g : Gang} {f : State → Nat → State × Check}
    (step : ∀ u l, s.Checked u g → s.Checked (f u l).1 g) (ls : List Nat) (h : s.Checked t g) :
    s.Checked (t.checkLanes ls f).1 g ∧ (t.checkLanes ls f).2.map Prod.fst = ls := by
  unfold State.checkLanes
  suffices key : ∀ acc, s.Checked (ls.foldl (fun (x : State × List (Nat × Check)) l =>
        ((f x.1 l).1, x.2 ++ [(l, (f x.1 l).2)])) (t, acc)).1 g ∧
      (ls.foldl (fun (x : State × List (Nat × Check)) l => ((f x.1 l).1, x.2 ++ [(l, (f x.1 l).2)])) (t, acc)).2.map Prod.fst =
        acc.map Prod.fst ++ ls from key []
  induction ls generalizing t with
  | nil => exact fun acc => ⟨h, by simp⟩
  | cons l ls ih =>
    intro acc
    obtain ⟨checked, names⟩ := ih (step t l h) (acc ++ [(l, (f t l).2)])
    exact ⟨checked, names.trans (by simp)⟩

end Checks
end Sys2Proof.Machine

/-! TGATH (spec 09 R382), and the completion of a load-like instruction (08 R309). -/

namespace Sys2Proof.Machine
section LoadCompletion

/-- A load-like instruction whose lanes hold their results completes. -/
theorem completes_load {s t : State} {g h : Gang} {i : Instr} {d : Dst} {n : Nat} {ls : List Nat} {v : Nat → DWord × DWord}
    (cur : t.cur = s.cur) (bad : t.bad = none) (issuer : t.issuer = some h) (D : g.Delivered h d n ls v) (hn : 0 < n)
    (guard : h.preds = g.preds) (todo : ∀ l ∈ ls, (g.todo s.cur).getLsbD l = true)
    (run : exec i s = finish (t.completeLoad d (n != 1))) :
    Completes s i (fun u k =>
      (∀ l ∈ ls, (k.lane l).latch 0 = entryVal (n != 1) (v l).1 ∧
        ∀ r x, (r, x) ∈ (quadWords d (v l).1 (v l).2).take n → k.reg r l = x) ∧
      (∀ l r, l < 32 → (l ∈ ls → r ∉ useDst n d) → g.pendingOn l r = false → k.reg r l = g.reg r l) ∧
      k.preds = h.preds ∧ k.s = h.s ∧ k.fpflags = h.fpflags ∧ u = t.putGang k) := by
  have parts : h.parts s.cur false = g.parts s.cur false := by
    unfold Gang.parts Gang.guard Gang.pred
    rw [guard]
  unfold State.completeLoad at run
  rw [State.onGang_eq issuer, cur, parts, State.finish_good (s := t.putGang _) bad] at run
  obtain ⟨lanes, others, preds, scalars, flags⟩ := D.completed (is := s.cur) (p := g.parts s.cur false) hn fun l hl => by
    have := todo l hl
    simp only [Gang.todo, Gang.parts, BitVec.getLsbD_and, Bool.and_eq_true] at this ⊢
    exact ⟨this.1.1, this.1⟩
  exact ⟨_, _, run, State.issuer_putGang _ _, fun l hl => Gang.pc_advance _ _ _ hl, lanes, others, preds, scalars, flags,
    rfl⟩

end LoadCompletion

/-! The bytes that a lane gathers. -/

section Gather

/-- A machine on which a lane's checks have been made through its last-page register, and no reply is there for it. -/
structure State.Gathers (s x : State) (g : Gang) (l : Nat) (lf : Leaf) : Prop where
  alike : s.Alike x
  gang : ∃ k, x.issuer = some k ∧ g.Paged k ∧ (k.lane l).lastPage = some lf ∧ (k.lane l).link = .none

/-- Byte addresses that a leaf serves loads of. -/
def State.Serves (s : State) (g : Gang) (lf : Leaf) (as : List Nat) : Prop :=
  ∀ a ∈ as, a < 2 ^ 48 ∧ lf.maps g.ctxKey a = true ∧ s.checkLeaf lf .load a 1 = .ok (lf.pa + (a - lf.va)) lf

variable {s x : State} {g : Gang} {l : Nat} {lf : Leaf}

theorem cachedLeaf_last {k : Core} {ctx va : Nat} (h : lf.maps ctx va = true) :
    cachedLeaf k (some lf) ctx va false = some lf := by simp [cachedLeaf, h]

theorem State.Gathers.check {a : Nat} (h : s.Gathers x g l lf) (served : s.Serves g lf [a]) :
    ∃ y, x.checkGlobal g l a 1 .load = (y, .ok (.page a lf)) ∧ s.Gathers y g l lf := by
  obtain ⟨below, maps, leaf⟩ := served a (List.mem_singleton_self a)
  obtain ⟨k, issuer, paged, last, link⟩ := h.gang
  have access : ∀ served, x.access x.cur.core served (some lf) g.ctxKey a 1 .load =
      (x, some lf, .ok (lf.pa + (a - lf.va)) lf) := fun served => by
    unfold State.access State.accessLeaf
    rw [show (AccKind.load).w = false from rfl, cachedLeaf_last maps]
    dsimp only
    rw [h.alike.checkLeaf, leaf]
  have inside : ¬((decide ((a : Int) < 0) || decide (2 ^ 48 ≤ (a : Int))) = true) := by
    simp only [Bool.or_eq_true, decide_eq_true_eq]
    omega
  unfold State.checkGlobal
  rw [if_neg (by simp), if_neg inside]
  unfold State.checkPage
  simp only [issuer, last, access, Int.toNat_natCast]
  refine ⟨_, rfl, ?_⟩
  rw [show x.modGang x.cur.core x.cur.slot _ = _ from State.onGang_eq issuer _]
  refine ⟨h.alike.trans (State.alike_putGang _ _), _, State.issuer_putGang _ _, paged.trans (k.paged_modLane l _), ?_, ?_⟩ <;>
    rw [Gang.lane_modLane, if_pos rfl]
  exact link

theorem map_intCast (as : List Nat) : (do let a ← as; pure (a : Int)) = as.map (fun a : Nat => (a : Int)) :=
  List.flatMap_pure_eq_map _ as

/-- Every byte that the lane gathers has its place. -/
theorem State.Gathers.places {e : List DWord} {idx : Nat} (h : s.Gathers x g l lf)
    (served : s.Serves g lf (gatherAddrs e idx)) :
    ∃ y, x.gatherPlaces g e idx l = (y, (gatherAddrs e idx).map (fun a => .page a lf)) ∧ s.Gathers y g l lf := by
  unfold State.gatherPlaces
  rw [map_intCast, List.foldl_map]
  suffices key : ∀ (as : List Nat) (x : State) (acc : List Place), s.Gathers x g l lf → s.Serves g lf as →
      ∃ y, as.foldl (fun (x : State × List Place) (va : Nat) =>
        match x.1.checkGlobal g l va 1 .load with
        | (s, .ok p) => (s, x.2 ++ [p])
        | (s, _) => (s, x.2)) (x, acc) = (y, acc ++ as.map (fun a => .page a lf)) ∧ s.Gathers y g l lf by
    exact key _ x [] h served
  intro as
  induction as with
  | nil => exact fun x acc h _ => ⟨x, by simp, h⟩
  | cons a as ih =>
    intro x acc h served
    obtain ⟨y, check, h⟩ := h.check (a := a) (fun b hb => served b (by simp_all))
    obtain ⟨z, fold, h⟩ := ih y (acc ++ [.page a lf]) h fun b hb => served b (List.mem_cons_of_mem _ hb)
    refine ⟨z, ?_, h⟩
    rw [List.foldl_cons]
    simp only [check]
    rw [fold]
    simp

theorem State.Gathers.checks {e : List DWord} {idx : Nat} (h : s.Gathers x g l lf) (inside : idx < teSpace e)
    (served : s.Serves g lf (gatherAddrs e idx)) :
    ∃ y p, x.checkGather g e idx l = (y, .ok p) ∧ s.Gathers y g l lf := by
  unfold State.checkGather
  rw [if_neg (Nat.not_le.2 inside), map_intCast, List.foldl_map]
  suffices key : ∀ (as : List Nat) (x : State) (p : Place), s.Gathers x g l lf → s.Serves g lf as →
      ∃ y q, as.foldl (fun (x : State × Check) (va : Nat) =>
        match x.2 with
        | .ok _ => x.1.checkGlobal g l va 1 .load
        | _ => x) (x, .ok p) = (y, .ok q) ∧ s.Gathers y g l lf by
    exact key _ x _ h served
  intro as
  induction as with
  | nil => exact fun x p h _ => ⟨x, p, rfl, h⟩
  | cons a as ih =>
    intro x p h served
    obtain ⟨y, check, h⟩ := h.check (a := a) (fun b hb => served b (by simp_all))
    obtain ⟨z, q, fold, h⟩ := ih y (.page a lf) h fun b hb => served b (List.mem_cons_of_mem _ hb)
    refine ⟨z, q, ?_, h⟩
    rw [List.foldl_cons]
    dsimp only
    rw [check, fold]

theorem mem_numbered {α : Type} {xs : List α} {i : Nat} {x : α} : (i, x) ∈ numbered xs ↔ xs[i]? = some x := by
  unfold numbered
  constructor
  · intro h
    obtain ⟨k, hk, e⟩ := List.mem_iff_getElem.1 h
    simp only [List.getElem_zip, List.getElem_range, Prod.mk.injEq] at e
    obtain ⟨rfl, rfl⟩ := e
    exact List.getElem?_eq_getElem _
  · intro h
    obtain ⟨hi, rfl⟩ := List.getElem?_eq_some_iff.1 h
    exact List.mem_iff_getElem.2 ⟨i, by simpa using hi, by simp⟩

theorem map_numbered {α β : Type} (xs : List α) (f : α → β) : (numbered xs).map (fun p => f p.2) = xs.map f := by
  rw [show (fun p : Nat × α => f p.2) = f ∘ Prod.snd from rfl, ← List.map_map]
  unfold numbered
  rw [List.map_snd_zip (by simp)]

/-- The only value under a key. -/
theorem find?_key {β : Type} {xs : List (Nat × β)} {k : Nat} {v : β} (mem : (k, v) ∈ xs) (one : ∀ x ∈ xs, x.1 = k → x.2 = v) :
    (xs.find? (fun x => x.1 == k)).map Prod.snd = some v := by
  cases e : xs.find? (fun x => x.1 == k) with
  | none => exact absurd (beq_self_eq_true k) (List.find?_eq_none.1 e _ mem)
  | some x => exact congrArg some (one x (List.mem_of_find?_eq_some e) (beq_iff_eq.1 (List.find?_some (p := fun x : Nat × β => x.1 == k) e)))

/-- A lane that awaits no reply and reads no system page has its bytes. -/
theorem State.linkBytes_nil {k : Gang} (issuer : x.issuer = some k) (link : (k.lane l).link = .none) :
    x.linkBytes l [] = (x.putGang (k.modLane l (fun y => { y with link := .none })), some []) := by
  unfold State.linkBytes State.setReply Gang.reply
  simp only [issuer, Option.map_some, Option.getD_some, link, List.getElem?_nil, State.onGang_eq issuer]

/-- A lane's numbered requests of bytes that the L1 holds: each has its answer. -/
theorem State.l1Read_numbered {c : Nat} {ps : List Place} (held : ∀ q ∈ ps, (s.l1At c q.pa).isSome = true) (l pc : Nat)
    (hint : Option Nat) :
    ∃ t ans, s.SameBytes t c ∧
      s.l1Read c ((numbered ps).map (fun q => (16 * l + q.1, q.2.pa))) pc hint = (t, ans) ∧
      ∀ q ∈ numbered ps, (ans.find? (fun a => a.1 == 16 * l + q.1)).map Prod.snd = some (s.l1Byte c q.2.pa) := by
  obtain ⟨t, same, answers⟩ := State.l1Read_held (s := s) (c := c)
    (reqs := (numbered ps).map (fun q => (16 * l + q.1, q.2.pa))) (fun r hr => by
      obtain ⟨q, hq, rfl⟩ := List.mem_map.1 hr
      exact held q.2 (List.mem_of_getElem? (mem_numbered.1 hq))) pc hint
  refine ⟨t, _, same, answers, fun q hq => find?_key (List.mem_flatMap.2 ⟨q.2.pa / 256, mem_nubNat.2 ?_, ?_⟩) ?_⟩
  · exact List.mem_map.2 ⟨_, List.mem_map_of_mem hq, rfl⟩
  · exact List.mem_map.2 ⟨(16 * l + q.1, q.2.pa), List.mem_filter.2 ⟨List.mem_map_of_mem hq, beq_self_eq_true _⟩, rfl⟩
  · intro z hz key
    obtain ⟨f, -, hz⟩ := List.mem_flatMap.1 hz
    obtain ⟨r, hr, rfl⟩ := List.mem_map.1 hz
    obtain ⟨q', hq', rfl⟩ := List.mem_map.1 (List.mem_of_mem_filter hr)
    have number : q'.1 = q.1 := by dsimp only at key; omega
    have place : q'.2 = q.2 := Option.some.inj
      ((mem_numbered.1 hq').symm.trans (by rw [number]; exact mem_numbered.1 hq))
    exact congrArg (fun p : Place => s.l1Byte c p.pa) place

/-- The bytes that a lane gathers from such answers, when it reads no system page. -/
theorem gathered_bytes {c l : Nat} {ps : List Place} {far : List Byte} {ans : List (Nat × Byte)}
    (near : ∀ q ∈ ps, q.sysp = false)
    (answer : ∀ q ∈ numbered ps, (ans.find? (fun a => a.1 == 16 * l + q.1)).map Prod.snd = some (s.l1Byte c q.2.pa)) :
    (numbered ps).map (fun q => if q.2.sysp then far.getD ((ps.take q.1).filter Place.sysp).length 0
      else ((ans.find? (fun a => a.1 == 16 * l + q.1)).map (·.2)).getD 0) = ps.map (fun q => s.l1Byte c q.pa) := by
  rw [← map_numbered ps (fun q => s.l1Byte c q.pa)]
  refine List.map_congr_left fun q hq => ?_
  rw [near q.2 (List.mem_of_getElem? (mem_numbered.1 hq)), if_neg Bool.false_ne_true]
  exact congrArg (·.getD 0) (answer q hq)

/-- The lane reads the bytes that the L1 holds, and its result stands in its gang. -/
theorem State.Gathers.perform {o : TgathOp} {e : List DWord} {fp : Bool} {p : Place} (h : s.Gathers x g l lf)
    (hl : l < 32) (memory : lf.sysp = false)
    (served : s.Serves g lf (gatherAddrs e (g.src l o.i).toNat))
    (held : ∀ a ∈ gatherAddrs e (g.src l o.i).toNat, (s.l1At s.cur.core (lf.pa + (a - lf.va))).isSome = true) :
    let n := (g.src l o.i).toNat
    let v := gatherValue e n fp ((gatherAddrs e n).map (fun a => s.l1Byte s.cur.core (lf.pa + (a - lf.va))))
    ∃ t k, x.performGather g o e fp [(l, p)] = (t, 0) ∧ t.cur = s.cur ∧ t.bad = s.bad ∧ t.mem = s.mem ∧
      t.issuer = some k ∧ g.Delivered k o.d 1 [l] (fun _ => (v.1.setWidth 64, 0)) ∧ k.preds = g.preds ∧ k.s = g.s ∧
      k.fpflags = g.fpflags ||| v.2 := by
  intro n v
  obtain ⟨y, places, h⟩ := h.places served
  obtain ⟨k, issuer, paged, -, link⟩ := h.gang
  have cur : y.cur = s.cur := h.alike.cur
  set ps : List Place := (gatherAddrs e n).map (fun a => .page a lf) with hps
  have near : ∀ q ∈ ps, q.sysp = false := fun q hq => by
    obtain ⟨a, -, rfl⟩ := List.mem_map.1 hq
    exact memory
  have reqs : (numbered ps).filter (fun q => !q.2.sysp) = numbered ps := List.filter_eq_self.2 fun q hq => by
    simp [near q.2 (List.mem_of_getElem? (mem_numbered.1 hq))]
  obtain ⟨t, ans, same, answers, answer⟩ := State.l1Read_numbered (s := y) (c := s.cur.core) (ps := ps) (fun q hq => by
    obtain ⟨a, ha, rfl⟩ := List.mem_map.1 hq
    rw [h.alike.l1At]
    exact held a ha) l s.cur.pc.toNat (blockLength s.cur.hints)
  have around := same.beside
  have owner : t.issuer = some k := around.issuer.trans issuer
  have bytes : ps.map (fun q => y.l1Byte s.cur.core q.pa) =
      (gatherAddrs e n).map (fun a => s.l1Byte s.cur.core (lf.pa + (a - lf.va))) := by
    rw [hps, List.map_map]
    exact List.map_congr_left fun a _ => h.alike.l1Byte _ _
  have quiet : (ps.filter Place.sysp).map Place.pa = [] := by
    rw [List.filter_eq_nil_iff.2 (fun q hq => by simp [near q hq]), List.map_nil]
  set k' := k.modLane l (fun y => { y with link := .none }) with hk'
  have kept : g.SameData k' := paged.data.trans (k.sameData_modLane l (fun _ => rfl) fun _ => rfl)
  refine ⟨t.putGang ((k'.putResult o.d 1 l (v.1.setWidth 64) 0).orFlags v.2), _, ?_, around.cur.trans cur,
    around.bad.trans h.alike.bad, same.mem.trans h.alike.mem, State.issuer_putGang _ _, ?_, ?_⟩
  · unfold State.performGather
    simp only [List.foldl_cons, List.foldl_nil, places, List.nil_append, List.flatMap_cons, List.flatMap_nil,
      List.append_nil, reqs, cur, quiet, answers, State.linkBytes_nil owner link, State.onGang_putGang,
      gathered_bytes near answer, bytes]
    rfl
  · exact Gang.Delivered.after (Gang.Delivered.of_before kept (Gang.delivered_foldl k' o.d 1 (fun _ => (v.1.setWidth 64, 0))
      (List.nodup_singleton l) (fun _ h => by rw [List.mem_singleton.1 h]; exact hl))) ⟨rfl, fun _ => ⟨rfl, rfl⟩⟩
  · have fixed := congrArg Prod.snd ((Gang.fixed_putResult k' o.d 1 l (v.1.setWidth 64) 0).trans paged.fixed)
    simp only [Gang.fixed, Prod.mk.injEq] at fixed
    exact ⟨fixed.1, fixed.2.1, congrArg (· ||| v.2) fixed.2.2⟩

end Gather
end Sys2Proof.Machine

/-! TGATH (spec 09 R382), and what TDEF, TDROP, TQRY and TGATH do. -/

namespace Sys2Proof.Machine
section Tgath

variable {s : State} {g : Gang} {o : TgathOp}

theorem State.tgath_eq (issues : s.Issues g) (regs : g.regsOk (useDst 1 o.d ++ useSrc 1 o.i) = true)
    (some_ : g.todo s.cur ≠ 0) {w : Nat} (hw : (g.sreg o.h).toNat % 2 ^ 32 = w)
    (noError : s.entryError s.cur.core g.ctxKey (handleSlot w) = none) (fp : Bool) :
    s.tgath o fp = s.tgathOn g o fp w (g.todo s.cur) := by
  unfold State.tgath State.issue
  simp only [issues.1, regs, if_true, some_, if_false, field_handle, hw]
  exact State.onEntry_eq noError _

/-- TGATH on a handle that is not current traps. -/
theorem tgath_stale {i : Instr} {fp : Bool} (issues : s.Issues g) (some_ : g.todo s.cur ≠ 0) {w : Nat}
    (stale : s.handleOk g.ctxKey w = false) (room : g.handles 0 (g.todo s.cur))
    (run : exec i s = finish (s.tgathOn g o fp w (g.todo s.cur))) :
    EntersHandler s g i (g.todo s.cur) 0 .staleTid (fun _ => BitVec.ofNat 64 w) := by
  unfold State.tgathOn at run
  rw [stale, Bool.not_false, if_pos rfl, State.trapAll_eq] at run
  exact entersHandler_of_trap (u := s) issues rfl rfl (fun _ => rfl) run some_ room (by decide) (by decide)

/-- The lanes of a TGATH whose indices lie beyond the tensor. -/
theorem checkLanes_beyond {e : List DWord} (t : State) (ls : List Nat)
    (beyond : ∀ l ∈ ls, teSpace e ≤ (g.src l o.i).toNat) :
    t.checkLanes ls (fun s l => s.checkGather g e (g.src l o.i).toNat l) =
      (t, ls.map (fun l => (l, .cause .perm (t.freeAddr l) none))) := by
  unfold State.checkLanes
  rw [foldl_append_map (f := fun l => (l, Check.cause .perm (t.freeAddr l) none)) ls ?_ [], List.nil_append]
  intro l hl acc
  simp only [State.checkGather, beyond l hl, if_true]

theorem performGather_nil (t : State) (e : List DWord) (fp : Bool) : t.performGather g o e fp [] = (t, 0) := rfl

/-- TGATH of an entry that is no dense tensor of residues, or beyond the tensor in every lane, traps. -/
theorem tgath_perm {i : Instr} {fp : Bool} (issues : s.Issues g) (some_ : g.todo s.cur ≠ 0) {w : Nat}
    (current : s.handleOk g.ctxKey w = true) (room : g.handles 0 (g.todo s.cur))
    (wrong : let e := s.ttEntry g.ctxKey (handleSlot w)
      teClass e ≠ 0 ∨ isResidue (teFmt e) = false ∨ ∀ l ∈ lanesOf (g.todo s.cur), teSpace e ≤ (g.src l o.i).toNat)
    (run : exec i s = finish (s.tgathOn g o fp w (g.todo s.cur))) :
    EntersHandler s g i (g.todo s.cur) 0 .perm s.freeAddr := by
  unfold State.tgathOn at run
  rw [current, Bool.not_true, if_neg Bool.false_ne_true] at run
  dsimp only at run wrong
  have beside := s.beside_ttTouch s.cur.core g.ctxKey (handleSlot w)
  have memory : SameMemory s (s.ttTouch s.cur.core g.ctxKey (handleSlot w)) := fun _ => rfl
  have free : (s.ttTouch s.cur.core g.ctxKey (handleSlot w)).freeAddr = s.freeAddr := rfl
  generalize s.ttTouch s.cur.core g.ctxKey (handleSlot w) = t at *
  generalize s.ttEntry g.ctxKey (handleSlot w) = e at *
  by_cases kind : (decide (teClass e ≠ 0) || !isResidue (teFmt e)) = true
  · rw [if_pos kind, free] at run
    change exec i s = finish (t.trap g (recordsOf (g.todo s.cur) .perm s.freeAddr)) at run
    exact entersHandler_of_trap issues beside.cur beside.bad memory run some_ room (by decide) (by decide)
  · simp only [Bool.or_eq_true, decide_eq_true_eq, Bool.not_eq_true', not_or] at kind
    have beyond := (wrong.resolve_left kind.1).resolve_left kind.2
    have kind' : ¬(decide (teClass e ≠ 0) || !isResidue (teFmt e)) = true := by simpa using kind
    rw [if_neg kind', checkLanes_beyond t _ beyond, free] at run
    dsimp only at run
    rw [State.perLane_causes (beside.issuer.trans issues.1) some_ (performGather_nil t e fp)] at run
    exact entersHandler_of_trap (u := t.putGang g) issues beside.cur beside.bad memory run some_ room (by decide)
      (by decide)

/-- TGATH in one lane, of bytes that the L1 holds. -/
theorem tgath_reads {i : Instr} {fp : Bool} (issues : s.Issues g) {w l : Nat} {lf : Leaf}
    (one : lanesOf (g.todo s.cur) = [l]) (current : s.handleOk g.ctxKey w = true)
    {e : List DWord} (entry : s.ttEntry g.ctxKey (handleSlot w) = e) (dense : teClass e = 0)
    (residue : isResidue (teFmt e) = true) (inside : (g.src l o.i).toNat < teSpace e)
    (last : (g.lane l).lastPage = some lf) (link : (g.lane l).link = .none) (memory : lf.sysp = false)
    (served : s.Serves g lf (gatherAddrs e (g.src l o.i).toNat))
    (held : ∀ a ∈ gatherAddrs e (g.src l o.i).toNat, (s.l1At s.cur.core (lf.pa + (a - lf.va))).isSome = true)
    (run : exec i s = finish (s.tgathOn g o fp w (g.todo s.cur))) :
    let n := (g.src l o.i).toNat
    let v := gatherValue e n fp ((gatherAddrs e n).map (fun a => s.l1Byte s.cur.core (lf.pa + (a - lf.va))))
    Completes s i (fun t h => (h.lane l).latch 0 = v.1.setWidth 64 ∧ (∀ r, o.d = .reg r → h.reg r l = v.1) ∧
      (∀ k r, k < 32 → (k = l → r ∉ useDst 1 o.d) → g.pendingOn k r = false → h.reg r k = g.reg r k) ∧
      h.preds = g.preds ∧ h.s = g.s ∧ h.fpflags = g.fpflags ||| v.2 ∧ SameMemory s t) := by
  intro n v
  have todo : (g.todo s.cur).getLsbD l = true := mem_lanesOf.1 (one ▸ List.mem_singleton_self l)
  have hl : l < 32 := mem_lanesOf_lt (mem_lanesOf.2 todo)
  unfold State.tgathOn at run
  rw [current, Bool.not_true, if_neg Bool.false_ne_true, entry] at run
  dsimp only at run
  rw [dense, residue, one] at run
  have start : s.Gathers (s.ttTouch s.cur.core g.ctxKey (handleSlot w)) g l lf :=
    ⟨s.alike_ttTouch _ _ _, g, (s.beside_ttTouch _ _ _).issuer.trans issues.1, .refl g, last, link⟩
  generalize s.ttTouch s.cur.core g.ctxKey (handleSlot w) = u at *
  obtain ⟨x, p, check, ready⟩ := start.checks inside served
  obtain ⟨k₀, owner, -⟩ := ready.gang
  obtain ⟨t, k, performs, cur, bad, mem, issuer, D, preds, scalars, flags⟩ :=
    ready.perform (o := o) (fp := fp) (p := p) hl memory served held
  have lanes : u.checkLanes [l] (fun s l => s.checkGather g e (g.src l o.i).toNat l) = (x, [(l, .ok p)]) := by
    unfold State.checkLanes
    simp only [List.foldl_cons, List.foldl_nil, check, List.nil_append]
  simp only [ne_eq, not_true_eq_false, decide_false, Bool.not_true, Bool.or_false, Bool.false_eq_true, if_false,
    lanes] at run
  rw [State.perLane_ok (s := x) (t := t) (cs := [(l, .ok p)]) (perform := fun s oks => s.performGather g o e fp oks) owner
    (fun y hy => ⟨p, by rw [List.mem_singleton.1 hy]⟩) performs, State.onGang_eq issuer] at run
  refine (completes_load (t := t.putGang _) (h := k.markDone (maskOf [l])) cur (bad.trans issues.2) (State.issuer_putGang _ _)
    (D.after ⟨rfl, fun _ => ⟨rfl, rfl⟩⟩) (n := 1) Nat.one_pos preds
    (fun k hk => by rw [List.mem_singleton.1 hk]; exact todo) run).mono ?_
  rintro _ h ⟨results, others, hp, hs, hf, rfl⟩
  obtain ⟨latch, regs⟩ := results l (List.mem_singleton_self l)
  have low : ∀ y : Word, loWord (y.setWidth 64) = y := fun y => by
    simp [loWord]
  refine ⟨latch.trans ?_, fun r hr => ?_, fun k r hk out => others k r hk fun hkl => out (List.mem_singleton.1 hkl),
    hp.trans preds, hs.trans scalars, hf.trans flags, fun a => ?_⟩
  · show (loWord (v.1.setWidth 64)).setWidth 64 = _
    rw [low]
  · refine (regs r (loWord (v.1.setWidth 64)) ?_).trans (low _)
    rw [hr]
    exact List.mem_cons_self ..
  · exact congrArg (memRead · a) mem

end Tgath
end Sys2Proof.Machine

/-! What TDEF, TDROP, TQRY and TGATH do (spec 09 R379 to R382). -/

namespace Sys2Proof.Machine
section TensorTable

variable {s w : State} {g : Gang}

theorem scalar_of_written {i : Instr} {d : Nat} {x : DWord} {more more' : State → Prop}
    (h : Completes s i (fun t k => g.ScalarWritten k d x ∧ more t)) (imp : ∀ t, more t → more' t) :
    Completes s i (fun t k => ((∀ l r, l < 32 → g.pendingOn l r = false → k.reg r l = g.reg r l) ∧ k.preds = g.preds ∧
      k.fpflags = g.fpflags ∧ g.Stays k) ∧ (∀ n, k.sreg n = if n = d then x else g.sreg n) ∧ more' t) :=
  h.mono fun t _ ⟨⟨frame, scalars⟩, holds⟩ => ⟨frame, scalars, imp t holds⟩

/-- TDEF that refuses traps in every participating lane. -/
theorem tdef_refuses {i : Instr} {a : DWord} (issues : s.Issues g) (some_ : g.parts s.cur false ≠ 0)
    (room : g.handles 0 (g.parts s.cur false)) (beside : s.Beside w) (mem : w.mem = s.mem)
    (run : exec i s = finish (w.trapAll g (g.parts s.cur false) .perm a)) :
    EntersHandler s g i (g.parts s.cur false) 0 .perm (fun _ => a) := by
  rw [State.trapAll_eq] at run
  exact entersHandler_of_trap issues beside.cur beside.bad (fun x => congrArg (memRead · x) mem) run some_ room (by decide)
    (by decide)

/-- TDEF of the description of a region. -/
theorem exec_region {o : SS} (issues : s.Issues g) (some_ : g.parts s.cur false ≠ 0)
    (right : descOk (g.description o.a) = true) (sparse : teClass (g.description o.a) = 1) :
    exec (.tdef o) s = finish (
      let u := s.beforeTdef s.cur.core g.ctxKey (g.description o.a)
      match u.sparseValid g.ctxKey (g.description o.a) with
      | .error e => u.stopIssue g (g.parts s.cur false) e
      | .ok (false, _) => u.trapAll g (g.parts s.cur false) .perm 0
      | .ok (true, rs) => (u.lightPieces g.ctxKey .load
          (rs.flatMap (fun r => (pagePieces r.1 r.2).map (fun x => (x.1, 0, x.2))))).tdefWrite g o.d
            (g.description o.a)) := by
  rw [exec_tdef issues some_, right, sparse]
  rfl

/-- Settles O42: TDEF, TDROP, TQRY and TGATH each end in one of the outcomes above. -/
theorem tensorResults : Obligations.TensorResults := by
  unfold Obligations.TensorResults
  intro s g issues
  refine ⟨fun o some_ ⟨memOk, table⟩ => ⟨fun wrong room => ?_, fun right dense noError => ?_, fun right sparse => ?_⟩,
    fun o some_ noError => ⟨fun stale room => ⟨?_, fun k => ?_⟩, fun current ⟨memOk, table⟩ => ?_, fun current k => ?_⟩,
    fun o regs some_ noError => ⟨fun stale room => ?_, fun current wrong room => ?_, ?_⟩⟩
  · refine tdef_refuses issues some_ room (.refl s) rfl ((exec_tdef issues some_).trans ?_)
    rw [show descOk (g.description o.a) = false from wrong]
    rfl
  · have run := exec_tdef (o := o) issues some_
    rw [show descOk (g.description o.a) = true from right, show teClass (g.description o.a) = 0 from dense] at run
    obtain ⟨free, taken⟩ := tdef_answers issues (.refl s) issues.2 memOk table noError run
    exact ⟨fun h => scalar_of_written (free h) fun _ h => h,
      fun h => scalar_of_written (taken h) fun t ⟨entry, mem⟩ => ⟨entry, fun _ a _ => congrArg (memRead · a) mem⟩⟩
  · have beside := s.beside_beforeTdef s.cur.core g.ctxKey (g.description o.a)
    have ok := memOk_State_beforeTdef s s.cur.core g.ctxKey (g.description o.a) memOk
    have kept : s.NoCached → (s.beforeTdef s.cur.core g.ctxKey (g.description o.a)).mem = s.mem := fun h =>
      h.mem_beforeTdef _ _ _
    have run := exec_region (o := o) issues some_ right sparse
    intro u
    rw [show s.beforeTdef s.cur.core g.ctxKey (g.description o.a) = u from rfl] at run
    dsimp only at run
    change s.Beside u at beside
    change u.MemOk at ok
    change s.NoCached → u.mem = s.mem at kept
    clear_value u
    refine ⟨?_, fun rs clean wrong room => ?_, fun a clean error room => ?_⟩
    · intro rs valid w good noError entry
      have around : s.Around w := beside.toAround.trans (State.around_lightPieces u g.ctxKey .load _)
      rw [show u.sparseValid g.ctxKey (g.description o.a) = .ok (true, rs) from valid] at run
      obtain ⟨free, taken⟩ := tdef_answers issues around good (memOk_State_lightPieces u g.ctxKey .load _ ok) table noError run
      rw [entry] at free taken
      refine ⟨fun h => scalar_of_written (free h) fun t ⟨written, bytes⟩ => ⟨written, fun _ same none_ => ?_⟩,
        fun h => scalar_of_written (taken h) fun t ⟨written, mem⟩ => ⟨written, fun _ same _ a _ => ?_⟩⟩
      · rw [same] at bytes
        exact bytes none_
      · rw [mem, same]
    · rw [show u.sparseValid g.ctxKey (g.description o.a) = .ok (false, rs) from wrong] at run
      exact tdef_refuses issues some_ room beside (kept clean) run
    · rw [show u.sparseValid g.ctxKey (g.description o.a) = .error (.cause .perm a) from error] at run
      exact tdef_refuses issues some_ room beside (kept clean) run
  · exact withHandle_stale issues some_ rfl noError stale room rfl
  · exact withHandle_stale issues some_ rfl noError stale room rfl
  · exact scalar_of_written (tdrop_completes issues some_ rfl noError current memOk table) fun _ h => h
  · exact scalar_of_written (tqry_completes issues some_ rfl noError current) fun _ h => h
  · exact ⟨tgath_stale (o := o) issues some_ stale room (congrArg finish (State.tgath_eq issues regs some_ rfl noError false)),
      tgath_stale (o := o) issues some_ stale room (congrArg finish (State.tgath_eq issues regs some_ rfl noError true))⟩
  · exact ⟨tgath_perm issues some_ current room wrong
        (congrArg finish (State.tgath_eq issues regs some_ rfl noError false)),
      tgath_perm issues some_ current room wrong
        (congrArg finish (State.tgath_eq issues regs some_ rfl noError true))⟩
  · intro l lf one n pa current dense residue inside last link memory bytes
    have served : s.Serves g lf (gatherAddrs _ n) := fun a ha => ⟨(bytes a ha).1, (bytes a ha).2.1, (bytes a ha).2.2.1⟩
    have held := fun a ha => (bytes a ha).2.2.2
    exact ⟨tgath_reads issues one current rfl dense residue inside last link memory served held
        (congrArg finish (State.tgath_eq issues regs some_ rfl noError false)),
      tgath_reads issues one current rfl dense residue inside last link memory served held
        (congrArg finish (State.tgath_eq issues regs some_ rfl noError true))⟩

end TensorTable
end Sys2Proof.Machine

/-! A fill of a set that holds no block of the frame (spec 03 R143, R145), and the runs of a condition. -/

namespace Sys2Proof.Machine

/-! Runs. -/

section Runs

/-- An open run holds units of the condition. -/
def OpenRun (p : Nat → Bool) (at_ : Nat) : Option Nat → Prop
  | none => True
  | some a => a < at_ ∧ ∀ u, a ≤ u → u < at_ → p u = true

theorem runsAux_all {p : Nat → Bool} (n at_ : Nat) (o : Option Nat) (h : OpenRun p at_ o) :
    ∀ r ∈ runsAux p n at_ o, ∀ u, r.1 ≤ u → u ≤ r.2 → p u = true := by
  have closes : ∀ a, OpenRun p at_ (some a) → ∀ u, a ≤ u → u ≤ at_ - 1 → p u = true := fun a ⟨lt, all⟩ u lo hi =>
    all u lo (by omega)
  induction n generalizing at_ o with
  | zero =>
    cases o with
    | none => exact fun r hr => absurd hr List.not_mem_nil
    | some a =>
      intro r hr
      rw [runsAux, List.mem_singleton] at hr
      subst hr
      exact closes a h
  | succ n ih =>
    have next : ∀ o, OpenRun p (at_ + 1) o → ∀ r ∈ runsAux p n (at_ + 1) o, ∀ u, r.1 ≤ u → u ≤ r.2 → p u = true :=
      fun o h => ih (at_ + 1) o h fun a ⟨lt, all⟩ u lo hi => all u lo (by omega)
    unfold runsAux
    split
    · next now =>
      refine next _ ?_
      cases o with
      | none => exact ⟨Nat.lt_succ_self _, fun u lo hi => Nat.le_antisymm (Nat.le_of_lt_succ hi) lo ▸ now⟩
      | some a =>
        refine ⟨Nat.lt_succ_of_lt h.1, fun u lo hi => ?_⟩
        rcases Nat.lt_succ_iff_lt_or_eq.1 hi with lt | rfl
        · exact h.2 u lo lt
        · exact now
    · cases o with
      | none => exact next none trivial
      | some a =>
        intro r hr
        rcases List.mem_cons.1 hr with rfl | hr
        · exact closes a h
        · exact next none trivial r hr

/-- Every unit of a run satisfies the condition. -/
theorem runs_all {p : Nat → Bool} {lo hi : Nat} {r : Nat × Nat} (hr : r ∈ runs p lo hi) {u : Nat} (l : r.1 ≤ u) (h : u ≤ r.2) :
    p u = true := runsAux_all _ _ none trivial r hr u l h

theorem runsAux_true {p : Nat → Bool} (n at_ a : Nat) (h : ∀ u, at_ ≤ u → u < at_ + n → p u = true) :
    runsAux p n at_ (some a) = [(a, at_ + n - 1)] := by
  induction n generalizing at_ with
  | zero => rfl
  | succ n ih =>
    rw [runsAux, if_pos (h at_ (le_refl _) (by omega)), Option.getD_some, ih (at_ + 1) fun u lo hi => h u (by omega) (by omega)]
    congr 3
    omega

/-- A condition that holds throughout has one run. -/
theorem runs_true {p : Nat → Bool} {lo hi : Nat} (le : lo ≤ hi) (h : ∀ u, lo ≤ u → u ≤ hi → p u = true) :
    runs p lo hi = [(lo, hi)] := by
  unfold runs
  obtain ⟨k, hk⟩ : ∃ k, hi + 1 - lo = k + 1 := ⟨hi - lo, by omega⟩
  rw [hk, runsAux, if_pos (h lo (le_refl _) le), Option.getD_none,
    runsAux_true k (lo + 1) lo fun u l m => h u (by omega) (by omega)]
  congr 3
  omega

end Runs

/-! Room in a set. -/

section Room

theorem leastRecent_mem {spared : Block → Bool} {bs : List Block} {b : Block} (h : leastRecent spared bs = some b) : b ∈ bs := by
  induction bs generalizing b with
  | nil => cases h
  | cons x xs ih =>
    unfold leastRecent at h
    split at h
    · split at h
      · cases h
      · cases h; exact List.mem_cons_self ..
    · next c later =>
      split at h <;> cases h
      · exact List.mem_cons_self ..
      · exact List.mem_cons_of_mem _ (ih later)

theorem leastRecent_isSome {spared : Block → Bool} {bs : List Block} (some_ : bs ≠ []) (free : ∀ b ∈ bs, spared b = false) :
    ∃ b, leastRecent spared bs = some b := by
  cases bs with
  | nil => exact absurd rfl some_
  | cons x xs =>
    unfold leastRecent
    split
    · rw [free x (List.mem_cons_self ..)]
      exact ⟨x, rfl⟩
    · split
      · exact ⟨_, rfl⟩
      · exact ⟨_, rfl⟩

theorem freeRun_nil {n : Nat} (h : n ≤ 64) : freeRun [] n = some 0 := by
  have all : ∀ g, (decide (g + n ≤ 64) && (List.range n).all (fun i => !([] : List Block).any (fun b => b.uses (g + i)))) =
      decide (g + n ≤ 64) := by simp
  unfold freeRun below
  rw [List.range_succ_eq_map, List.filter_cons_of_pos]
  · rfl
  · rw [all]
    simpa using h

/-- A set whose blocks may all be evicted has room, once enough have left. -/
theorem makeRoom_some {spared : Block → Bool} {n : Nat} (hn : n ≤ 64) (fuel : Nat) (bs out : List Block)
    (enough : bs.length < fuel) (free : ∀ b ∈ bs, spared b = false) :
    ∃ bs' out' g, makeRoom spared n fuel bs out = (bs', out', some g) ∧ bs' ⊆ bs ∧ out' ⊆ out ++ bs := by
  induction fuel generalizing bs out with
  | zero => exact absurd enough (Nat.not_lt_zero _)
  | succ fuel ih =>
    unfold makeRoom
    split
    · next g _ => exact ⟨bs, out, g, rfl, List.Subset.refl _, List.subset_append_left _ _⟩
    · next full =>
      have some_ : bs ≠ [] := by
        rintro rfl
        rw [List.length_nil, if_pos (by norm_num), freeRun_nil hn] at full
        cases full
      obtain ⟨b, hb⟩ := leastRecent_isSome some_ free
      have inside := leastRecent_mem hb
      have shorter : (bs.filter (fun c => c != b)).length < bs.length :=
        List.length_filter_lt_length_iff_exists.2 ⟨b, inside, by simp⟩
      obtain ⟨bs', out', g, run, kept, gone⟩ := ih (bs.filter (fun c => c != b)) (out ++ [b]) (by omega) fun c hc =>
        free c (List.mem_of_mem_filter hc)
      rw [hb]
      refine ⟨bs', out', g, run, fun c hc => List.mem_of_mem_filter (kept hc), fun c hc => ?_⟩
      rcases List.mem_append.1 (gone hc) with old | new
      · rcases List.mem_append.1 old with old | now
        · exact List.mem_append_left _ old
        · rw [List.mem_singleton.1 now]
          exact List.mem_append_right _ inside
      · exact List.mem_append_right _ (List.mem_of_mem_filter new)

theorem allocate_room {spared : Block → Bool} {frame first last used : Nat} {pred : Option Nat} {bs : List Block}
    (small : granuleCount first last ≤ 64) (tags : bs.length ≤ 16) (free : ∀ b ∈ bs, spared b = false) :
    ∃ bs' out g, allocate spared frame first last used pred bs =
      (bs' ++ [⟨frame, first, last, g, [], 0, pred, used⟩], out) ∧ bs' ⊆ bs ∧ out ⊆ bs := by
  obtain ⟨bs', out, g, run, kept, gone⟩ := makeRoom_some small 17 bs [] (by omega) free
  unfold allocate
  rw [run]
  exact ⟨bs', out, g, rfl, kept, fun b hb => gone hb⟩

end Room

/-! Fills. -/

section Fills

theorem mfind?_puts {os : List Nat} {f : Nat → CacheByte} {m : Map CacheByte} {o : Nat} (h : o ∈ os) :
    mfind? (os.foldl (fun m o => mput m o (f o)) m) o = some (f o) := by
  induction os using List.reverseRecOn with
  | nil => cases h
  | append_singleton os x ih =>
    rw [List.foldl_append, List.foldl_cons, List.foldl_nil, mfind?_mput]
    split
    · next e => rw [e]
    · next ne => exact ih ((List.mem_append.1 h).resolve_right fun hx => ne (List.mem_singleton.1 hx))

theorem setByte?_absent {bs : List Block} {frame : Nat} (h : ∀ b ∈ bs, b.frame ≠ frame) (o : Nat) :
    setByte? bs frame o = none := by
  unfold setByte?
  rw [List.find?_eq_none.2 fun b hb => by simp [Block.holds, h b hb]]

/-- A fill of a set without the frame's blocks: the set then holds the filled words, and what is evicted was in it. -/
theorem fillSet_absent {frame s e used : Nat} {pred : Option Nat} {read : Nat → Byte} {bs : List Block} (le : s ≤ e)
    (inside : e ≤ 63) (tags : bs.length ≤ 16) (absent : ∀ b ∈ bs, b.frame ≠ frame) :
    (∀ o, s ≤ o / 4 → o / 4 ≤ e → setByte? (fillSet frame s e used pred read bs).1 frame o = some ⟨read o, false⟩) ∧
    (fillSet frame s e used pred read bs).2 ⊆ bs := by
  have apart : ∀ b ∈ bs, (b.frame == frame && decide (b.first ≤ e) && decide (s ≤ b.last)) = false := fun b hb => by
    simp [absent b hb]
  have gaps : runs (fun w => !bs.any (fun b => b.holds frame w)) s e = [(s, e)] := runs_true le fun w _ _ => by
    rw [Bool.not_eq_true', List.any_eq_false]
    intro b hb
    simp [Block.holds, absent b hb]
  obtain ⟨bs', out, g, room, kept, gone⟩ := allocate_room (frame := frame) (used := used) (pred := pred)
    (spared := fun b => b.frame == frame && decide (b.first ≤ e) && decide (s ≤ b.last))
    (show granuleCount s e ≤ 64 by unfold granuleCount; omega) tags apart
  have none_ : bs.filter (fun b => b.frame == frame && decide (b.first ≤ e) && decide (s ≤ b.last)) = [] :=
    List.filter_eq_nil_iff.2 fun b hb => by rw [apart b hb]; exact Bool.false_ne_true
  unfold fillSet
  simp only [none_, gaps, List.foldl_cons,
    List.foldl_nil, room, List.nil_append]
  refine ⟨fun o lo hi => ?_, gone⟩
  unfold setByte?
  rw [List.map_append, List.find?_append, List.find?_eq_none.2, Option.none_or]
  · simp only [List.map_cons, List.map_nil, if_true, List.find?_cons, Block.holds, beq_self_eq_true, lo, hi,
      decide_true, Bool.and_true]
    refine mfind?_puts (List.mem_filter.2 ⟨List.mem_range.2 (by omega), ?_⟩)
    simp [lo, hi, mfind?]
  · intro b hb
    obtain ⟨x, hx, rfl⟩ := List.mem_map.1 hb
    rw [if_neg (absent x (kept hx))]
    simp [Block.holds, absent x (kept hx)]

end Fills
end Sys2Proof.Machine

/-! A load of a frame that the caches do not hold: its words come from the home (spec 03 R141, R143; 05 R183). -/

namespace Sys2Proof.Machine
section Fill

@[simp] theorem State.cores_noteBad (s : State) (a : Nat) : (s.noteBad a).cores = s.cores := by
  unfold State.noteBad
  (repeat' split) <;> rfl

@[simp] theorem State.dies_noteBad (s : State) (a : Nat) : (s.noteBad a).dies = s.dies := by
  unfold State.noteBad
  (repeat' split) <;> rfl

@[simp] theorem State.cores_heal (s : State) (hit : Nat → Bool) : (s.heal hit).cores = s.cores := by
  unfold State.heal
  dsimp only
  split <;> rfl

@[simp] theorem State.dies_heal (s : State) (hit : Nat → Bool) : (s.heal hit).dies = s.dies := by
  unfold State.heal
  dsimp only
  split <;> rfl

@[simp] theorem State.cores_homeStoreAt (s : State) (ws : List (Nat × Byte)) : (s.homeStoreAt ws).cores = s.cores := by
  unfold State.homeStoreAt
  split
  · exact s.cores_noteBad _
  · exact s.cores_heal _

@[simp] theorem State.dies_homeStoreAt (s : State) (ws : List (Nat × Byte)) : (s.homeStoreAt ws).dies = s.dies := by
  unfold State.homeStoreAt
  split
  · exact s.dies_noteBad _
  · exact s.dies_heal _

@[simp] theorem State.cores_writeBack (s : State) (d : Nat) (ws : List (Nat × Byte)) : (s.writeBack d ws).cores = s.cores :=
  (foldl_keeps (fun (s : State) (x : Nat × List (Nat × Byte)) => s.rdcStoreFrame d x.1 x.2) State.cores
    (fun _ _ => State.cores_homeStoreAt _ _) _ _).trans (State.cores_homeStoreAt _ _)

/-- An eviction changes no byte of the L1. -/
theorem State.l1_l1Evicted (s : State) (c k : Nat) (out : List Block) : ((s.l1Evicted c out).core k).l1 = (s.core k).l1 := by
  have evicted : (s.l1Evicted c out).core k = (s.modCore c (fun k =>
      { k with predictor := (out.filterMap predictFrom).foldl (fun m x => mput m x.1 x.2) k.predictor })).core k :=
    congrArg (mget Core.reset · k) (State.cores_writeBack _ _ _)
  rw [evicted, State.core_modCore]
  split
  · next e => rw [e]
  · rfl

/-- Nothing dirty is evicted. -/
theorem State.mem_l1Evicted {s : State} {c : Nat} {out : List Block} (clean : ∀ b ∈ out, b.dirty allBytes = []) :
    (s.l1Evicted c out).mem = s.mem := by
  unfold State.l1Evicted
  rw [List.flatMap_eq_nil_iff.2 clean, State.writeBack_nil]
  rfl

theorem frame_byte {frame o : Nat} (h : o < 256) : (frame * 256 + o) / 256 = frame ∧ (frame * 256 + o) % 256 = o := by omega

theorem homeDie_byte {frame o : Nat} (h : o < 256) : homeDie (frame * 256 + o) = homeDie (frame * 256) := by
  unfold homeDie
  omega

variable {s : State} {c frame : Nat}

theorem State.FrameAbsent.l1 (h : s.FrameAbsent c frame) :
    (mget [] (s.core c).l1 (l1Set frame)).length ≤ 16 ∧ ∀ b ∈ mget [] (s.core c).l1 (l1Set frame), b.frame ≠ frame :=
  h _ (List.mem_cons_self ..)

theorem State.mem_setsOf_rdc (far : homeDie (frame * 256) ≠ dieOfCore c) :
    mget [] (s.die (dieOfCore c)).rdc (rdcSet frame) ∈ s.setsOf c frame := by
  unfold State.setsOf
  rw [if_neg far]
  exact List.mem_cons_of_mem _ (List.mem_singleton_self _)

/-- A frame that the caches do not hold reads as it is at the home. -/
theorem State.FrameAbsent.l1Byte (h : s.FrameAbsent c frame) {o : Nat} (ho : o < 256) :
    s.l1Byte c (frame * 256 + o) = memRead s.mem (frame * 256 + o) := by
  obtain ⟨division, remainder⟩ := frame_byte (frame := frame) ho
  unfold State.l1Byte State.belowL1
  rw [division, remainder, setByte?_absent h.l1.2, homeDie_byte ho]
  dsimp only
  split
  · rfl
  · next far => rw [setByte?_absent (h _ (State.mem_setsOf_rdc far)).2]

theorem State.rdc_rdcFill (s : State) (d frame first last : Nat) :
    ((s.rdcFill d frame first last).die d).rdc = mput (s.die d).rdc (rdcSet frame) (fillSet frame first last s.tick none
      (fun o => memRead s.mem (frame * 256 + o)) (mget [] (s.die d).rdc (rdcSet frame))).1 := by
  unfold State.rdcFill
  dsimp only
  rw [State.die, State.dies_homeStoreAt]
  exact congrArg Die.rdc ((State.die_modDie _ _ _ _).trans (if_pos rfl))

/-- What the remote-data cache serves once it has the words. -/
theorem State.belowL1_rdcFill {first last : Nat} (le : first ≤ last) (inside : last ≤ 63) (h : s.FrameAbsent c frame)
    (far : homeDie (frame * 256) ≠ dieOfCore c) {o : Nat} (lo : first ≤ o / 4) (hi : o / 4 ≤ last) :
    (s.rdcFill (dieOfCore c) frame first last).belowL1 (dieOfCore c) (frame * 256 + o) = memRead s.mem (frame * 256 + o) := by
  have ho : o < 256 := by omega
  obtain ⟨division, remainder⟩ := frame_byte (frame := frame) ho
  obtain ⟨tags, absent⟩ := h _ (State.mem_setsOf_rdc far)
  have filled := (fillSet_absent (used := s.tick) (pred := none) (read := fun o => memRead s.mem (frame * 256 + o)) le inside
    tags absent).1 o lo hi
  unfold State.belowL1
  rw [homeDie_byte ho, if_neg far, division, remainder]
  rw [State.rdc_rdcFill, mget_mput_same, filled]

theorem State.mem_rdcFill {first last : Nat} (le : first ≤ last) (inside : last ≤ 63) (h : s.FrameAbsent c frame)
    (clean : s.SetsClean c frame) (far : homeDie (frame * 256) ≠ dieOfCore c) :
    (s.rdcFill (dieOfCore c) frame first last).mem = s.mem := by
  obtain ⟨tags, absent⟩ := h _ (State.mem_setsOf_rdc far)
  have gone := (fillSet_absent (used := s.tick) (pred := none) (read := fun o => memRead s.mem (frame * 256 + o)) le inside
    tags absent).2
  unfold State.rdcFill
  dsimp only
  rw [List.flatMap_eq_nil_iff.2 fun b hb => clean _ (State.mem_setsOf_rdc far) b (gone hb), State.homeStoreAt_nil]
  rfl

/-- The words of a fill, once the L1 takes them from what lies below. -/
def State.l1Take (s : State) (c frame first last : Nat) (pred : Option Nat) : State :=
  let m := (s.core c).l1
  let (bs, out) := fillSet frame first last s.tick pred (fun o => s.belowL1 (dieOfCore c) (frame * 256 + o))
    (mget [] m (l1Set frame))
  (s.modCore c (fun k => { k with l1 := mput m (l1Set frame) bs })).l1Evicted c out

theorem State.l1Fill_eq (s : State) (c frame first last : Nat) (pred : Option Nat) :
    s.l1Fill c frame first last pred =
      (if homeDie (frame * 256) = dieOfCore c then s else s.rdcFill (dieOfCore c) frame first last).l1Take c frame first last
        pred := rfl

theorem State.l1Take_absent {first last : Nat} (le : first ≤ last) (inside : last ≤ 63)
    (tags : (mget [] (s.core c).l1 (l1Set frame)).length ≤ 16)
    (absent : ∀ b ∈ mget [] (s.core c).l1 (l1Set frame), b.frame ≠ frame) (pred : Option Nat) :
    (∀ o, first ≤ o / 4 → o / 4 ≤ last → (s.l1Take c frame first last pred).l1At c (frame * 256 + o) =
      some ⟨s.belowL1 (dieOfCore c) (frame * 256 + o), false⟩) ∧
    ((∀ b ∈ mget [] (s.core c).l1 (l1Set frame), b.dirty allBytes = []) →
      (s.l1Take c frame first last pred).mem = s.mem) := by
  obtain ⟨filled, gone⟩ := fillSet_absent (used := s.tick) (pred := pred)
    (read := fun o => s.belowL1 (dieOfCore c) (frame * 256 + o)) le inside tags absent
  constructor
  · intro o lo hi
    obtain ⟨division, remainder⟩ := frame_byte (frame := frame) (show o < 256 by omega)
    unfold State.l1At State.l1Take
    dsimp only
    rw [State.l1_l1Evicted, State.core_modCore, if_pos rfl, division, remainder, mget_mput_same]
    exact filled o lo hi
  · intro clean
    exact State.mem_l1Evicted fun b hb => clean b (gone hb)

/-- A fill of words of a frame that the caches do not hold: the L1 has the bytes of the home. -/
theorem State.FrameAbsent.l1Fill {first last : Nat} (h : s.FrameAbsent c frame) (le : first ≤ last) (inside : last ≤ 63)
    (pred : Option Nat) :
    (∀ o, first ≤ o / 4 → o / 4 ≤ last → (s.l1Fill c frame first last pred).l1At c (frame * 256 + o) =
      some ⟨memRead s.mem (frame * 256 + o), false⟩) ∧
    (s.SetsClean c frame → (s.l1Fill c frame first last pred).mem = s.mem) := by
  rw [State.l1Fill_eq]
  split
  · next near =>
    obtain ⟨bytes, mem⟩ := State.l1Take_absent le inside h.l1.1 h.l1.2 pred
    refine ⟨fun o lo hi => (bytes o lo hi).trans ?_, fun clean => mem (clean _ (List.mem_cons_self ..))⟩
    unfold State.belowL1
    rw [homeDie_byte (show o < 256 by omega), if_pos near]
  · next far =>
    have l1 : ((s.rdcFill (dieOfCore c) frame first last).core c).l1 = (s.core c).l1 :=
      congrArg (fun m => (mget Core.reset m c).l1) (State.cores_homeStoreAt _ _)
    obtain ⟨bytes, mem⟩ := State.l1Take_absent (s := s.rdcFill (dieOfCore c) frame first last) (c := c) (frame := frame) le inside
      (by rw [l1]; exact h.l1.1) (by rw [l1]; exact h.l1.2) pred
    rw [l1] at mem
    refine ⟨fun o lo hi => (bytes o lo hi).trans ?_, fun clean => (mem (clean _ (List.mem_cons_self ..))).trans
      (State.mem_rdcFill le inside h clean far)⟩
    rw [State.belowL1_rdcFill le inside h far lo hi]

end Fill
end Sys2Proof.Machine

/-! A request of one frame at an L1 (spec 03 R141). -/

namespace Sys2Proof.Machine
section Request

theorem leastOf_le {xs : List Nat} {x : Nat} (h : x ∈ xs) : (leastOf xs).getD 0 ≤ x := by
  suffices key : ∃ y, leastOf xs = some y ∧ y ≤ x by
    obtain ⟨y, e, le⟩ := key
    rw [e]
    exact le
  induction xs with
  | nil => cases h
  | cons z zs ih =>
    unfold leastOf
    rcases List.mem_cons.1 h with rfl | later
    · split
      · exact ⟨_, rfl, le_refl _⟩
      · exact ⟨_, rfl, Nat.min_le_left ..⟩
    · obtain ⟨y, e, le⟩ := ih later
      rw [e]
      exact ⟨_, rfl, (Nat.min_le_right ..).trans le⟩

variable {s : State} {c frame : Nat}

/-- A request for bytes of a frame that the caches do not hold. -/
theorem State.FrameAbsent.l1Want (h : s.FrameAbsent c frame) {offs : List Nat} (some_ : offs ≠ [])
    (small : ∀ o ∈ offs, o < 256) (pc : Nat) (hint : Option Nat) :
    (∀ o ∈ offs, (s.l1Want c frame offs pc hint).l1At c (frame * 256 + o) =
      some ⟨memRead s.mem (frame * 256 + o), false⟩) ∧
    (s.SetsClean c frame → (s.l1Want c frame offs pc hint).mem = s.mem) := by
  have missing : ¬(offs.all (fun o => (setByte? (mget [] (s.core c).l1 (l1Set frame)) frame o).isSome) = true) := fun all => by
    obtain ⟨o, ho⟩ := List.exists_mem_of_ne_nil offs some_
    have := List.all_eq_true.1 all o ho
    rw [setByte?_absent h.l1.2] at this
    cases this
  unfold State.l1Want
  dsimp only
  rw [if_neg missing]
  have word : ∀ o ∈ offs, o / 4 ∈ nubNat (offs.map (· / 4)) := fun o ho => mem_nubNat.2 (List.mem_map_of_mem ho)
  have least := fun o ho => leastOf_le (word o ho)
  have most := fun o ho => (foldl_max_spec (nubNat (offs.map (· / 4))) 0).2.1 _ (word o ho)
  generalize (leastOf (nubNat (offs.map (· / 4)))).getD 0 = lo at *
  generalize (nubNat (offs.map (· / 4))).foldl max 0 = hi at *
  generalize hint.getD ((s.core c).predicted pc) = len
  obtain ⟨o, ho⟩ := List.exists_mem_of_ne_nil offs some_
  obtain ⟨last, hlast, inside, covers⟩ : ∃ last, (if min 63 (max hi (lo / 4 * 4 + len - 1)) % 2 = 1
      then min 63 (max hi (lo / 4 * 4 + len - 1)) else min 63 (max hi (lo / 4 * 4 + len - 1)) + 1) = last ∧ last ≤ 63 ∧
      ∀ w, w ≤ hi → w ≤ 63 → w ≤ last := by
    refine ⟨_, rfl, ?_, fun w => ?_⟩ <;> split <;> omega
  have reach : ∀ o ∈ offs, lo / 4 * 4 ≤ o / 4 ∧ o / 4 ≤ last := fun o ho => by
    have := least o ho
    have := small o ho
    exact ⟨by omega, covers _ (most o ho) (by omega)⟩
  rw [hlast]
  obtain ⟨bytes, mem⟩ := h.l1Fill ((reach o ho).1.trans (reach o ho).2) inside (some (((pc / 4) ^^^ (pc / 1024)) % 256))
  exact ⟨fun o ho => bytes o (reach o ho).1 (reach o ho).2, mem⟩

/-- A load of them: the L1 holds the bytes of the home then. -/
theorem State.FrameAbsent.l1Load (h : s.FrameAbsent c frame) {offs : List Nat} (some_ : offs ≠ [])
    (small : ∀ o ∈ offs, o < 256) (pc : Nat) (hint : Option Nat) :
    (∀ o ∈ offs, (s.l1Load c frame offs pc hint).l1At c (frame * 256 + o) =
      some ⟨memRead s.mem (frame * 256 + o), false⟩) ∧
    (s.SetsClean c frame → (s.l1Load c frame offs pc hint).mem = s.mem) := by
  obtain ⟨bytes, mem⟩ := h.l1Want some_ small pc hint
  unfold State.l1Load
  exact ⟨fun o ho => (State.l1At_noteUse _ _ _ _ _ _).trans (bytes o ho), mem⟩

/-- Requests for bytes of one such frame. -/
theorem State.FrameAbsent.l1Read (h : s.FrameAbsent c frame) {reqs : List (Nat × Nat)} (some_ : reqs ≠ [])
    (inside : ∀ r ∈ reqs, r.2 / 256 = frame) (pc : Nat) (hint : Option Nat) :
    ∃ t, s.Beside t ∧ s.l1Read c reqs pc hint = (t, reqs.map (fun r => (r.1, memRead s.mem r.2))) ∧
      (∀ r ∈ reqs, t.l1At c r.2 = some ⟨memRead s.mem r.2, false⟩) ∧ (s.SetsClean c frame → t.mem = s.mem) := by
  have frames : nubNat (reqs.map (fun r => r.2 / 256)) = [frame] := nubNat_const (by simpa using some_) fun y hy => by
    obtain ⟨r, hr, rfl⟩ := List.mem_map.1 hy
    exact inside r hr
  have mine : reqs.filter (fun r => r.2 / 256 == frame) = reqs := List.filter_eq_self.2 fun r hr => by simp [inside r hr]
  obtain ⟨bytes, mem⟩ := h.l1Load (offs := reqs.map (fun r => r.2 % 256)) (by simpa using some_) (fun o ho => by
    obtain ⟨r, -, rfl⟩ := List.mem_map.1 ho
    exact Nat.mod_lt _ (by norm_num)) pc hint
  have beside := s.beside_l1Load c frame (reqs.map (fun r => r.2 % 256)) pc hint
  unfold State.l1Read
  rw [frames, List.foldl_cons, List.foldl_nil]
  dsimp only
  rw [mine]
  generalize s.l1Load c frame (reqs.map (fun r => r.2 % 256)) pc hint = t at *
  have held : ∀ r ∈ reqs, t.l1At c r.2 = some ⟨memRead s.mem r.2, false⟩ := fun r hr => by
    have := bytes _ (List.mem_map_of_mem hr)
    rwa [show frame * 256 + r.2 % 256 = r.2 by rw [← inside r hr]; omega] at this
  refine ⟨t, beside, congrArg (t, ·) (List.map_congr_left fun r hr => ?_), held, mem⟩
  rw [State.l1Byte_eq, held r hr]

end Request
end Sys2Proof.Machine

/-! The flow of a load whose lanes pass their checks (spec 08 R308, R309, R315). -/

namespace Sys2Proof.Machine
section LoadFlow

variable {s : State} {g : Gang}

theorem takeAbsent_passes {t : State} {h : Gang} {m n : Nat} {nf : Bool} {d : Dst} {cs : List (Nat × Check)}
    (issuer : t.issuer = some h) (pass : Passes m cs) : t.takeAbsent nf d n cs = (t.putGang h, cs) := by
  unfold State.takeAbsent
  dsimp only
  rw [List.filter_eq_nil_iff.2 fun x hx => ?_, List.filter_eq_self.2 fun x hx => ?_]
  · exact congrArg (·, cs) (State.onGang_eq issuer _)
  all_goals
    obtain ⟨p, hp, -⟩ := pass x hx
    simp [hp]

/-- A load whose lanes pass their checks goes on to its objects and its lanes, on a machine alike. -/
theorem State.load_passes {sp : LaneSpace} {mode : LoadMode} {d : Dst} {a : Src} {off : Nat} {nf : Bool} {n : Nat}
    {cs : List (Nat × Check)} (issues : s.Issues g) (hn : LoadMode.bytes mode = n)
    (regs : g.regsOk (useDst (regsOf n) d ++ useSrc sp.width a) = true)
    (checks : s.laneChecks g sp a (s.offsetOf off n) n (LoadMode.kind mode) = cs) (pass : Passes n cs) :
    ∃ y h, s.Alike y ∧ y.issuer = some h ∧ g.Paged h ∧ cs.map Prod.fst = lanesOf (g.todo s.cur) ∧
      s.load sp mode d a off nf = y.onObjects g (LoadMode.scope? mode) false cs
        (y.perLane cs (fun s oks => s.performLoad g mode d oks) (fun s => s.completeLoad d (regsOf n != 1))) := by
  subst hn
  obtain ⟨checked, names⟩ := State.Checked.checkLanes (s := s) (t := s) (g := g)
    (f := fun s' l => s'.checkLane g sp (g.address sp a (s.offsetOf off (LoadMode.bytes mode)) l) (LoadMode.bytes mode)
      (LoadMode.kind mode) l)
    (fun u l hu => hu.checkLane g sp _ _ _ l) (lanesOf (g.todo s.cur)) (.refl issues.1)
  have run : s.load sp mode d a off nf =
      let x := s.checkLanes (lanesOf (g.todo s.cur)) (fun s' l => s'.checkLane g sp
        (g.address sp a (s.offsetOf off (LoadMode.bytes mode)) l) (LoadMode.bytes mode) (LoadMode.kind mode) l)
      let y := x.1.takeAbsent nf d (LoadMode.bytes mode) x.2
      y.1.onObjects g (LoadMode.scope? mode) false y.2
        (y.1.perLane y.2 (fun s oks => s.performLoad g mode d oks)
          (fun s => s.completeLoad d (regsOf (LoadMode.bytes mode) != 1))) := by
    unfold State.load State.issue
    simp only [issues.1, regs, if_true]
    rfl
  change (s.checkLanes _ _).2 = cs at checks
  rw [run]
  generalize s.checkLanes (lanesOf (g.todo s.cur)) _ = x at *
  subst checks
  obtain ⟨h, issuer, paged⟩ := checked.gang
  dsimp only
  rw [takeAbsent_passes issuer pass]
  exact ⟨_, h, checked.alike.trans (State.alike_putGang _ _), State.issuer_putGang _ _, paged, names, rfl⟩

/-! What the lanes of a load read. -/

theorem mem_oksOf {cs : List (Nat × Check)} {l : Nat} {p : Place} : (l, p) ∈ oksOf cs ↔ (l, Check.ok p) ∈ cs := by
  unfold oksOf
  rw [List.mem_filterMap]
  constructor
  · rintro ⟨⟨k, c⟩, hc, e⟩
    cases c with
    | ok q => cases e; exact hc
    | _ => cases e
  · exact fun h => ⟨_, h, rfl⟩

theorem Passes.names {n : Nat} {cs : List (Nat × Check)} (pass : Passes n cs) : (oksOf cs).map Prod.fst = cs.map Prod.fst := by
  induction cs with
  | nil => rfl
  | cons x xs ih =>
    obtain ⟨l, c⟩ := x
    obtain ⟨p, rfl, -⟩ := pass (l, c) (List.mem_cons_self ..)
    exact congrArg (l :: ·) (ih fun x hx => pass x (List.mem_cons_of_mem _ hx))

/-- The value that a lane reads. -/
def readValue (mode : LoadMode) (oks : List (Nat × Place)) (bs : Nat × Place → List Byte) (l : Nat) : DWord × DWord :=
  LoadMode.value mode (((oks.find? (fun z => z.1 == l)).map bs).getD [])

theorem find?_name {β : Type} {xs : List (Nat × β)} (nodup : (xs.map Prod.fst).Nodup) {z : Nat × β} (mem : z ∈ xs) :
    xs.find? (fun x => x.1 == z.1) = some z := by
  induction xs with
  | nil => cases mem
  | cons x xs ih =>
    obtain ⟨fresh, nodup⟩ := List.nodup_cons.1 nodup
    rcases List.mem_cons.1 mem with rfl | later
    · rw [List.find?_cons_of_pos (p := fun x : Nat × β => x.1 == z.1) (beq_self_eq_true _)]
    · have other : ¬(x.1 == z.1) = true := fun e => fresh (by rw [beq_iff_eq.1 e]; exact List.mem_map_of_mem later)
      rw [List.find?_cons_of_neg (p := fun x : Nat × β => x.1 == z.1) other, ih nodup later]

theorem readValue_eq {mode : LoadMode} {oks : List (Nat × Place)} {bs : Nat × Place → List Byte}
    (nodup : (oks.map Prod.fst).Nodup) {z : Nat × Place} (mem : z ∈ oks) :
    readValue mode oks bs z.1 = LoadMode.value mode (bs z) := by
  unfold readValue
  rw [find?_name nodup mem]
  rfl

/-- The results of lanes that all read. -/
theorem Gang.putAll_eq (h : Gang) (d : Dst) (n : Nat) (mode : LoadMode) {oks : List (Nat × Place)}
    (bs : Nat × Place → List Byte) (nodup : (oks.map Prod.fst).Nodup) :
    h.putAll d n (LoadMode.value mode) (oks.map (fun z => (z.1, some (bs z)))) =
      (oks.map Prod.fst).foldl (fun h l => h.putResult d (regsOf n) l (readValue mode oks bs l).1 (readValue mode oks bs l).2)
        h := by
  unfold Gang.putAll
  rw [List.foldl_map, List.foldl_map]
  suffices key : ∀ (xs : List (Nat × Place)), xs ⊆ oks → ∀ h : Gang,
      xs.foldl (fun (g : Gang) (z : Nat × Place) => g.putResult d (regsOf n) z.1 (LoadMode.value mode (bs z)).1
        (LoadMode.value mode (bs z)).2) h =
      xs.foldl (fun (h : Gang) (z : Nat × Place) => h.putResult d (regsOf n) z.1 (readValue mode oks bs z.1).1
        (readValue mode oks bs z.1).2) h from key oks (List.Subset.refl _) h
  intro xs sub
  induction xs with
  | nil => exact fun _ => rfl
  | cons z zs ih =>
    intro h
    rw [List.foldl_cons, List.foldl_cons, readValue_eq nodup (sub (List.mem_cons_self ..))]
    exact ih (fun y hy => sub (List.mem_cons_of_mem _ hy)) _

theorem waitersOf_some {oks : List (Nat × Place)} (bs : Nat × Place → List Byte) :
    waitersOf (oks.map (fun z => (z.1, some (bs z)))) = 0 := by
  unfold waitersOf
  rw [List.filter_eq_nil_iff.2 fun x hx => ?_]
  · rfl
  · obtain ⟨z, -, rfl⟩ := List.mem_map.1 hx
    exact Bool.false_ne_true

/-- The machine after the acquire of a load, if it is ordered. -/
def State.acquired (s : State) (g : Gang) (mode : LoadMode) (os : List ObjLoc) : State :=
  match LoadMode.scope? mode with
  | some sc => s.acquireObjs g os sc
  | none => s

theorem State.performLoad_eq {y u : State} {mode : LoadMode} {d : Dst} {oks : List (Nat × Place)}
    {bs : Nat × Place → List Byte}
    (reads : y.readPlaces (LoadMode.scope? mode).isSome (LoadMode.bytes mode) oks =
      (u, oks.map (fun z => (z.1, some (bs z))))) :
    y.performLoad g mode d oks =
      ((u.acquired g mode (objsOf (oks.map Prod.snd))).onGang (fun h =>
        (h.putAll d (LoadMode.bytes mode) (LoadMode.value mode) (oks.map (fun z => (z.1, some (bs z))))).addStall
          (LoadMode.bytes mode) (oks.map Prod.snd)), 0) := by
  unfold State.performLoad
  simp only [reads, waitersOf_some]
  rw [List.filter_eq_self.2 fun x _ => by simp]
  rfl

theorem regsOf_pos (n : Nat) : 0 < regsOf n := by
  unfold regsOf
  split <;> omega

theorem Gang.stalled_done (h : Gang) (n : Nat) (ps : List Place) (m : LaneMask) :
    h.SameData ((h.addStall n ps).markDone m) ∧ ((h.addStall n ps).markDone m).preds = h.preds ∧
      ((h.addStall n ps).markDone m).s = h.s ∧ ((h.addStall n ps).markDone m).fpflags = h.fpflags :=
  ⟨⟨rfl, fun _ => ⟨rfl, rfl⟩⟩, rfl, rfl, rfl⟩

/-- A load whose lanes have read completes with their values. -/
theorem load_completes {i : Instr} {y u : State} {k : Gang} {mode : LoadMode} {d : Dst} {cs : List (Nat × Check)} {m n : Nat}
    {bs : Nat × Place → List Byte} (issuer : ∃ h, y.issuer = some h)
    (names : cs.map Prod.fst = lanesOf (g.todo s.cur)) (pass : Passes m cs) (hn : LoadMode.bytes mode = n)
    (reads : y.readPlaces (LoadMode.scope? mode).isSome n (oksOf cs) =
      (u, (oksOf cs).map (fun z => (z.1, some (bs z)))))
    {t : State} (acquired : u.acquired g mode (objsOf ((oksOf cs).map Prod.snd)) = t)
    (cur : t.cur = s.cur) (bad : t.bad = none) (owner : t.issuer = some k) (same : g.SameData k)
    (fixed : k.preds = g.preds ∧ k.s = g.s ∧ k.fpflags = g.fpflags)
    (run : exec i s = finish (y.perLane cs (fun s oks => s.performLoad g mode d oks)
      (fun s => s.completeLoad d (regsOf n != 1)))) :
    Completes s i (fun x h =>
      (∀ l p, (l, Check.ok p) ∈ cs →
        (h.lane l).latch 0 = entryVal (regsOf n != 1) (LoadMode.value mode (bs (l, p))).1 ∧
        ∀ r w, (r, w) ∈ (quadWords d (LoadMode.value mode (bs (l, p))).1 (LoadMode.value mode (bs (l, p))).2).take (regsOf n) →
          h.reg r l = w) ∧
      (∀ l r, l < 32 → ((∃ p, (l, Check.ok p) ∈ cs) → r ∉ useDst (regsOf n) d) → g.pendingOn l r = false →
        h.reg r l = g.reg r l) ∧
      h.preds = g.preds ∧ h.s = g.s ∧ h.fpflags = g.fpflags ∧ ∃ k, x = t.putGang k) := by
  subst hn
  obtain ⟨h₀, issuer⟩ := issuer
  have lanes : (oksOf cs).map Prod.fst = lanesOf (g.todo s.cur) := pass.names.trans names
  have nodup : ((oksOf cs).map Prod.fst).Nodup := lanes ▸ nodup_lanesOf _
  have todo : ∀ l ∈ (oksOf cs).map Prod.fst, (g.todo s.cur).getLsbD l = true := fun l hl => mem_lanesOf.1 (lanes ▸ hl)
  have named : ∀ l, l ∈ (oksOf cs).map Prod.fst ↔ ∃ p, (l, Check.ok p) ∈ cs := fun l => by
    rw [List.mem_map]
    exact ⟨fun ⟨⟨_, p⟩, hz, e⟩ => ⟨p, e ▸ mem_oksOf.1 hz⟩, fun ⟨p, hp⟩ => ⟨(l, p), mem_oksOf.2 hp, rfl⟩⟩
  have performs := State.performLoad_eq (g := g) (d := d) reads
  rw [acquired, State.onGang_eq owner, Gang.putAll_eq k d _ mode bs nodup] at performs
  rw [State.perLane_ok (perform := fun s oks => s.performLoad g mode d oks) issuer
    (fun x hx => (pass x hx).imp fun _ h => h.1) performs, State.onGang_putGang] at run
  have D := (Gang.delivered_foldl k d (regsOf (LoadMode.bytes mode)) (readValue mode (oksOf cs) bs) nodup fun l hl =>
    mem_lanesOf_lt (mem_lanesOf.2 (todo l hl))).of_before same
  have rest := foldl_keeps (fun (h : Gang) l => h.putResult d (regsOf (LoadMode.bytes mode)) l
    (readValue mode (oksOf cs) bs l).1 (readValue mode (oksOf cs) bs l).2) Gang.fixed
    (fun _ _ => Gang.fixed_putResult _ _ _ _ _ _) ((oksOf cs).map Prod.fst) k
  generalize List.foldl _ k ((oksOf cs).map Prod.fst) = h at *
  obtain ⟨preds, scalars, flags⟩ := fixed
  obtain ⟨kept, hp', hs', hf'⟩ := h.stalled_done (LoadMode.bytes mode) ((oksOf cs).map Prod.snd)
    (maskOf ((oksOf cs).map Prod.fst))
  have rest := congrArg Prod.snd rest
  simp only [Gang.fixed, Prod.mk.injEq] at rest
  generalize (h.addStall _ _).markDone _ = x at *
  refine (completes_load (t := t.putGang x) cur bad (State.issuer_putGang _ _) (D.after kept) (regsOf_pos _)
    ((hp'.trans rest.1).trans preds) todo run).mono ?_
  rintro _ z ⟨results, others, hp, hs, hf, rfl⟩
  refine ⟨fun l p hp => ?_, fun l r hl out => others l r hl fun h => out ((named l).1 h),
    hp.trans (hp'.trans (rest.1.trans preds)), hs.trans (hs'.trans (rest.2.1.trans scalars)),
    hf.trans (hf'.trans (rest.2.2.trans flags)), _, State.putGang_putGang _ _ _⟩
  have := results l ((named l).2 ⟨p, hp⟩)
  rwa [readValue_eq nodup (mem_oksOf.2 hp)] at this

end LoadFlow
end Sys2Proof.Machine

/-! What the lanes of a plain load read (spec 03 R141 to R144; 08 R309, R315). -/

namespace Sys2Proof.Machine
section PlainReads

/-- An aligned access lies in one frame. -/
theorem same_frame {n pa i : Nat} (dvd : n ∣ 256) (aligned : pa % n = 0) (hi : i < n) : (pa + i) / 256 = pa / 256 := by
  obtain ⟨k, hk⟩ := dvd
  rw [hk, ← Nat.div_div_eq_div_mul, ← Nat.div_div_eq_div_mul, Nat.add_div_of_dvd_right (Nat.dvd_of_mod_eq_zero aligned),
    Nat.div_eq_of_lt hi, Nat.add_zero]

/-- A lane's requests of the L1. -/
def laneRequests (n : Nat) (z : Nat × Place) : List (Nat × Nat) :=
  match z.2 with
  | .page va l => if l.sysp then [] else (List.range n).map (fun i => (16 * z.1 + i, l.pa + (va - l.va) + i))
  | .bank _ _ => []

/-- The requests of some lanes. -/
def byteRequests (n : Nat) (oks : List (Nat × Place)) : List (Nat × Nat) :=
  (pagesOf oks).flatMap (fun x => (List.range n).map (fun i => (16 * x.1 + i, x.2 + i)))

theorem byteRequests_cons (n : Nat) (z : Nat × Place) (oks : List (Nat × Place)) :
    byteRequests n (z :: oks) = laneRequests n z ++ byteRequests n oks := by
  obtain ⟨l, p⟩ := z
  unfold byteRequests laneRequests pagesOf
  cases p with
  | bank k off => rfl
  | page va lf =>
    dsimp only
    by_cases far : lf.sysp = true
    · rw [List.filterMap_cons_none (by simp [far]), if_pos far, List.nil_append]
    · rw [List.filterMap_cons_some (b := (l, lf.pa + (va - lf.va))) (by simp [far]), if_neg far, List.flatMap_cons]

theorem lane_of_request {n : Nat} (small : n ≤ 16) {z : Nat × Place} {r : Nat × Nat} (h : r ∈ laneRequests n z) :
    r.1 / 16 = z.1 := by
  unfold laneRequests at h
  split at h
  · split at h
    · cases h
    · obtain ⟨i, hi, rfl⟩ := List.mem_map.1 h
      have := List.mem_range.1 hi
      dsimp only
      omega
  · cases h

theorem mem_byteRequests {n : Nat} {oks : List (Nat × Place)} {r : Nat × Nat} :
    r ∈ byteRequests n oks ↔ ∃ z ∈ oks, r ∈ laneRequests n z := by
  induction oks with
  | nil => simp [byteRequests, pagesOf]
  | cons z zs ih => rw [byteRequests_cons, List.mem_append, ih]; simp

/-- The requests of one of them. -/
theorem byteRequests_of_lane {n : Nat} (small : n ≤ 16) {oks : List (Nat × Place)} (nodup : (oks.map Prod.fst).Nodup)
    {z : Nat × Place} (hz : z ∈ oks) : (byteRequests n oks).filter (fun r => r.1 / 16 == z.1) = laneRequests n z := by
  induction oks with
  | nil => cases hz
  | cons x xs ih =>
    obtain ⟨fresh, nodup⟩ := List.nodup_cons.1 nodup
    rw [byteRequests_cons, List.filter_append]
    rcases List.mem_cons.1 hz with rfl | later
    · rw [List.filter_eq_self.2 fun r hr => by simp [lane_of_request small hr], List.filter_eq_nil_iff.2 fun r hr => ?_,
        List.append_nil]
      obtain ⟨y, hy, hr⟩ := mem_byteRequests.1 hr
      rw [lane_of_request small hr, beq_iff_eq]
      exact fun e => fresh (e ▸ List.mem_map_of_mem hy)
    · rw [ih nodup later, List.filter_eq_nil_iff.2 fun r hr => ?_, List.nil_append]
      rw [lane_of_request small hr, beq_iff_eq]
      exact fun e => fresh (e ▸ List.mem_map_of_mem later)

variable {s : State} {n : Nat} {oks : List (Nat × Place)}

theorem Place.inMemory.near {p : Place} (h : Place.inMemory n p) : p.sysp = false := by
  cases p with
  | bank k off => rfl
  | page va lf => exact h.1

theorem farOf_memory (memory : ∀ z ∈ oks, Place.inMemory n z.2) : farOf oks = [] := by
  unfold farOf
  rw [List.filter_eq_nil_iff.2 fun z hz => by simp [(memory z hz).near], List.map_nil]

/-- Plain reads, once the L1 has answered the requests: each lane has the bytes of its own. -/
theorem State.readPlaces_plain {u : State} {ans : List (Nat × Byte)} (memory : ∀ z ∈ oks, Place.inMemory n z.2)
    (answers : s.l1Read s.cur.core (byteRequests n oks) s.cur.pc.toNat (blockLength s.cur.hints) = (u, ans))
    {bs : Nat × Place → List Byte}
    (pages : ∀ l va lf, (l, Place.page va lf) ∈ oks →
      (ans.filter (fun a => a.1 / 16 == l)).map Prod.snd = bs (l, .page va lf))
    (banks : ∀ l k off, (l, Place.bank k off) ∈ oks → (u.core k).sbytes off n = bs (l, .bank k off)) :
    s.readPlaces false n oks = (u, oks.map (fun z => (z.1, some (bs z)))) := by
  unfold State.readPlaces
  change s.l1Read s.cur.core ((pagesOf oks).flatMap _) _ _ = _ at answers
  simp only [Bool.false_eq_true, if_false, answers, farOf_memory memory, List.isEmpty_nil, if_true]
  refine (foldl_append_map (f := fun z : Nat × Place => (z.1, some (bs z))) oks (fun z hz acc => ?_) []).trans
    (by rw [List.nil_append])
  simp only [(memory z hz).near, Bool.false_eq_true, if_false]
  obtain ⟨l, p⟩ := z
  cases p with
  | bank k off => exact congrArg (fun x => (u, acc ++ [(l, some x)])) (banks l k off hz)
  | page va lf =>
    exact congrArg (fun x => (u, acc ++ [(l, some x)])) (pages l va lf hz)

/-- Plain reads of bytes that the L1 holds, or of scratchpads. -/
theorem State.readPlaces_held (dvd : n ∣ 256) (small : n ≤ 16) (nodup : (oks.map Prod.fst).Nodup)
    (memory : ∀ z ∈ oks, Place.inMemory n z.2) (held : ∀ z ∈ oks, s.l1Has s.cur.core n z.2) :
    ∃ u, s.SameBytes u s.cur.core ∧
      s.readPlaces false n oks = (u, oks.map (fun z => (z.1, some (s.viewBytes s.cur.core n z.2)))) := by
  have request : ∀ l va lf, (l, Place.page va lf) ∈ oks → laneRequests n (l, .page va lf) =
      (List.range n).map (fun i => (16 * l + i, lf.pa + (va - lf.va) + i)) := fun l va lf hz => by
    unfold laneRequests
    dsimp only
    rw [(memory _ hz).1, if_neg Bool.false_ne_true]
  have aligned : ∀ l va lf r, (l, Place.page va lf) ∈ oks → r ∈ laneRequests n (l, .page va lf) →
      r.2 / 256 = (lf.pa + (va - lf.va)) / 256 := fun l va lf r hz hr => by
    rw [request l va lf hz] at hr
    obtain ⟨i, hi, rfl⟩ := List.mem_map.1 hr
    exact same_frame dvd (memory _ hz).2.2 (List.mem_range.1 hi)
  obtain ⟨u, same, answers⟩ := State.l1Read_held (s := s) (c := s.cur.core) (reqs := byteRequests n oks) (fun r hr => by
    obtain ⟨⟨l, p⟩, hz, hr⟩ := mem_byteRequests.1 hr
    cases p with
    | bank k off => cases hr
    | page va lf =>
      rw [request l va lf hz] at hr
      obtain ⟨i, hi, rfl⟩ := List.mem_map.1 hr
      exact held _ hz i (List.mem_range.1 hi) rfl) s.cur.pc.toNat (blockLength s.cur.hints)
  refine ⟨u, same, State.readPlaces_plain memory answers (fun l va lf hz => ?_) fun l k off hz => ?_⟩
  · have pos : 0 < n := Nat.pos_of_dvd_of_pos dvd (by norm_num)
    have first : (16 * l, lf.pa + (va - lf.va)) ∈ byteRequests n oks := mem_byteRequests.2 ⟨_, hz, by
      rw [request l va lf hz]
      exact List.mem_map.2 ⟨0, List.mem_range.2 pos, rfl⟩⟩
    have frame : (lf.pa + (va - lf.va)) / 256 ∈ nubNat ((byteRequests n oks).map (fun r => r.2 / 256)) :=
      mem_nubNat.2 (List.mem_map.2 ⟨_, first, rfl⟩)
    rw [filter_flatMap_classes (f := (lf.pa + (va - lf.va)) / 256) (cls := fun r : Nat × Nat => r.2 / 256)
      (fun r : Nat × Nat => (r.1, s.l1Byte s.cur.core r.2)) (fun a => a.1 / 16 == l) (nodup_nubNat _)
      frame fun r hr lane => ?_]
    · rw [List.filter_map, show ((fun a : Nat × Byte => a.1 / 16 == l) ∘ fun r : Nat × Nat => (r.1, s.l1Byte s.cur.core r.2)) =
        fun r => r.1 / 16 == l from rfl, byteRequests_of_lane small nodup hz, request l va lf hz, List.map_map, List.map_map]
      rfl
    · have : r ∈ (byteRequests n oks).filter (fun r => r.1 / 16 == l) := List.mem_filter.2 ⟨hr, lane⟩
      rw [byteRequests_of_lane small nodup hz] at this
      exact aligned l va lf r hz this
  · unfold State.viewBytes Core.sbytes Core.sbyte
    refine List.map_congr_left fun i _ => ?_
    rw [same.beside.scratch]
    rfl

/-- A plain read by one lane of a frame that the caches do not hold. -/
theorem State.readPlaces_absent {l va : Nat} {lf : Leaf} (dvd : n ∣ 256) (small : n ≤ 16)
    (memory : Place.inMemory n (.page va lf))
    (absent : s.FrameAbsent s.cur.core ((lf.pa + (va - lf.va)) / 256)) :
    ∃ u, s.Beside u ∧ s.readPlaces false n [(l, .page va lf)] = (u, [(l, some (s.placeBytes n (.page va lf)))]) ∧
      (∀ i, i < n → u.l1At s.cur.core (lf.pa + (va - lf.va) + i) =
        some ⟨memRead s.mem (lf.pa + (va - lf.va) + i), false⟩) ∧
      (s.SetsClean s.cur.core ((lf.pa + (va - lf.va)) / 256) → u.mem = s.mem) := by
  have request : byteRequests n [(l, .page va lf)] = (List.range n).map (fun i => (16 * l + i, lf.pa + (va - lf.va) + i)) := by
    rw [byteRequests_cons, show byteRequests n [] = [] from rfl, List.append_nil]
    unfold laneRequests
    dsimp only
    rw [memory.1, if_neg Bool.false_ne_true]
  have pos : 0 < n := Nat.pos_of_dvd_of_pos dvd (by norm_num)
  obtain ⟨u, beside, answers, held, mem⟩ := absent.l1Read (reqs := byteRequests n [(l, .page va lf)])
    (by rw [request]; simpa using pos.ne') (fun r hr => by
      rw [request] at hr
      obtain ⟨i, hi, rfl⟩ := List.mem_map.1 hr
      exact same_frame dvd memory.2.2 (List.mem_range.1 hi)) s.cur.pc.toNat (blockLength s.cur.hints)
  refine ⟨u, beside, State.readPlaces_plain (oks := [(l, .page va lf)]) (bs := fun z => s.placeBytes n z.2) (fun z hz => ?_) answers
    (fun k va' lf' hz => ?_) (fun k c off hz => ?_), fun i hi => ?_, mem⟩
  · rw [List.mem_singleton.1 hz]
    exact memory
  · obtain ⟨rfl, h⟩ := Prod.mk.inj (List.mem_singleton.1 hz)
    obtain ⟨rfl, rfl⟩ := Place.page.inj h
    rw [request, List.map_map, List.filter_eq_self.2 fun a ha => ?_, List.map_map]
    · rfl
    · obtain ⟨i, hi, rfl⟩ := List.mem_map.1 ha
      have := List.mem_range.1 hi
      simp only [Function.comp_apply, beq_iff_eq]
      omega
  · cases List.mem_singleton.1 hz
  · exact held _ (by rw [request]; exact List.mem_map.2 ⟨i, List.mem_range.2 hi, rfl⟩)

end PlainReads
end Sys2Proof.Machine

/-! Plain loads (spec 08 R315). -/

namespace Sys2Proof.Machine
section PlainLoads

variable {s y : State} {g : Gang}

theorem State.Alike.scratchByte (h : s.Alike y) (c a : Nat) : (y.core c).sbyte a = (s.core c).sbyte a := by
  unfold Core.sbyte
  rw [h.scratch]

theorem State.Alike.viewBytes (h : s.Alike y) (c n : Nat) (p : Place) : y.viewBytes c n p = s.viewBytes c n p := by
  refine List.map_congr_left fun i _ => ?_
  unfold State.viewByte
  rw [h.l1Byte, h.scratchByte]

theorem State.Alike.placeBytes (h : s.Alike y) (n : Nat) (p : Place) : y.placeBytes n p = s.placeBytes n p := by
  cases p with
  | page va lf => exact congrArg (memBytes · _ n) h.mem
  | bank c off => exact List.map_congr_left fun i _ => h.scratchByte c _

theorem State.Alike.l1Has (h : s.Alike y) {c n : Nat} {p : Place} (held : s.l1Has c n p) : y.l1Has c n p := fun i hi page => by
  rw [h.l1]
  exact held i hi page

theorem State.Alike.setsOf (h : s.Alike y) (c frame : Nat) : y.setsOf c frame = s.setsOf c frame := by
  unfold State.setsOf State.die
  rw [h.l1, h.dies]

theorem LoadSize.bytes_dvd (z : LoadSize) : LoadSize.bytes z ∣ 256 ∧ LoadSize.bytes z ≤ 16 := by
  cases z <;> decide

theorem Gang.Paged.rest {h : Gang} (paged : g.Paged h) : h.preds = g.preds ∧ h.s = g.s ∧ h.fpflags = g.fpflags := by
  have := congrArg Prod.snd paged.fixed
  simpa only [Gang.fixed, Prod.mk.injEq] using this

/-- The bytes of an aligned place on a page that the caches do not hold, as the core sees them. -/
theorem State.FrameAbsent.viewBytes {c n va : Nat} {lf : Leaf} (dvd : n ∣ 256) (memory : Place.inMemory n (.page va lf))
    (absent : s.FrameAbsent c ((lf.pa + (va - lf.va)) / 256)) :
    s.viewBytes c n (.page va lf) = s.placeBytes n (.page va lf) := by
  refine List.map_congr_left fun i hi => ?_
  have frame := same_frame dvd memory.2.2 (List.mem_range.1 hi)
  have byte := absent.l1Byte (o := (lf.pa + (va - lf.va) + i) % 256) (Nat.mod_lt _ (by norm_num))
  rw [← frame, show (lf.pa + (va - lf.va) + i) / 256 * 256 + (lf.pa + (va - lf.va) + i) % 256 = lf.pa + (va - lf.va) + i by
    omega] at byte
  exact byte

variable {i : Instr} {sp : LaneSpace} {z : LoadSize} {d : Dst} {a : Src} {off : Nat} {nf : Bool} {cs : List (Nat × Check)}

/-- A plain load of bytes that the L1 holds, or of scratchpads. -/
theorem plainLoad_held (issues : s.Issues g)
    (regs : g.regsOk (useDst (regsOf (LoadSize.bytes z)) d ++ useSrc sp.width a) = true)
    (checks : s.laneChecks g sp a (s.offsetOf off (LoadSize.bytes z)) (LoadSize.bytes z) .load = cs)
    (pass : Passes (LoadSize.bytes z) cs)
    (held : ∀ l p, (l, Check.ok p) ∈ cs → s.l1Has s.cur.core (LoadSize.bytes z) p)
    (run : exec i s = finish (s.load sp (.plain z) d a off nf)) : LoadResult s g i cs d (.plain z) True := by
  obtain ⟨y, h, alike, issuer, paged, names, goes⟩ :=
    State.load_passes (mode := .plain z) (nf := nf) issues rfl regs checks pass
  rw [goes] at run
  obtain ⟨dvd, small⟩ := LoadSize.bytes_dvd z
  have lanes : ((oksOf cs).map Prod.fst).Nodup := by rw [pass.names, names]; exact nodup_lanesOf _
  obtain ⟨u, same, reads⟩ := State.readPlaces_held (s := y) (oks := oksOf cs) dvd small lanes
    (fun x hx => by
      obtain ⟨p, hp, memory⟩ := pass _ (mem_oksOf.1 hx)
      cases hp
      exact memory)
    (fun x hx => by
      rw [alike.cur]
      exact alike.l1Has (held _ _ (mem_oksOf.1 hx)))
  refine (load_completes (mode := .plain z) (bs := fun x => y.viewBytes y.cur.core (LoadSize.bytes z) x.2) ⟨h, issuer⟩ names
    pass rfl reads rfl (same.beside.cur.trans alike.cur) ((same.beside.bad.trans alike.bad).trans issues.2)
    (same.beside.issuer.trans issuer) paged.data paged.rest run).mono ?_
  rintro _ k ⟨lanes, others, preds, scalars, flags, k', rfl⟩
  refine ⟨fun l p hp => ?_, others, preds, scalars, flags, fun _ x => ?_, fun c => ?_⟩
  · have := lanes l p hp
    rwa [alike.cur, alike.viewBytes] at this
  · exact congrArg (memRead · x) (same.mem.trans alike.mem)
  · exact (State.scratch_putGang _ _ _).trans ((same.beside.scratch c).trans (alike.scratch c))

/-- A plain load by one lane of a frame that the caches do not hold. -/
theorem plainLoad_absent {l va : Nat} {lf : Leaf} (issues : s.Issues g)
    (regs : g.regsOk (useDst (regsOf (LoadSize.bytes z)) d ++ useSrc sp.width a) = true)
    (checks : s.laneChecks g sp a (s.offsetOf off (LoadSize.bytes z)) (LoadSize.bytes z) .load = [(l, .ok (.page va lf))])
    (memory : Place.inMemory (LoadSize.bytes z) (.page va lf))
    (absent : s.FrameAbsent s.cur.core ((lf.pa + (va - lf.va)) / 256))
    (run : exec i s = finish (s.load sp (.plain z) d a off nf)) :
    LoadResult s g i [(l, .ok (.page va lf))] d (.plain z) (s.SetsClean s.cur.core ((lf.pa + (va - lf.va)) / 256)) ∧
      Completes s i (fun t h => t.l1Has s.cur.core (LoadSize.bytes z) (.page va lf) ∧
        g.Loaded h l d (LoadSize.bytes z) (LoadMode.value (.plain z) (s.placeBytes (LoadSize.bytes z) (.page va lf)))) := by
  have pass : Passes (LoadSize.bytes z) [(l, .ok (.page va lf))] := fun x hx => by
    rw [List.mem_singleton.1 hx]
    exact ⟨_, rfl, memory⟩
  obtain ⟨y, h, alike, issuer, paged, names, goes⟩ :=
    State.load_passes (mode := .plain z) (nf := nf) issues rfl regs checks pass
  rw [goes] at run
  obtain ⟨dvd, small⟩ := LoadSize.bytes_dvd z
  have view := absent.viewBytes dvd memory
  obtain ⟨u, beside, reads, held, mem⟩ := State.readPlaces_absent (s := y) (l := l) dvd small memory (by
    unfold State.FrameAbsent
    rw [alike.cur, alike.setsOf]
    exact absent)
  rw [alike.placeBytes] at reads
  rw [alike.cur] at held mem
  have completes := load_completes (mode := .plain z) (bs := fun _ => s.placeBytes (LoadSize.bytes z) (.page va lf))
    ⟨h, issuer⟩ names pass rfl reads rfl (beside.cur.trans alike.cur) ((beside.bad.trans alike.bad).trans issues.2)
    (beside.issuer.trans issuer) paged.data paged.rest run
  constructor
  · refine completes.mono ?_
    rintro _ k ⟨lanes, others, preds, scalars, flags, k', rfl⟩
    refine ⟨fun l' p hp => ?_, others, preds, scalars, flags, fun clean x => ?_, fun c => ?_⟩
    · obtain ⟨rfl, e⟩ := Prod.mk.inj (List.mem_singleton.1 hp)
      obtain rfl := Check.ok.inj e
      have := lanes _ _ (List.mem_singleton_self _)
      rwa [← view] at this
    · refine congrArg (memRead · x) ((mem ?_).trans alike.mem)
      unfold State.SetsClean
      rw [alike.setsOf]
      exact clean
    · exact (State.scratch_putGang _ _ _).trans ((beside.scratch c).trans (alike.scratch c))
  · refine completes.mono ?_
    rintro _ k ⟨lanes, others, preds, scalars, flags, k', rfl⟩
    obtain ⟨latch, written⟩ := lanes _ _ (List.mem_singleton_self _)
    refine ⟨fun j hj _ => ?_, latch, written, fun c r hc out quiet => others c r hc (fun ⟨p, hp⟩ => ?_) quiet, preds, scalars,
      flags⟩
    · rw [State.l1_putGang]
      show (u.l1At s.cur.core (lf.pa + (va - lf.va) + j)).isSome = true
      rw [held j hj]
      rfl
    · exact out (Prod.mk.inj (List.mem_singleton.1 hp)).1

end PlainLoads
end Sys2Proof.Machine

/-! Machines that differ in what a core caches of translations and in its gangs: their copies of a word go to the same
home (spec 05 R183, R197). -/

namespace Sys2Proof.Machine
section Blind

/-- The machine with other cores. -/
def State.withCores (s : State) (m : Map Core) : State := { s with cores := m }

/-- A change of the machine that neither looks at its cores nor touches them. -/
def Blind (F : State → State) : Prop := ∀ (s : State) (m : Map Core), F (s.withCores m) = (F s).withCores m

theorem Blind.cores {F : State → State} (h : Blind F) (s : State) : (F s).cores = s.cores := by
  have := congrArg State.cores (h s s.cores)
  exact this

theorem Blind.alike {F : State → State} (h : Blind F) {s t : State} (a : s.Alike t) : (F s).Alike (F t) := by
  have core : ∀ x c, (F x).core c = x.core c := fun x c => congrArg (mget Core.reset · c) (h.cores x)
  refine ⟨?_, fun c => by rw [core, core]; exact a.cores c⟩
  obtain ⟨⟨m, rfl⟩, -⟩ := a
  exact ⟨m, h s m⟩

theorem Blind.comp {F G : State → State} (hF : Blind F) (hG : Blind G) : Blind (fun s => G (F s)) := fun s m =>
  (congrArg G (hF s m)).trans (hG (F s) m)

theorem Blind.foldl {α : Type} {F : State → α → State} (h : ∀ x, Blind (F · x)) (xs : List α) :
    Blind (fun s => xs.foldl F s) := by
  induction xs with
  | nil => exact fun _ _ => rfl
  | cons x xs ih => exact (h x).comp ih

theorem blind_noteBad (a : Nat) : Blind (·.noteBad a) := by
  intro s m
  unfold State.noteBad
  simp only [show (s.withCores m).waits = s.waits from rfl, show (s.withCores m).awayAt a = s.awayAt a from rfl,
    show (s.withCores m).bad = s.bad from rfl]
  cases s.bad <;> (repeat' split) <;> rfl

theorem blind_heal (hit : Nat → Bool) : Blind (·.heal hit) := by
  intro s m
  unfold State.heal
  simp only [show (s.withCores m).dev = s.dev from rfl]
  split <;> rfl

theorem blind_homeStoreAt (ws : List (Nat × Byte)) : Blind (·.homeStoreAt ws) := by
  intro s m
  have healed := blind_heal (fun t => ws.any (fun w => w.1 / 32 == t)) s m
  unfold State.homeStoreAt
  simp only [show (s.withCores m).awayAt = s.awayAt from rfl] at healed ⊢
  cases ws.find? (fun w => s.awayAt w.1) with
  | some w => exact blind_noteBad w.1 s m
  | none => exact congrArg (fun t : State => t.setMem (memStoreAt t.mem ws)) healed

theorem blind_dieStore (d : Nat) (f : Die → Die) (ws : List (Nat × Byte)) : Blind (fun s => (s.modDie d f).homeStoreAt ws) :=
  fun s m => blind_homeStoreAt ws (s.modDie d f) m

theorem die_withCores (s : State) (m : Map Core) (d : Nat) : (s.withCores m).die d = s.die d := rfl

theorem blind_rdcStoreFrame (d frame : Nat) (ws : List (Nat × Byte)) : Blind (·.rdcStoreFrame d frame ws) := by
  intro s m
  unfold State.rdcStoreFrame
  simp only [die_withCores, show (s.withCores m).tick = s.tick from rfl]
  exact blind_dieStore d _ _ s m

theorem blind_writeBack (d : Nat) (ws : List (Nat × Byte)) : Blind (·.writeBack d ws) :=
  (blind_homeStoreAt _).comp (Blind.foldl (fun x : Nat × List (Nat × Byte) => blind_rdcStoreFrame d x.1 x.2) _)

theorem blind_rdcWriteBack (d : Nat) (p : Nat → Bool) : Blind (·.rdcWriteBack d p) := by
  intro s m
  unfold State.rdcWriteBack
  simp only [die_withCores]
  exact blind_dieStore d _ _ s m

theorem blind_rdcRemove (d : Nat) (p : Nat → Bool) : Blind (·.rdcRemove d p) := by
  intro s m
  have wrote : (s.withCores m).rdcWriteBack d p = (s.rdcWriteBack d p).withCores m := blind_rdcWriteBack d p s m
  unfold State.rdcRemove
  simp only [wrote, die_withCores]
  exact blind_dieStore d _ _ (s.rdcWriteBack d p) m

theorem blind_rdcsRemove (p : Nat → Bool) : Blind (·.rdcsRemove p) := fun s m =>
  Blind.foldl (fun d : Nat × Die => blind_rdcRemove d.1 p) s.dies s m

end Blind

/-! Walks and ranges. -/

section Walks

variable (s : State) (m : Map Core)

theorem State.walkFrom_cores (ctx va n t : Nat) (acc : List WalkEntry) :
    State.walkFrom { s with cores := m } ctx va n t acc = s.walkFrom ctx va n t acc := by
  induction n generalizing t acc with
  | zero => rfl
  | succ n ih =>
    unfold State.walkFrom
    simp only [ih]
    rfl

theorem State.piecesFrom_cores (base len n t vbase : Nat) :
    State.piecesFrom { s with cores := m } base len n t vbase = s.piecesFrom base len n t vbase := by
  induction n generalizing t vbase with
  | zero => rfl
  | succ n ih =>
    unfold State.piecesFrom
    simp only [ih]
    rfl

theorem State.walk_cores (ctx va : Nat) : State.walk { s with cores := m } ctx va = s.walk ctx va := s.walkFrom_cores m _ _ _ _ _

theorem State.physRanges_cores (ctx base len : Nat) :
    State.physRanges { s with cores := m } ctx base len = s.physRanges ctx base len := by
  unfold State.physRanges
  simp only [State.piecesFrom_cores, State.walk_cores]
  rfl

theorem State.sealedRanges_cores (part : Nat) : State.sealedRanges { s with cores := m } part = s.sealedRanges part := by
  unfold State.sealedRanges State.sealRanges
  simp only [State.physRanges_cores]
  rfl

theorem State.walkError_cores (ctx base len : Nat) :
    State.walkError { s with cores := m } ctx base len = s.walkError ctx base len := by
  unfold State.walkError
  simp only [State.piecesFrom_cores, State.walk_cores]
  rfl

end Walks

/-! Machines alike. -/

section AlikeHome

variable {s t : State}

theorem State.Alike.physRanges (h : s.Alike t) (ctx base len : Nat) : t.physRanges ctx base len = s.physRanges ctx base len := by
  obtain ⟨⟨m, rfl⟩, -⟩ := h
  exact s.physRanges_cores m _ _ _

theorem State.Alike.sealedWord (h : s.Alike t) (part a : Nat) : t.sealedWord part a = s.sealedWord part a := by
  obtain ⟨⟨m, rfl⟩, -⟩ := h
  exact congrArg (meetsRanges · a) (s.sealedRanges_cores m part)

theorem State.Alike.sealedFor (h : s.Alike t) (c a : Nat) : t.sealedFor c a = s.sealedFor c a := by
  unfold State.sealedFor
  rw [show t.partOfCluster (clusterOfCore c) = s.partOfCluster (clusterOfCore c) by
    unfold State.partOfCluster; rw [h.parts]]
  split
  · exact h.sealedWord _ _
  · rfl

theorem State.Alike.walkError (h : s.Alike t) (ctx base len : Nat) : t.walkError ctx base len = s.walkError ctx base len := by
  obtain ⟨⟨m, rfl⟩, -⟩ := h
  exact s.walkError_cores m _ _ _

theorem State.Alike.modCore (h : s.Alike t) (c : Nat) (f : Core → Core) (bare : ∀ k, (f k).bare = (f k.bare).bare) :
    (s.modCore c f).Alike (t.modCore c f) := by
  refine ⟨?_, fun k => ?_⟩
  · obtain ⟨⟨m, rfl⟩, -⟩ := h
    exact ⟨_, rfl⟩
  · rw [State.core_modCore, State.core_modCore]
    split
    · rw [bare, h.cores, ← bare]
    · exact h.cores k

theorem State.Alike.l1WriteBack (h : s.Alike t) (c : Nat) (p : Nat → Bool) : (s.l1WriteBack c p).Alike (t.l1WriteBack c p) := by
  unfold State.l1WriteBack
  rw [h.l1]
  exact (blind_writeBack _ _).alike (h.modCore c _ fun _ => rfl)

theorem State.Alike.l1Evicted (h : s.Alike t) (c : Nat) (out : List Block) : (s.l1Evicted c out).Alike (t.l1Evicted c out) := by
  unfold State.l1Evicted
  exact (blind_writeBack _ _).alike (h.modCore c _ fun _ => rfl)

theorem State.Alike.l1Remove (h : s.Alike t) (c : Nat) (p : Nat → Bool) : (s.l1Remove c p).Alike (t.l1Remove c p) := by
  have wrote := h.l1WriteBack c p
  unfold State.l1Remove
  dsimp only
  rw [wrote.l1]
  exact (wrote.modCore c _ fun _ => rfl).l1Evicted c _

/-- The copies of a word go to the same home. -/
theorem State.Alike.toHome (h : s.Alike t) (c a : Nat) : (s.toHome c a).Alike (t.toHome c a) := by
  unfold State.toHome
  rw [show t.sealedFor c = s.sealedFor c from funext fun x => h.sealedFor c x]
  exact (blind_rdcsRemove _).alike (h.l1Remove c _)

end AlikeHome
end Sys2Proof.Machine

/-! What an acquire removes (spec 03 R146, R147; 05 R188). -/

namespace Sys2Proof.Machine
section Removal

/-- A condition on addresses that depends on their 8-byte words alone. -/
def OfWords (p : Nat → Bool) : Prop := ∀ a, p (a / 8 * 8) = p a

/-- A block holds no word of a condition. -/
def Block.Without (p : Nat → Bool) (b : Block) : Prop := ∀ frame off, b.holds frame (off / 4) = true → p (frame * 256 + off) = false

theorem Block.without_run {p : Nat → Bool} (words : OfWords p) (b : Block) {r : Nat × Nat}
    (hr : r ∈ runs (fun u => !p (b.frame * 256 + 8 * u)) (b.first / 2) (b.last / 2)) :
    (b.restrict (2 * r.1) (2 * r.2 + 1)).Without p := by
  intro frame off holds
  dsimp only [Block.restrict, Block.holds] at holds
  simp only [Bool.and_eq_true, beq_iff_eq, decide_eq_true_eq] at holds
  obtain ⟨⟨rfl, lo⟩, hi⟩ := holds
  have kept := runs_all hr (u := off / 8) (by omega) (by omega)
  rw [Bool.not_eq_true'] at kept
  rw [← words, show (b.frame * 256 + off) / 8 * 8 = b.frame * 256 + 8 * (off / 8) by omega]
  exact kept

/-- A set that words were removed from holds none of them. -/
theorem removeSet_without {p : Nat → Bool} (words : OfWords p) (bs : List Block) : ∀ b ∈ (removeSet p bs).1, b.Without p := by
  unfold removeSet
  generalize bs.length = n
  suffices key : ∀ acc : List Block × List Block, (∀ b ∈ acc.1, b.Without p) → ∀ b ∈ (bs.foldl
      (fun (x : List Block × List Block) (b : Block) =>
        let keep (u : Nat) : Bool := !p (b.frame * 256 + 8 * u)
        let rs := runs keep (b.first / 2) (b.last / 2)
        let pieces := rs.map (fun r => b.restrict (2 * r.1) (2 * r.2 + 1))
        if pieces = [b] then (x.1 ++ [b], x.2)
        else if pieces.length ≤ 1 || n + pieces.length ≤ 17 then (x.1 ++ pieces, x.2)
        else (x.1, x.2 ++ [b])) acc).1, b.Without p from key _ fun _ h => absurd h List.not_mem_nil
  induction bs with
  | nil => exact fun _ h => h
  | cons x xs ih =>
    intro acc h
    have pieces : ∀ b ∈ (runs (fun u => !p (x.frame * 256 + 8 * u)) (x.first / 2) (x.last / 2)).map
        (fun r => x.restrict (2 * r.1) (2 * r.2 + 1)), b.Without p := fun b hb => by
      obtain ⟨r, hr, rfl⟩ := List.mem_map.1 hb
      exact x.without_run words hr
    have joined : ∀ ys : List Block, (∀ b ∈ ys, b.Without p) → ∀ b ∈ acc.1 ++ ys, b.Without p := fun ys hys b hb =>
      (List.mem_append.1 hb).elim (h b) (hys b)
    rw [List.foldl_cons]
    refine ih _ ?_
    dsimp only
    split
    · next whole => exact joined _ (whole ▸ pieces)
    · split
      · exact joined _ pieces
      · exact h

theorem mem_cacheRemove {p : Nat → Bool} {m : Map (List Block)} {x : Nat × List Block} (h : x ∈ (cacheRemove p m).1) :
    ∃ bs, x.2 = (removeSet p bs).1 := by
  unfold cacheRemove at h
  induction m with
  | nil => cases h
  | cons y ys ih =>
    rw [List.foldr_cons] at h
    rcases List.mem_cons.1 h with rfl | later
    · exact ⟨y.2, rfl⟩
    · exact ih later

/-- A cache that words were removed from holds no byte of them. -/
theorem setByte?_cacheRemove {p : Nat → Bool} (words : OfWords p) {m : Map (List Block)} {x : Nat × List Block}
    (h : x ∈ (cacheRemove p m).1) {frame off : Nat} (gone : p (frame * 256 + off) = true) : setByte? x.2 frame off = none := by
  obtain ⟨bs, hbs⟩ := mem_cacheRemove h
  unfold setByte?
  rw [hbs, List.find?_eq_none.2]
  intro b hb holds
  rw [removeSet_without words bs b hb frame off holds] at gone
  cases gone

/-- A core's L1 holds no byte of some words. -/
def State.L1Without (s : State) (c : Nat) (p : Nat → Bool) : Prop :=
  ∀ a, p a = true → ∀ x ∈ (s.core c).l1, setByte? x.2 (a / 256) (a % 256) = none

theorem State.l1_l1Remove (s : State) (c : Nat) (p : Nat → Bool) :
    ((s.l1Remove c p).core c).l1 = (cacheRemove p ((s.l1WriteBack c p).core c).l1).1 := by
  unfold State.l1Remove
  dsimp only
  rw [State.l1_l1Evicted, State.core_modCore, if_pos rfl]

theorem State.l1Remove_without (s : State) (c : Nat) {p : Nat → Bool} (words : OfWords p) : (s.l1Remove c p).L1Without c p := by
  intro a ha x hx
  rw [State.l1_l1Remove] at hx
  have here : a / 256 * 256 + a % 256 = a := by omega
  exact setByte?_cacheRemove words hx (here.symm ▸ ha)

/-- An acquire at the L1 or beyond removes the words from it. -/
theorem State.acquireWords_without (s : State) (c : Nat) {level : Nat} {p : Nat → Bool} (words : OfWords p) (some_ : level ≠ 0) :
    (s.acquireWords c level p).L1Without c p := by
  unfold State.acquireWords
  rw [if_neg some_]
  dsimp only
  split
  · exact s.l1Remove_without c words
  · unfold State.L1Without State.core
    rw [(blind_rdcRemove _ p).cores]
    exact s.l1Remove_without c words

theorem ofWords_meetsRanges (rs : List (Nat × Nat)) : OfWords (meetsRanges rs) := fun a => by
  unfold meetsRanges
  rw [show a / 8 * 8 / 8 * 8 = a / 8 * 8 by omega]

end Removal

/-! The acquire of a load. -/

section Acquire

variable {u v : State} {g : Gang}

theorem State.Alike.boundTo (h : u.Alike v) (c : Nat) (t : TeamPart) (o : ObjLoc) :
    (v.core c).boundTo t o = (u.core c).boundTo t o := by
  unfold Core.boundTo Core.partBinds
  rw [h.binds]

theorem State.Alike.partOf (h : u.Alike v) (c : Nat) (g : Gang) : (v.core c).partOf g = (u.core c).partOf g := by
  unfold Core.partOf Core.teamPart
  rw [h.teamParts]

theorem State.Alike.objsError (h : u.Alike v) (g : Gang) (os : List ObjLoc) (sc : Scope) :
    v.objsError g os sc = u.objsError g os sc := by
  have error : ∀ t bs, v.bindsError t sc bs = u.bindsError t sc bs := fun t bs => by
    unfold State.bindsError
    simp only [h.walkError]
  have bound : ∀ t, (v.core u.cur.core).boundTo t = (u.core u.cur.core).boundTo t := fun t => funext fun o => h.boundTo _ t o
  unfold State.objsError
  simp only [h.cur, h.partOf, bound, error]

/-- The acquire of one object removes its words. -/
theorem State.acquired_acquireObj (h : u.Alike v) (c : Nat) (t : TeamPart) (o : ObjLoc) (sc : Scope) :
    Acquired u (v.acquireObj c t o sc) c t o sc := by
  intro b bound level a meets unsealed
  unfold State.acquireObj State.acquireBinds
  rw [h.boundTo, bound, List.foldl_cons, List.foldl_nil]
  dsimp only
  refine v.acquireWords_without c (p := fun a => meetsRanges (v.physRanges (Machine.ctxKey t.part t.ctx) b.base b.len) a &&
    !v.sealedWord t.part a) (fun a => ?_) level a ?_
  · unfold State.sealedWord
    dsimp only
    rw [ofWords_meetsRanges, ofWords_meetsRanges]
  · dsimp only
    rw [h.physRanges, h.sealedWord, meets, unsealed]
    rfl

/-- The acquire of one object by the issuing gang's team. -/
theorem State.acquireObjs_one {h : Gang} {t : TeamPart} (issuer : v.issuer = some h)
    (part : (v.core v.cur.core).partOf g = some t) (o : ObjLoc) (sc : Scope) :
    ∃ k, v.acquireObjs g [o] sc = (v.acquireObj v.cur.core t o sc).putGang k ∧ h.SameData k ∧
      k.preds = h.preds ∧ k.s = h.s ∧ k.fpflags = h.fpflags := by
  have beside := v.beside_acquireObj v.cur.core t o sc
  unfold State.acquireObjs
  simp only [part, List.foldl_cons, List.foldl_nil]
  generalize v.acquireObj v.cur.core t o sc = w at *
  unfold State.countReplays
  rw [← beside.cur]
  refine ⟨_, State.onGang_eq (beside.issuer.trans issuer) _, ?_⟩
  split
  · exact ⟨⟨rfl, fun _ => ⟨rfl, rfl⟩⟩, rfl, rfl, rfl⟩
  · exact ⟨.refl h, rfl, rfl, rfl⟩

end Acquire
end Sys2Proof.Machine

/-! Ordered loads of one lane, and what loads do (spec 05 R187, R188; 08 R315). -/

namespace Sys2Proof.Machine
section OrderedLoads

variable {s y : State} {g : Gang}

theorem State.Around.partOf {t : State} (h : s.Around t) (c : Nat) (g : Gang) : (t.core c).partOf g = (s.core c).partOf g := by
  have : (t.core c).parts = (s.core c).parts :=
    congrArg (fun x : Map Gang × Map Byte × List TeamPart × Map Bind => x.2.2.1) (h.seats c)
  unfold Core.partOf Core.teamPart
  rw [this]

theorem State.beside_homed (s : State) (p : Place) : s.Beside (s.homed p) := by
  cases p with
  | page va lf => exact s.beside_toHome _ _
  | bank k off => exact .refl s

theorem State.Alike.homed (h : s.Alike y) (p : Place) : (s.homed p).Alike (y.homed p) := by
  cases p with
  | page va lf =>
    unfold State.homed
    dsimp only
    rw [h.cur]
    exact h.toHome _ _
  | bank k off => exact h

theorem State.readHomeOf_eq (n : Nat) (p : Place) :
    y.readHomeOf y.cur.core n p = (y.homed p, (y.homed p).placeBytes n p) := by
  unfold State.readHomeOf State.homed State.placeBytes
  cases p <;> rfl

/-- An ordered read by one lane: at the home, after the copies of the word went there, or at the bank. -/
theorem State.readPlaces_ordered {l n : Nat} {p : Place} (near : p.sysp = false) :
    y.readPlaces true n [(l, p)] = (y.homed p, [(l, some ((y.homed p).placeBytes n p))]) := by
  have far : farOf [(l, p)] = [] := by
    unfold farOf
    rw [List.filter_cons_of_neg (by simp [near]), List.filter_nil, List.map_nil]
  unfold State.readPlaces
  simp only [if_true, far, List.isEmpty_nil, List.foldl_cons, List.foldl_nil, near, Bool.false_eq_true, if_false,
    State.readHomeOf_eq, List.nil_append]

theorem quadWords_low (d : Dst) (a b c : DWord) (wide : Bool) :
    (quadWords d a b).take (regsOf (if wide then 8 else 4)) = (quadWords d a c).take (regsOf (if wide then 8 else 4)) := by
  cases d <;> cases wide <;> rfl

variable {i : Instr} {sp : LaneSpace} {wide : Bool} {sc : Scope} {d : Dst} {a : Src} {off : Nat} {nf : Bool}

/-- An ordered load of one lane. -/
theorem orderedLoad {n : Nat} (hn : (if wide then 8 else 4) = n) {team : TeamPart} {l : Nat} {p : Place} (issues : s.Issues g)
    (part : (s.core s.cur.core).partOf g = some team)
    (regs : g.regsOk (useDst (regsOf n) d ++ useSrc sp.width a) = true)
    (checks : s.laneChecks g sp a (s.offsetOf off n) n .loadHome = [(l, .ok p)]) (memory : Place.inMemory n p)
    (fine : s.objsError g [p.obj] sc = none)
    (run : exec i s = finish (s.load sp (.ordered wide sc) d a off nf)) :
    Completes s i (fun t h =>
      g.Loaded h l d n (BitVec.ofNat 64 (ofBytes ((s.homed p).placeBytes n p)), 0) ∧
      (∀ k, (t.core k).scratch = (s.core k).scratch) ∧ Acquired (s.homed p) t s.cur.core team p.obj sc) := by
  have pass : Passes n [(l, .ok p)] := fun x hx => by
    rw [List.mem_singleton.1 hx]
    exact ⟨_, rfl, memory⟩
  obtain ⟨y, h, alike, issuer, paged, names, goes⟩ :=
    State.load_passes (mode := .ordered wide sc) (nf := nf) issues hn regs checks pass
  have passes : y.onObjects g (some sc) false [(l, .ok p)] = fun go => go := funext fun go => by
    unfold State.onObjects
    rw [show objsOf ((oksOf [(l, Check.ok p)]).map (·.2)) = [p.obj] from rfl]
    simp only [alike.objsError, fine, Bool.false_and, Bool.false_eq_true, if_false]
  rw [goes, show LoadMode.scope? (.ordered wide sc) = some sc from rfl, passes] at run
  have home := alike.homed p
  have went := y.beside_homed p
  have reads := State.readPlaces_ordered (y := y) (l := l) (n := n) memory.near
  rw [home.placeBytes] at reads
  have core : (y.homed p).cur.core = s.cur.core := congrArg Issue.core (went.cur.trans alike.cur)
  obtain ⟨k, acquires, same, preds, scalars, flags⟩ := State.acquireObjs_one (g := g) (t := team) (went.issuer.trans issuer)
    (by rw [core, went.partOf, alike.partOf]; exact part) p.obj sc
  rw [core] at acquires
  have acquired := State.acquired_acquireObj home s.cur.core team p.obj sc
  have beside := went.trans ((y.homed p).beside_acquireObj s.cur.core team p.obj sc)
  generalize (y.homed p).acquireObj s.cur.core team p.obj sc = w at *
  obtain ⟨preds', scalars', flags'⟩ := paged.rest
  refine (load_completes (mode := .ordered wide sc) (bs := fun _ => (s.homed p).placeBytes n p) ⟨h, issuer⟩ names pass hn reads
    acquires (beside.cur.trans alike.cur) ((beside.bad.trans alike.bad).trans issues.2) (State.issuer_putGang _ _)
    (paged.data.trans same) ⟨preds.trans preds', scalars.trans scalars', flags.trans flags'⟩ run).mono ?_
  rintro _ j ⟨lanes, others, hp, hs, hf, k', rfl⟩
  obtain ⟨latch, written⟩ := lanes _ _ (List.mem_singleton_self _)
  rw [State.putGang_putGang]
  refine ⟨⟨latch, fun r x hx => written r x ?_, fun c r hc out quiet => others c r hc (fun ⟨q, hq⟩ => ?_) quiet, hp, hs, hf⟩,
    fun c => ?_, fun b bound level x meets unsealed => ?_⟩
  · subst hn
    rwa [quadWords_low d _ _ 0]
  · exact out (Prod.mk.inj (List.mem_singleton.1 hq)).1
  · exact (State.scratch_putGang _ _ _).trans ((beside.scratch c).trans (alike.scratch c))
  · rw [State.l1_putGang]
    exact acquired b bound level x meets unsealed

/-- Settles O22: every load goes through its checks to the reads of its lanes; plain ones are answered by the L1, which
holds the bytes or takes the home's, ordered ones by the home or the bank. -/
theorem plainLoadResults : Obligations.PlainLoadResults := by
  unfold Obligations.PlainLoadResults
  intro s g issues
  have plain : ∀ {i : Instr} {sp : LaneSpace} {z : LoadSize} {d : Dst} {a : Src} {off : Nat} {nf : Bool},
      exec i s = finish (s.load sp (.plain z) d a off nf) →
      let n := LoadSize.bytes z
      let cs := s.laneChecks g sp a (s.offsetOf off n) n .load
      g.regsOk (useDst (regsOf n) d ++ useSrc sp.width a) = true → Passes n cs →
      ((∀ l p, (l, Check.ok p) ∈ cs → s.l1Has s.cur.core n p) → LoadResult s g i cs d (.plain z) True) ∧
      ∀ l va lf, cs = [(l, .ok (.page va lf))] → s.FrameAbsent s.cur.core ((lf.pa + (va - lf.va)) / 256) →
        LoadResult s g i cs d (.plain z) (s.SetsClean s.cur.core ((lf.pa + (va - lf.va)) / 256)) ∧
        Completes s i (fun t h => t.l1Has s.cur.core n (.page va lf) ∧ g.Loaded h l d n
          (LoadMode.value (.plain z) (s.placeBytes n (.page va lf)))) := by
    intro i sp z d a off nf run n cs regs pass
    refine ⟨fun held => plainLoad_held issues regs rfl pass held run, fun l va lf one absent => ?_⟩
    rw [one] at pass ⊢
    obtain ⟨p, hp, memory⟩ := pass _ (List.mem_singleton_self _)
    obtain rfl := Check.ok.inj hp
    exact plainLoad_absent issues regs one memory absent run
  refine ⟨fun z d a off nf => ⟨plain rfl, plain rfl, plain rfl, plain rfl⟩, fun wide sc d a off nf => ⟨?_, ?_, ?_⟩⟩
  · intro team l p part regs checks memory fine
    exact orderedLoad rfl issues part regs checks memory fine.2 rfl
  · intro team l p part regs checks memory fine
    exact orderedLoad rfl issues part regs checks memory fine.2 rfl
  · intro team l p part regs checks memory fine
    exact orderedLoad rfl issues part regs checks memory fine.2 rfl

end OrderedLoads
end Sys2Proof.Machine

/-! The bits of a leaf's bitmap, and the values they stand for (spec 04 R159). -/

namespace Sys2Proof.Machine
section LeafBits

/-- A bit set that was clear: every other one stays. -/
theorem bitAt_set {m b : Nat} (clear : bitAt m b = false) (i : Nat) : bitAt (m + 2 ^ b) i = (i == b || bitAt m i) := by
  simp only [bitAt, beq_eq_false_iff_ne, ne_eq] at clear ⊢
  have pos : 0 < 2 ^ b := Nat.two_pow_pos b
  rcases Nat.lt_trichotomy i b with low | rfl | high
  · have : 2 ^ b = 2 ^ i * (2 * 2 ^ (b - i - 1)) := by rw [← pow_succ', ← pow_add]; congr 1; omega
    rw [this, Nat.add_mul_div_left _ _ (Nat.two_pow_pos i), Nat.add_mul_mod_self_left,
      show (i == b) = false from beq_eq_false_iff_ne.2 (by omega), Bool.false_or]
  · rw [Nat.add_div_right _ pos]
    simp only [beq_self_eq_true, Bool.true_or, beq_iff_eq]
    omega
  · have shift : ∀ x : Nat, x / 2 ^ i = x / 2 ^ b / 2 / 2 ^ (i - b - 1) := fun x => by
      rw [Nat.div_div_eq_div_mul, Nat.div_div_eq_div_mul, ← pow_succ', ← pow_add]; congr 2; omega
    rw [shift (m + 2 ^ b), Nat.add_div_right _ pos, shift m,
      show (m / 2 ^ b).succ / 2 = m / 2 ^ b / 2 by omega,
      show (i == b) = false from beq_eq_false_iff_ne.2 (by omega), Bool.false_or]

/-- A set bit taken off a bitmap leaves it clear. -/
theorem bitAt_taken {m b : Nat} (set : bitAt m b = true) : bitAt (m - 2 ^ b) b = false ∧ m - 2 ^ b + 2 ^ b = m := by
  simp only [bitAt, beq_iff_eq] at set
  have pos : 0 < 2 ^ b := Nat.two_pow_pos b
  have some_ : 2 ^ b ≤ m := by
    by_contra small
    rw [Nat.div_eq_of_lt (by omega)] at set
    omega
  refine ⟨?_, by omega⟩
  have : (m - 2 ^ b) / 2 ^ b = m / 2 ^ b - 1 := by
    have := Nat.sub_mul_div_of_le m (2 ^ b) 1 (by omega)
    simpa using this
  simp only [bitAt, this, beq_eq_false_iff_ne, ne_eq]
  omega

theorem bitAt_two_pow (b i : Nat) : bitAt (2 ^ b) i = (i == b) := by
  have := bitAt_set (m := 0) (b := b) (by simp [bitAt]) i
  simpa [bitAt] using this

theorem bitAt_eq_testBit (m i : Nat) : bitAt m i = m.testBit i := by
  simp only [bitAt, Nat.testBit, Nat.one_and_eq_mod_two, Nat.shiftRight_eq_div_pow, Bool.beq_eq_decide_eq]
  rcases Nat.mod_two_eq_zero_or_one (m / 2 ^ i) with h | h <;> simp [h]

theorem bitsBelow_succ (m n : Nat) : bitsBelow m (n + 1) = bitsBelow m n + if bitAt m n then 1 else 0 := by
  unfold bitsBelow below
  rw [List.range_succ, List.filter_append, List.length_append]
  cases h : bitAt m n <;> simp [h]

theorem bitsBelow_mono (m : Nat) {i n : Nat} (h : i ≤ n) : bitsBelow m i ≤ bitsBelow m n := by
  induction n, h using Nat.le_induction with
  | base => exact le_refl _
  | succ n _ ih => rw [bitsBelow_succ]; omega

/-- A bit that is set stands for a value of its own. -/
theorem bitsBelow_lt {m i n : Nat} (set : bitAt m i = true) (h : i < n) : bitsBelow m i < bitsBelow m n := by
  have := bitsBelow_mono m (show i + 1 ≤ n by omega)
  rw [bitsBelow_succ, set, if_pos rfl] at this
  omega

theorem bitsBelow_le (m n : Nat) : bitsBelow m n ≤ n := by
  unfold bitsBelow below
  exact (List.length_filter_le _ _).trans (by simp)

theorem bitsBelow_set {m b : Nat} (clear : bitAt m b = false) (n : Nat) :
    bitsBelow (m + 2 ^ b) n = bitsBelow m n + if b < n then 1 else 0 := by
  induction n with
  | zero => simp [bitsBelow, below]
  | succ n ih =>
    rw [bitsBelow_succ, bitsBelow_succ, ih, bitAt_set clear]
    rcases Nat.lt_trichotomy b n with low | rfl | high
    · simp [show (n == b) = false from beq_eq_false_iff_ne.2 (by omega), show b < n from low, show b < n + 1 by omega]
      omega
    · simp [clear]
    · simp [show (n == b) = false from beq_eq_false_iff_ne.2 (by omega), show ¬ b < n by omega, show ¬ b < n + 1 by omega]

/-- A bitmap of 64 bits without a set bit is empty. -/
theorem bitsBelow_pos {m : Nat} (some_ : m ≠ 0) (small : m < 2 ^ 64) : 0 < bitsBelow m 64 := by
  obtain ⟨i, hi⟩ := Nat.exists_testBit_of_ne_zero some_
  have : i < 64 := by
    by_contra far
    have := Nat.testBit_lt_two_pow (small.trans_le (Nat.pow_le_pow_right (by norm_num) (Nat.not_lt.1 far)))
    rw [this] at hi
    cases hi
  exact Nat.zero_lt_of_lt (bitsBelow_lt ((bitAt_eq_testBit m i).trans hi) this)

theorem lt_two_pow_set {m b : Nat} (clear : bitAt m b = false) (small : m < 2 ^ 64) (hb : b < 64) : m + 2 ^ b < 2 ^ 64 := by
  refine Nat.lt_pow_two_of_testBit _ fun i hi => ?_
  rw [← bitAt_eq_testBit, bitAt_set clear, bitAt_eq_testBit,
    Nat.testBit_lt_two_pow (small.trans_le (Nat.pow_le_pow_right (by norm_num) hi))]
  simp; omega

end LeafBits

/-! Numbers in lists of bytes (spec 00 R3), and lists of values of one size. -/

section Bytes

theorem ofBytes_lt (bs : List Byte) : ofBytes bs < 256 ^ bs.length := by
  induction bs with
  | nil => simp [ofBytes]
  | cons b bs ih =>
    have := b.isLt
    rw [ofBytes, List.length_cons, pow_succ']
    omega

theorem num_lt (b : List Byte) (off n : Nat) : num b off n < 256 ^ n :=
  (ofBytes_lt _).trans_le (Nat.pow_le_pow_right (by norm_num) (List.length_take_le _ _))

theorem num_append_left {a b : List Byte} {off n : Nat} (h : off + n ≤ a.length) : num (a ++ b) off n = num a off n := by
  unfold num
  rw [List.drop_append_of_le_length (by omega), List.take_append_of_le_length (by simp; omega)]

theorem num_append_right {a b : List Byte} {off n : Nat} (h : a.length ≤ off) : num (a ++ b) off n = num b (off - a.length) n := by
  unfold num
  rw [List.drop_append, List.drop_eq_nil_of_le h, List.nil_append]

/-- A number within one field of another width. -/
theorem num_bytesOf (w x off n : Nat) (h : off + n ≤ w) : num (bytesOf w x) off n = x / 256 ^ off % 256 ^ n := by
  have shift : ((bytesOf w x).drop off).take n = bytesOf n (x / 256 ^ off) := by
    refine List.ext_getElem (by simp [bytesOf]; omega) fun i hi _ => ?_
    simp only [bytesOf, List.getElem_take, List.getElem_drop, List.getElem_map, List.getElem_range, Nat.div_div_eq_div_mul]
    rw [show (256 : Nat) ^ off = 2 ^ (8 * off) by rw [pow_mul]; norm_num, ← pow_add, Nat.mul_add]
  unfold num
  rw [shift, ofBytes_bytesOf]

theorem length_flatMap_bytesOf (size : Nat) (vals : List Nat) : (vals.flatMap (bytesOf size)).length = vals.length * size := by
  induction vals with
  | nil => simp
  | cons v vals ih => rw [List.flatMap_cons, List.length_append, ih, length_bytesOf, List.length_cons]; ring

/-- A packed value reads back. -/
theorem num_flatMap_bytesOf (size : Nat) {vals : List Nat} {j x : Nat} (h : vals[j]? = some x) (rest : List Byte) :
    num (vals.flatMap (bytesOf size) ++ rest) (j * size) size = x % 256 ^ size := by
  induction vals generalizing j with
  | nil => simp at h
  | cons v vals ih =>
    rw [List.flatMap_cons, List.append_assoc]
    cases j with
    | zero =>
      rw [Nat.zero_mul, num_append_left (by rw [length_bytesOf]; omega), num_bytesOf _ _ _ _ (by omega)]
      simp_all
    | succ j =>
      have len := length_bytesOf size v
      rw [num_append_right (by rw [len]; nlinarith), len, show (j + 1) * size - size = j * size by rw [Nat.succ_mul]; omega]
      exact ih (by simpa using h)

/-- A patch that lies within the bytes. -/
theorem length_patch {b x : List Byte} {off : Nat} (h : off + x.length ≤ b.length) : (patch b off x).length = b.length := by
  simp [patch]; omega

theorem num_patch_inside {b x : List Byte} {off i n : Nat} (h : off ≤ b.length) (lo : off ≤ i) (hi : i + n ≤ off + x.length) :
    num (patch b off x) i n = num x (i - off) n := by
  have len : (b.take off).length = off := by simp [h]
  unfold patch
  rw [List.append_assoc, num_append_right (by omega), len, num_append_left (by omega)]

theorem num_patch_below {b x : List Byte} {off i n : Nat} (h : off ≤ b.length) (hi : i + n ≤ off) :
    num (patch b off x) i n = num b i n := by
  have len : (b.take off).length = off := by simp [h]
  unfold patch
  rw [List.append_assoc, num_append_left (by omega)]
  conv_rhs => rw [← List.take_append_drop off b, num_append_left (by omega)]

end Bytes
end Sys2Proof.Machine

/-! The leaves that a step writes (spec 04 R159, R168, R170). -/

namespace Sys2Proof.Machine
section MadeLeaves

theorem leafKey_spec (key : Nat) : leafKey key % 64 = 0 ∧ leafKey key ≤ key := by
  unfold leafKey
  omega

theorem leafMap_lt (b : List Byte) : leafMap b < 2 ^ 64 := (num_lt b 16 8).trans_eq (by norm_num)

theorem makeLeaf_eq (unit size key map : Nat) (vals : List Nat) :
    makeLeaf unit size key map vals = bytesOf 8 key ++ (bytesOf 8 (vals.length * 65536 + 2) ++ (bytesOf 8 map ++
      (bytesOf 8 0 ++ (vals.flatMap (bytesOf size) ++ bytesOf (unit - (32 + vals.length * size)) 0)))) := by
  simp only [makeLeaf, List.append_assoc, List.length_append, length_bytesOf, length_flatMap_bytesOf]
  rw [show 8 + (8 + (8 + (8 + vals.length * size))) = 32 + vals.length * size by omega]

theorem length_makeLeaf {unit size : Nat} (key map : Nat) {vals : List Nat} (fits : 32 + vals.length * size ≤ unit) :
    (makeLeaf unit size key map vals).length = unit := by
  rw [makeLeaf_eq]
  simp only [List.length_append, length_bytesOf, length_flatMap_bytesOf]
  omega

/-- The fields of a leaf that was made (04 R159). -/
theorem makeLeaf_fields (unit size key map : Nat) (vals : List Nat) (small : vals.length < 256) :
    let b := makeLeaf unit size key map vals
    leafOf b = key % 2 ^ 64 ∧ nodeType b = 2 ∧ nodeLevel b = 0 ∧ nodeCount b = vals.length ∧ leafMap b = map % 2 ^ 64 := by
  intro b
  have second : ∀ off n, 8 ≤ off → off + n ≤ 16 →
      num b off n = (vals.length * 65536 + 2) / 256 ^ (off - 8) % 256 ^ n := fun off n lo hi => by
    rw [show b = _ from makeLeaf_eq .., num_append_right (by rwa [length_bytesOf]), length_bytesOf,
      num_append_left (by rw [length_bytesOf]; omega), num_bytesOf _ _ _ _ (by omega)]
  refine ⟨?_, ?_, ?_, ?_, ?_⟩
  · rw [leafOf, show b = _ from makeLeaf_eq .., num_append_left (by rw [length_bytesOf]), num_bytesOf _ _ _ _ (by omega)]
    norm_num
  · rw [nodeType, second 8 1 (by omega) (by omega)]; norm_num; omega
  · rw [nodeLevel, second 9 1 (by omega) (by omega)]; norm_num; omega
  · rw [nodeCount, second 10 1 (by omega) (by omega)]; norm_num; omega
  · rw [leafMap, show b = _ from makeLeaf_eq .., num_append_right (by simp [length_bytesOf]), length_bytesOf,
      num_append_right (by simp [length_bytesOf]), length_bytesOf, num_append_left (by simp [length_bytesOf]),
      num_bytesOf _ _ _ _ (by omega)]
    norm_num

theorem num_makeLeaf (unit size key map : Nat) {vals : List Nat} {j x : Nat} (h : vals[j]? = some x) :
    num (makeLeaf unit size key map vals) (32 + j * size) size = x % 256 ^ size := by
  rw [makeLeaf_eq]
  iterate 4 rw [num_append_right (by simp only [length_bytesOf]; omega), length_bytesOf]
  rw [show 32 + j * size - 8 - 8 - 8 - 8 = j * size by omega]
  exact num_flatMap_bytesOf size h _

/-- The value of a bit of a leaf that was made. -/
theorem leafValue_makeLeaf (unit size key : Nat) {map : Nat} {vals : List Nat} (small : vals.length < 256)
    (bitmap : map < 2 ^ 64) (bit : Nat) :
    (bitAt map bit = false → leafValue size (makeLeaf unit size key map vals) bit = 0) ∧
    ∀ x, bitAt map bit = true → vals[bitsBelow map bit]? = some x →
      leafValue size (makeLeaf unit size key map vals) bit = x % 256 ^ size := by
  obtain ⟨-, -, -, -, same⟩ := makeLeaf_fields unit size key map vals small
  rw [Nat.mod_eq_of_lt bitmap] at same
  unfold leafValue
  rw [same]
  exact ⟨fun clear => by rw [clear]; rfl, fun x set hx => by rw [set, if_pos rfl]; exact num_makeLeaf _ _ _ _ hx⟩

/-- A leaf's values, by place. -/
theorem getElem?_leafVals (size : Nat) (b : List Byte) {j : Nat} (h : j < bitsBelow (leafMap b) 64) :
    (leafVals size b)[j]? = some (num b (32 + j * size) size) := by
  simp [leafVals, h]

theorem length_leafVals (size : Nat) (b : List Byte) : (leafVals size b).length = bitsBelow (leafMap b) 64 := by
  simp [leafVals]

/-- The value of a bit of a leaf lies in its list of values. -/
theorem leafValue_set {size : Nat} {b : List Byte} {bit : Nat} (set : bitAt (leafMap b) bit = true) (h : bit < 64) :
    ∃ x, (leafVals size b)[bitsBelow (leafMap b) bit]? = some x ∧ x % 256 ^ size = leafValue size b bit := by
  refine ⟨_, getElem?_leafVals size b (bitsBelow_lt set h), ?_⟩
  rw [leafValue, set, if_pos rfl, Nat.mod_eq_of_lt (num_lt ..)]

theorem leafValue_clear {size : Nat} {b : List Byte} {bit : Nat} (clear : bitAt (leafMap b) bit = false) :
    leafValue size b bit = 0 := by
  rw [leafValue, clear]
  rfl

/-- A leaf takes the place of another: it is well formed wherever the other is, and one bit has a new value. -/
structure Revises (size bit v : Nat) (b c : List Byte) : Prop where
  ok : ∀ lo hi, leafOk b lo hi = true → leafOk c lo hi = true
  key : leafOf c = leafOf b
  value : ∀ i, i < 64 → leafValue size c i = if i = bit then v else leafValue size b i

theorem leafOk_iff (b : List Byte) (lo hi : Nat) :
    leafOk b lo hi = true ↔ (nodeType b = 2 ∧ nodeLevel b = 0 ∧ 1 ≤ nodeCount b ∧ nodeCount b ≤ 64 ∧
      leafOf b % 64 = 0) ∧ lo ≤ leafOf b ∧ leafOf b < hi := by
  simp only [leafOk, Bool.and_eq_true, beq_iff_eq, decide_eq_true_eq]
  tauto

/-- A leaf that is made of some values under a bitmap is well formed for its key. -/
theorem makeLeaf_ok (unit size key map : Nat) {vals : List Nat} (some_ : 1 ≤ vals.length) (few : vals.length ≤ 64)
    (aligned : key % 64 = 0) (small : key < 2 ^ 64) {lo hi : Nat} (above : lo ≤ key) (below_ : key < hi) :
    leafOk (makeLeaf unit size key map vals) lo hi = true := by
  obtain ⟨keyOf, type, level, count, -⟩ := makeLeaf_fields unit size key map vals (by omega)
  rw [Nat.mod_eq_of_lt small] at keyOf
  rw [leafOk_iff, keyOf, type, level, count]
  exact ⟨⟨rfl, rfl, some_, few, aligned⟩, above, below_⟩

/-- The same of a leaf that takes another's place. -/
theorem revises_makeLeaf {unit size bit v map : Nat} {vals : List Nat} {b : List Byte} (some_ : 1 ≤ vals.length)
    (few : vals.length ≤ 64)
    (value : ∀ i, i < 64 → leafValue size (makeLeaf unit size (leafOf b) map vals) i =
      if i = bit then v else leafValue size b i) :
    Revises size bit v b (makeLeaf unit size (leafOf b) map vals) := by
  have small : leafOf b < 2 ^ 64 := (num_lt b 0 8).trans_eq (by norm_num)
  obtain ⟨keyOf, -⟩ := makeLeaf_fields unit size (leafOf b) map vals (by omega)
  refine ⟨fun lo hi ok => ?_, keyOf.trans (Nat.mod_eq_of_lt small), value⟩
  obtain ⟨⟨-, -, -, -, aligned⟩, above, below_⟩ := (leafOk_iff b lo hi).1 ok
  exact makeLeaf_ok _ _ _ _ some_ few aligned small above below_

variable {size bit v : Nat} {b : List Byte}

/-- Another value for a bit that has one (04 R168). -/
theorem revises_replaced (unit : Nat) (hbit : bit < 64) (set : bitAt (leafMap b) bit = true) (hv : v < 256 ^ size) :
    let j := bitsBelow (leafMap b) bit
    Revises size bit v b (makeLeaf unit size (leafOf b) (leafMap b)
      ((leafVals size b).take j ++ [v] ++ (leafVals size b).drop (j + 1))) := by
  intro j
  have here : j < bitsBelow (leafMap b) 64 := bitsBelow_lt set hbit
  have few := bitsBelow_le (leafMap b) 64
  have form : (leafVals size b).take j ++ [v] ++ (leafVals size b).drop (j + 1) = (leafVals size b).set j v := by
    rw [List.set_eq_take_append_cons_drop, if_pos (by rwa [length_leafVals]), List.append_assoc]; rfl
  rw [form]
  have len : ((leafVals size b).set j v).length = bitsBelow (leafMap b) 64 := by rw [List.length_set, length_leafVals]
  refine revises_makeLeaf (by omega) (by omega) fun i hi => ?_
  obtain ⟨zero, value⟩ := leafValue_makeLeaf unit size (leafOf b) (map := leafMap b) (vals := (leafVals size b).set j v)
    (by omega) (leafMap_lt b) i
  by_cases mine : i = bit
  · subst mine
    rw [if_pos rfl, value v set (by rw [List.getElem?_set, if_pos rfl, if_pos (by rwa [length_leafVals])]),
      Nat.mod_eq_of_lt hv]
  · rw [if_neg mine]
    cases other : bitAt (leafMap b) i with
    | false => rw [zero other, leafValue_clear other]
    | true =>
      obtain ⟨x, hx, e⟩ := leafValue_set (size := size) other hi
      have apart : j ≠ bitsBelow (leafMap b) i := by
        rcases Nat.lt_or_gt_of_ne mine with h | h
        · exact (bitsBelow_lt other h).ne'
        · exact (bitsBelow_lt set h).ne
      rw [value x other (by rw [List.getElem?_set, if_neg apart]; exact hx), e]

/-- A list with a value put in at a place. -/
theorem getElem?_inserted {xs : List Nat} {j : Nat} (h : j ≤ xs.length) (x i : Nat) :
    (xs.take j ++ [x] ++ xs.drop j)[i]? = if i < j then xs[i]? else if i = j then some x else xs[i - 1]? := by
  have len : (xs.take j).length = j := by simp [h]
  rw [List.append_assoc, List.getElem?_append, len]
  rcases Nat.lt_trichotomy i j with low | rfl | high
  · rw [if_pos low, if_pos low, List.getElem?_take_of_lt low]
  · simp
  · obtain ⟨k, rfl⟩ : ∃ k, i = j + k + 1 := ⟨i - j - 1, by omega⟩
    rw [if_neg (by omega), if_neg (by omega), if_neg (by omega), show j + k + 1 - j = k + 1 by omega, List.cons_append,
      List.getElem?_cons_succ, List.nil_append, List.getElem?_drop, Nat.add_sub_cancel]

/-- A value for a bit without one (04 R168). -/
theorem revises_inserted (unit : Nat) (hbit : bit < 64) (clear : bitAt (leafMap b) bit = false) (hv : v < 256 ^ size) :
    let j := bitsBelow (leafMap b) bit
    Revises size bit v b (makeLeaf unit size (leafOf b) (leafMap b + 2 ^ bit)
      ((leafVals size b).take j ++ [v] ++ (leafVals size b).drop j)) := by
  intro j
  have here : j ≤ bitsBelow (leafMap b) 64 := bitsBelow_mono _ hbit.le
  have bound := lt_two_pow_set clear (leafMap_lt b) hbit
  have few := bitsBelow_le (leafMap b + 2 ^ bit) 64
  rw [bitsBelow_set clear, if_pos hbit] at few
  have at_ := getElem?_inserted (xs := leafVals size b) (j := j) (by rwa [length_leafVals]) v
  have len : ((leafVals size b).take j ++ [v] ++ (leafVals size b).drop j).length = bitsBelow (leafMap b) 64 + 1 := by
    simp only [List.length_append, List.length_take, List.length_drop, List.length_singleton, length_leafVals]
    omega
  generalize (leafVals size b).take j ++ [v] ++ (leafVals size b).drop j = vals at *
  refine revises_makeLeaf (by omega) (by omega) fun i hi => ?_
  obtain ⟨zero, value⟩ := leafValue_makeLeaf unit size (leafOf b) (vals := vals) (by omega) bound i
  rw [bitAt_set clear, bitsBelow_set clear, at_] at value
  rw [bitAt_set clear] at zero
  by_cases mine : i = bit
  · subst mine
    rw [if_pos rfl, value v (by simp) (by simp [j]), Nat.mod_eq_of_lt hv]
  · rw [if_neg mine]
    rw [show (i == bit) = false from beq_eq_false_iff_ne.2 mine, Bool.false_or] at zero value
    cases other : bitAt (leafMap b) i with
    | false => rw [zero other, leafValue_clear other]
    | true =>
      obtain ⟨x, hx, e⟩ := leafValue_set (size := size) other hi
      rw [value x other ?_, e]
      rcases Nat.lt_or_gt_of_ne mine with h | h
      · rwa [if_neg (Nat.not_lt.2 h.le), Nat.add_zero, if_pos (bitsBelow_lt other h)]
      · have := bitsBelow_mono (leafMap b) h.le
        rwa [if_pos h, if_neg (by omega), if_neg (by omega), Nat.add_sub_cancel]

/-- The value of a bit that is not alone goes (04 R170). -/
theorem revises_removed (unit : Nat) (hbit : bit < 64) (set : bitAt (leafMap b) bit = true) (more : leafMap b ≠ 2 ^ bit) :
    let j := bitsBelow (leafMap b) bit
    Revises size bit 0 b (makeLeaf unit size (leafOf b) (leafMap b - 2 ^ bit)
      ((leafVals size b).take j ++ (leafVals size b).drop (j + 1))) := by
  intro j
  obtain ⟨clear, sum⟩ := bitAt_taken set
  have bound : leafMap b - 2 ^ bit < 2 ^ 64 := (Nat.sub_le _ _).trans_lt (leafMap_lt b)
  have here : j < bitsBelow (leafMap b) 64 := bitsBelow_lt set hbit
  have few := bitsBelow_le (leafMap b) 64
  have some_ := bitsBelow_pos (m := leafMap b - 2 ^ bit) (by omega) bound
  have bits : ∀ i, bitAt (leafMap b) i = (i == bit || bitAt (leafMap b - 2 ^ bit) i) := fun i => by
    conv_lhs => rw [← sum, bitAt_set clear]
  have counts : ∀ n, bitsBelow (leafMap b) n = bitsBelow (leafMap b - 2 ^ bit) n + if bit < n then 1 else 0 := fun n => by
    conv_lhs => rw [← sum, bitsBelow_set clear]
  have total := counts 64
  rw [if_pos hbit] at total
  rw [← List.eraseIdx_eq_take_drop_succ]
  have len : ((leafVals size b).eraseIdx j).length = bitsBelow (leafMap b) 64 - 1 := by
    rw [List.length_eraseIdx, if_pos (by rwa [length_leafVals]), length_leafVals]
  refine revises_makeLeaf (by omega) (by omega) fun i hi => ?_
  obtain ⟨zero, value⟩ := leafValue_makeLeaf unit size (leafOf b) (map := leafMap b - 2 ^ bit)
    (vals := (leafVals size b).eraseIdx j) (by omega) bound i
  by_cases mine : i = bit
  · subst mine
    rw [if_pos rfl, zero clear]
  · rw [if_neg mine]
    have same := bits i
    rw [show (i == bit) = false from beq_eq_false_iff_ne.2 mine, Bool.false_or] at same
    cases other : bitAt (leafMap b) i with
    | false => rw [zero (same ▸ other), leafValue_clear other]
    | true =>
      obtain ⟨x, hx, e⟩ := leafValue_set (size := size) other hi
      rw [value x (same ▸ other) ?_, e]
      rw [List.getElem?_eraseIdx]
      have count := counts i
      rcases Nat.lt_or_gt_of_ne mine with h | h
      · rw [if_neg (by omega)] at count
        have : bitsBelow (leafMap b) i < j := bitsBelow_lt other h
        rw [if_pos (by omega), ← hx]
        congr 1
        omega
      · rw [if_pos h] at count
        have : j < bitsBelow (leafMap b) i := bitsBelow_lt set h
        rw [if_neg (by omega), ← hx]
        congr 1
        omega

end MadeLeaves
end Sys2Proof.Machine

/-! Steps of the index engine: reads through the buffer, and the descent to a leaf (spec 04 R162, R164, R168). -/

namespace Sys2Proof.Machine
section Steps

variable {α β : Type}

theorem Step.bind_ok {x : Step α} {f : α → Step β} {buf buf' : Map Node} {a : α} (h : x buf = .ok (a, buf')) :
    (x >>= f) buf = f a buf' := by
  show (x buf >>= fun p => f p.1 p.2) = _
  rw [h]
  rfl

theorem Step.pure_apply (a : α) (buf : Map Node) : (pure a : Step α) buf = .ok (a, buf) := rfl

theorem writeNode_apply (va : Nat) (b : List Byte) (buf : Map Node) :
    writeNode va b buf = .ok ((), mput buf va ⟨b, true⟩) := rfl

/-- A node that a step's buffer holds. -/
def InBuffer (buf : Map Node) (va _n : Nat) (b : List Byte) : Prop := ∃ d, mfind? buf va = some ⟨b, d⟩

/-- A node as a step with a buffer reads it. -/
def State.Shows (s : State) (r : Region) (buf : Map Node) (va n : Nat) (b : List Byte) : Prop :=
  InBuffer buf va n b ∨ (mfind? buf va = none ∧ s.NodeAt r va n b)

/-- A node that a step has read and left as it was, on pages whose A bits are set. -/
def State.Idle (s : State) (r : Region) (x : Nat × Node) : Prop :=
  x.2.dirty = false ∧ ∀ p ∈ pagePieces x.1 x.2.bytes.length, s.engineTouch r.ctx p.1 false = s

/-- A buffer after reads: what it held it holds, and it holds nodes that were read besides. -/
structure State.ReadOn (s : State) (r : Region) (buf buf' : Map Node) : Prop where
  kept : ∀ a x, mfind? buf a = some x → mfind? buf' a = some x
  idle : ∀ x ∈ buf', x ∈ buf ∨ s.Idle r x

variable {s : State} {r : Region} {buf buf' : Map Node}

theorem State.ReadOn.refl (s : State) (r : Region) (buf : Map Node) : s.ReadOn r buf buf := ⟨fun _ _ h => h, fun _ h => .inl h⟩

theorem State.ReadOn.trans {buf'' : Map Node} (a : s.ReadOn r buf buf') (b : s.ReadOn r buf' buf'') : s.ReadOn r buf buf'' :=
  ⟨fun x y h => b.kept x y (a.kept x y h), fun x h => (b.idle x h).elim (a.idle x) .inr⟩

theorem State.ReadOn.inBuffer (h : s.ReadOn r buf buf') {va n : Nat} {b : List Byte} (e : InBuffer buf va n b) :
    InBuffer buf' va n b := by
  obtain ⟨d, e⟩ := e
  exact ⟨d, h.kept _ _ e⟩

theorem mem_mput {m : Map α} {k : Nat} {y : α} {x : Nat × α} (h : x ∈ mput m k y) : x = (k, y) ∨ x ∈ m := by
  induction m with
  | nil => exact .inl (List.mem_singleton.1 h)
  | cons z m ih =>
    obtain ⟨j, v⟩ := z
    rw [mput] at h
    split at h
    · exact (List.mem_cons.1 h).imp_right (List.mem_cons_of_mem _)
    · split at h
      · exact List.mem_cons.1 h
      · rcases List.mem_cons.1 h with rfl | h
        · exact .inr (List.mem_cons_self ..)
        · exact (ih h).imp_right (List.mem_cons_of_mem _)

/-- What two reads of a node show is the same. -/
theorem State.Shows.unique {va n : Nat} {b c : List Byte} (hb : s.Shows r buf va n b) (hc : s.Shows r buf va n c) : b = c := by
  rcases hb with ⟨d, e⟩ | ⟨e, read, -⟩ <;> rcases hc with ⟨d', e'⟩ | ⟨e', read', -⟩ <;> rw [e] at e'
  · exact congrArg Node.bytes (Option.some.inj e')
  · cases e'
  · cases e'
  · exact Except.ok.inj (read.symm.trans read')

/-! Pages of a range. -/

theorem mapM_ok {ε : Type} {f : α → Except ε β} {xs : List α} {ys : List β} (h : xs.mapM f = .ok ys) :
    List.Forall₂ (fun x y => f x = .ok y) xs ys := by
  induction xs generalizing ys with
  | nil => cases h; exact .nil
  | cons x xs ih =>
    rw [List.mapM_cons] at h
    cases hx : f x with
    | error e => rw [hx] at h; cases h
    | ok y =>
      rw [hx] at h
      cases hxs : xs.mapM f with
      | error e => rw [hxs] at h; cases h
      | ok zs =>
        rw [hxs] at h
        cases h
        exact .cons hx (ih hxs)

/-- The pieces of a range have its length together. -/
theorem sum_pagePieces (va n : Nat) : ((pagePieces va n).map Prod.snd).sum = n := by
  unfold pagePieces
  split
  · next e => simp [e]
  · next some_ =>
    rw [List.map_map]
    suffices key : ∀ m, ((List.range (m + 1)).map (Prod.snd ∘ fun i =>
        let lo := max va ((va / 4096 + i) * 4096)
        (lo, min (va + n) ((va / 4096 + i + 1) * 4096) - lo))).sum = min (va + n) ((va / 4096 + m + 1) * 4096) - va by
      rw [key]
      omega
    intro m
    induction m with
    | zero => simp; omega
    | succ m ih =>
      rw [List.range_succ, List.map_append, List.sum_append, ih]
      simp only [Function.comp_apply, List.map_cons, List.map_nil, List.sum_cons, List.sum_nil]
      omega

theorem unitPieces_lengths {ctx va n : Nat} {kind : AccKind} {ps : List (Nat × Nat)}
    (h : s.unitPieces ctx va n kind = .ok ps) : ps.map Prod.snd = (pagePieces va n).map Prod.snd := by
  have all := mapM_ok h
  generalize pagePieces va n = xs at all
  clear h
  induction all with
  | nil => rfl
  | @cons p q _ _ hx _ ih =>
    rw [List.map_cons, List.map_cons, ih]
    cases e : s.unitAccess ctx p.1 p.2 kind with
    | error _ => rw [e] at hx; cases hx
    | ok pa => rw [e] at hx; cases hx; rfl

theorem length_unitRead {ctx va n : Nat} {b : List Byte} (h : s.unitRead ctx va n = .ok b) : b.length = n := by
  unfold State.unitRead at h
  cases e : s.unitPieces ctx va n .load with
  | error _ => rw [e] at h; cases h
  | ok ps =>
    rw [e] at h
    obtain rfl := Except.ok.inj h
    have : ∀ p : Nat × Nat, (s.readHome p.1 p.2).length = p.2 := fun p => by simp [State.readHome, memBytes]
    simp only [List.length_flatMap, this]
    exact (congrArg List.sum (unitPieces_lengths e)).trans (sum_pagePieces va n)

/-! Reads. -/

/-- A read of a node that a step shows: it is in the buffer then, and no other node is read. -/
theorem readNode_shows {va n : Nat} {b : List Byte} (h : s.Shows r buf va n b) :
    ∃ buf', readNode s r va n buf = .ok (b, buf') ∧ s.ReadOn r buf buf' ∧ InBuffer buf' va n b ∧
      ∀ a, a ≠ va → mfind? buf' a = mfind? buf a := by
  rcases h with ⟨d, e⟩ | ⟨e, read, touch⟩
  · refine ⟨buf, ?_, .refl s r buf, ⟨d, e⟩, fun _ _ => rfl⟩
    show (match mfind? buf va with
      | some x => (pure x.bytes : Step _)
      | none => _) buf = _
    rw [e]
    rfl
  · refine ⟨mput buf va ⟨b, false⟩, ?_, ⟨fun a x ha => ?_, fun x hx => ?_⟩, ⟨false, mfind?_mput_same ..⟩,
      fun a ha => mfind?_mput_other _ _ _ _ ha⟩
    · show (match mfind? buf va with
        | some x => (pure x.bytes : Step _)
        | none => match s.unitRead r.ctx va n with
          | .error e => stopStep e
          | .ok b => _) buf = _
      rw [e, read]
      rfl
    · rw [mfind?_mput_other _ _ _ _ (fun he => by rw [he, e] at ha; cases ha)]
      exact ha
    · rcases mem_mput hx with rfl | hx
      · exact .inr ⟨rfl, by rw [length_unitRead read]; exact touch⟩
      · exact .inl hx

/-- The buffer's other nodes show the same after a read. -/
theorem State.Shows.of_other {a va n : Nat} {b : List Byte} (same : ∀ a, a ≠ va → mfind? buf' a = mfind? buf a)
    (ne : a ≠ va) (h : s.Shows r buf a n b) : s.Shows r buf' a n b := by
  unfold State.Shows InBuffer at h ⊢
  rwa [same a ne]

theorem interior_shows {sh : Shard} {va : Nat} {level : Option Nat} {b : List Byte} (h : s.Shows r buf va 256 b)
    (ok : interiorOk b sh (va == sh.root) (level.getD (nodeLevel b)) = true) :
    ∃ buf', interior s r sh va level buf = .ok (b, buf') ∧ s.ReadOn r buf buf' ∧ InBuffer buf' va 256 b ∧
      ∀ a, a ≠ va → mfind? buf' a = mfind? buf a := by
  obtain ⟨buf', run, rest⟩ := readNode_shows h
  refine ⟨buf', ?_, rest⟩
  unfold interior
  rw [Step.bind_ok run, ok]
  rfl

theorem leaf_shows {va lo hi : Nat} {b : List Byte} (h : s.Shows r buf va r.unit b) (ok : leafOk b lo hi = true) :
    ∃ buf', leaf s r va lo hi buf = .ok (b, buf') ∧ s.ReadOn r buf buf' ∧ InBuffer buf' va r.unit b ∧
      ∀ a, a ≠ va → mfind? buf' a = mfind? buf a := by
  obtain ⟨buf', run, rest⟩ := readNode_shows h
  refine ⟨buf', ?_, rest⟩
  unfold leaf
  rw [Step.bind_ok run, ok]
  rfl

end Steps

/-! Descents (04 R162, R168). -/

section Descents

/-- The bounds of the keys under a child. -/
def childLo (es : List (Nat × Nat)) (j lo : Nat) : Nat := if j = 0 then lo else max lo (es.getD j (0, 0)).1
def childHi (es : List (Nat × Nat)) (j hi : Nat) : Nat :=
  match es[j + 1]? with
  | some y => min hi y.1
  | none => hi

/-- The descent of State.LeafFor through nodes that a predicate gives. -/
def PathBy (N : Nat → Nat → List Byte → Prop) (r : Region) (sh : Shard) (key : Nat) (res : Option (Nat × List Byte)) :
    Nat → Nat → Nat → Nat → List Nat → Prop
  | 0, va, lo, hi, seen => ∃ b, N va r.unit b ∧ va ∉ seen ∧ leafOk b lo hi = true ∧ res = some (va, b)
  | n + 1, va, lo, hi, seen => ∃ b, N va 256 b ∧ va ∉ seen ∧ interiorOk b sh (va == sh.root) (n + 1) = true ∧
      let es := nodeEntries b
      let j := childAt es (leafKey key)
      let x := es.getD j (0, 0)
      (x.2 = noUnit ∧ res = none) ∨
      (x.2 ≠ noUnit ∧ PathBy N r sh key res n (r.unitVa x.2) (childLo es j lo) (childHi es j hi) (va :: seen))

/-- The leaf for a key in a region of one shard, as State.LeafOf has it, through nodes that a predicate gives. -/
def LeafBy (N : Nat → Nat → List Byte → Prop) (r : Region) (key : Nat) (root : List Byte) (res : Option (Nat × List Byte)) :
    Prop :=
  teShards r.e = 1 ∧ N (teBase r.e) 256 root ∧
    ∃ n, PathBy N r ⟨teBase r.e, 0, num root 0 4⟩ key res (n + 1) (teBase r.e) 0 (2 ^ 64) []

variable {s : State} {r : Region} {sh : Shard} {key : Nat} {res : Option (Nat × List Byte)} {root : List Byte}
  {buf buf' : Map Node} {N M : Nat → Nat → List Byte → Prop}

theorem State.LeafFor.pathBy {n va lo hi : Nat} {seen : List Nat} (h : s.LeafFor r sh key res n va lo hi seen) :
    PathBy (s.NodeAt r) r sh key res n va lo hi seen := by
  induction n generalizing va lo hi seen with
  | zero => exact h
  | succ n ih =>
    obtain ⟨b, node, fresh, ok, next⟩ := h
    exact ⟨b, node, fresh, ok, next.imp_right fun ⟨child, path⟩ => ⟨child, ih path⟩⟩

/-- A region as the memory holds it is what a step with an empty buffer shows. -/
theorem State.LeafOf.leafBy (h : s.LeafOf r key root res) : LeafBy (s.Shows r []) r key root res := by
  have shows_ : ∀ a n b, s.NodeAt r a n b → s.Shows r [] a n b := fun a n b h => .inr ⟨rfl, h⟩
  obtain ⟨one, node, n, path⟩ := h
  refine ⟨one, shows_ _ _ _ node, n, ?_⟩
  have := path.pathBy
  rwa [show s.Shows r [] = s.NodeAt r from funext fun a => funext fun n => funext fun b => propext
    ⟨fun h => h.elim (fun ⟨_, e⟩ => by cases e) And.right, shows_ a n b⟩]

/-- Only nodes at addresses that were not seen matter. -/
theorem PathBy.mono {n va lo hi : Nat} {seen : List Nat} (h : PathBy N r sh key res n va lo hi seen)
    (imp : ∀ a k b, a ∉ seen → N a k b → M a k b) : PathBy M r sh key res n va lo hi seen := by
  induction n generalizing va lo hi seen with
  | zero =>
    obtain ⟨b, node, fresh, rest⟩ := h
    exact ⟨b, imp _ _ _ fresh node, fresh, rest⟩
  | succ n ih =>
    obtain ⟨b, node, fresh, ok, next⟩ := h
    exact ⟨b, imp _ _ _ fresh node, fresh, ok, next.imp_right fun ⟨child, path⟩ =>
      ⟨child, ih path fun a k b ha => imp a k b fun h => ha (List.mem_cons_of_mem _ h)⟩⟩

/-- The descent is that of every key of the same leaf. -/
theorem PathBy.of_leafKey {k n va lo hi : Nat} {seen : List Nat} (same : leafKey k = leafKey key)
    (h : PathBy N r sh key res n va lo hi seen) : PathBy N r sh k res n va lo hi seen := by
  induction n generalizing va lo hi seen with
  | zero => exact h
  | succ n ih =>
    obtain ⟨b, node, fresh, ok, next⟩ := h
    refine ⟨b, node, fresh, ok, ?_⟩
    rw [same]
    exact next.imp_right fun ⟨child, path⟩ => ⟨child, ih path⟩

/-- The leaf that a descent reaches is a node of its own. -/
theorem PathBy.reached {n va lo hi a : Nat} {b : List Byte} {seen : List Nat}
    (h : PathBy N r sh key (some (a, b)) n va lo hi seen) : a ∉ seen ∧ N a r.unit b ∧ (0 < n → a ≠ va) := by
  induction n generalizing va lo hi seen with
  | zero =>
    obtain ⟨c, node, fresh, -, e⟩ := h
    obtain ⟨rfl, rfl⟩ := Prod.mk.inj (Option.some.inj e)
    exact ⟨fresh, node, fun h => absurd h (lt_irrefl _)⟩
  | succ n ih =>
    obtain ⟨c, node, fresh, ok, ⟨-, e⟩ | ⟨child, path⟩⟩ := h
    · cases e
    · obtain ⟨out, here, -⟩ := ih path
      rw [List.mem_cons, not_or] at out
      exact ⟨out.2, here, fun _ => out.1⟩

/-- Another leaf in the place of the one that a descent reaches. -/
theorem PathBy.revised {n va lo hi a : Nat} {b c : List Byte} {seen : List Nat}
    (h : PathBy N r sh key (some (a, b)) n va lo hi seen) (others : ∀ x k d, x ≠ a → N x k d → M x k d)
    (here : M a r.unit c) (ok : ∀ lo hi, leafOk b lo hi = true → leafOk c lo hi = true) :
    PathBy M r sh key (some (a, c)) n va lo hi seen := by
  induction n generalizing va lo hi seen with
  | zero =>
    obtain ⟨d, node, fresh, fine, e⟩ := h
    obtain ⟨rfl, rfl⟩ := Prod.mk.inj (Option.some.inj e)
    exact ⟨c, here, fresh, ok _ _ fine, rfl⟩
  | succ n ih =>
    have ne := h.reached.2.2 (Nat.succ_pos n)
    obtain ⟨d, node, fresh, fine, ⟨-, e⟩ | ⟨child, path⟩⟩ := h
    · cases e
    · exact ⟨d, others _ _ _ (Ne.symm ne) node, fresh, fine, .inr ⟨child, ih path⟩⟩

theorem interiorOk_level {b : List Byte} {root : Bool} {n : Nat} (h : interiorOk b sh root n = true) :
    nodeLevel b = n ∧ n ≤ 32 := by
  simp only [interiorOk, Bool.and_eq_true, beq_iff_eq, decide_eq_true_eq] at h
  exact ⟨h.1.1.1.1.2, h.1.1.2⟩

/-- One node of a descent. -/
theorem descend_step {fuel va lo hi : Nat} {level : Option Nat} {path : List PathNode} {b : List Byte}
    (read : interior s r sh va level buf = .ok (b, buf')) :
    descend s r sh key (fuel + 1) va level lo hi path buf =
      let es := nodeEntries b
      let j := childAt es key
      let path := ⟨va, b, nodeLevel b, j⟩ :: path
      let x := es.getD j (0, 0)
      if x.2 = noUnit then .ok ((path, none), buf')
      else if nodeLevel b = 1 then
        ((leaf s r (r.unitVa x.2) (childLo es j lo) (childHi es j hi)) >>=
          fun c => (pure (path, some (r.unitVa x.2, c)) : Step _)) buf'
      else descend s r sh key fuel (r.unitVa x.2) (some (nodeLevel b - 1)) (childLo es j lo) (childHi es j hi) path buf' := by
  rw [descend, Step.bind_ok read]
  dsimp only
  split
  · rfl
  · split <;> rfl

/-- The descent for a key, through nodes that the buffer shows: the nodes passed are in the buffer then. -/
theorem descend_path {n fuel va lo hi : Nat} {level : Option Nat} {seen : List Nat} {path : List PathNode}
    (h : PathBy (s.Shows r buf) r sh key res (n + 1) va lo hi seen) (enough : n < fuel)
    (hlevel : level = none ∨ level = some (n + 1)) :
    ∃ up buf', descend s r sh (leafKey key) fuel va level lo hi path buf = .ok ((up ++ path, res), buf') ∧
      s.ReadOn r buf buf' ∧ PathBy (InBuffer buf') r sh key res (n + 1) va lo hi seen ∧
      ∀ b, s.Shows r buf va 256 b → n = 0 → up = [⟨va, b, 1, childAt (nodeEntries b) (leafKey key)⟩] := by
  induction n generalizing fuel va lo hi level seen path buf with
  | zero =>
    obtain ⟨fuel, rfl⟩ : ∃ k, fuel = k + 1 := ⟨fuel - 1, by omega⟩
    obtain ⟨b, node, fresh, ok, next⟩ := h
    obtain ⟨lvl, -⟩ := interiorOk_level ok
    obtain ⟨buf₁, read, on, in_, same⟩ := interior_shows (level := level) node (by
      rcases hlevel with rfl | rfl
      · rw [Option.getD_none, lvl]; exact ok
      · exact ok)
    rw [descend_step read]
    dsimp only at next ⊢
    rw [lvl]
    have only : ∀ c, s.Shows r buf va 256 c → c = b := fun c hc => hc.unique node
    rcases next with ⟨none_, rfl⟩ | ⟨child, c, shown, unseen, fine, rfl⟩
    · rw [if_pos none_]
      exact ⟨[_], buf₁, rfl, on, ⟨b, in_, fresh, ok, .inl ⟨none_, rfl⟩⟩, fun c hc _ => by rw [only c hc]⟩
    · rw [if_neg child, if_pos rfl]
      have apart : r.unitVa ((nodeEntries b).getD (childAt (nodeEntries b) (leafKey key)) (0, 0)).2 ≠ va := fun e =>
        unseen (e ▸ List.mem_cons_self ..)
      obtain ⟨buf₂, run, on', in', same'⟩ := leaf_shows (shown.of_other same apart) fine
      rw [Step.bind_ok run]
      exact ⟨[_], buf₂, rfl, on.trans on', ⟨b, on'.inBuffer in_, fresh, ok, .inr ⟨child, c, in', unseen, fine, rfl⟩⟩,
        fun c hc _ => by rw [only c hc]⟩
  | succ n ih =>
    obtain ⟨fuel, rfl⟩ : ∃ k, fuel = k + 1 := ⟨fuel - 1, by omega⟩
    obtain ⟨b, node, fresh, ok, next⟩ := h
    obtain ⟨lvl, -⟩ := interiorOk_level ok
    obtain ⟨buf₁, read, on, in_, same⟩ := interior_shows (level := level) node (by
      rcases hlevel with rfl | rfl
      · rw [Option.getD_none, lvl]; exact ok
      · exact ok)
    rw [descend_step read]
    dsimp only at next ⊢
    rw [lvl]
    rcases next with ⟨none_, rfl⟩ | ⟨child, rest⟩
    · rw [if_pos none_]
      exact ⟨[_], buf₁, rfl, on, ⟨b, in_, fresh, ok, .inl ⟨none_, rfl⟩⟩, fun _ _ e => absurd e (Nat.succ_ne_zero n)⟩
    · rw [if_neg child, if_neg (by omega)]
      obtain ⟨up, buf₂, run, on', rest', -⟩ := ih (fuel := fuel) (level := some (n + 1)) (path := ⟨va, b, n + 1 + 1, _⟩ :: path)
        (rest.mono fun a k d ha hd => hd.of_other same fun e => ha (e ▸ List.mem_cons_self ..)) (by omega) (.inr rfl)
      exact ⟨up ++ [⟨va, b, n + 1 + 1, _⟩], buf₂, by rw [List.append_assoc]; exact run, on.trans on',
        ⟨b, on'.inBuffer in_, fresh, ok, .inr ⟨child, rest'⟩⟩, fun _ _ e => absurd e (Nat.succ_ne_zero n)⟩

theorem shardTable_one (one : teShards r.e = 1) : shardTable s r = pure [(0, teBase r.e)] := by
  unfold shardTable
  simp only [one, le_refl, if_true]

theorem shardOf_one (a key : Nat) : shardOf [(0, a)] key = 0 := rfl

/-- The only shard of a region, of which the root is read. -/
theorem getShard_shows (h : s.Shows r buf (teBase r.e) 256 root) :
    ∃ buf', getShard s r [(0, teBase r.e)] 0 buf = .ok (⟨teBase r.e, 0, num root 0 4⟩, buf') ∧ s.ReadOn r buf buf' ∧
      InBuffer buf' (teBase r.e) 256 root ∧ ∀ a, a ≠ teBase r.e → mfind? buf' a = mfind? buf a := by
  obtain ⟨buf', run, rest⟩ := readNode_shows h
  refine ⟨buf', ?_, rest⟩
  unfold getShard
  rw [List.getD_cons_zero, Step.bind_ok run]
  simp only [Nat.zero_mul, Nat.zero_add, Nat.one_mul]
  rfl

/-- The descent of a key finds the leaf, and leaves the nodes passed in the buffer. -/
theorem findPath_shows (h : LeafBy (s.Shows r buf) r key root res) :
    ∃ up buf', findPath s r key buf = .ok ((⟨teBase r.e, 0, num root 0 4⟩, up, res), buf') ∧ s.ReadOn r buf buf' ∧
      LeafBy (InBuffer buf') r key root res ∧
      (nodeLevel root = 1 → up = [⟨teBase r.e, root, 1, childAt (nodeEntries root) (leafKey key)⟩]) := by
  obtain ⟨one, node, n, b, shown, fresh, ok, next⟩ := h
  obtain rfl := node.unique shown
  obtain ⟨buf₁, run, on, in_, same⟩ := getShard_shows node
  have path : PathBy (s.Shows r buf₁) r ⟨teBase r.e, 0, num root 0 4⟩ key res (n + 1) (teBase r.e) 0 (2 ^ 64) [] :=
    ⟨root, .inl in_, fresh, ok, next.imp_right fun ⟨child, rest⟩ =>
      ⟨child, rest.mono fun a k d ha hd => hd.of_other same fun e => ha (e ▸ List.mem_cons_self ..)⟩⟩
  obtain ⟨lvl, small⟩ := interiorOk_level ok
  obtain ⟨up, buf₂, run', on', path', single⟩ := descend_path (level := none) (fuel := 33) (path := []) path (by omega) (.inl rfl)
  refine ⟨up, buf₂, ?_, on.trans on', ⟨one, on'.inBuffer in_, n, path'⟩, fun h => single root (.inl in_) (by omega)⟩
  unfold findPath
  rw [shardTable_one one, pure_bind, shardOf_one, Step.bind_ok run, Step.bind_ok run', List.append_nil]
  rfl

/-- The value that SPLD finds in the leaf that a descent reaches. -/
def valueIn (size key : Nat) (res : Option (Nat × List Byte)) : Nat :=
  match res with
  | some y => if leafOf y.2 = leafKey key then leafValue size y.2 (key % 64) else 0
  | none => 0

theorem findLeaf_shows (h : LeafBy (s.Shows r buf) r key root res) :
    ∃ buf', findLeaf s r key buf = .ok (res.bind (fun x => if leafOf x.2 = leafKey key then some x else none), buf') ∧
      s.ReadOn r buf buf' := by
  obtain ⟨up, buf', run, on, -⟩ := findPath_shows h
  refine ⟨buf', ?_, on⟩
  unfold findLeaf
  rw [Step.bind_ok run]
  rfl

theorem readKey_shows (h : LeafBy (s.Shows r buf) r key root res) :
    ∃ buf', readKey s r key buf = .ok (valueIn r.size key res, buf') ∧ s.ReadOn r buf buf' := by
  obtain ⟨buf', run, on⟩ := findLeaf_shows h
  refine ⟨buf', ?_, on⟩
  unfold readKey
  rw [Step.bind_ok run]
  cases res with
  | none => rfl
  | some y =>
    by_cases same : leafOf y.2 = leafKey key
    · simp only [Option.bind_some, valueIn, if_pos same]
      rfl
    · simp only [Option.bind_some, valueIn, if_neg same]
      rfl

end Descents
end Sys2Proof.Machine

/-! Writes of a key, and what a step reads after them (spec 04 R168 to R172). -/

namespace Sys2Proof.Machine
section Writes

variable {α β : Type} {s : State} {r : Region} {key v : Nat} {root b : List Byte} {buf buf' : Map Node}
  {res : Option (Nat × List Byte)}

theorem Step.bind_inv {x : Step α} {f : α → Step β} {y : β × Map Node} (h : (x >>= f) buf = .ok y) :
    ∃ a buf', x buf = .ok (a, buf') ∧ f a buf' = .ok y := by
  change (x buf >>= fun p => f p.1 p.2) = _ at h
  cases e : x buf with
  | error e' => rw [e] at h; cases h
  | ok p => rw [e] at h; exact ⟨p.1, p.2, rfl, h⟩

theorem readNode_inBuffer {va n : Nat} (h : InBuffer buf va n b) : readNode s r va n buf = .ok (b, buf) := by
  obtain ⟨d, e⟩ := h
  show (match mfind? buf va with
    | some x => (pure x.bytes : Step _)
    | none => _) buf = _
  rw [e]
  rfl

theorem inBuffer_mput_same (buf : Map Node) (va n : Nat) (b : List Byte) (d : Bool) : InBuffer (mput buf va ⟨b, d⟩) va n b :=
  ⟨d, mfind?_mput_same ..⟩

theorem InBuffer.mput {va n a : Nat} {x : Node} (h : InBuffer buf va n b) (ne : va ≠ a) : InBuffer (mput buf a x) va n b := by
  obtain ⟨d, e⟩ := h
  exact ⟨d, by rw [mfind?_mput_other _ _ _ _ ne]; exact e⟩

theorem LeafBy.mono {N M : Nat → Nat → List Byte → Prop} (h : LeafBy N r key root res) (imp : ∀ a n b, N a n b → M a n b) :
    LeafBy M r key root res := by
  obtain ⟨one, node, n, path⟩ := h
  exact ⟨one, imp _ _ _ node, n, path.mono fun a k b _ => imp a k b⟩

/-- A read of a key whose descent lies in the buffer. -/
theorem readKey_inBuffer (h : LeafBy (InBuffer buf) r key root res) :
    ∃ buf', readKey s r key buf = .ok (valueIn r.size key res, buf') := by
  obtain ⟨buf', run, -⟩ := readKey_shows (s := s) (h.mono fun _ _ _ e => .inl e)
  exact ⟨buf', run⟩

/-! A key in its leaf. -/

/-- The leaf with a value put in for a key (04 R168). -/
def Region.leafPut (r : Region) (key v : Nat) (b : List Byte) : List Byte :=
  let m := leafMap b
  let j := bitsBelow m (key % 64)
  let held := bitAt m (key % 64)
  makeLeaf r.unit r.size (leafKey key) (if held then m else m + 2 ^ (key % 64))
    ((leafVals r.size b).take j ++ [v] ++ (leafVals r.size b).drop (if held then j + 1 else j))

theorem revises_leafPut (mine : leafOf b = leafKey key) (small : v < 2 ^ (8 * r.size)) :
    Revises r.size (key % 64) v b (r.leafPut key v b) := by
  have hbit : key % 64 < 64 := Nat.mod_lt _ (by norm_num)
  have hv : v < 256 ^ r.size := by rwa [pow_mul] at small
  unfold Region.leafPut
  dsimp only
  rw [← mine]
  cases held : bitAt (leafMap b) (key % 64) with
  | true => exact revises_replaced r.unit hbit held hv
  | false => exact revises_inserted r.unit hbit held hv

/-- A leaf read in its own place, after a leaf that revises it was written there. -/
theorem LeafBy.revised {va bit : Nat} {c : List Byte} (h : LeafBy (InBuffer buf) r key root (some (va, b)))
    (new : Revises r.size bit v b c) : LeafBy (InBuffer (mput buf va ⟨c, true⟩)) r key root (some (va, c)) := by
  obtain ⟨one, node, n, path⟩ := h
  exact ⟨one, node.mput (Ne.symm (path.reached.2.2 (Nat.succ_pos n))), n,
    path.revised (fun x k d ne e => e.mput ne) (inBuffer_mput_same ..) new.ok⟩

/-- A value other than 0 written for a key in its leaf (04 R168): the leaf alone changes. -/
theorem writeKey_put {va : Nat} (h : LeafBy (s.Shows r buf) r key root (some (va, b))) (mine : leafOf b = leafKey key)
    (some_ : 0 < v) :
    ∃ buf', writeKey s r key v buf = .ok ((), mput buf' va ⟨r.leafPut key v b, true⟩) ∧ s.ReadOn r buf buf' ∧
      LeafBy (InBuffer buf') r key root (some (va, b)) := by
  obtain ⟨up, buf', run, on, path, -⟩ := findPath_shows h
  refine ⟨buf', ?_, on, path⟩
  unfold writeKey
  rw [Step.bind_ok run]
  dsimp only
  rw [if_pos mine, if_neg some_.ne']
  unfold Region.leafPut
  cases held : bitAt (leafMap b) (key % 64) <;>
    simp only [held, if_true, if_false, Bool.false_eq_true, writeNode_apply]

/-- 0 written for a key in its leaf deletes it (04 R170); here not the leaf's only one. -/
theorem writeKey_drop {va : Nat} (h : LeafBy (s.Shows r buf) r key root (some (va, b))) (mine : leafOf b = leafKey key)
    (more : leafMap b ≠ 2 ^ (key % 64)) :
    ∃ buf' c, writeKey s r key 0 buf = .ok ((), buf') ∧ Revises r.size (key % 64) 0 b c ∧
      LeafBy (InBuffer buf') r key root (some (va, c)) := by
  have hbit : key % 64 < 64 := Nat.mod_lt _ (by norm_num)
  obtain ⟨up, buf', run, -, path, -⟩ := findPath_shows h
  have shape : writeKey s r key 0 buf = (if !bitAt (leafMap b) (key % 64) then (pure () : Step Unit) else
      writeNode va (makeLeaf r.unit r.size (leafKey key) (leafMap b - 2 ^ (key % 64))
        ((leafVals r.size b).take (bitsBelow (leafMap b) (key % 64)) ++
          (leafVals r.size b).drop (bitsBelow (leafMap b) (key % 64) + 1)))) buf' := by
    unfold writeKey
    rw [Step.bind_ok run]
    dsimp only
    rw [if_pos mine, if_pos rfl, if_neg more]
  rw [shape, ← mine]
  cases held : bitAt (leafMap b) (key % 64) with
  | false =>
    refine ⟨buf', b, rfl, ⟨fun _ _ ok => ok, rfl, fun i _ => ?_⟩, path⟩
    split
    · next e => rw [e, leafValue_clear held]
    · rfl
  | true =>
    have new := revises_removed (size := r.size) r.unit hbit held more
    exact ⟨_, _, rfl, new, path.revised new⟩

/-- What a read gives of a key of a leaf that revises another. -/
theorem valueIn_revised {va k bit : Nat} {c : List Byte} (mine : leafOf b = leafKey k) (new : Revises r.size bit v b c) :
    valueIn r.size k (some (va, c)) = if k % 64 = bit then v else leafValue r.size b (k % 64) := by
  unfold valueIn
  dsimp only
  rw [if_pos (new.key.trans mine), new.value _ (Nat.mod_lt _ (by norm_num))]

end Writes

/-! A root with one child or none (04 R158, R168, R170). -/

section SingleChild

variable {b : List Byte} {u : Nat}

theorem putEntries_single_eq (b : List Byte) (u : Nat) : ∃ rest : List Byte,
    putEntries b 1 [(0, u)] = patch b 8 (bytesOf 8 257 ++ ((List.range 15).flatMap (fun _ => bytesOf 8 0) ++ (bytesOf 4 u ++ rest))) ∧
      rest.length = 60 := by
  refine ⟨(List.range 15).flatMap (fun _ => bytesOf 4 0), ?_, by simp [length_bytesOf]⟩
  have kids : (List.range 16).flatMap (fun i => bytesOf 4 ([u].getD i 0)) =
      bytesOf 4 u ++ (List.range 15).flatMap (fun _ => bytesOf 4 0) := by
    rw [List.range_succ_eq_map, List.flatMap_cons, List.flatMap_map]
    simp
  unfold putEntries
  simp only [List.isEmpty_cons, Bool.false_eq_true, if_false, List.map_cons, List.map_nil, kids, List.drop_succ_cons,
    List.drop_nil, List.getD_nil, List.length_singleton, Nat.sub_self, Nat.zero_mul, Nat.zero_add, Nat.one_mul,
    List.append_assoc, Nat.reduceAdd]

/-- The fields of a node of level 1 with one child. -/
theorem putEntries_single (len : b.length = 256) (small : u < 2 ^ 32) :
    let c := putEntries b 1 [(0, u)]
    (nodeType c = 1 ∧ nodeLevel c = 1 ∧ nodeCount c = 0) ∧ nodeEntries c = [(0, u)] ∧ num c 0 4 = num b 0 4 := by
  intro c
  obtain ⟨rest, form, rlen⟩ := putEntries_single_eq b u
  have wide : ((List.range 15).flatMap (fun _ => bytesOf 8 0)).length = 120 := by simp [length_bytesOf]
  have inside : ∀ i n, 8 ≤ i → i + n ≤ 200 → num c i n =
      num (bytesOf 8 257 ++ ((List.range 15).flatMap (fun _ => bytesOf 8 0) ++ (bytesOf 4 u ++ rest))) (i - 8) n :=
    fun i n lo hi => by
      rw [show c = _ from form, num_patch_inside (by omega) lo (by simp only [List.length_append, length_bytesOf, wide, rlen]; omega)]
  have head : ∀ i n, 8 ≤ i → i + n ≤ 16 → num c i n = 257 / 256 ^ (i - 8) % 256 ^ n := fun i n lo hi => by
    rw [inside i n lo (by omega), num_append_left (by rw [length_bytesOf]; omega), num_bytesOf _ _ _ _ (by omega)]
  have count : nodeCount c = 0 := head 10 1 (by omega) (by omega)
  refine ⟨⟨head 8 1 (by omega) (by omega), head 9 1 (by omega) (by omega), count⟩, ?_, ?_⟩
  · have child : num c 136 4 = u := by
      rw [inside 136 4 (by omega) (by omega), num_append_right (by rw [length_bytesOf]; omega), length_bytesOf,
        num_append_right (by omega), wide, num_append_left (by rw [length_bytesOf]), num_bytesOf _ _ _ _ (by omega)]
      norm_num at small ⊢
      omega
    unfold nodeEntries
    rw [count]
    simp [child]
  · rw [show c = _ from form, num_patch_below (by omega) (by omega)]

/-- A root of level 1 with one child or none is well formed. -/
theorem interiorOk_single {sh : Shard} (len : b.length = 256)
    (child : u = noUnit ∨ u ≠ noUnit ∧ sh.lo ≤ u ∧ u < sh.hi ∧ u < 2 ^ 32) :
    interiorOk (putEntries b 1 [(0, u)]) sh true 1 = true := by
  have small : u < 2 ^ 32 := by
    rcases child with rfl | ⟨-, -, -, h⟩
    · norm_num [noUnit]
    · exact h
  obtain ⟨⟨type, level, count⟩, entries, -⟩ := putEntries_single len small
  simp only [interiorOk, type, level, count, entries]
  rcases child with rfl | ⟨unit_, lo, hi, -⟩
  · simp [keysOk]
  · simp [keysOk, unit_, lo, hi]

end SingleChild
end Sys2Proof.Machine

/-! The first leaf of a tree, and its last (spec 04 R168 to R170). -/

namespace Sys2Proof.Machine
section FirstLeaf

variable {α : Type} {s : State} {r : Region} {sh : Shard} {key v u : Nat} {root b : List Byte} {buf buf' : Map Node}
  {res : Option (Nat × List Byte)}

theorem nodeEntries_single (count : nodeCount b = 0) : ∃ x, nodeEntries b = [(0, x)] ∧ x < 2 ^ 32 := by
  refine ⟨num b 136 4, ?_, (num_lt ..).trans_eq (by norm_num)⟩
  unfold nodeEntries
  rw [count]
  rfl

/-- A tree of one leaf, or none, under a root of level 1 that a step wrote. -/
theorem leafBy_single (one : teShards r.e = 1) (len : b.length = 256)
    (child : u = noUnit ∨ u ≠ noUnit ∧ u < num b 0 4)
    (here : InBuffer buf (teBase r.e) 256 (putEntries b 1 [(0, u)]))
    (reached : (u = noUnit ∧ res = none) ∨ ∃ c, u ≠ noUnit ∧ r.unitVa u ≠ teBase r.e ∧
      InBuffer buf (r.unitVa u) r.unit c ∧ leafOk c 0 (2 ^ 64) = true ∧ res = some (r.unitVa u, c)) :
    LeafBy (InBuffer buf) r key (putEntries b 1 [(0, u)]) res := by
  have bound : num b 0 4 < 2 ^ 32 := (num_lt ..).trans_eq (by norm_num)
  have small : u < 2 ^ 32 := by
    rcases child with rfl | ⟨-, h⟩
    · norm_num [noUnit]
    · exact h.trans bound
  obtain ⟨-, entries, size⟩ := putEntries_single len small
  have ok := interiorOk_single (sh := ⟨teBase r.e, 0, num b 0 4⟩) (u := u) len
    (child.imp_right fun ⟨unit_, h⟩ => ⟨unit_, Nat.zero_le _, h, small⟩)
  refine ⟨one, here, 0, _, here, List.not_mem_nil, by rw [size, beq_self_eq_true]; exact ok, ?_⟩
  dsimp only
  rw [entries]
  rcases reached with none_ | ⟨c, unit_, apart, in_, fine, rfl⟩
  · exact .inl none_
  · exact .inr ⟨unit_, c, in_, fun h => apart (List.mem_singleton.1 h), fine, rfl⟩

/-! The last leaf goes (04 R170). -/

theorem removeUp_single {p : PathNode} {x : Nat} (in_ : InBuffer buf p.va 256 b) (entries : nodeEntries b = [(0, x)])
    (place : p.at_ = 0) :
    removeUp s r sh [p] buf = .ok ((), mput buf p.va ⟨putEntries b 1 [(0, noUnit)], true⟩) := by
  rw [removeUp, Step.bind_ok (readNode_inBuffer in_), entries, place]
  rfl

theorem freeUnit_inBuffer {va n : Nat} (root_ : InBuffer buf sh.root 256 root) (node : InBuffer buf va n b) :
    ∃ c w, freeUnit s r sh va n buf =
      .ok ((), mput (mput buf va ⟨c, true⟩) sh.root ⟨patch root 200 (bytesOf 8 w), true⟩) := by
  refine ⟨patch (patch b 8 [0]) 24 (bytesOf 4 (num root 200 4)), (va - tePool r.e) / r.unit, ?_⟩
  unfold freeUnit
  rw [Step.bind_ok (readNode_inBuffer root_), Step.bind_ok (readNode_inBuffer node),
    Step.bind_ok (writeNode_apply _ _ _), writeNode_apply]

theorem InBuffer.unique {va n : Nat} {c : List Byte} (hb : InBuffer buf va n b) (hc : InBuffer buf va n c) : b = c := by
  obtain ⟨d, hb⟩ := hb
  obtain ⟨d', hc⟩ := hc
  exact congrArg Node.bytes (Option.some.inj (hb.symm.trans hc))

/-- 0 written for the only key of the only leaf: the root is empty then. -/
theorem writeKey_last {va : Nat} (h : s.LeafOf r key root (some (va, b))) (mine : leafOf b = leafKey key)
    (level : nodeLevel root = 1) (count : nodeCount root = 0) (last : leafMap b = 2 ^ (key % 64)) :
    ∃ buf' c, writeKey s r key 0 [] = .ok ((), buf') ∧ LeafBy (InBuffer buf') r key c none := by
  have len : root.length = 256 := length_unitRead h.2.1.1
  obtain ⟨up, buf₁, run, -, ⟨one, in_, n, path⟩, single⟩ := findPath_shows h.leafBy
  obtain ⟨-, leaf_, apart⟩ := path.reached
  obtain ⟨c, w, freed⟩ := freeUnit_inBuffer (s := s) (r := r) (sh := ⟨teBase r.e, 0, num root 0 4⟩) in_ leaf_
  have plen : (patch root 200 (bytesOf 8 w)).length = 256 := by rw [length_patch (by rw [length_bytesOf]; omega), len]
  obtain ⟨x, entries, -⟩ := nodeEntries_single (b := patch root 200 (bytesOf 8 w)) (by
    rw [nodeCount, num_patch_below (by omega) (by omega)]; exact count)
  obtain ⟨y, entries', -⟩ := nodeEntries_single count
  refine ⟨mput (mput (mput buf₁ va ⟨c, true⟩) (teBase r.e) ⟨patch root 200 (bytesOf 8 w), true⟩) (teBase r.e)
    ⟨putEntries (patch root 200 (bytesOf 8 w)) 1 [(0, noUnit)], true⟩, _, ?_,
    leafBy_single one plen (.inl rfl) (inBuffer_mput_same ..) (.inl ⟨rfl, rfl⟩)⟩
  have set : bitAt (leafMap b) (key % 64) = true := by rw [last, bitAt_two_pow, beq_self_eq_true]
  unfold writeKey
  rw [Step.bind_ok run]
  dsimp only
  rw [if_pos mine, if_pos rfl, set, if_neg (by decide), if_pos last, Step.bind_ok freed, single level, entries']
  exact removeUp_single (inBuffer_mput_same ..) entries rfl

/-! The first leaf (04 R168, R169). -/

/-- What follows a check that nodes may be written, when it passes. -/
theorem mayWrite_bind {β : Type} {va n : Nat} {f : Unit → Step β} {y : β × Map Node}
    (h : (mayWrite s r va n >>= f) buf = .ok y) : f () buf = .ok y := by
  obtain ⟨_, _, run, rest⟩ := Step.bind_inv h
  unfold mayWrite at run
  cases e : firstStop ((s.unitStops r.ctx va n .store).filter (fun e => !e.isSeal)) with
  | some e' => rw [e] at run; cases run
  | none => rw [e] at run; cases run; exact rest

theorem forM_mayWrite_bind {β : Type} {f : α → Nat} {n : Nat} {xs : List α} {k : Unit → Step β} {y : β × Map Node}
    (h : ((xs.forM fun x => mayWrite s r (f x) n) >>= k) buf = .ok y) : k () buf = .ok y := by
  induction xs with
  | nil => exact h
  | cons x xs ih =>
    change ((mayWrite s r (f x) n >>= fun _ => xs.forM fun x => mayWrite s r (f x) n) >>= k) buf = .ok y at h
    rw [bind_assoc] at h
    exact ih (mayWrite_bind h)

/-- A read changes the buffer at its own node alone. -/
theorem readNode_other {va n a : Nat} {b : List Byte} (h : readNode s r va n buf = .ok (b, buf')) (ne : a ≠ va) :
    mfind? buf' a = mfind? buf a := by
  change (match mfind? buf va with
    | some x => (pure x.bytes : Step _)
    | none => match s.unitRead r.ctx va n with
      | .error e => stopStep e
      | .ok b => (do set (mput buf va ⟨b, false⟩); return b)) buf = _ at h
  cases held : mfind? buf va with
  | some x => rw [held] at h; cases h; rfl
  | none =>
    rw [held] at h
    cases read : s.unitRead r.ctx va n with
    | error e => rw [read] at h; cases h
    | ok c => rw [read] at h; cases h; exact mfind?_mput_other _ _ _ _ ne

/-- One unit taken: of the sub-pool, and of the other nodes none is touched. -/
theorem takeUnits_one {free bump : Nat} {us : List Nat} {f p : Nat}
    (h : takeUnits s r sh 1 free bump [] buf = .ok (some (us, f, p), buf')) :
    ∃ u, us = [u] ∧ u < sh.hi ∧ ∀ a, a ≠ r.unitVa u → mfind? buf' a = mfind? buf a := by
  rw [takeUnits] at h
  by_cases listed : free ≠ noUnit
  · rw [if_pos listed] at h
    by_cases outside : (decide (free < sh.lo) || decide (sh.hi ≤ free) || [].contains free) = true
    · rw [if_pos outside] at h
      cases h
    · rw [if_neg outside] at h
      obtain ⟨b, buf₁, read, rest⟩ := Step.bind_inv (mayWrite_bind h)
      dsimp only at rest
      split at rest
      · cases rest
      · rw [takeUnits] at rest
        cases rest
        simp only [Bool.or_eq_true, decide_eq_true_eq, not_or] at outside
        exact ⟨free, rfl, by omega, fun a ha => readNode_other read ha⟩
  · rw [if_neg listed] at h
    by_cases room : bump < sh.hi
    · rw [if_pos room, takeUnits] at h
      cases h
      exact ⟨bump, rfl, room, fun _ _ => rfl⟩
    · rw [if_neg room] at h
      cases h

/-- One unit allocated from a root in the buffer. -/
theorem allocate_one {us : List Nat} (in_ : InBuffer buf sh.root 256 root)
    (h : allocate_ s r sh 1 buf = .ok (us, buf')) :
    ∃ u w, us = [u] ∧ u < sh.hi ∧ w.length = 16 ∧ InBuffer buf' sh.root 256 (patch root 200 w) := by
  unfold allocate_ at h
  replace h := mayWrite_bind h
  rw [Step.bind_ok (readNode_inBuffer in_)] at h
  obtain ⟨got, buf₁, taken, rest⟩ := Step.bind_inv h
  cases bad : (decide (num root 208 4 < sh.lo) || decide (sh.hi < num root 208 4)) with
  | true => rw [bad] at rest; cases rest
  | false =>
    rw [bad] at rest taken
    cases got with
    | none => cases rest
    | some x =>
      obtain ⟨us', f, p⟩ := x
      obtain ⟨u, rfl, small, -⟩ := takeUnits_one taken
      replace rest := forM_mayWrite_bind rest
      rw [Step.bind_ok (writeNode_apply _ _ _)] at rest
      cases rest
      exact ⟨u, _, rfl, small, by simp [length_bytesOf], inBuffer_mput_same ..⟩

theorem childAt_lt {es : List (Nat × Nat)} (some_ : es ≠ []) (key : Nat) : childAt es key < es.length := by
  unfold childAt
  cases e : (below es.length (fun j => j == 0 || decide ((es.getD j (0, 0)).1 ≤ key))).getLast? with
  | none => exact List.length_pos_of_ne_nil some_
  | some j =>
    have := List.mem_of_getLast? e
    exact List.mem_range.1 (List.mem_filter.1 this).1

theorem nodeEntries_ne_nil (b : List Byte) : nodeEntries b ≠ [] := by
  simp [nodeEntries]

theorem PathBy.fresh {N : Nat → Nat → List Byte → Prop} {n va lo hi : Nat} {seen : List Nat}
    (h : PathBy N r sh key res n va lo hi seen) : va ∉ seen := by
  cases n with
  | zero => obtain ⟨_, _, fresh, _⟩ := h; exact fresh
  | succ n => obtain ⟨_, _, fresh, _⟩ := h; exact fresh

/-- A descent that reaches no leaf stands at the empty root (04 R158, R162). -/
theorem PathBy.empty {N : Nat → Nat → List Byte → Prop} {n va lo hi : Nat} {seen : List Nat}
    (h : PathBy N r sh key none n va lo hi seen) (root_ : va = sh.root ∨ sh.root ∈ seen) :
    va = sh.root ∧ n = 1 ∧ ∃ b, N va 256 b ∧ interiorOk b sh true 1 = true ∧ nodeEntries b = [(0, noUnit)] := by
  induction n generalizing va lo hi seen with
  | zero => obtain ⟨_, _, _, _, e⟩ := h; cases e
  | succ n ih =>
    obtain ⟨b, node, fresh, ok, next⟩ := h
    dsimp only at next
    generalize hj : childAt (nodeEntries b) (leafKey key) = j at next
    have inside : j < (nodeEntries b).length := hj ▸ childAt_lt (nodeEntries_ne_nil b) _
    rcases next with ⟨none_, -⟩ | ⟨child, path⟩
    · have fine := ok
      simp only [interiorOk, Bool.and_eq_true, List.all_eq_true] at fine
      have here := fine.2 _ (List.getElem_mem inside)
      rw [List.getD_eq_getElem _ _ inside] at none_
      rw [if_pos none_] at here
      simp only [Bool.and_eq_true, beq_iff_eq] at here
      obtain ⟨⟨rfl, count⟩, level⟩ := here
      obtain ⟨y, entries, -⟩ := nodeEntries_single count
      obtain rfl : n = 0 := by omega
      refine ⟨rfl, rfl, b, node, by rwa [beq_self_eq_true] at ok, ?_⟩
      simp only [entries, List.length_singleton, Nat.lt_one_iff] at inside none_
      subst inside
      rw [entries, ← none_]
      rfl
    · obtain ⟨e, -⟩ := ih path (.inr (root_.elim (fun h => h ▸ List.mem_cons_self ..) (List.mem_cons_of_mem _)))
      exact absurd (root_.elim (fun h => h ▸ List.mem_cons_self ..) (List.mem_cons_of_mem _)) (e ▸ path.fresh)

/-- A region without a leaf has an empty root. -/
theorem LeafBy.empty {N : Nat → Nat → List Byte → Prop} (h : LeafBy N r key root none)
    (unique : ∀ a n b c, N a n b → N a n c → b = c) :
    interiorOk root ⟨teBase r.e, 0, num root 0 4⟩ true 1 = true ∧ nodeEntries root = [(0, noUnit)] := by
  obtain ⟨-, node, n, path⟩ := h
  obtain ⟨-, -, b, node', ok, entries⟩ := path.empty (.inl rfl)
  obtain rfl := unique _ _ _ _ node node'
  exact ⟨ok, entries⟩

/-- A leaf under an empty root is inserted without a split (04 R168). -/
theorem insertLeaf_empty (p : PathNode) : insertLeaf s r sh [p] none key v = (do
    [p].forM (fun p => mayWrite s r p.va 256)
    let us ← allocate_ s r sh 1
    writeNode (r.unitVa (us.getD 0 0)) (makeLeaf r.unit r.size (leafKey key) (2 ^ (key % 64)) [v])
    insertUp s r sh [p] [(0, us.getD 0 0)] (us.drop 1)) := rfl

/-- The leaf of one key. -/
theorem makeLeaf_one (unit : Nat) (hkey : key < 2 ^ 64) (small : v < 2 ^ (8 * r.size)) :
    let c := makeLeaf unit r.size (leafKey key) (2 ^ (key % 64)) [v]
    leafOk c 0 (2 ^ 64) = true ∧ leafOf c = leafKey key ∧ leafValue r.size c (key % 64) = v := by
  obtain ⟨aligned, le⟩ := leafKey_spec key
  have hbit : key % 64 < 64 := Nat.mod_lt _ (by norm_num)
  have hv : v < 256 ^ r.size := by rwa [pow_mul] at small
  have bitmap : 2 ^ (key % 64) < 2 ^ 64 := Nat.pow_lt_pow_right (by norm_num) hbit
  obtain ⟨keyOf, -⟩ := makeLeaf_fields unit r.size (leafKey key) (2 ^ (key % 64)) [v] (by simp)
  obtain ⟨-, value⟩ := leafValue_makeLeaf unit r.size (leafKey key) (vals := [v]) (by simp) bitmap (key % 64)
  have none_ : bitsBelow (2 ^ (key % 64)) (key % 64) = 0 := by
    have := bitsBelow_set (m := 0) (b := key % 64) (by simp [bitAt]) (key % 64)
    rw [Nat.zero_add, if_neg (lt_irrefl _)] at this
    rw [this]
    simp [bitsBelow, below, bitAt]
  refine ⟨makeLeaf_ok _ _ _ _ (by simp) (by simp) aligned (by omega) (Nat.zero_le _) (by omega),
    keyOf.trans (Nat.mod_eq_of_lt (by omega)), ?_⟩
  rw [value v (by rw [bitAt_two_pow, beq_self_eq_true]) (by rw [none_]; rfl), Nat.mod_eq_of_lt hv]

/-- A value other than 0 written under an empty root (04 R168): a root of one leaf, which holds it. -/
theorem writeKey_first {t : Map Node} (h : s.LeafOf r key root none) (some_ : 0 < v) (small : v < 2 ^ (8 * r.size))
    (hkey : key < 2 ^ 64) (clear : ∀ u, u < num root 0 4 → r.unitVa u ≠ teBase r.e) (run : writeKey s r key v [] = .ok ((), t)) :
    ∃ c res, LeafBy (InBuffer t) r key c res ∧ valueIn r.size key res = v := by
  have len : root.length = 256 := length_unitRead h.2.1.1
  obtain ⟨up, buf₁, found, -, path, single⟩ := findPath_shows h.leafBy
  obtain ⟨ok, -⟩ := path.empty fun _ _ _ _ => InBuffer.unique
  obtain ⟨level, -⟩ := interiorOk_level ok
  obtain ⟨one, in_, -⟩ := path
  obtain rfl := single level
  unfold writeKey at run
  rw [Step.bind_ok found] at run
  dsimp only at run
  rw [if_neg some_.ne', insertLeaf_empty] at run
  obtain ⟨us, buf₂, taken, rest⟩ := Step.bind_inv (forM_mayWrite_bind run)
  obtain ⟨u, w, rfl, inside, wlen, root_⟩ := allocate_one in_ taken
  have apart : r.unitVa u ≠ teBase r.e := clear u inside
  have plen : (patch root 200 w).length = 256 := by rw [length_patch (by omega), len]
  have pool : num (patch root 200 w) 0 4 = num root 0 4 := num_patch_below (by omega) (by omega)
  have unit_ : u ≠ noUnit := by
    have := num_lt root 0 4
    have : u < num root 0 4 := inside
    norm_num [noUnit] at *
    omega
  obtain ⟨fine, mine, value⟩ := makeLeaf_one (r := r) r.unit hkey small
  rw [Step.bind_ok (writeNode_apply _ _ _)] at rest
  simp only [List.getD_cons_zero, List.drop_one, List.tail_cons] at rest
  rw [insertUp, Step.bind_ok (readNode_inBuffer (root_.mput apart.symm))] at rest
  cases rest
  refine ⟨_, _, leafBy_single one plen (.inr ⟨unit_, by rw [pool]; exact inside⟩) (inBuffer_mput_same ..)
    (.inr ⟨_, unit_, apart, (inBuffer_mput_same ..).mput apart, fine, rfl⟩), ?_⟩
  unfold valueIn
  dsimp only
  rw [if_pos mine, value]

end FirstLeaf

/-! What reads give after writes (spec 04 R168 to R172). -/

section TreeResults

variable {s : State} {r : Region} {key : Nat} {root : List Byte}

/-- A read after a write whose descent the write left in the buffer. -/
theorem read_after {v k : Nat} {buf : Map Node} {c : List Byte} {res : Option (Nat × List Byte)}
    (wrote : writeKey s r key v [] = .ok ((), buf)) (path : LeafBy (InBuffer buf) r k c res) :
    ((do writeKey s r key v; readKey s r k : Step Nat) []).map (fun y => y.1) = .ok (valueIn r.size k res) := by
  obtain ⟨buf', run⟩ := readKey_inBuffer (s := s) path
  rw [Step.bind_ok wrote, run]
  rfl

theorem LeafBy.of_leafKey {N : Nat → Nat → List Byte → Prop} {k : Nat} {res : Option (Nat × List Byte)}
    (same : leafKey k = leafKey key) (h : LeafBy N r key root res) : LeafBy N r k root res := by
  obtain ⟨one, node, n, path⟩ := h
  exact ⟨one, node, n, path.of_leafKey same⟩

/-- Keys of one leaf differ in their bits. -/
theorem bit_eq_iff {k : Nat} (same : leafKey k = leafKey key) : k % 64 = key % 64 ↔ k = key := by
  unfold leafKey at same
  omega

/-- The first part of O43: the words of a tree after a step that writes a key. -/
theorem treeResults (hkey : key < 2 ^ 64) :
    let reads := fun (x : Step Nat) (v : Nat) => (x []).map (fun y => y.1) = .ok v
    let after := fun (v k : Nat) => do
      writeKey s r key v
      readKey s r k
    (∀ x, s.LeafOf r key root x → reads (readKey s r key) (valueIn r.size key x)) ∧
    (∀ va b, s.LeafOf r key root (some (va, b)) → leafOf b = leafKey key →
      let others := fun (v : Nat) => ∀ k, leafKey k = leafKey key → k ≠ key →
        reads (after v k) (leafValue r.size b (k % 64))
      (∀ v, 0 < v → v < 2 ^ (8 * r.size) → reads (after v key) v ∧ others v) ∧
      (leafMap b ≠ 2 ^ (key % 64) → reads (after 0 key) 0 ∧ others 0) ∧
      (nodeLevel root = 1 → nodeCount root = 0 → leafMap b = 2 ^ (key % 64) → reads (after 0 key) 0)) ∧
    (∀ v t, s.LeafOf r key root none → 0 < v → v < 2 ^ (8 * r.size) →
      (∀ u, u < num root 0 4 → r.unitVa u ≠ teBase r.e) → writeKey s r key v [] = .ok ((), t) →
      reads (after v key) v) := by
  intro reads after
  refine ⟨fun x h => ?_, fun va b h mine => ?_, fun v t h some_ small clear run => ?_⟩
  · obtain ⟨buf, run, -⟩ := readKey_shows h.leafBy
    show (readKey s r key []).map (fun y => y.1) = _
    rw [run]
    rfl
  · have revised : ∀ v buf c, writeKey s r key v [] = .ok ((), buf) → Revises r.size (key % 64) v b c →
        LeafBy (InBuffer buf) r key root (some (va, c)) →
        reads (after v key) v ∧ ∀ k, leafKey k = leafKey key → k ≠ key → reads (after v k) (leafValue r.size b (k % 64)) := by
      intro v buf c wrote new path
      refine ⟨(read_after wrote path).trans ?_, fun k same other => (read_after wrote (path.of_leafKey same)).trans ?_⟩
      · rw [valueIn_revised mine new, if_pos rfl]
      · rw [valueIn_revised (mine.trans same.symm) new, if_neg (mt (bit_eq_iff same).1 other)]
    refine ⟨fun v some_ small => ?_, fun more => ?_, fun level count last => ?_⟩
    · obtain ⟨buf, wrote, -, path⟩ := writeKey_put h.leafBy mine some_
      have new := revises_leafPut mine small
      exact revised v _ _ wrote new (path.revised new)
    · obtain ⟨buf, c, wrote, new, path⟩ := writeKey_drop h.leafBy mine more
      exact revised 0 buf c wrote new path
    · obtain ⟨buf, c, wrote, path⟩ := writeKey_last h mine level count last
      exact read_after wrote path
  · obtain ⟨c, res, path, value⟩ := writeKey_first h some_ small hkey clear run
    exact (read_after run path).trans (congrArg Except.ok value)

end TreeResults
end Sys2Proof.Machine

/-! Steps performed (spec 04 R164, R172, R180): what they leave around memory, what they write, and what stops them. -/

namespace Sys2Proof.Machine
section Performed

variable {α : Type} {s u : State} {r : Region} {x : Step α} {a : α} {buf : Map Node} {c : Nat}

theorem foldl_fixed {β σ : Type} {f : σ → β → σ} {xs : List β} {z : σ} (h : ∀ x ∈ xs, f z x = z) : xs.foldl f z = z := by
  induction xs with
  | nil => rfl
  | cons x xs ih =>
    rw [List.foldl_cons, h x (List.mem_cons_self ..)]
    exact ih fun y hy => h y (List.mem_cons_of_mem _ hy)

theorem State.around_engineWrite (s : State) (c pa : Nat) (bs : List Byte) : s.Around (s.engineWrite c pa bs) := by
  unfold State.engineWrite
  exact ((s.beside_l1Remove c _).trans (State.beside_rdcsRemove _ _)).toAround.trans (State.around_writeHome _ _ _)

/-- A step changes memory, caches and translations alone. -/
theorem State.around_runStep (h : s.runStep c r x = .ok (a, u)) : s.Around u := by
  unfold State.runStep at h
  split at h
  · cases h
  · split at h
    · cases h
    · cases h
      exact (State.Around.foldl (fun s (n : Nat × Node) =>
        State.Around.foldl (fun s (p : Nat × Nat) => s.around_engineTouch r.ctx p.1 n.2.dirty) _ s) _ _).trans
        (State.Around.foldl (fun s (w : Nat × List Byte) => s.around_engineWrite c w.1 w.2) _ _)

theorem State.around_storeKey {key v : Nat} (h : s.storeKey c r key v = .ok u) : s.Around u := by
  unfold State.storeKey at h
  cases run : s.runStep c r (writeKey s r key v) with
  | error e => rw [run] at h; cases h
  | ok y =>
    rw [run] at h
    dsimp only at h
    split at h
    · cases h
    · cases h
      exact State.around_runStep run

/-- A step that only reads, through pages whose A bits are set, leaves the machine as it was. -/
theorem State.runStep_idle (run : x [] = .ok (a, buf)) (on : s.ReadOn r [] buf) (c : Nat) : s.runStep c r x = .ok (a, s) := by
  have idle : ∀ y ∈ buf, s.Idle r y := fun y hy => (on.idle y hy).resolve_left List.not_mem_nil
  have clean : buf.filter (fun y => y.2.dirty) = [] := List.filter_eq_nil_iff.2 fun y hy => by rw [(idle y hy).1]; simp
  have writes : s.stepWrites r buf = .ok [] := by
    unfold State.stepWrites State.stepHalt
    rw [clean]
    rfl
  have touches : buf.foldl (fun (s : State) n =>
      (pagePieces n.1 n.2.bytes.length).foldl (fun s p => s.engineTouch r.ctx p.1 n.2.dirty) s) s = s :=
    foldl_fixed fun y hy => foldl_fixed fun p hp => by rw [(idle y hy).1]; exact (idle y hy).2 p hp
  unfold State.runStep
  rw [run]
  dsimp only
  rw [writes]
  dsimp only
  rw [touches]
  rfl

/-! A write of one node. -/

theorem filter_dirty_mput {va : Nat} {n : Node} (clean : ∀ y ∈ buf, y.2.dirty = false) (dirty : n.dirty = true) :
    (mput buf va n).filter (fun y => y.2.dirty) = [(va, n)] := by
  induction buf with
  | nil => simp [mput, dirty]
  | cons y buf ih =>
    obtain ⟨k, z⟩ := y
    have rest : buf.filter (fun y => y.2.dirty) = [] := List.filter_eq_nil_iff.2 fun y hy => by
      rw [clean y (List.mem_cons_of_mem _ hy)]; simp
    have first : z.dirty = false := clean _ (List.mem_cons_self ..)
    rw [mput]
    split
    · simp [dirty, rest]
    · split
      · simp [dirty, first, rest]
      · simp [first, ih fun y hy => clean y (List.mem_cons_of_mem _ hy)]

/-- A range of one piece is a page's. -/
theorem pagePieces_single {va n m : Nat} {p : Nat × Nat} (h : pagePieces va n = [p]) (hm : p.2 = m) : p = (va, m) := by
  unfold pagePieces at h
  split at h
  · cases h
  · rw [List.range_succ_eq_map, List.map_cons] at h
    have first := (List.cons.inj h).1
    subst hm
    rw [← first]
    simp only [Nat.add_zero, Prod.mk.injEq, and_true]
    omega

theorem unitPieces_single {ctx va n pa : Nat} {kind : AccKind} (h : s.unitPieces ctx va n kind = .ok [(pa, n)]) :
    pagePieces va n = [(va, n)] ∧ s.unitStops ctx va n kind = [] := by
  have all := mapM_ok h
  obtain ⟨p, hp⟩ : ∃ p, pagePieces va n = [p] := List.length_eq_one_iff.1 (by rw [all.length_eq]; rfl)
  rw [hp] at all
  cases all with
  | cons ok _ =>
    cases e : s.unitAccess ctx p.1 p.2 kind with
    | error _ => rw [e] at ok; cases ok
    | ok pa' =>
      rw [e] at ok
      have len : p.2 = n := congrArg Prod.snd (Except.ok.inj ok)
      obtain rfl := pagePieces_single hp len
      exact ⟨hp, by unfold State.unitStops; rw [hp, List.filterMap_cons, e]; rfl⟩

/-- A step that changes one node, of one page, which its translation permits. -/
theorem State.runStep_one {buf : Map Node} {va pa : Nat} {b : List Byte} (run : x [] = .ok (a, mput buf va ⟨b, true⟩))
    (on : s.ReadOn r [] buf) (piece : s.unitPieces r.ctx va b.length .store = .ok [(pa, b.length)])
    (touch : s.engineTouch r.ctx va true = s) (c : Nat) : s.runStep c r x = .ok (a, s.engineWrite c pa b) := by
  have idle : ∀ y ∈ buf, s.Idle r y := fun y hy => (on.idle y hy).resolve_left List.not_mem_nil
  obtain ⟨page, stops⟩ := unitPieces_single piece
  have one := filter_dirty_mput (va := va) (n := ⟨b, true⟩) (fun y hy => (idle y hy).1) rfl
  have writes : s.stepWrites r (mput buf va ⟨b, true⟩) = .ok [(pa, b)] := by
    unfold State.stepWrites State.stepHalt
    rw [one, List.flatMap_cons, stops]
    simp only [List.flatMap_nil, List.append_nil, firstStop, List.find?_nil, List.head?_nil, List.foldlM_cons, List.foldlM_nil,
      piece]
    exact congrArg (fun bs => Except.ok [(pa, bs)]) (List.take_length ..)
  have touches : (mput buf va ⟨b, true⟩).foldl (fun (s : State) n =>
      (pagePieces n.1 n.2.bytes.length).foldl (fun s p => s.engineTouch r.ctx p.1 n.2.dirty) s) s = s := by
    refine foldl_fixed fun y hy => foldl_fixed fun p hp => ?_
    rcases mem_mput hy with rfl | hy
    · rw [page] at hp
      rw [List.mem_singleton.1 hp]
      exact touch
    · rw [(idle y hy).1]
      exact (idle y hy).2 p hp
  unfold State.runStep
  rw [run]
  dsimp only
  rw [writes]
  dsimp only
  rw [touches]
  rfl

end Performed

/-! Empty caches. -/

section Emptied

/-- Empty caches stay so, and the memory and the device's state stay with them. -/
structure State.Emptied (s t : State) : Prop where
  clean : t.NoCached
  mem : t.mem = s.mem
  dev : t.dev = s.dev

variable {s t : State}

theorem State.Emptied.refl (h : s.NoCached) : s.Emptied s := ⟨h, rfl, rfl⟩

theorem State.Emptied.trans {u : State} (a : s.Emptied t) (b : t.Emptied u) : s.Emptied u :=
  ⟨b.clean, b.mem.trans a.mem, b.dev.trans a.dev⟩

theorem State.Emptied.modCore (h : s.NoCached) (c : Nat) {f : Core → Core} (empty : ∀ k, k.l1 = [] → (f k).l1 = []) :
    s.Emptied (s.modCore c f) := by
  refine ⟨⟨fun k => ?_, h.2⟩, rfl, rfl⟩
  rw [State.core_modCore]
  split
  · exact empty _ (h.1 c)
  · exact h.1 k

theorem State.Emptied.modDie (h : s.NoCached) (d : Nat) {f : Die → Die} (empty : ∀ x, x.rdc = [] → (f x).rdc = []) :
    s.Emptied (s.modDie d f) := by
  refine ⟨⟨h.1, fun e => ?_⟩, rfl, rfl⟩
  rw [State.die_modDie]
  split
  · exact empty _ (h.2 d)
  · exact h.2 e

theorem State.Emptied.l1Remove (h : s.NoCached) (c : Nat) (p : Nat → Bool) : s.Emptied (s.l1Remove c p) := by
  have wrote : s.Emptied (s.l1WriteBack c p) := by
    unfold State.l1WriteBack
    rw [h.1, cacheDirty, List.flatMap_nil, State.writeBack_nil]
    exact .modCore h c fun k e => by rw [e]; rfl
  have taken := State.Emptied.modCore wrote.clean c (f := fun k => { k with l1 := [] }) fun _ _ => rfl
  unfold State.l1Remove
  dsimp only
  rw [wrote.clean.1]
  dsimp only [cacheRemove, List.foldr_nil]
  unfold State.l1Evicted
  rw [List.flatMap_nil, State.writeBack_nil]
  exact wrote.trans (taken.trans (.modCore taken.clean c fun _ e => e))

theorem State.Emptied.rdcRemove (h : s.NoCached) (d : Nat) (p : Nat → Bool) : s.Emptied (s.rdcRemove d p) := by
  have wrote : s.Emptied (s.rdcWriteBack d p) := by
    unfold State.rdcWriteBack
    dsimp only
    rw [h.2, cacheDirty, List.flatMap_nil, State.homeStoreAt_nil]
    exact .modDie h d fun x e => by dsimp only; rw [e]; rfl
  unfold State.rdcRemove
  dsimp only
  rw [wrote.clean.2]
  dsimp only [cacheRemove, List.foldr_nil]
  rw [List.flatMap_nil, State.homeStoreAt_nil]
  exact wrote.trans (.modDie wrote.clean d fun _ _ => rfl)

theorem State.Emptied.rdcsRemove (h : s.NoCached) (p : Nat → Bool) : s.Emptied (s.rdcsRemove p) := by
  unfold State.rdcsRemove
  generalize s.dies = ds
  induction ds generalizing s with
  | nil => exact .refl h
  | cons d ds ih =>
    have first := State.Emptied.rdcRemove h d.1 p
    exact first.trans (ih first.clean)

theorem State.Emptied.acquireWords (h : s.NoCached) (c level : Nat) (p : Nat → Bool) : s.Emptied (s.acquireWords c level p) := by
  have removed := State.Emptied.l1Remove h c p
  unfold State.acquireWords
  dsimp only
  split
  · exact .refl h
  · split
    · exact removed
    · exact removed.trans (.rdcRemove removed.clean _ p)

/-- An engine's write of bytes, where no cache holds any and no transfer of memory is in error (05 R204). -/
theorem State.engineWrite_empty (h : s.NoCached) (memOk : s.MemOk) (fine : s.dev.badTransfers = []) (c : Nat) {pa : Nat}
    {bs : List Byte} (reach : s.reaches pa bs.length = true) :
    let t := s.engineWrite c pa bs
    t.bad = s.bad ∧ t.readHome pa bs.length = bs ∧
      ∀ a, (a < pa ∨ pa + bs.length ≤ a) → memRead t.mem a = memRead s.mem a := by
  intro t
  have removed := State.Emptied.l1Remove h c (meetsRanges [(pa, bs.length)])
  have empty := removed.trans (.rdcsRemove removed.clean (meetsRanges [(pa, bs.length)]))
  have beside := (s.beside_l1Remove c (meetsRanges [(pa, bs.length)])).trans (State.beside_rdcsRemove _ (meetsRanges [(pa, bs.length)]))
  have form : t = ((s.l1Remove c (meetsRanges [(pa, bs.length)])).rdcsRemove (meetsRanges [(pa, bs.length)])).writeHome pa bs := rfl
  clear_value t
  generalize (s.l1Remove c (meetsRanges [(pa, bs.length)])).rdcsRemove (meetsRanges [(pa, bs.length)]) = w at *
  have healed : w.heal (touchesTransfer pa bs.length) = w := by
    unfold State.heal
    rw [empty.dev, fine]
    rfl
  have reach' : w.reaches pa bs.length = true := by
    rw [← reach]
    unfold State.reaches State.awayAt
    rw [beside.dieAway]
  have wrote : t = w.setMem (memStore w.mem pa bs) := by
    rw [form]
    unfold State.writeHome
    rw [if_pos reach', healed]
  subst wrote
  rw [empty.mem]
  exact ⟨beside.bad, memBytes_memStore memOk pa bs, fun a ha => memRead_memStore_outside memOk pa a bs ha⟩

end Emptied
end Sys2Proof.Machine

/-! What stops a step is never an emulation (spec 04 R180; 08 R307). -/

namespace Sys2Proof.Machine
section Stops

variable {α β ε : Type} {s : State} {r : Region} {sh : Shard}

/-- A stop that is no emulation. -/
def SpStop.Plain (e : SpStop) : Prop := ∀ a, e ≠ .cause .emu a

/-- What stops a step is no emulation. -/
structure Step.Plain (x : Step α) : Prop where
  stops : ∀ buf e, x buf = .error e → e.Plain

theorem Step.Plain.pure (a : α) : (Pure.pure a : Step α).Plain := ⟨fun _ _ h => by cases h⟩

theorem Step.Plain.stop {e : SpStop} (h : e.Plain) : (stopStep e : Step α).Plain :=
  ⟨fun _ _ he => by cases he; exact h⟩

theorem Step.Plain.bind {x : Step α} {f : α → Step β} (hx : x.Plain) (hf : ∀ a, (f a).Plain) : (x >>= f).Plain := by
  refine ⟨fun buf e h => ?_⟩
  change (x buf >>= fun p => f p.1 p.2) = _ at h
  cases run : x buf with
  | error e' =>
    rw [run] at h
    cases h
    exact hx.stops buf _ run
  | ok p =>
    rw [run] at h
    exact (hf p.1).stops p.2 e h

theorem Step.Plain.ite {p : Prop} [Decidable p] {x y : Step α} (hx : x.Plain) (hy : y.Plain) :
    (if p then x else y).Plain := by
  split
  · exact hx
  · exact hy

theorem Step.Plain.forM {f : α → Step Unit} (hf : ∀ a, (f a).Plain) (xs : List α) : (xs.forM f).Plain := by
  induction xs with
  | nil => exact .pure _
  | cons x xs ih => exact .bind (hf x) fun _ => ih

theorem plain_malformed (va : Nat) : (SpStop.malformed va).Plain := fun _ h => by cases h
theorem plain_pool : SpStop.pool.Plain := fun _ h => by cases h
theorem plain_split (va : Nat) : (SpStop.split va).Plain := fun _ h => by cases h
theorem plain_perm (va : Nat) : (SpStop.cause .perm va).Plain := fun _ h => by cases h
theorem plain_seal (va : Nat) : (SpStop.cause .seal va).Plain := fun _ h => by cases h

/-! Accesses of the unit. -/

theorem checkLeaf_cause {l : Leaf} {kind : AccKind} {va n : Nat} {c : Cause} (h : s.checkLeaf l kind va n = .cause c) :
    c = .perm ∨ c = .seal := by
  unfold State.checkLeaf at h
  dsimp only at h
  (repeat' split at h) <;> cases h
  · exact .inl rfl
  · exact .inr rfl

theorem plain_unitAccess {ctx va n : Nat} {kind : AccKind} {e : SpStop} (h : s.unitAccess ctx va n kind = .error e) :
    e.Plain := by
  unfold State.unitAccess at h
  split at h
  · cases h; exact plain_perm va
  · split at h
    · cases h; exact plain_perm va
    · cases h; exact fun _ h => by cases h
    · cases h; exact fun _ h => by cases h
    · split at h
      · cases h; exact plain_perm va
      · split at h <;> cases h
        · next c hc =>
          rcases checkLeaf_cause hc with rfl | rfl
          · exact plain_perm va
          · exact plain_seal va
        · exact fun _ h => by cases h
        · exact fun _ h => by cases h
        · exact fun _ h => by cases h
        · exact plain_perm va

/-- What stops a walk along a list stops one of its steps. -/
theorem mapM_error {f : α → Except ε β} {xs : List α} {e : ε} (h : xs.mapM f = .error e) : ∃ x ∈ xs, f x = .error e := by
  induction xs with
  | nil => cases h
  | cons x xs ih =>
    rw [List.mapM_cons] at h
    cases hx : f x with
    | error e' =>
      rw [hx] at h
      cases h
      exact ⟨x, List.mem_cons_self .., hx⟩
    | ok y =>
      rw [hx] at h
      cases hxs : xs.mapM f with
      | error e' =>
        rw [hxs] at h
        cases h
        obtain ⟨z, hz, stops⟩ := ih hxs
        exact ⟨z, List.mem_cons_of_mem _ hz, stops⟩
      | ok ys => rw [hxs] at h; cases h

theorem foldlM_error {f : β → α → Except ε β} {xs : List α} {b : β} {e : ε} (h : xs.foldlM f b = .error e) :
    ∃ x ∈ xs, ∃ b, f b x = .error e := by
  induction xs generalizing b with
  | nil => cases h
  | cons x xs ih =>
    rw [List.foldlM_cons] at h
    cases hx : f b x with
    | error e' =>
      rw [hx] at h
      cases h
      exact ⟨x, List.mem_cons_self .., b, hx⟩
    | ok c =>
      rw [hx] at h
      obtain ⟨z, hz, stops⟩ := ih h
      exact ⟨z, List.mem_cons_of_mem _ hz, stops⟩

theorem plain_unitPieces {ctx va n : Nat} {kind : AccKind} {e : SpStop} (h : s.unitPieces ctx va n kind = .error e) :
    e.Plain := by
  obtain ⟨p, -, stops⟩ := mapM_error h
  cases run : s.unitAccess ctx p.1 p.2 kind with
  | error e' =>
    rw [run] at stops
    cases stops
    exact plain_unitAccess run
  | ok pa => rw [run] at stops; cases stops

theorem plain_unitRead {ctx va n : Nat} {e : SpStop} (h : s.unitRead ctx va n = .error e) : e.Plain := by
  unfold State.unitRead at h
  cases run : s.unitPieces ctx va n .load with
  | error e' =>
    rw [run] at h
    cases h
    exact plain_unitPieces run
  | ok ps => rw [run] at h; cases h

theorem plain_unitStops {ctx va n : Nat} {kind : AccKind} {e : SpStop} (h : e ∈ s.unitStops ctx va n kind) : e.Plain := by
  obtain ⟨p, -, stops⟩ := List.mem_filterMap.1 h
  split at stops
  · next run =>
    cases stops
    exact plain_unitAccess run
  · cases stops

theorem firstStop_mem {es : List SpStop} {e : SpStop} (h : firstStop es = some e) : e ∈ es := by
  unfold firstStop at h
  split at h
  · next found =>
    cases h
    exact List.mem_of_find?_eq_some found
  · exact List.mem_of_mem_head? h

/-! Steps. -/

theorem plain_readNode (va n : Nat) : (readNode s r va n).Plain := by
  unfold readNode
  refine .bind ⟨fun _ _ h => by cases h⟩ fun buf => ?_
  split
  · exact .pure _
  · split
    · next run => exact .stop (plain_unitRead run)
    · exact .bind ⟨fun _ _ h => by cases h⟩ fun _ => .pure _

theorem plain_writeNode (va : Nat) (b : List Byte) : (writeNode va b).Plain := ⟨fun _ _ h => by cases h⟩

theorem plain_mayWrite (va n : Nat) : (mayWrite s r va n).Plain := by
  unfold mayWrite
  split
  · next stops => exact .stop (plain_unitStops (List.mem_filter.1 (firstStop_mem stops)).1)
  · exact .pure _

theorem plain_shardTable : (shardTable s r).Plain := by
  unfold shardTable
  exact .ite (.pure _) (.bind (plain_readNode ..) fun _ => .pure _)

theorem plain_getShard (t : List (Nat × Nat)) (i : Nat) : (getShard s r t i).Plain :=
  .bind (plain_readNode ..) fun _ => .pure _

theorem plain_interior (va : Nat) (level : Option Nat) : (interior s r sh va level).Plain :=
  .bind (plain_readNode ..) fun _ => .ite (.pure _) (.stop (plain_malformed va))

theorem plain_leaf (va lo hi : Nat) : (leaf s r va lo hi).Plain :=
  .bind (plain_readNode ..) fun _ => .ite (.pure _) (.stop (plain_malformed va))

theorem plain_descend (key fuel va : Nat) (level : Option Nat) (lo hi : Nat) (path : List PathNode) :
    (descend s r sh key fuel va level lo hi path).Plain := by
  induction fuel generalizing va level lo hi path with
  | zero => exact .stop (plain_malformed va)
  | succ fuel ih =>
    exact .bind (plain_interior ..) fun _ => .ite (.pure _) (.ite (.bind (plain_leaf ..) fun _ => .pure _) (ih ..))

theorem plain_findPath (key : Nat) : (findPath s r key).Plain :=
  .bind plain_shardTable fun _ => .bind (plain_getShard ..) fun _ => .bind (plain_descend ..) fun _ => .pure _

theorem plain_takeUnits (n free bump : Nat) (got : List Nat) : (takeUnits s r sh n free bump got).Plain := by
  induction n generalizing free bump got with
  | zero => exact .pure _
  | succ n ih =>
    exact .ite (.ite (.stop (plain_malformed _)) (.bind (plain_mayWrite ..) fun _ => .bind (plain_readNode ..) fun _ =>
      .ite (.stop (plain_malformed _)) (ih ..))) (.ite (ih ..) (.pure _))

theorem plain_allocate (n : Nat) : (allocate_ s r sh n).Plain := by
  refine .bind (plain_mayWrite ..) fun _ => .bind (plain_readNode ..) fun b => .bind (plain_takeUnits ..) fun got => ?_
  split
  · refine .stop ?_
    split
    · exact plain_malformed _
    · exact plain_pool
  · exact .bind (.forM (fun _ => plain_mayWrite ..) _) fun _ => .bind (plain_writeNode ..) fun _ => .pure _

theorem plain_freeUnit (va n : Nat) : (freeUnit s r sh va n).Plain :=
  .bind (plain_readNode ..) fun _ => .bind (plain_readNode ..) fun _ => .bind (plain_writeNode ..) fun _ => plain_writeNode ..

theorem plain_insertUp (path : List PathNode) (es : List (Nat × Nat)) (us : List Nat) : (insertUp s r sh path es us).Plain := by
  induction path generalizing es us with
  | nil => exact .pure _
  | cons p up ih =>
    refine .bind (plain_readNode ..) fun b => .ite (plain_writeNode ..) ?_
    cases up with
    | nil => exact .bind (plain_writeNode ..) fun _ => .bind (plain_writeNode ..) fun _ => plain_writeNode ..
    | cons q up => exact .bind (plain_writeNode ..) fun _ => .bind (plain_writeNode ..) fun _ => ih ..

theorem plain_insertLeaf (path : List PathNode) (reached : Option Nat) (key v : Nat) :
    (insertLeaf s r sh path reached key v).Plain := by
  refine .bind (.forM (fun _ => plain_mayWrite ..) _) fun _ => .bind (plain_allocate _) fun us =>
    .ite (.stop (plain_split _)) (.bind (plain_writeNode ..) fun _ => ?_)
  split <;> exact plain_insertUp ..

theorem plain_removeUp (path : List PathNode) : (removeUp s r sh path).Plain := by
  induction path with
  | nil => exact .pure _
  | cons p up ih =>
    exact .bind (plain_readNode ..) fun _ => .ite (plain_writeNode ..) (.ite (plain_writeNode ..)
      (.bind (plain_freeUnit ..) fun _ => ih))

theorem plain_writeKey (key v : Nat) : (writeKey s r key v).Plain := by
  refine .bind (plain_findPath key) fun x => ?_
  obtain ⟨sh, path, l⟩ := x
  cases l with
  | none => exact .ite (.pure _) (plain_insertLeaf ..)
  | some y =>
    exact .ite (.ite (.ite (.pure _) (.ite (.bind (plain_freeUnit ..) fun _ => plain_removeUp _) (plain_writeNode ..)))
      (.ite (plain_writeNode ..) (plain_writeNode ..))) (.ite (.pure _) (plain_insertLeaf ..))

theorem plain_stepWrites {buf : Map Node} {e : SpStop} (h : s.stepWrites r buf = .error e) : e.Plain := by
  unfold State.stepWrites at h
  split at h
  · next halt =>
    cases h
    obtain ⟨x, -, stops⟩ := List.mem_flatMap.1 (firstStop_mem halt)
    exact plain_unitStops stops
  · obtain ⟨x, -, acc, stops⟩ := foldlM_error h
    cases run : s.unitPieces r.ctx x.1 x.2.bytes.length .store with
    | error e' =>
      rw [run] at stops
      cases stops
      exact plain_unitPieces run
    | ok ps => rw [run] at stops; cases stops

theorem plain_storeStop {e : SpStop} (h : e.Plain) : (s.storeStop r e).Plain := by
  have sealed : (match s.regionSeal r with
    | some va => .cause .seal va
    | none => e : SpStop).Plain := by
    split
    · exact plain_seal _
    · exact h
  unfold State.storeStop
  split
  · exact sealed
  · exact sealed
  · exact sealed
  · exact h

/-- What stops SPST is no emulation. -/
theorem plain_storeKey {c key v : Nat} {e : SpStop} (h : s.storeKey c r key v = .error e) : e.Plain := by
  have stopped : ∀ {e'}, s.runStep c r (writeKey s r key v) = .error e' → e'.Plain := fun {e'} run => by
    unfold State.runStep at run
    split at run
    · next stops =>
      cases run
      exact (plain_writeKey key v).stops [] _ stops
    · split at run
      · next stops =>
        cases run
        exact plain_stepWrites stops
      · cases run
  unfold State.storeKey at h
  cases run : s.runStep c r (writeKey s r key v) with
  | error e' =>
    rw [run] at h
    cases h
    exact plain_storeStop (stopped run)
  | ok y =>
    rw [run] at h
    dsimp only at h
    split at h
    · cases h
      exact plain_seal _
    · cases h

end Stops
end Sys2Proof.Machine

/-! A sparse instruction of one lane: what it does once the lane's step has ended (spec 04 R180; 09 R383, R384). -/

namespace Sys2Proof.Machine
section OneLane

/-- The gang with some lanes done and others waiting for a page in a sparse instruction. -/
def Gang.marked (g : Gang) (done tree : LaneMask) : Gang := { g.markDone done with tree := tree }

/-- The completion of a sparse instruction. -/
def State.completeSparse (d : Option Dst) (wide : Bool) (s : State) : State :=
  match d with
  | some d => s.completeLoad d wide
  | none => s.completeIssue

variable {s u v : State} {g h : Gang} {i : Instr} {l : Nat}

theorem todo_ne_zero (one : lanesOf (g.todo s.cur) = [l]) : g.todo s.cur ≠ 0 := fun e => by
  rw [e] at one
  cases one

/-- A sparse instruction on a current handle, of registers that the gang has, of a region's entry. -/
theorem State.sparse_eq {hs w : Nat} {d : Option Dst} {wide : Region → Bool} {regsOk : Gang → Region → Bool}
    {body : State → Gang → Region → List Nat → SpLanes} {r : Region} (issues : s.Issues g)
    (one : lanesOf (g.todo s.cur) = [l]) (alone : g.treeWaits s.cur = false) (hw : (g.sreg hs).toNat % 2 ^ 32 = w)
    (hr : r = ⟨g.ctxKey, s.ttEntry g.ctxKey (handleSlot w)⟩)
    (noError : s.entryError s.cur.core g.ctxKey (handleSlot w) = none) (current : s.handleOk g.ctxKey w = true)
    (regs : regsOk g r = true) (sparse : teClass r.e = 1) :
    s.sparse hs d wide regsOk body =
      (body (s.ttTouch s.cur.core g.ctxKey (handleSlot w)) g r [l]).outcome (State.completeSparse d (wide r)) := by
  subst hr
  unfold State.sparse State.issue
  simp only [issues.1, field_handle, hw, todo_ne_zero one, if_false, alone, Bool.false_eq_true, current, Bool.not_true,
    regs, sparse, ne_eq, not_true_eq_false, one, Gang.regsOk, List.all_nil, if_true]
  rw [State.onEntry_eq noError]
  rfl

/-! The lane. -/

variable {r : Region} {key : Nat → Option Nat} {act : State → Nat → Nat → Except SpStop State}

theorem sparseLanes_none (none_ : key l = none) :
    v.sparseLanes g r [l] key act = ⟨v, 0, [.plain l .perm (v.freeAddr l)], [], []⟩ := by
  unfold State.sparseLanes
  rw [List.foldl_cons, none_]
  rfl

theorem sparseLanes_ok {k : Nat} {t : State} (some_ : key l = some k) (ends : act v l k = .ok t) :
    v.sparseLanes g r [l] key act = ⟨t, maskSet 0 l true, [], [], []⟩ := by
  unfold State.sparseLanes
  simp only [List.foldl_cons, List.foldl_nil, some_, List.contains_nil, Bool.false_eq_true, if_false, ends]

theorem sparseLanes_error {k : Nat} {e : SpStop} (some_ : key l = some k) (stops : act v l k = .error e) :
    v.sparseLanes g r [l] key act = (⟨v, 0, [], [], []⟩ : SpLanes).stop g v.cur.core l (v.keyShard r k) k e := by
  unfold State.sparseLanes
  simp only [List.foldl_cons, List.foldl_nil, some_, List.contains_nil, Bool.false_eq_true, if_false, stops]

/-! Stops. -/

/-- A trap of lanes of a gang that an instruction has marked. -/
theorem entersHandler_of_marked {m : LaneMask} {c : Cause} {addr : Nat → DWord} {done tree : LaneMask}
    (issues : s.Issues g) (cur : u.cur = s.cur) (bad : u.bad = s.bad) (memory : SameMemory s u)
    (run : exec i s = finish (u.trap (g.marked done tree) (recordsOf m c addr))) (some_ : m ≠ 0) (room : g.handles 0 m)
    (request : c ≠ .nres) (emulation : c ≠ .emu) : EntersHandler s g i m 0 c addr := by
  obtain ⟨h, switched, lanes, regs, fixed⟩ := (g.marked done tree).enter_shape u.tick u.cur ⟨0, c, false, u.cur.next, none⟩
    ((g.marked done tree).handlerAddress 0) (recordsOf m c addr)
  have names : (recordsOf m c addr).map TrapRec.lane = lanesOf m := by simp [recordsOf, TrapRec.plain, Function.comp_def]
  obtain ⟨inside, outside⟩ := Gang.lanes_entered u.tick u.cur ⟨0, c, false, u.cur.next, none⟩
    ((g.marked done tree).handlerAddress 0) (recordsOf m c addr) h (names ▸ nodup_lanesOf m)
  rw [State.trap_records u (g.marked done tree) addr some_ room request emulation] at run
  generalize (g.marked done tree).enter u.tick u.cur ⟨0, c, false, u.cur.next, none⟩ _ _ = G at *
  have lane : ∀ l, G.lane l = (h.enterLanes u.tick u.cur ⟨0, c, false, u.cur.next, none⟩
      ((g.marked done tree).handlerAddress 0) (recordsOf m c addr)).lane l := fun l => congrArg (mget Lane.reset · l) lanes
  have stood : ∀ l, (h.lane l).pc = (g.lane l).pc ∧ (h.lane l).handlers = (g.lane l).handlers ∧
      (h.lane l).hist.map LatchEntry.val = (g.lane l).hist.map LatchEntry.val := by
    intro l
    have same := switched.lane l
    rw [show (g.marked done tree).lane l = g.lane l from rfl] at same
    rcases same with e | e <;> rw [e]
    · exact ⟨rfl, rfl, rfl⟩
    · exact ⟨rfl, rfl, by simp [Lane.cleared, Function.comp_def]⟩
  have rest := congrArg Prod.snd (fixed.trans switched.fixed)
  simp only [Gang.fixed, Prod.mk.injEq] at rest
  refine ⟨_, _, run.trans (State.finish_good (bad.trans issues.2)), State.issuer_putGang _ _, fun l hl => ?_, fun l hl => ?_,
    fun l r hl quiet => ?_, rest.1, rest.2.1, rest.2.2, memory⟩
  · obtain ⟨pc, hist, f, handlers, kind, cause, deliv, deferred, fpc, resume, after, faddr, fhist⟩ :=
      inside (.plain l c (addr l)) (List.mem_map_of_mem (mem_lanesOf.2 hl))
    obtain ⟨spc, shandlers, shist⟩ := stood l
    rw [lane]
    exact ⟨pc, hist, f, handlers.trans (congrArg _ shandlers), kind, cause, deliv, deferred, fpc.trans spc, resume.trans spc,
      after.trans (congrArg Issue.next cur), faddr, (congrArg _ fhist).trans shist⟩
  · rw [lane, outside l (by rw [names, mem_lanesOf, hl]; exact Bool.false_ne_true)]
    exact ⟨(stood l).1, (stood l).2.1⟩
  · exact (congrArg (mget 0 · (vkey r l)) regs).trans (switched.reg hl quiet)

/-- A lane that stops with a cause takes the instruction into the handler. -/
theorem sparse_traps {c : Cause} {a : DWord} {waiting : List Nat} {complete : State → State} (issues : s.Issues g)
    (one : lanesOf (g.todo s.cur) = [l]) (beside : s.Beside v) (mem : v.mem = s.mem) (room : g.handles 0 (g.todo s.cur))
    (request : c ≠ .nres) (emulation : c ≠ .emu)
    (run : exec i s = finish ((⟨v, 0, [.plain l c a], [], waiting⟩ : SpLanes).outcome complete)) :
    EntersHandler s g i (g.todo s.cur) 0 c (fun _ => a) := by
  have records : recordsOf (g.todo s.cur) c (fun _ => a) = [.plain l c a] := by rw [recordsOf, one]; rfl
  unfold SpLanes.outcome at run
  rw [State.onGang_eq (beside.issuer.trans issues.1)] at run
  simp only [State.issuer_putGang, List.isEmpty_cons, Bool.false_eq_true, if_false] at run
  rw [← records] at run
  exact entersHandler_of_marked (u := v.putGang _) issues beside.cur beside.bad (fun x => congrArg (memRead · x) mem) run
    (todo_ne_zero one) room request emulation

/-! Completions. -/

/-- A lane whose step ended: the instruction completes. -/
theorem outcome_done {complete : State → State} (issuer : u.issuer = some h) :
    ∃ tree, (⟨u, maskSet 0 l true, [], [], []⟩ : SpLanes).outcome complete =
      complete (u.putGang (h.marked (maskSet 0 l true) tree)) := by
  refine ⟨(h.tree &&& ~~~u.cur.active) ||| waitingLanes [], ?_⟩
  unfold SpLanes.outcome
  rw [State.onGang_eq issuer]
  simp only [State.issuer_putGang]
  rfl

/-- The lane's result in its destination, and the gang's rest (08 R309). -/
def Gang.Result (g h : Gang) (l : Nat) (d : Dst) (n : Nat) (lo hi : DWord) : Prop :=
  (h.lane l).latch 0 = entryVal (n != 1) lo ∧ (∀ k x, (k, x) ∈ (quadWords d lo hi).take n → h.reg k l = x) ∧
  (∀ j k, j < 32 → (j = l → k ∉ useDst n d) → g.pendingOn j k = false → h.reg k j = g.reg k j) ∧
  h.preds = g.preds ∧ h.s = g.s ∧ h.fpflags = g.fpflags

/-- A lane's result delivered: the instruction completes with it. -/
theorem sparse_delivers {d : Dst} {n : Nat} {lo hi : DWord} (issues : s.Issues g) (one : lanesOf (g.todo s.cur) = [l])
    (around : s.Around u) (bad : u.bad = none) (hn : 0 < n)
    (run : exec i s = finish ((⟨u.onGang (fun h => h.putResult d n l lo hi), maskSet 0 l true, [], [], []⟩ : SpLanes).outcome
      (State.completeSparse (some d) (n != 1)))) :
    Completes s i (fun t h => g.Result h l d n lo hi ∧ ∃ k, t = u.putGang k) := by
  have todo : (g.todo s.cur).getLsbD l = true := mem_lanesOf.1 (one ▸ List.mem_singleton_self l)
  have hl : l < 32 := mem_lanesOf_lt (mem_lanesOf.2 todo)
  have delivered := g.delivered_foldl d n (ls := [l]) (fun _ => (lo, hi)) (List.nodup_singleton l)
    (fun k hk => List.mem_singleton.1 hk ▸ hl)
  rw [List.foldl_cons, List.foldl_nil] at delivered
  have fixed := congrArg Prod.snd (g.fixed_putResult d n l lo hi)
  simp only [Gang.fixed, Prod.mk.injEq] at fixed
  rw [State.onGang_eq (around.issuer.trans issues.1)] at run
  obtain ⟨tree, done⟩ := outcome_done (u := u.putGang (g.putResult d n l lo hi)) (l := l)
    (complete := State.completeSparse (some d) (n != 1)) (State.issuer_putGang _ _)
  rw [done, State.putGang_putGang] at run
  refine (completes_load (t := u.putGang _) (h := (g.putResult d n l lo hi).marked (maskSet 0 l true) tree) around.cur bad
    (State.issuer_putGang _ _) (delivered.after ⟨rfl, fun _ => ⟨rfl, rfl⟩⟩) hn fixed.1
    (fun k hk => List.mem_singleton.1 hk ▸ todo) run).mono ?_
  rintro _ k ⟨results, others, preds, scalars, flags, rfl⟩
  obtain ⟨latch, regs⟩ := results l (List.mem_singleton_self l)
  exact ⟨⟨latch, regs, fun j x hj out => others j x hj fun hjl => out (List.mem_singleton.1 hjl), preds.trans fixed.1,
    scalars.trans fixed.2.1, flags.trans fixed.2.2⟩, k, State.putGang_putGang _ _ _⟩

/-- An instruction that writes no register completes (08 R309). -/
theorem completes_issue (cur : u.cur = s.cur) (bad : u.bad = none) (issuer : u.issuer = some h) (lanes : h.lanes = g.lanes)
    (regs : h.v = g.v) (fixed : h.fixed = g.fixed) (run : exec i s = finish u.completeIssue) :
    Completes s i (fun t k => g.Keeps k ∧ t = u.putGang k) := by
  unfold State.completeIssue at run
  rw [State.onGang_eq issuer, State.finish_good (s := u.putGang _) bad, cur] at run
  obtain ⟨preds, scalars, flags⟩ := Gang.advance_rest h s.cur
  have rest := congrArg Prod.snd fixed
  simp only [Gang.fixed, Prod.mk.injEq] at rest
  exact ⟨_, _, run, State.issuer_putGang _ _, fun k hk => Gang.pc_advance _ _ _ hk,
    ⟨fun k x hk quiet => Gang.reg_advance_of g _ _ _ _ hk lanes regs quiet, preds.trans rest.1, scalars.trans rest.2.1,
      flags.trans rest.2.2, Gang.stays_trans (Gang.stays_of_fixed (congrArg Prod.fst fixed)) (Gang.stays_advance _ _)⟩, rfl⟩

/-- A lane that writes a tree and no register: the instruction completes. -/
theorem sparse_completes (issues : s.Issues g) (around : s.Around u) (bad : u.bad = none)
    (run : exec i s = finish ((⟨u, maskSet 0 l true, [], [], []⟩ : SpLanes).outcome (State.completeSparse none false))) :
    Completes s i (fun t h => g.Keeps h ∧ ∃ k, t = u.putGang k) := by
  obtain ⟨tree, done⟩ := outcome_done (l := l) (complete := State.completeSparse none false) (around.issuer.trans issues.1)
  rw [done] at run
  refine (completes_issue (u := u.putGang _) (h := g.marked (maskSet 0 l true) tree) around.cur bad (State.issuer_putGang _ _)
    rfl rfl rfl run).mono ?_
  rintro _ k ⟨keeps, rfl⟩
  exact ⟨keeps, k, State.putGang_putGang _ _ _⟩

end OneLane
end Sys2Proof.Machine

/-! SPLD and SPST (spec 04 R171, R172; 09 R383, R384). -/

namespace Sys2Proof.Machine
section Lanes

/-- A gang issues a sparse instruction in one lane, on a current handle of a region. -/
structure State.OnRegion (s : State) (g : Gang) (l hs : Nat) (r : Region) : Prop where
  issues : s.Issues g
  one : lanesOf (g.todo s.cur) = [l]
  alone : g.treeWaits s.cur = false
  region : r = ⟨g.ctxKey, s.ttEntry g.ctxKey (handleSlot ((g.sreg hs).toNat % 2 ^ 32))⟩
  noError : s.entryError s.cur.core g.ctxKey (handleSlot ((g.sreg hs).toNat % 2 ^ 32)) = none
  current : s.handleOk g.ctxKey ((g.sreg hs).toNat % 2 ^ 32) = true
  sparse : teClass r.e = 1

/-- The machine once the unit has the region's entry at hand (03 R135). -/
def State.metEntry (s : State) (g : Gang) (hs : Nat) : State :=
  s.ttTouch s.cur.core g.ctxKey (handleSlot ((g.sreg hs).toNat % 2 ^ 32))

theorem State.beside_metEntry (s : State) (g : Gang) (hs : Nat) : s.Beside (s.metEntry g hs) := s.beside_ttTouch _ _ _

theorem State.noCached_metEntry {s : State} (h : s.NoCached) (g : Gang) (hs : Nat) : (s.metEntry g hs).NoCached :=
  ⟨fun c => ((s.alike_ttTouch _ _ _).l1 c).trans (h.1 c), h.2⟩

variable {s u : State} {g : Gang} {l hs n k : Nat} {r : Region} {i : Instr} {d : Dst} {x : Src} {lo hi : DWord}
  {key : Nat → Option Nat} {act : State → Nat → Nat → Except SpStop State} {wide : Bool}

/-- A sparse instruction runs its lane. -/
theorem State.OnRegion.exec_eq {d : Option Dst} {wide : Region → Bool} {regsOk : Gang → Region → Bool}
    {body : State → Gang → Region → List Nat → SpLanes} (on : s.OnRegion g l hs r) (regs : regsOk g r = true)
    (run : exec i s = finish (s.sparse hs d wide regsOk body)) :
    exec i s = finish ((body (s.metEntry g hs) g r [l]).outcome (State.completeSparse d (wide r))) := by
  rw [run, State.sparse_eq on.issues on.one on.alone rfl on.region on.noError on.current regs on.sparse]
  rfl

/-- A lane of coordinates outside the region traps. -/
theorem State.OnRegion.outside {complete : State → State} (on : s.OnRegion g l hs r) (none_ : key l = none)
    (run : exec i s = finish (((s.metEntry g hs).sparseLanes g r [l] key act).outcome complete))
    (room : g.handles 0 (g.todo s.cur)) : EntersHandler s g i (g.todo s.cur) 0 .perm (fun _ => s.freeAddr l) := by
  rw [sparseLanes_none none_] at run
  exact sparse_traps on.issues on.one (s.beside_metEntry g hs) rfl room (by decide) (by decide) run

/-- A lane whose step gives a result: the instruction delivers it. -/
theorem State.OnRegion.delivers (on : s.OnRegion g l hs r) (some_ : key l = some k)
    (ends : act (s.metEntry g hs) l k = .ok (u.onGang (fun h => h.putResult d n l lo hi))) (around : (s.metEntry g hs).Around u)
    (bad : u.bad = none) (hn : 0 < n) (hwide : wide = (n != 1))
    (run : exec i s = finish (((s.metEntry g hs).sparseLanes g r [l] key act).outcome (State.completeSparse (some d) wide))) :
    Completes s i (fun t h => g.Result h l d n lo hi ∧ ∃ k, t = u.putGang k) := by
  rw [sparseLanes_ok some_ ends, hwide] at run
  exact sparse_delivers on.issues on.one ((s.beside_metEntry g hs).toAround.trans around) bad hn run

/-- A delivered result, clause by clause, with what more holds of the machine. -/
theorem Completes.result {P more : State → Prop} (h : Completes s i (fun t h => g.Result h l d n lo hi ∧ P t))
    (imp : ∀ t, P t → more t) : Completes s i (fun t h =>
      (h.lane l).latch 0 = entryVal (n != 1) lo ∧ (∀ k x, (k, x) ∈ (quadWords d lo hi).take n → h.reg k l = x) ∧
      (∀ j k, j < 32 → (j = l → k ∉ useDst n d) → g.pendingOn j k = false → h.reg k j = g.reg k j) ∧
      h.preds = g.preds ∧ h.s = g.s ∧ h.fpflags = g.fpflags ∧ more t) :=
  h.mono fun t _ ⟨⟨latch, regs, others, preds, scalars, flags⟩, p⟩ =>
    ⟨latch, regs, others, preds, scalars, flags, imp t p⟩

theorem sameMemory_putGang {k : Gang} (mem : u.mem = s.mem) : SameMemory s (u.putGang k) := fun a => by
  rw [State.putGang_mem, mem]

/-- The machine that has met an entry differs in no byte of memory. -/
theorem sameMemory_metEntry (t : State) (h : ∃ k, t = (s.metEntry g hs).putGang k) : SameMemory s t := by
  obtain ⟨k, rfl⟩ := h
  exact sameMemory_putGang rfl

/-! The register image of a value (09 R384). -/

theorem signed_eq_toInt {w v : Nat} (hw : 0 < w) (small : v < 2 ^ w) : signed w v = (BitVec.ofNat w v).toInt := by
  rw [BitVec.toInt_eq_toNat_cond, BitVec.toNat_ofNat, Nat.mod_eq_of_lt small, signed]
  obtain ⟨w, rfl⟩ : ∃ k, w = k + 1 := ⟨w - 1, by omega⟩
  simp only [Nat.add_sub_cancel, pow_succ]
  split <;> split
  · rfl
  · omega
  · omega
  · rfl

/-- The register image, by the sign that a word of the value's own width has. -/
def signExtended (fmt v : Nat) : DWord :=
  if fmt = 0x14 then (BitVec.ofInt 32 (BitVec.ofNat 8 v).toInt).setWidth 64
  else if fmt = 0x16 then (BitVec.ofInt 32 (BitVec.ofNat 16 v).toInt).setWidth 64
  else BitVec.ofNat 64 v

theorem extendValue_eq {r : Region} {v : Nat} (small : v < 256 ^ r.size) :
    extendValue (teFmt r.e) v = signExtended (teFmt r.e) v := by
  unfold Region.size at small
  generalize teFmt r.e = fmt at *
  unfold extendValue signExtended
  by_cases byte : fmt = 0x14
  · subst byte
    rw [if_pos rfl, if_pos rfl, signed_eq_toInt (by norm_num) small]
  · rw [if_neg byte, if_neg byte]
    by_cases half : fmt = 0x16
    · subst half
      rw [if_pos rfl, if_pos rfl, signed_eq_toInt (by norm_num) small]
    · rw [if_neg half, if_neg half]

theorem leafValue_lt (size : Nat) (b : List Byte) (bit : Nat) : leafValue size b bit < 256 ^ size := by
  unfold leafValue
  split
  · exact num_lt ..
  · positivity

theorem valueIn_lt (size key : Nat) (res : Option (Nat × List Byte)) : valueIn size key res < 256 ^ size := by
  unfold valueIn
  split
  · split
    · exact leafValue_lt ..
    · positivity
  · positivity

theorem Region.width_pos (r : Region) : 0 < r.width := by
  unfold Region.width
  split <;> omega

theorem Region.wide_eq (r : Region) : (r.size == 8) = (r.width != 1) := by
  unfold Region.width
  by_cases h : r.size = 8 <;> simp [h]

/-! SPLD (04 R171). -/

section Spld

theorem exec_spld (on : s.OnRegion g l hs r) (regs : g.regsOk (coordRegs r x ++ useDst r.width d) = true)
    (pair : valueOk r d.pairOk = true) :
    exec (.spld ⟨d, x, hs⟩) s = finish (((s.metEntry g hs).sparseLanes g r [l] (g.laneKey r x) (fun s l k =>
      (s.runStep s.cur.core r (readKey s r k)).map (fun x =>
        x.2.onGang (fun h => h.putResult d r.width l (extendValue (teFmt r.e) x.1) 0)))).outcome
          (State.completeSparse (some d) (r.size == 8))) := by
  have run : exec (.spld ⟨d, x, hs⟩) s = finish (s.sparse hs (some d) _ _ _) := rfl
  exact on.exec_eq (Bool.and_eq_true_iff.2 ⟨regs, pair⟩) run

/-- SPLD delivers what its step reads. -/
theorem spld_delivers {v : Nat} (on : s.OnRegion g l hs r) (regs : g.regsOk (coordRegs r x ++ useDst r.width d) = true)
    (pair : valueOk r d.pairOk = true) (some_ : g.laneKey r x l = some k)
    (step : (s.metEntry g hs).runStep s.cur.core r (readKey (s.metEntry g hs) r k) = .ok (v, u)) (bad : u.bad = none) :
    Completes s (.spld ⟨d, x, hs⟩) (fun t h =>
      g.Result h l d r.width (extendValue (teFmt r.e) v) 0 ∧ ∃ k, t = u.putGang k) :=
  on.delivers some_ (congrArg (Except.map _) step) (State.around_runStep step) bad r.width_pos r.wide_eq (exec_spld on regs pair)

/-- SPLD of a key of a region of one shard. -/
theorem spld_leaf {root : List Byte} {res : Option (Nat × List Byte)} (on : s.OnRegion g l hs r)
    (regs : g.regsOk (coordRegs r x ++ useDst r.width d) = true) (pair : valueOk r d.pairOk = true)
    (some_ : g.laneKey r x l = some k) (leaf_ : (s.metEntry g hs).LeafOf r k root res) :
    Completes s (.spld ⟨d, x, hs⟩) (fun t h =>
      g.Result h l d r.width (signExtended (teFmt r.e) (valueIn r.size k res)) 0 ∧ SameMemory s t) := by
  rw [← extendValue_eq (valueIn_lt ..)]
  obtain ⟨buf, run, reads⟩ := readKey_shows leaf_.leafBy
  exact (spld_delivers on regs pair some_ (State.runStep_idle run reads _) on.issues.2).mono fun t h ⟨result, same⟩ =>
    ⟨result, sameMemory_metEntry t same⟩

end Spld

/-! SPST (04 R172). -/

section Spst

variable {y : Src}

/-- The value that SPST stores. -/
def Gang.storedValue (g : Gang) (r : Region) (y : Src) (l : Nat) : Nat :=
  if r.size = 8 then (g.src64 l y).toNat else (g.src l y).toNat % 2 ^ (8 * r.size)

theorem exec_spst (on : s.OnRegion g l hs r) (regs : g.regsOk (coordRegs r x ++ useSrc r.width y) = true)
    (pair : valueOk r y.pairOk = true) :
    exec (.spst ⟨y, x, hs⟩) s = finish (((s.metEntry g hs).sparseLanes g r [l] (g.laneKey r x) (fun s l k =>
      s.storeKey s.cur.core r k (g.storedValue r y l))).outcome (State.completeSparse none false)) := by
  have run : exec (.spst ⟨y, x, hs⟩) s = finish (s.sparse hs none _ _ _) := rfl
  exact on.exec_eq (Bool.and_eq_true_iff.2 ⟨regs, pair⟩) run

/-- SPST whose step is performed completes, and the step is what it does to memory. -/
theorem spst_completes (on : s.OnRegion g l hs r) (regs : g.regsOk (coordRegs r x ++ useSrc r.width y) = true)
    (pair : valueOk r y.pairOk = true) (some_ : g.laneKey r x l = some k)
    (step : (s.metEntry g hs).storeKey s.cur.core r k (g.storedValue r y l) = .ok u) (bad : u.bad = none) :
    Completes s (.spst ⟨y, x, hs⟩) (fun t h => g.Keeps h ∧ t.mem = u.mem) := by
  have run := exec_spst on regs pair
  rw [sparseLanes_ok some_ step] at run
  refine (sparse_completes on.issues ((s.beside_metEntry g hs).toAround.trans (State.around_storeKey step)) bad run).mono ?_
  rintro _ h ⟨keeps, k, rfl⟩
  exact ⟨keeps, rfl⟩

/-- What stops SPST traps. -/
theorem spst_traps {e : SpStop} {cause : Cause} {a : Nat} (on : s.OnRegion g l hs r)
    (regs : g.regsOk (coordRegs r x ++ useSrc r.width y) = true) (pair : valueOk r y.pairOk = true)
    (some_ : g.laneKey r x l = some k)
    (stops : (s.metEntry g hs).storeKey s.cur.core r k (g.storedValue r y l) = .error e)
    (records : e = .cause cause a ∧ cause ≠ .nres ∨ cause = .perm ∧ (e = .malformed a ∨ e = .split a) ∨
      cause = .pool ∧ e = .pool ∧ a = k) (room : g.handles 0 (g.todo s.cur)) :
    EntersHandler s g (.spst ⟨y, x, hs⟩) (g.todo s.cur) 0 cause (fun _ => BitVec.ofNat 64 a) := by
  have plain := plain_storeKey stops
  have run := exec_spst on regs pair
  rw [sparseLanes_error some_ stops] at run
  have beside := s.beside_metEntry g hs
  rcases records with ⟨rfl, request⟩ | ⟨rfl, rfl | rfl⟩ | ⟨rfl, rfl, rfl⟩
  · exact sparse_traps on.issues on.one beside rfl room request (fun h => plain a (by rw [h])) run
  · exact sparse_traps on.issues on.one beside rfl room (by decide) (by decide) run
  · exact sparse_traps on.issues on.one beside rfl room (by decide) (by decide) run
  · exact sparse_traps on.issues on.one beside rfl room (by decide) (by decide) run

/-! A changed leaf. -/

theorem fmtSize_cases (fmt : Nat) :
    fmtSize fmt = 0 ∨ fmtSize fmt = 1 ∨ fmtSize fmt = 2 ∨ fmtSize fmt = 4 ∨ fmtSize fmt = 8 := by
  unfold fmtSize
  split <;> simp

/-- A unit has room for 64 values (04 R155, R159). -/
theorem Region.unit_room (r : Region) {n : Nat} (few : n ≤ 64) : 32 + n * r.size ≤ r.unit := by
  have room : ∀ size units, unitNodes size = units → 32 + 64 * size ≤ 256 * units → 32 + n * size ≤ 256 * unitNodes size :=
    fun size units e fits => by
      have := Nat.mul_le_mul_right size few
      rw [e]
      omega
  unfold Region.unit Region.size
  rcases fmtSize_cases (teFmt r.e) with h | h | h | h | h <;> rw [h]
  · exact room 0 1 rfl (by norm_num)
  · exact room 1 1 rfl (by norm_num)
  · exact room 2 1 rfl (by norm_num)
  · exact room 4 2 rfl (by norm_num)
  · exact room 8 3 rfl (by norm_num)

theorem Region.length_leafPut (r : Region) (key v : Nat) (b : List Byte) : (r.leafPut key v b).length = r.unit := by
  have hbit : key % 64 < 64 := Nat.mod_lt _ (by norm_num)
  have few := bitsBelow_le (leafMap b) 64
  unfold Region.leafPut
  dsimp only
  refine length_makeLeaf _ _ (r.unit_room ?_)
  simp only [List.length_append, List.length_take, List.length_drop, List.length_singleton, length_leafVals]
  cases held : bitAt (leafMap b) (key % 64) with
  | true =>
    have := bitsBelow_lt held hbit
    simp only [if_true]
    omega
  | false =>
    have := bitsBelow_mono (leafMap b) hbit.le
    have total := bitsBelow_le (leafMap b + 2 ^ (key % 64)) 64
    rw [bitsBelow_set held, if_pos hbit] at total
    simp only [Bool.false_eq_true, if_false]
    omega

theorem Region.leafPut_eq (r : Region) (key v : Nat) (b : List Byte) :
    r.leafPut key v b = makeLeaf r.unit r.size (leafKey key)
      (if (leafMap b).testBit (key % 64) then leafMap b else leafMap b + 2 ^ (key % 64))
      ((leafVals r.size b).take (bitsBelow (leafMap b) (key % 64)) ++ [v] ++ (leafVals r.size b).drop
        (if (leafMap b).testBit (key % 64) then bitsBelow (leafMap b) (key % 64) + 1 else bitsBelow (leafMap b) (key % 64))) := by
  unfold Region.leafPut
  simp only [bitAt_eq_testBit]

/-- A value other than 0 stored for a key in its leaf, on a page that permits it, of a region that no seal meets. -/
theorem storeKey_leaf {v va pa : Nat} {root b : List Byte} (leaf_ : s.LeafOf r k root (some (va, b)))
    (mine : leafOf b = leafKey k) (some_ : 0 < v) (piece : s.unitPieces r.ctx va r.unit .store = .ok [(pa, r.unit)])
    (touch : s.engineTouch r.ctx va true = s) (unsealed : s.regionSeal r = none) (c : Nat) :
    s.storeKey c r k v = .ok (s.engineWrite c pa (r.leafPut k v b)) := by
  obtain ⟨buf, run, reads, -⟩ := writeKey_put leaf_.leafBy mine some_
  rw [← r.length_leafPut k v b] at piece
  unfold State.storeKey
  rw [State.runStep_one run reads piece touch c, unsealed, ite_self]

/-- SPST of a value other than 0 for a key in its leaf writes the leaf, and no other byte of memory. -/
theorem spst_leaf {va pa : Nat} {root b : List Byte} (on : s.OnRegion g l hs r)
    (regs : g.regsOk (coordRegs r x ++ useSrc r.width y) = true) (pair : valueOk r y.pairOk = true)
    (some_ : g.laneKey r x l = some k) (leaf_ : (s.metEntry g hs).LeafOf r k root (some (va, b)))
    (mine : leafOf b = leafKey k) (pos : 0 < g.storedValue r y l)
    (piece : (s.metEntry g hs).unitPieces r.ctx va r.unit .store = .ok [(pa, r.unit)])
    (touch : (s.metEntry g hs).engineTouch r.ctx va true = s.metEntry g hs)
    (unsealed : (s.metEntry g hs).regionSeal r = none) (memOk : s.MemOk) (empty : s.NoCached)
    (reach : s.reaches pa r.unit = true) (fine : s.dev.badTransfers = []) :
    Completes s (.spst ⟨y, x, hs⟩) (fun t h => g.Keeps h ∧
      t.readHome pa r.unit = r.leafPut k (g.storedValue r y l) b ∧
      ∀ a, (a < pa ∨ pa + r.unit ≤ a) → memRead t.mem a = memRead s.mem a) := by
  have step := storeKey_leaf leaf_ mine pos piece touch unsealed s.cur.core
  have len := r.length_leafPut k (g.storedValue r y l) b
  obtain ⟨bad, written, others⟩ := State.engineWrite_empty (State.noCached_metEntry empty g hs) memOk fine s.cur.core
    (pa := pa) (bs := r.leafPut k (g.storedValue r y l) b) (by rw [len]; exact reach)
  rw [len] at written others
  refine (spst_completes on regs pair some_ step (bad.trans on.issues.2)).mono fun t h ⟨keeps, mem⟩ => ⟨keeps, ?_, ?_⟩
  · unfold State.readHome at written ⊢
    rw [mem]
    exact written
  · rw [mem]
    exact others

end Spst
end Lanes
end Sys2Proof.Machine

/-! SPNEXT (spec 04 R174; 09 R384). -/

namespace Sys2Proof.Machine
section Spnext

variable {s u : State} {g : Gang} {l hs k cursor : Nat} {r : Region} {sh : Shard} {d : Dst} {x : Src} {buf buf' : Map Node}
  {root b : List Byte} {res : Option (Nat × List Byte)}

theorem nextKey_one (one : teShards r.e = 1) : nextKey s r cursor = nextIn s r [(0, teBase r.e)] cursor 0 >>= fun y => pure y := by
  unfold nextKey
  rw [shardTable_one one, pure_bind]
  rfl

/-- SPNEXT's scan of a root with one child or none. -/
theorem scan_single {fuel va lo hi child : Nat} (read : interior s r sh va none buf = .ok (b, buf')) (level : nodeLevel b = 1)
    (entries : nodeEntries b = [(0, child)]) :
    scan s r sh cursor (fuel + 1) va none lo hi buf =
      if child = noUnit then .ok (none, buf')
      else (leaf s r (r.unitVa child) lo hi >>= fun c =>
        pure ((leafNext c cursor).map (fun k => (k, leafValue r.size c (k % 64))))) buf' := by
  have first : childAt [(0, child)] (leafKey cursor) = 0 := rfl
  rw [scan, Step.bind_ok read, entries]
  dsimp only
  rw [first, level, show (List.range [(0, child)].length).filter (fun j => decide (0 ≤ j)) = [0] from rfl, List.foldlM_cons]
  simp only [Option.isSome_none, Bool.false_or, List.getD_cons_zero, decide_eq_true_eq, if_true, List.foldlM_nil]
  rw [bind_pure]
  split <;> rfl

/-- A descent through a root with one child or none. -/
theorem LeafBy.single {N : Nat → Nat → List Byte → Prop} (h : LeafBy N r key root res) (level : nodeLevel root = 1)
    (count : nodeCount root = 0) (unique : ∀ a n b c, N a n b → N a n c → b = c) :
    interiorOk root ⟨teBase r.e, 0, num root 0 4⟩ true 1 = true ∧ ∃ child, nodeEntries root = [(0, child)] ∧
      ((child = noUnit ∧ res = none) ∨ ∃ c, child ≠ noUnit ∧ r.unitVa child ≠ teBase r.e ∧
        N (r.unitVa child) r.unit c ∧ leafOk c 0 (2 ^ 64) = true ∧ res = some (r.unitVa child, c)) := by
  obtain ⟨-, node, n, c, shown, -, ok, next⟩ := h
  obtain rfl := unique _ _ _ _ node shown
  obtain ⟨lvl, -⟩ := interiorOk_level ok
  obtain rfl : n = 0 := by omega
  obtain ⟨child, entries, -⟩ := nodeEntries_single count
  rw [beq_self_eq_true] at ok
  refine ⟨ok, child, entries, ?_⟩
  dsimp only at next
  rw [entries, show childAt [(0, child)] (leafKey key) = 0 from rfl] at next
  rcases next with none_ | ⟨unit_, c, leaf_, fresh, fine, e⟩
  · exact .inl none_
  · exact .inr ⟨c, unit_, fun e => fresh (List.mem_singleton.2 e), leaf_, fine, e⟩

/-- SPNEXT's step in a region whose root has one child or none. -/
theorem nextKey_single (h : s.LeafOf r k root res) (level : nodeLevel root = 1) (count : nodeCount root = 0) :
    ∃ buf, nextKey s r k [] = .ok (res.bind (fun y => (leafNext y.2 k).map (fun i => (i, leafValue r.size y.2 (i % 64)))), buf) ∧
      s.ReadOn r [] buf := by
  have by_ := h.leafBy
  obtain ⟨ok, child, entries, reached⟩ := by_.single level count fun _ _ _ _ => State.Shows.unique
  obtain ⟨one, node, -⟩ := by_
  obtain ⟨buf₁, run₁, on₁, in₁, same₁⟩ := getShard_shows node
  obtain ⟨buf₂, run₂, on₂, in₂, same₂⟩ := interior_shows (s := s) (r := r) (sh := ⟨teBase r.e, 0, num root 0 4⟩)
    (va := teBase r.e) (level := none) (.inl in₁) (by rw [beq_self_eq_true, Option.getD_none, level]; exact ok)
  have steps : nextKey s r k [] = if child = noUnit then .ok (none, buf₂)
      else (leaf s r (r.unitVa child) 0 (2 ^ 64) >>= fun c =>
        pure ((leafNext c k).map (fun k => (k, leafValue r.size c (k % 64))))) buf₂ := by
    rw [nextKey_one one, bind_pure]
    unfold nextIn
    rw [Step.bind_ok run₁]
    exact scan_single run₂ level entries
  rw [steps]
  rcases reached with ⟨none_, rfl⟩ | ⟨c, unit_, apart, leaf_, fine, rfl⟩
  · rw [if_pos none_]
    exact ⟨buf₂, rfl, on₁.trans on₂⟩
  · rw [if_neg unit_]
    obtain ⟨buf₃, run₃, on₃, -⟩ := leaf_shows ((leaf_.of_other same₁ apart).of_other same₂ apart) fine
    exact ⟨buf₃, by rw [Step.bind_ok run₃]; rfl, (on₁.trans on₂).trans on₃⟩

/-- A region without a leaf has a root without a child. -/
theorem State.LeafOf.empty (h : s.LeafOf r k root none) : nodeLevel root = 1 ∧ nodeCount root = 0 := by
  obtain ⟨ok, entries⟩ := h.leafBy.empty fun _ _ _ _ => State.Shows.unique
  obtain ⟨level, -⟩ := interiorOk_level ok
  refine ⟨level, ?_⟩
  have one : (nodeEntries root).length = 1 := by rw [entries]; rfl
  unfold nodeEntries at one
  rw [List.length_map, List.length_range] at one
  omega

/-! The instruction. -/

theorem exec_spnext (on : s.OnRegion g l hs r) (regs : g.regsOk (useSrc 2 x ++ useDst 4 d) = true) (quad : quadOk d = true) :
    exec (.spnext ⟨d, x, hs⟩) s = finish (((s.metEntry g hs).sparseLanes g r [l] (fun l => some (g.src64 l x).toNat) (fun s l k =>
      (s.runStep s.cur.core r (if teSpace r.e ≤ k then pure none else nextKey s r k)).map (fun x =>
        let v : DWord × DWord := match x.1 with
          | some (key, v) => (BitVec.ofNat 64 key, extendValue (teFmt r.e) v)
          | none => (BitVec.allOnes 64, 0)
        x.2.onGang (fun h => h.putResult d 4 l v.1 v.2)))).outcome (State.completeSparse (some d) true)) := by
  have run : exec (.spnext ⟨d, x, hs⟩) s = finish (s.sparse hs (some d) _ _ _) := rfl
  exact on.exec_eq (Bool.and_eq_true_iff.2 ⟨regs, quad⟩) run

/-- SPNEXT delivers what its step answers. -/
theorem spnext_delivers {y : Option (Nat × Nat)} (on : s.OnRegion g l hs r) (regs : g.regsOk (useSrc 2 x ++ useDst 4 d) = true)
    (quad : quadOk d = true)
    (step : (s.metEntry g hs).runStep s.cur.core r (if teSpace r.e ≤ (g.src64 l x).toNat then pure none
      else nextKey (s.metEntry g hs) r (g.src64 l x).toNat) = .ok (y, u)) (bad : u.bad = none) :
    Completes s (.spnext ⟨d, x, hs⟩) (fun t h =>
      g.Result h l d 4 ((y.map (fun z => BitVec.ofNat 64 z.1)).getD (BitVec.allOnes 64))
        ((y.map (fun z => extendValue (teFmt r.e) z.2)).getD 0) ∧ ∃ k, t = u.putGang k) := by
  refine on.delivers (key := fun l => some (g.src64 l x).toNat) rfl ((congrArg (Except.map _) step).trans ?_)
    (State.around_runStep step) bad (by norm_num) rfl (exec_spnext on regs quad)
  cases y <;> rfl

/-- SPNEXT of a cursor in the region. -/
theorem spnext_inside {y : Option (Nat × Nat)} (on : s.OnRegion g l hs r) (regs : g.regsOk (useSrc 2 x ++ useDst 4 d) = true)
    (quad : quadOk d = true) (inside : (g.src64 l x).toNat < teSpace r.e)
    (step : (s.metEntry g hs).runStep s.cur.core r (nextKey (s.metEntry g hs) r (g.src64 l x).toNat) = .ok (y, u))
    (bad : u.bad = none) :
    Completes s (.spnext ⟨d, x, hs⟩) (fun t h =>
      g.Result h l d 4 ((y.map (fun z => BitVec.ofNat 64 z.1)).getD (BitVec.allOnes 64))
        ((y.map (fun z => extendValue (teFmt r.e) z.2)).getD 0) ∧ ∃ k, t = u.putGang k) := by
  rw [← if_neg (c := teSpace r.e ≤ (g.src64 l x).toNat) (t := (pure none : Step (Option (Nat × Nat))))
    (e := nextKey (s.metEntry g hs) r (g.src64 l x).toNat) (Nat.not_le.2 inside)] at step
  exact spnext_delivers on regs quad step bad

/-- SPNEXT beyond the region. -/
theorem spnext_beyond (on : s.OnRegion g l hs r) (regs : g.regsOk (useSrc 2 x ++ useDst 4 d) = true) (quad : quadOk d = true)
    (beyond : teSpace r.e ≤ (g.src64 l x).toNat) :
    Completes s (.spnext ⟨d, x, hs⟩) (fun t h => g.Result h l d 4 (BitVec.allOnes 64) 0 ∧ SameMemory s t) := by
  have step := State.runStep_idle (s := s.metEntry g hs) (Step.pure_apply (none : Option (Nat × Nat)) []) (.refl _ r []) s.cur.core
  rw [← if_pos (c := teSpace r.e ≤ (g.src64 l x).toNat) (t := (pure none : Step (Option (Nat × Nat))))
    (e := nextKey (s.metEntry g hs) r (g.src64 l x).toNat) beyond] at step
  exact (spnext_delivers on regs quad step on.issues.2).mono fun t h ⟨result, same⟩ =>
    ⟨result, sameMemory_metEntry t same⟩

/-- SPNEXT in a region whose root has one child or none. -/
theorem spnext_single (on : s.OnRegion g l hs r) (regs : g.regsOk (useSrc 2 x ++ useDst 4 d) = true) (quad : quadOk d = true)
    (inside : (g.src64 l x).toNat < teSpace r.e) (leaf_ : (s.metEntry g hs).LeafOf r (g.src64 l x).toNat root res)
    (level : nodeLevel root = 1) (count : nodeCount root = 0) :
    let y := res.bind (fun y => (leafNext y.2 (g.src64 l x).toNat).map (fun i => (i, leafValue r.size y.2 (i % 64))))
    Completes s (.spnext ⟨d, x, hs⟩) (fun t h =>
      g.Result h l d 4 ((y.map (fun z => BitVec.ofNat 64 z.1)).getD (BitVec.allOnes 64))
        ((y.map (fun z => extendValue (teFmt r.e) z.2)).getD 0) ∧ SameMemory s t) := by
  intro y
  obtain ⟨buf, run, reads⟩ := nextKey_single leaf_ level count
  exact (spnext_inside on regs quad inside (State.runStep_idle run reads s.cur.core) on.issues.2).mono
    fun t h ⟨result, same⟩ => ⟨result, sameMemory_metEntry t same⟩

/-- The least present key of a leaf at or above a cursor, by the leaf's bits. -/
theorem leafNext_eq (b : List Byte) (k : Nat) :
    leafNext b k = (((List.range 64).filter (fun i => (leafMap b).testBit i && decide (k ≤ leafOf b + i))).head?).map
      (leafOf b + ·) := by
  unfold leafNext below
  simp only [bitAt_eq_testBit]

/-- SPNEXT in a region without a leaf. -/
theorem spnext_empty (on : s.OnRegion g l hs r) (regs : g.regsOk (useSrc 2 x ++ useDst 4 d) = true) (quad : quadOk d = true)
    (inside : (g.src64 l x).toNat < teSpace r.e) (leaf_ : (s.metEntry g hs).LeafOf r (g.src64 l x).toNat root none) :
    Completes s (.spnext ⟨d, x, hs⟩) (fun t h => g.Result h l d 4 (BitVec.allOnes 64) 0 ∧ SameMemory s t) :=
  spnext_single on regs quad inside leaf_ leaf_.empty.1 leaf_.empty.2

/-- SPNEXT in a leaf, by the leaf's present keys at or above the cursor. -/
theorem spnext_leaf {va : Nat} {b : List Byte} (on : s.OnRegion g l hs r) (regs : g.regsOk (useSrc 2 x ++ useDst 4 d) = true)
    (quad : quadOk d = true) (inside : (g.src64 l x).toNat < teSpace r.e)
    (leaf_ : (s.metEntry g hs).LeafOf r (g.src64 l x).toNat root (some (va, b))) (level : nodeLevel root = 1)
    (count : nodeCount root = 0) :
    let is := (List.range 64).filter (fun i => (leafMap b).testBit i && decide ((g.src64 l x).toNat ≤ leafOf b + i))
    (is = [] → Completes s (.spnext ⟨d, x, hs⟩) (fun t h =>
      g.Result h l d 4 (BitVec.allOnes 64) 0 ∧ SameMemory s t)) ∧
    ∀ i, is.head? = some i → Completes s (.spnext ⟨d, x, hs⟩) (fun t h =>
      g.Result h l d 4 (BitVec.ofNat 64 (leafOf b + i))
        (signExtended (teFmt r.e) (leafValue r.size b ((leafOf b + i) % 64))) ∧ SameMemory s t) := by
  intro is
  have delivered := spnext_single on regs quad inside leaf_ level count
  simp only [Option.bind_some, leafNext_eq] at delivered
  refine ⟨fun none_ => ?_, fun i first => ?_⟩
  · rw [show (List.range 64).filter _ = [] from none_] at delivered
    exact delivered
  · rw [show List.head? _ = some i from first] at delivered
    rw [← extendValue_eq (leafValue_lt ..)]
    exact delivered

end Spnext

/-! SPLEAF (spec 04 R173; 09 R384). -/

section Spleaf

variable {s u : State} {g : Gang} {l hs k : Nat} {r : Region} {d : Dst} {x : Src} {root : List Byte}

/-- The words that SPLEAF takes out of the caches. -/
def State.leafWords (s : State) (g : Gang) (r : Region) (va a : Nat) : Bool :=
  meetsRanges (s.physRanges r.ctx va r.unit) a && !s.sealedWord g.part a

theorem State.leafWords_of {v : State} {va a : Nat} (inRange : meetsRanges (v.physRanges r.ctx va r.unit) a = true)
    (free : v.sealedWord g.part a = false) : v.leafWords g r va a = true := by
  unfold State.leafWords
  rw [inRange, free]
  rfl

theorem State.leafOut_some (s : State) (g : Gang) (c : Nat) (r : Region) (va : Nat) (b : List Byte) :
    (s.leafOut g c r (some (va, b))).1 = s.acquireWords c 2 (s.leafWords g r va) := by
  unfold State.leafOut State.leafWords
  dsimp only

theorem State.beside_leafOut (s : State) (g : Gang) (c : Nat) (r : Region) (y : Option (Nat × List Byte)) :
    s.Beside (s.leafOut g c r y).1 := by
  cases y with
  | none => exact .refl s
  | some z =>
    rw [s.leafOut_some]
    exact s.beside_acquireWords c 2 _

theorem State.leafOut_words (s : State) (g : Gang) (c : Nat) (r : Region) (y : Option (Nat × List Byte)) :
    (s.leafOut g c r y).2 = ((y.map (fun z => BitVec.ofNat 64 (leafMap z.2))).getD 0,
      (y.map (fun z => BitVec.ofNat 64 (z.1 + 32))).getD 0) := by
  cases y <;> rfl

theorem exec_spleaf (on : s.OnRegion g l hs r) (regs : g.regsOk (coordRegs r x ++ useDst 4 d) = true) (quad : quadOk d = true) :
    exec (.spleaf ⟨d, x, hs⟩) s = finish (((s.metEntry g hs).sparseLanes g r [l] (g.laneKey r x) (fun s l k =>
      (s.runStep s.cur.core r (findLeaf s r k)).map (fun x =>
        let y := x.2.leafOut g s.cur.core r x.1
        y.1.onGang (fun h => h.putResult d 4 l y.2.1 y.2.2)))).outcome (State.completeSparse (some d) true)) := by
  have run : exec (.spleaf ⟨d, x, hs⟩) s = finish (s.sparse hs (some d) _ _ _) := rfl
  exact on.exec_eq (Bool.and_eq_true_iff.2 ⟨regs, quad⟩) run

/-- SPLEAF delivers the leaf that its step finds, and takes its words out of the caches. -/
theorem spleaf_delivers {y : Option (Nat × List Byte)} (on : s.OnRegion g l hs r)
    (regs : g.regsOk (coordRegs r x ++ useDst 4 d) = true) (quad : quadOk d = true) (some_ : g.laneKey r x l = some k)
    (step : (s.metEntry g hs).runStep s.cur.core r (findLeaf (s.metEntry g hs) r k) = .ok (y, u)) (bad : u.bad = none) :
    Completes s (.spleaf ⟨d, x, hs⟩) (fun t h =>
      g.Result h l d 4 ((y.map (fun z => BitVec.ofNat 64 (leafMap z.2))).getD 0)
        ((y.map (fun z => BitVec.ofNat 64 (z.1 + 32))).getD 0) ∧ ∃ k, t = (u.leafOut g s.cur.core r y).1.putGang k) := by
  have words := u.leafOut_words g s.cur.core r y
  have beside := u.beside_leafOut g s.cur.core r y
  have lane := congrArg (Except.map fun x : Option (Nat × List Byte) × State =>
    let y := x.2.leafOut g s.cur.core r x.1
    y.1.onGang (fun h => h.putResult d 4 l y.2.1 y.2.2)) step
  dsimp only [Except.map] at lane
  rw [words] at lane
  exact on.delivers some_ lane ((State.around_runStep step).trans beside.toAround) (beside.bad.trans bad) (by norm_num) rfl
    (exec_spleaf on regs quad)

/-- SPLEAF in a region of one shard. -/
theorem spleaf_leaf {res : Option (Nat × List Byte)} (on : s.OnRegion g l hs r)
    (regs : g.regsOk (coordRegs r x ++ useDst 4 d) = true) (quad : quadOk d = true) (some_ : g.laneKey r x l = some k)
    (leaf_ : (s.metEntry g hs).LeafOf r k root res) :
    let y := res.bind (fun x => if leafOf x.2 = leafKey k then some x else none)
    Completes s (.spleaf ⟨d, x, hs⟩) (fun t h =>
      g.Result h l d 4 ((y.map (fun z => BitVec.ofNat 64 (leafMap z.2))).getD 0)
        ((y.map (fun z => BitVec.ofNat 64 (z.1 + 32))).getD 0) ∧
        ∃ k, t = ((s.metEntry g hs).leafOut g s.cur.core r y).1.putGang k) := by
  obtain ⟨buf, run, reads⟩ := findLeaf_shows leaf_.leafBy
  exact spleaf_delivers on regs quad some_ (State.runStep_idle run reads _) on.issues.2

/-- The words of a leaf leave the L1, and with empty caches no byte of memory changes. -/
theorem State.leafOut_taken (v : State) (g : Gang) (c : Nat) (r : Region) (va : Nat) (b : List Byte) :
    (v.NoCached → (v.leafOut g c r (some (va, b))).1.mem = v.mem) ∧
    (v.leafOut g c r (some (va, b))).1.L1Without c (v.leafWords g r va) := by
  rw [v.leafOut_some]
  refine ⟨fun empty => (State.Emptied.acquireWords empty c 2 _).mem, v.acquireWords_without c (fun a => ?_) (by norm_num)⟩
  unfold State.leafWords State.sealedWord
  rw [ofWords_meetsRanges, ofWords_meetsRanges]

/-- SPLEAF of a key whose leaf is not there. -/
theorem spleaf_other {res : Option (Nat × List Byte)} (on : s.OnRegion g l hs r)
    (regs : g.regsOk (coordRegs r x ++ useDst 4 d) = true) (quad : quadOk d = true) (some_ : g.laneKey r x l = some k)
    (leaf_ : (s.metEntry g hs).LeafOf r k root res) (other : ∀ va b, res = some (va, b) → leafOf b ≠ leafKey k) :
    Completes s (.spleaf ⟨d, x, hs⟩) (fun t h => g.Result h l d 4 0 0 ∧ SameMemory s t) := by
  have absent : res.bind (fun x => if leafOf x.2 = leafKey k then some x else none) = none := by
    cases res with
    | none => rfl
    | some z => exact if_neg (other z.1 z.2 rfl)
  have delivered := spleaf_leaf on regs quad some_ leaf_
  rw [absent] at delivered
  exact delivered.mono fun t h ⟨result, same⟩ => ⟨result, sameMemory_metEntry t same⟩

/-- SPLEAF of a key in its leaf. -/
theorem spleaf_taken {va : Nat} {b : List Byte} (on : s.OnRegion g l hs r)
    (regs : g.regsOk (coordRegs r x ++ useDst 4 d) = true) (quad : quadOk d = true) (some_ : g.laneKey r x l = some k)
    (leaf_ : (s.metEntry g hs).LeafOf r k root (some (va, b))) (mine : leafOf b = leafKey k) :
    Completes s (.spleaf ⟨d, x, hs⟩) (fun t h =>
      g.Result h l d 4 (BitVec.ofNat 64 (leafMap b)) (BitVec.ofNat 64 (va + 32)) ∧ (s.NoCached → SameMemory s t) ∧
        t.L1Without s.cur.core ((s.metEntry g hs).leafWords g r va)) := by
  have delivered := spleaf_leaf on regs quad some_ leaf_
  rw [Option.bind_some, if_pos mine] at delivered
  obtain ⟨memory, gone⟩ := (s.metEntry g hs).leafOut_taken g s.cur.core r va b
  refine delivered.mono ?_
  rintro _ h ⟨result, k, rfl⟩
  refine ⟨result, fun empty => sameMemory_putGang (memory (State.noCached_metEntry empty g hs)), ?_⟩
  unfold State.L1Without
  rw [State.l1_putGang]
  exact gone

end Spleaf
end Sys2Proof.Machine

/-! SPDENSE and SPIMPORT at issue (spec 04 R177 to R179; 09 R385). -/

namespace Sys2Proof.Machine

/-! A key that a map has free. -/

section Free

variable {α : Type} {m : Map α}

theorem mem_keys_of_mfind? {n : Nat} {x : α} (h : mfind? m n = some x) : n ∈ m.map Prod.fst := by
  induction m with
  | nil => cases h
  | cons y m ih =>
    obtain ⟨k, z⟩ := y
    rw [List.map_cons, List.mem_cons]
    by_cases e : n = k
    · exact .inl e
    · rw [mfind?, if_neg e] at h
      exact .inr (ih h)

theorem mfree_or_all (m : Map α) (from_ n : Nat) :
    (∃ i, mfree m from_ n = some i ∧ mfind? m i = none) ∨ ∀ i ∈ List.range' from_ n, i ∈ m.map Prod.fst := by
  induction n generalizing from_ with
  | zero => exact .inr (by simp)
  | succ n ih =>
    rw [mfree, List.range'_succ]
    cases found : mfind? m from_ with
    | none => exact .inl ⟨from_, rfl, found⟩
    | some x =>
      rcases ih (from_ + 1) with free | all
      · exact .inl free
      · exact .inr (List.forall_mem_cons.2 ⟨mem_keys_of_mfind? found, all⟩)

/-- Among one more key than a map has, one is free. -/
theorem exists_mfree (m : Map α) (from_ : Nat) : ∃ i, mfree m from_ (m.length + 1) = some i ∧ mfind? m i = none := by
  refine (mfree_or_all m from_ (m.length + 1)).resolve_right fun all => ?_
  have := ((List.nodup_range' (s := from_) (n := m.length + 1) (step := 1)).subperm all).length_le
  rw [List.length_range', List.length_map] at this
  omega

end Free

section Engine

variable {s : State} {g : Gang} {i : Instr} {o : SpEngineOp} {w w2 : Nat}

theorem State.sparse_putGang (s : State) (g : Gang) (c : Nat) : ((s.putGang g).core c).sparse = (s.core c).sparse := by
  rw [State.core_putGang]

/-- The machine once the unit holds an engine operation. -/
def State.withSparse (s : State) (g : Gang) (h : Nat) (x : SparseOp) : State :=
  (s.ttTouch s.cur.core g.ctxKey (handleSlot h)).modCore s.cur.core (fun k =>
    { k with sparse := match mfree k.sparse (4096 * g.bank) (k.sparse.length + 1) with
      | some i => mput k.sparse i x
      | none => k.sparse })

theorem State.beside_withSparse (s : State) (g : Gang) (h : Nat) (x : SparseOp) : s.Beside (s.withSparse g h x) :=
  (s.beside_ttTouch _ _ _).trans (State.beside_modCore _ _ _ fun _ => rfl)

/-- The operation takes a free place and stays in flight. -/
theorem State.sparse_withSparse (s : State) (g : Gang) (h : Nat) (x : SparseOp) :
    ∃ n, mfind? (s.core s.cur.core).sparse n = none ∧
      mfind? ((s.withSparse g h x).core s.cur.core).sparse n = some x := by
  have touched : ((s.ttTouch s.cur.core g.ctxKey (handleSlot h)).core s.cur.core).sparse = (s.core s.cur.core).sparse := by
    unfold State.ttTouch
    rw [State.core_modCore, if_pos rfl]
  obtain ⟨n, free, fresh⟩ := exists_mfree (s.core s.cur.core).sparse (4096 * g.bank)
  refine ⟨n, fresh, ?_⟩
  unfold State.withSparse
  rw [State.core_modCore, if_pos rfl]
  dsimp only
  rw [touched, free]
  exact mfind?_mput_same _ _ _

/-- The operation that the unit takes at issue, with its snapshots. -/
def State.sparseOp (s : State) (g : Gang) (isImport : Bool) (dw : List DWord) (w w2 : Nat) (loc : ObjLoc) : SparseOp :=
  { isImport := isImport, who := s.issuerOf g (g.parts s.cur false), dw := dw, entry := s.ttEntry g.ctxKey (handleSlot w)
    handle := w, dst := if isImport then [] else s.ttEntry g.ctxKey (handleSlot w2)
    dstHandle := if isImport then 0 else w2, obj := ⟨loc, scopeOf (seScope dw), none⟩, row := 0
    entry_ := none, status := none, finished := false }

/-- The unit's checks once the handles are current. -/
def State.sparseStart (s : State) (g : Gang) (isImport : Bool) (dw : List DWord) (w w2 : Nat) : State :=
  s.withObject g (g.parts s.cur false)
    (sparseEngineFails isImport ⟨g.ctxKey, s.ttEntry g.ctxKey (handleSlot w)⟩
      (if isImport then [] else s.ttEntry g.ctxKey (handleSlot w2)) dw)
    (s.engineObject g (seOsp dw) (seOaddr dw)) (fun loc => (s.withSparse g w (s.sparseOp g isImport dw w w2 loc)).completeIssue)

/-- What an engine instruction of the unit does: its handles one after the other, then its checks. -/
theorem State.sparseEngine_eq {isImport : Bool} (issues : s.Issues g) (some_ : g.parts s.cur false ≠ 0)
    (alone : g.treeWaits s.cur = false) (hw : (g.sreg o.h).toNat % 2 ^ 32 = w)
    (hw2 : (dwAt (g.descriptor o.s) 0).toNat % 2 ^ 32 = w2)
    (noError : s.entryError s.cur.core g.ctxKey (handleSlot w) = none) :
    s.sparseEngine isImport o =
      if !s.handleOk g.ctxKey w then s.trapAll g (g.parts s.cur false) .staleTid (BitVec.ofNat 64 w)
      else if isImport then s.sparseStart g isImport (g.descriptor o.s) w w2
      else s.onEntry g (handleSlot w2) (if s.handleOk g.ctxKey w2 then s.sparseStart g isImport (g.descriptor o.s) w w2
        else s.trapAll g (g.parts s.cur false) .staleTid (BitVec.ofNat 64 w2)) := by
  subst hw hw2
  unfold State.sparseEngine
  rw [State.perIssue_eq issues some_]
  simp only [alone, Bool.false_eq_true, if_false, field_handle]
  rw [State.onEntry_eq noError]
  rfl

/-- The instruction completes at issue, and its operation is in flight. -/
theorem sparseStart_completes {isImport : Bool} {dw : List DWord} {loc : ObjLoc} (issues : s.Issues g)
    (pass : sparseEngineFails isImport ⟨g.ctxKey, s.ttEntry g.ctxKey (handleSlot w)⟩
      (if isImport then [] else s.ttEntry g.ctxKey (handleSlot w2)) dw = [])
    (object : s.engineObject g (seOsp dw) (seOaddr dw) = .ok loc)
    (run : exec i s = finish (s.sparseStart g isImport dw w w2)) :
    Completes s i (fun t h => g.Keeps h ∧ SameMemory s t ∧ ∃ n x, mfind? (s.core s.cur.core).sparse n = none ∧
      mfind? (t.core s.cur.core).sparse n = some x ∧ x.isImport = isImport ∧ x.who = s.issuerOf g (g.parts s.cur false) ∧
      x.dw = dw ∧ x.entry = s.ttEntry g.ctxKey (handleSlot w) ∧
      x.dst = (if isImport then [] else s.ttEntry g.ctxKey (handleSlot w2)) ∧ x.obj = ⟨loc, scopeOf (seScope dw), none⟩ ∧
      x.row = 0 ∧ x.status = none ∧ x.finished = false) := by
  unfold State.sparseStart at run
  rw [pass, object] at run
  have beside := s.beside_withSparse g w (s.sparseOp g isImport dw w w2 loc)
  refine (completes_issue beside.cur (beside.bad.trans issues.2) (beside.issuer.trans issues.1) rfl rfl rfl run).mono ?_
  rintro _ h ⟨keeps, rfl⟩
  obtain ⟨n, free, held⟩ := s.sparse_withSparse g w (s.sparseOp g isImport dw w w2 loc)
  rw [← State.sparse_putGang _ h] at held
  exact ⟨keeps, sameMemory_putGang rfl, n, _, free, held, rfl, rfl, rfl, rfl, rfl, rfl, rfl, rfl, rfl⟩

/-- A handle that is not current stops the instruction. -/
theorem stale_traps (issues : s.Issues g) (some_ : g.parts s.cur false ≠ 0)
    (run : exec i s = finish (s.trapAll g (g.parts s.cur false) .staleTid (BitVec.ofNat 64 w)))
    (room : g.handles 0 (g.parts s.cur false)) :
    EntersHandler s g i (g.parts s.cur false) 0 .staleTid (fun _ => BitVec.ofNat 64 w) :=
  entersHandler_of_trap (u := s) issues rfl rfl (fun _ => rfl) run some_ room (by decide) (by decide)

/-! The instructions. -/

theorem exec_spimport (issues : s.Issues g) (some_ : g.parts s.cur false ≠ 0) (alone : g.treeWaits s.cur = false)
    (hw : (g.sreg o.h).toNat % 2 ^ 32 = w) (hw2 : (dwAt (g.descriptor o.s) 0).toNat % 2 ^ 32 = w2)
    (noError : s.entryError s.cur.core g.ctxKey (handleSlot w) = none) :
    exec (.spimport o) s = finish (if !s.handleOk g.ctxKey w then
      s.trapAll g (g.parts s.cur false) .staleTid (BitVec.ofNat 64 w) else s.sparseStart g true (g.descriptor o.s) w w2) := by
  have run : exec (.spimport o) s = finish (s.sparseEngine true o) := rfl
  rw [run, State.sparseEngine_eq issues some_ alone hw hw2 noError, if_pos (c := true = true) rfl]

theorem exec_spdense (issues : s.Issues g) (some_ : g.parts s.cur false ≠ 0) (alone : g.treeWaits s.cur = false)
    (hw : (g.sreg o.h).toNat % 2 ^ 32 = w) (hw2 : (dwAt (g.descriptor o.s) 0).toNat % 2 ^ 32 = w2)
    (noError : s.entryError s.cur.core g.ctxKey (handleSlot w) = none) :
    exec (.spdense o) s = finish (if !s.handleOk g.ctxKey w then
      s.trapAll g (g.parts s.cur false) .staleTid (BitVec.ofNat 64 w)
      else s.onEntry g (handleSlot w2) (if s.handleOk g.ctxKey w2 then s.sparseStart g false (g.descriptor o.s) w w2
        else s.trapAll g (g.parts s.cur false) .staleTid (BitVec.ofNat 64 w2))) := by
  have run : exec (.spdense o) s = finish (s.sparseEngine false o) := rfl
  rw [run, State.sparseEngine_eq issues some_ alone hw hw2 noError, if_neg (c := false = true) Bool.false_ne_true]

end Engine
end Sys2Proof.Machine

/-! O43 (spec 04 R153 to R180; 09 R383 to R385). -/

namespace Sys2Proof.Machine
section SparseResults

/-- Settles O43. A region of one shard has a path of nodes from its root to the leaf that covers a key: steps read along it
and buffer the nodes that they change, and a lane runs one step and delivers what it answers. -/
theorem sparseResults : Obligations.SparseResults := by
  unfold Obligations.SparseResults
  refine ⟨fun s r key root hkey => treeResults hkey, ?_, ?_⟩
  · intro s g l hs issues one alone c w r v noError current sparse
    have on : s.OnRegion g l hs r := ⟨issues, one, alone, rfl, noError, current, sparse⟩
    dsimp only
    refine ⟨fun d x regs pair => ⟨?_, ?_, ?_⟩, fun y x regs pair => ⟨?_, fun k some_ => ⟨?_, ?_, ?_⟩⟩,
      fun d x regs quad => ⟨?_, ?_, ?_, ?_⟩, fun d x regs quad => ⟨?_, ?_, ?_, ?_⟩⟩
    · exact fun none_ room => on.outside none_ (exec_spld on regs pair) room
    · exact fun k n u some_ step bad => (spld_delivers on regs pair some_ step bad).result fun _ _ => trivial
    · exact fun k root y some_ leaf_ => (spld_leaf on regs pair some_ leaf_).result fun _ same => same
    · exact fun none_ room => on.outside none_ (exec_spst on regs pair) room
    · exact fun u step bad => spst_completes on regs pair some_ step bad
    · exact fun e cause a stops records room => spst_traps on regs pair some_ stops records room
    · intro root va b pa leaf_ mine pos piece touch unsealed memOk empty reach fine
      have stored := spst_leaf on regs pair some_ leaf_ mine pos piece touch unsealed memOk empty reach fine
      rw [Region.leafPut_eq] at stored
      exact stored
    · exact fun beyond _ => (spnext_beyond on regs quad beyond).result fun _ _ => trivial
    · exact fun inside y u step bad => (spnext_inside on regs quad inside step bad).result fun _ _ => trivial
    · exact fun inside root leaf_ => (spnext_empty on regs quad inside leaf_).result fun _ same => same
    · intro inside root va b leaf_ level count
      obtain ⟨beyond, least⟩ := spnext_leaf on regs quad inside leaf_ level count
      exact ⟨fun none_ => (beyond none_).result fun _ same => same, fun i first => (least i first).result fun _ same => same⟩
    · exact fun none_ room => on.outside none_ (exec_spleaf on regs quad) room
    · exact fun k y u some_ step bad => (spleaf_delivers on regs quad some_ step bad).result fun _ _ => trivial
    · exact fun k root y some_ leaf_ other => (spleaf_other on regs quad some_ leaf_ other).result fun _ same => same
    · exact fun k root va b some_ leaf_ mine => (spleaf_taken on regs quad some_ leaf_ mine).result fun t ⟨memory, gone⟩ =>
        ⟨memory, fun a inRange free => gone a (State.leafWords_of inRange free)⟩
  · intro s g o issues some_ alone p k dw w r w2 noError
    dsimp only
    have import_ := exec_spimport (o := o) issues some_ alone rfl rfl noError
    have dense := exec_spdense (o := o) issues some_ alone rfl rfl noError
    refine ⟨fun current pass loc object => ?_, fun stale room => ?_, fun stale room => ?_, fun current noError2 =>
      ⟨fun stale room => ?_, fun current2 _ pass loc object => ?_⟩⟩
    · rw [current] at import_
      exact sparseStart_completes issues pass object import_
    · rw [stale] at import_
      exact stale_traps issues some_ import_ room
    · rw [stale] at dense
      exact stale_traps issues some_ dense room
    · rw [current, State.onEntry_eq noError2, stale] at dense
      exact stale_traps issues some_ dense room
    · rw [current, State.onEntry_eq noError2, current2] at dense
      exact sparseStart_completes issues pass object dense

end SparseResults
end Sys2Proof.Machine
